-- ==== Sys2Proof/Word.lean ====
section
/-!
DEFINITION. The word types of the EXM-T40 model and the numbers that name its units.
-/
namespace Sys2Proof

/-- A byte of memory (R4). -/
abbrev Byte := BitVec 8
/-- One register word of the management window (R440). -/
abbrev Word64 := BitVec 64
/-- An FP32 value, or a lane of a vector register (R185). -/
abbrev F32 := BitVec 32

/-- Plank number, P0 to P159 (R11). -/
abbrev PlankId := Fin 160
/-- Compute die number, C0 to C7 (R7). -/
abbrev DieId := Fin 8
/-- Stack number, M0 to M15 (R212). -/
abbrev StackId := Fin 16
/-- Pseudo-channel of a stack (R212). -/
abbrev PcId := Fin 64
/-- Link die number, L0 to L11 (R7). -/
abbrev LinkDieId := Fin 12
/-- Fabric link number, F0 to F47 (R238). -/
abbrev LinkId := Fin 48
/-- Synchronisation object number (R267). -/
abbrev ObjId := Fin 32768
/-- Barrier number (R279). -/
abbrev BarId := Fin 1024
/-- Stream-table entry number (R374). -/
abbrev StreamId := Fin 65536
/-- Ethernet port number, E0 to E7 (R356). -/
abbrev PortId := Fin 8
/-- Queue pair number (R360). -/
abbrev QpId := Fin 4096
/-- Host die, H0 or H1 (R7). -/
abbrev HostDie := Fin 2
/-- A plank-core register number, a field of a custom instruction (R203). -/
abbrev XReg := Fin 32

end Sys2Proof
end

