-- ==== Sys2Proof/Syntax.lean ====
section
/-!
DEFINITION. The commands of the EXM-T40 block and the types of their operands. An operand is what reaches the module
from outside with the command: the register numbers of a plank-core instruction, the writer and the value of a register
write, a packet, a frame, a measurement, a Sluice payload.
-/
namespace Sys2Proof

/-- Who writes a register of the management window (R439): a plank core, or a host session through a host die. -/
inductive Writer where
  | plank (q : PlankId)
  | host (session : Nat) (die : HostDie)
deriving DecidableEq, Repr

/-- Where a Sluice datagram came from (R362): IPv6 or IPv4, its address (an IPv4 address in the low 32 bits) and its UDP port. -/
structure Peer where
  v6 : Bool
  ip : BitVec 128
  udp : BitVec 16
deriving DecidableEq, Repr

/-- A reassembled Sluice request (R362 to R365): its session (none for KIND 2), REQ_ID, the port it arrived on and its sender. -/
structure Req where
  session : Option Nat
  reqId : BitVec 32
  port : PortId
  peer : Peer
deriving DecidableEq, Repr

/-- A fabric packet (R247): the 512-bit header of Table 10-4, its payload bytes, the numbers of its payload flits that are
marked poisoned (R220, R244), and whether its sealing tail is (R262). -/
structure Packet where
  hdr : BitVec 512
  payload : List Byte
  poison : List Nat
  badTail : Bool
deriving DecidableEq, Repr

/-- A link frame (R240): four flit slots, which of them are marked poisoned (assumption 17), and the control word of
Table 10-1. -/
structure Frame where
  slots : List (BitVec 512)
  poison : BitVec 4
  ctl : BitVec 64
deriving DecidableEq, Repr

/-- A conversion statistics record (Table 3-6). -/
structure StatRec where
  elems : Nat
  blocks : Nat
  brimElems : Nat
  sunkElems : Nat
  brimBlocks : Nat
  sunkBlocks : Nat
  flatCh : Nat
  nonfinite : Nat
  sedgeOvf : Nat
  lostlow : Nat
  err2 : F32
  in2 : F32
  pmax : F32
deriving DecidableEq, Repr

/-- A check record (Table 7-2). -/
structure CheckRec where
  step : Nat
  attempt : Nat
  vFault : Bool
  vRefusal : Bool
  vOwnership : Bool
  vOrphaned : Bool
  vCancelled : Bool
  vMismatch : Bool
  vSuspect : Bool
  vHost : Bool
  hHost : Bool
  hIntegrity : Bool
  hReplica : Bool
  suspect : Nat
  gradNonfin : Nat
  seqMasked : Nat
  lossSum : F32
  gradSq : F32
  tokens : Nat
  tokensAll : Nat
  reblockTensors : Nat
  triggers : Nat
deriving DecidableEq, Repr

/-- What another member of the job brings to the check reduction: its chip number, its check record and its merged
statistics records by tensor id (R77, R160). -/
structure MemberPart where
  chip : BitVec 14
  check : CheckRec
  stats : List (Nat × StatRec)
  decision : BitVec 8
deriving DecidableEq, Repr

/-- What another member brings to the second round of Check (R163). -/
structure FlagPart where
  chip : BitVec 14
  vSuspect : Bool
  hIntegrity : Bool
deriving DecidableEq, Repr

/-- A run of bytes at a module offset: what a re-fetch copies from the source replica (R172, R318). -/
structure Region where
  off : Nat
  data : List Byte
deriving DecidableEq, Repr

/-- Where one buffer of a nap factor lies (R121): its tensor id and the module offsets of its BF16 values, its SW8 planes, its shift
lines and its channel scales. -/
structure NapBuf where
  tid : BitVec 16
  bf16 : Nat
  codes : Nat
  shifts : Nat
  scales : Nat
deriving DecidableEq, Repr

/-- What another member of a weight's shard group brings to one iteration (R122): its chip number, its Gram matrix by rows, and its
part of Dᵀ × U by rows. -/
structure NapShare where
  chip : BitVec 14
  gram : List (List F32)
  v : List (List F32)
deriving DecidableEq, Repr

/-- One weight's nap refresh (R122). The update plan's layout is not in the manual, so its entry is the operand: the weight, the plank
whose vector engine works on it, the K rows and N columns of D that the member holds, the module offsets of the master's BF16 values
(column by column) and of the forward copy's codes, shift lines and channel scales, the two buffers of U and of V, and what the shard
group brings to each iteration. -/
structure NapPlan where
  tid : BitVec 16
  plank : PlankId
  rows : Nat
  cols : Nat
  master : Nat
  codes : Nat
  shifts : Nat
  scales : Nat
  u : NapBuf × NapBuf
  v : NapBuf × NapBuf
  shares : List (List NapShare)
deriving DecidableEq, Repr

/-- Who waits past the limit (R164, R282): a plank core in a sync.wait, or a job whose step is Held. -/
inductive WaitWho where
  | plank (p : PlankId)
  | held (job : BitVec 16)
deriving DecidableEq, Repr

/-- What is held past the limit (R160, R282): a generation of a barrier, or the check reduction of a job for which a member's record
is still missing, with the members of the hummock that have come, at a leader, and the hummocks that have come, at the root. -/
inductive GenWho where
  | barrier (b : BarId)
  | check (job : BitVec 16) (arrived : BitVec 32) (hums : BitVec 32)
deriving DecidableEq, Repr

/-- One tensor's telemetry for stage U5 (R180, R181): its id and the module offsets of the planks' running 32 B entries, in
ascending plank order. -/
structure TelemPart where
  tid : BitVec 16
  running : List Nat
deriving DecidableEq, Repr

/-- What the error correction finds on a sector read (R219). -/
inductive Ecc where
  | clean
  | corrected
  | uncorrectable
deriving DecidableEq, Repr

/-- What SECDED finds on the reads of a plank core, its vector engine or its array (R202, R232, Table 8-11 cause 27): nothing; `n` words of
the plank store corrected; an uncorrectable word of the instruction memory, the data memory, the plank store or a vector
register; an uncorrectable word in line `i` that a transfer reads of a plank store. -/
inductive CoreEcc where
  | clean
  | corrected (n : BitVec 32)
  | imem
  | dmem
  | store
  | vreg
  | line (i : Nat)
deriving DecidableEq, Repr

/-- One reading of the energy monitors, nanojoules since the last reading (R340). -/
structure EnergyReading where
  input : Nat
  planks : Nat
  hbm : Nat
  links : Nat
  hosts : Nat
  mgmt : Nat
deriving DecidableEq, Repr

/-- A rail out of range (R344): the input, or island i of R355 with its rail in millivolts. -/
inductive Rail where
  | vin
  | island (i : Fin 192) (mv : BitVec 16)
deriving DecidableEq, Repr

/-- Causes of a trip (R345). -/
inductive TripCause where
  | sensor (s : Fin 200)
  | pin
  | vin
deriving DecidableEq, Repr

/-- A plank of the die whose bring-up sounding failed at a slice, and whether the retry passed (R410). -/
structure SoundingFail where
  index : Fin 20
  slice : Fin 64
  retryPassed : Bool
deriving DecidableEq, Repr

/-- An output port of a link-die router (R257): link j of the die, or a mesh connection to another link die. -/
inductive Outlet where
  | link (j : Fin 4)
  | mesh (k : LinkDieId)
deriving DecidableEq, Repr

/-- One entry of the manifest's program list (R202): the manual gives the contents but no layout. -/
structure ProgEntry where
  plank : PlankId
  stream : StreamId
  code : Nat
  codeLen : Nat
  entry : Word64
  regs : List (XReg × Word64)
deriving DecidableEq, Repr

/-- One entry of the manifest's stream list: id, KIND and tree map (Table 15-6). -/
structure StreamEntry where
  id : StreamId
  kind : Fin 3
  tree : Fin 16
deriving DecidableEq, Repr

/-- One entry of the manifest's object table: the two words of Table 11-3 that the owner would write (R271). -/
structure ObjEntry where
  obj : ObjId
  word0 : Word64
  word1 : Word64
deriving DecidableEq, Repr

/-- One tree map to load with its member mask (R277): HBM offsets of the 1 KiB map and the 2 KiB mask. -/
structure TreeEntry where
  tree : Fin 16
  map : Nat
  mask : Nat
deriving DecidableEq, Repr

/-- A final gradient chunk that the member holds (R159, R170): the plank whose vector engine writes it, the module offset of its
head, its elements, and whether the member is its primary. -/
structure FinalChunk where
  plank : PlankId
  off : Nat
  elems : Nat
  primary : Bool
deriving DecidableEq, Repr

/-- What the compiled all-gather of R318 brought for one tensor: chip number and FPRINT of every other replica. -/
structure ReplicaView where
  tid : BitVec 16
  others : List (BitVec 14 × BitVec 128)
deriving DecidableEq, Repr

/-- One assignment of a die-to-die channel direction by the step program (R15): the direction, its new owner by code, and the
object and target that gate the handover (R16), none for an owner from the load on. The manual gives these assignments no
layout (assumption 109). -/
structure ChanEntry where
  chan : Nat
  owner : BitVec 8
  gate : Option (ObjId × BitVec 32)
deriving DecidableEq, Repr

/-- The lists that a job manifest names by offset (Table 15-6) and whose byte layout the manual does not give. -/
structure JobLists where
  tensors : Nat
  collectives : Nat
  programs : List ProgEntry
  streams : List StreamEntry
  objects : List ObjEntry
  trees : List TreeEntry
  regions : List (Nat × Nat)
  chunks : List FinalChunk
  bitmap : Nat
  blocks : List (PlankId × BitVec 16)
  replicas : Bool
  replicaTable : List Byte
  epochTable : List Byte
  channels : List ChanEntry
deriving DecidableEq, Repr

/-- What an Ethernet port saw as a frame arrived: the codewords that its FEC corrected and those that it could not since the frame
before, its bytes and the VLAN ids of its 802.1Q tags (R356), whether its FCS is bad or its protocol unknown, whether it holds an IP
fragment, whether its UDP checksum is wrong (R357), and whether it is marked CE (R361). -/
structure EthIn where
  corrected : BitVec 32
  uncorrected : BitVec 32
  bytes : BitVec 16
  tags : List (BitVec 12)
  bad : Bool
  fragment : Bool
  sumBad : Bool
  marked : Bool
deriving DecidableEq, Repr

/-- What a QP answers to a WRITE or a READ (R359, R360): an ACK, an RNR NAK, a PSN sequence error NAK, or a NAK for good (a request,
an access or an operation error). -/
inductive AckKind where
  | ack
  | rnrNak
  | seqNak
  | fatalNak
deriving DecidableEq, Repr

/-- What a full sweep of a pseudo-channel measured (R222, R224, R409): the stack of the die, the pseudo-channel, the edges of the DQ and
VREF eyes and the point chosen. -/
structure SweepResult where
  half : Fin 2
  pc : PcId
  dqLo : BitVec 7
  dqHi : BitVec 7
  vrefLo : BitVec 7
  vrefHi : BitVec 7
  dq : BitVec 7
  vref : BitVec 7
deriving DecidableEq, Repr

/-- The commands of the block: one constructor per row of spec/opcode_table.json. -/
inductive Instr where
  /-- PASS_ISSUE (R93). The plank core hands a pass descriptor to the array, waiting while the waiting slot is full. -/
  | passIssue (p : PlankId) (rd rs1 : XReg) (ecc : CoreEcc)
  /-- PASS_BEGIN (R93). A waiting pass lets its first K-step leave the feed once the feed is free and its accumulator will be Free or Held. -/
  | passBegin (p : PlankId) (corrected : BitVec 32)
  /-- PASS_END (R92). The last K-step of a pass reaches the cells and its accumulator becomes Held or Drain-pending, or begins to drain. -/
  | passEnd (p : PlankId)
  /-- SEDGE_SEGMENT (R118). The vector engine processes the outlier entries of one segment while the feed streams the next. -/
  | sedgeSegment (p : PlankId) (ecc : CoreEcc)
  /-- DRAIN_BEGIN (R94). The drain path starts writing the rows of an accumulator once its last K-step has reached every cell and the drain path is free. -/
  | drainBegin (p : PlankId)
  /-- DRAIN_COMPLETE (R99). The last row of a drain is written, statistics are added, a drain record is written if needed, and the accumulator becomes Free. -/
  | drainComplete (p : PlankId) (ecc : CoreEcc)
  /-- PLANK_FAULT (R108). An uncorrectable feed error, a parity error or an ownership fault stops the array, abandons passes and enters Faulted. -/
  | plankFault (p : PlankId) (code : BitVec 8)
  /-- PLANK_SUSPEND_CMD (R105). A write of PLANK_CTL.SUSPEND puts the plank into Suspending. -/
  | plankSuspendCmd (p : PlankId) (w : Writer)
  /-- PLANK_FAULT_ACK (R109). A write of PLANK_CTL.FAULT_ACK returns a Faulted plank to Idle. -/
  | plankFaultAck (p : PlankId) (w : Writer)
  /-- PLANK_DISCARD_SPILL (R107). A write of PLANK_CTL.DISCARD_SPILL clears SPILL_VALID, loses the spilled sums and returns a Suspended plank to Idle. -/
  | plankDiscardSpill (p : PlankId) (w : Writer)
  /-- SPILL_START (R105). Once the drain has completed and the feed has stopped at a K-block boundary, the plank starts writing the spill record. -/
  | spillStart (p : PlankId) (pos : BitVec 24) (ecc : CoreEcc)
  /-- SPILL_COMPLETE (R106). The spill record's VALID bit is written last and the plank enters Suspended with SPILL_VALID set. -/
  | spillComplete (p : PlankId)
  /-- SPILL_RELOAD_COMPLETE (R107). A continue-from-spill finishes reloading the accumulators and the pass continues at its recorded position. -/
  | spillReloadComplete (p : PlankId) (ecc : CoreEcc)
  /-- PLANK_MASK (R316). A plank is masked, its accumulators and spill are discarded, and the streams that name it are suspended or failed. -/
  | plankMask (p : PlankId)
  /-- ACC_ADDOUT (R144). The plank core requests an add-out of a Held accumulator into an accumulation image. -/
  | accAddout (p : PlankId) (rd rs1 rs2 : XReg)
  /-- ADDOUT_BEGIN (R144). After waiting for its accumulator, an add-out is checked and, if not refused, starts adding into the image. -/
  | addoutBegin (p : PlankId) (ecc : CoreEcc)
  /-- ADDOUT_COMPLETE (R144). An add-out writes STATE 1 last and its accumulator becomes Free. -/
  | addoutComplete (p : PlankId) (ecc : CoreEcc)
  /-- ACC_LOADIN (R145). The plank core requests a load-in of an accumulation image into a Free accumulator. -/
  | accLoadin (p : PlankId) (rd rs1 rs2 : XReg)
  /-- LOADIN_BEGIN (R145). After waiting as an add-out does, a load-in is checked and, if not refused, starts loading. -/
  | loadinBegin (p : PlankId) (ecc : CoreEcc)
  /-- LOADIN_COMPLETE (R145). A load-in finishes and sets the accumulator Held with the image's exponents, status and position. -/
  | loadinComplete (p : PlankId) (ecc : CoreEcc)
  /-- PASS_FENCE (R203). The plank core waits until no pass runs or waits and both accumulators are Free or Held, or the plank is Faulted. -/
  | passFence (p : PlankId) (rd : XReg)
  /-- PLANK_SUSP (R207). The plank.susp instruction sets SUSP_PEND and quiesces the core at once. -/
  | plankSusp (p : PlankId)
  /-- VEC_ISSUE (R190). The plank core issues one vector instruction, which is checked and refused at issue if malformed. -/
  | vecIssue (p : PlankId) (rs1 : XReg)
  /-- VEC_RUN (R203). The plank core issues a run of consecutive vector instruction words from data memory. -/
  | vecRun (p : PlankId) (rs1 rs2 : XReg) (ecc : CoreEcc)
  /-- VEC_FENCE (R188). The plank core waits until vector-engine ports 2 and 3 are empty. -/
  | vecFence (p : PlankId)
  /-- VEC_XI (R201). The plank core sets the vector index register XI. -/
  | vecXi (p : PlankId) (rs1 : XReg)
  /-- VEC_MVX (R203). The plank core waits for earlier register-form work and returns lane 0 of a vector register. -/
  | vecMvx (p : PlankId) (rd rs2 : XReg) (ecc : CoreEcc)
  /-- VNOP (R190). The vector nop instruction executes and changes nothing. -/
  | vnop (p : PlankId)
  /-- ADD_F32 (R190). The vector engine adds two registers lane by lane in binary32. -/
  | addF32 (p : PlankId) (ecc : CoreEcc)
  /-- SUB_F32 (R190). The vector engine subtracts two registers lane by lane in binary32. -/
  | subF32 (p : PlankId) (ecc : CoreEcc)
  /-- MUL_F32 (R190). The vector engine multiplies two registers lane by lane in binary32. -/
  | mulF32 (p : PlankId) (ecc : CoreEcc)
  /-- FMA_F32 (R190). The vector engine computes a fused multiply-add lane by lane with one rounding. -/
  | fmaF32 (p : PlankId) (ecc : CoreEcc)
  /-- MIN_F32 (R47). The vector engine takes the lane-wise minimum under IEEE 754-2019. -/
  | minF32 (p : PlankId) (ecc : CoreEcc)
  /-- MAX_F32 (R47). The vector engine takes the lane-wise maximum under IEEE 754-2019. -/
  | maxF32 (p : PlankId) (ecc : CoreEcc)
  /-- ABS_F32 (R190). The vector engine clears the sign bit of each lane. -/
  | absF32 (p : PlankId) (ecc : CoreEcc)
  /-- NEG_F32 (R190). The vector engine inverts the sign bit of each lane. -/
  | negF32 (p : PlankId) (ecc : CoreEcc)
  /-- DIV_F32 (R190). The vector engine divides lane by lane with correct rounding. -/
  | divF32 (p : PlankId) (ecc : CoreEcc)
  /-- SQRT_F32 (R190). The vector engine takes the correctly rounded square root of each lane. -/
  | sqrtF32 (p : PlankId) (ecc : CoreEcc)
  /-- CMP (R46). The vector engine compares two registers under a condition and writes the lane mask VM. -/
  | cmp (p : PlankId) (ecc : CoreEcc)
  /-- SEL (R190). The vector engine selects lanes from two registers by VM. -/
  | sel (p : PlankId) (ecc : CoreEcc)
  /-- AND_B32 (R190). The vector engine computes a bitwise AND lane by lane. -/
  | andB32 (p : PlankId) (ecc : CoreEcc)
  /-- OR_B32 (R190). The vector engine computes a bitwise OR lane by lane. -/
  | orB32 (p : PlankId) (ecc : CoreEcc)
  /-- XOR_B32 (R190). The vector engine computes a bitwise XOR lane by lane. -/
  | xorB32 (p : PlankId) (ecc : CoreEcc)
  /-- SHL_B32 (R190). The vector engine shifts each lane left by an immediate. -/
  | shlB32 (p : PlankId) (ecc : CoreEcc)
  /-- SHR_B32 (R190). The vector engine shifts each lane right logically by an immediate. -/
  | shrB32 (p : PlankId) (ecc : CoreEcc)
  /-- LD_W (R187). The vector engine loads 512 32-bit words from the plank store into a register. -/
  | ldW (p : PlankId) (ecc : CoreEcc)
  /-- LD_H (R187). The vector engine loads 512 16-bit words into the low halves of a register. -/
  | ldH (p : PlankId) (ecc : CoreEcc)
  /-- ST_W (R187). The vector engine stores 512 32-bit words of a register to the plank store. -/
  | stW (p : PlankId) (ecc : CoreEcc)
  /-- ST_H (R187). The vector engine stores the low 16 bits of each lane to the plank store. -/
  | stH (p : PlankId) (ecc : CoreEcc)
  /-- CVT_REGISTER (R191). A register-form convert converts lanes among FP32, BF16 and FP16, counting statistics when STAT is set. -/
  | cvtRegister (p : PlankId) (ecc : CoreEcc)
  /-- CVT_STREAM (R193). A stream convert converts channels into a blocked, split or measured tensor and counts its statistics. -/
  | cvtStream (p : PlankId) (ecc : CoreEcc)
  /-- CVT_RB (R136). A re-block convert decodes a transposed code array and reconverts it blocked along the new axis. -/
  | cvtRb (p : PlankId) (ecc : CoreEcc)
  /-- CVT_M (R57). An MX import converts OCP Microscaling data into module layout. -/
  | cvtM (p : PlankId) (ecc : CoreEcc)
  /-- CVT_MX_EXPORT (R58). An MX export encodes FP32 or BF16 data as OCP Microscaling blocks. -/
  | cvtMxExport (p : PlankId) (ecc : CoreEcc)
  /-- AMAX_TILE (R197). The vector engine computes the per-channel and whole-tile amax of a source. -/
  | amaxTile (p : PlankId) (ecc : CoreEcc)
  /-- STAT_FOLD (R197). The vector engine merges pairs of statistics records. -/
  | statFold (p : PlankId) (ecc : CoreEcc)
  /-- TAB_LD (R195). A function-table image is copied into a slot, waiting for a pass that names the slot's image to drain. -/
  | tabLd (p : PlankId) (ecc : CoreEcc)
  /-- TAB_F (R196). The vector engine evaluates a function table on each lane. -/
  | tabF (p : PlankId) (ecc : CoreEcc)
  /-- RED_ADD (R197). The vector engine sums all lanes in a fixed tree and broadcasts the result. -/
  | redAdd (p : PlankId) (ecc : CoreEcc)
  /-- AMAX_V (R197). The vector engine takes the amax over all lanes in a fixed tree and broadcasts it. -/
  | amaxV (p : PlankId) (ecc : CoreEcc)
  /-- RNG_V (R201). The vector engine writes lane-generator words into a register. -/
  | rngV (p : PlankId)
  /-- CARD (R198). The vector engine applies a carding rotation of order n to each group. -/
  | card (p : PlankId) (ecc : CoreEcc)
  /-- UNCARD (R198). The vector engine applies the inverse carding and its exact scale factor. -/
  | uncard (p : PlankId) (ecc : CoreEcc)
  /-- CORR_SUM (R199). The vector engine computes the correction vector of an asymmetric pass. -/
  | corrSum (p : PlankId) (ecc : CoreEcc)
  /-- CHK_CMP (R199). The vector engine compares the checksum taps and column sums of an accumulation and writes a checksum record. -/
  | chkCmp (p : PlankId) (ecc : CoreEcc)
  /-- OPT_ADAMW (R200). The vector engine updates one update block and sets its bitmap bit. -/
  | optAdamw (p : PlankId) (ecc : CoreEcc)
  /-- SYNC_ADD (R272). The plank core adds a value to a local or remote synchronisation object. -/
  | syncAdd (p : PlankId) (rs1 rs2 : XReg)
  /-- SYNC_SET (R272). The plank core replaces the value of a local or remote synchronisation object. -/
  | syncSet (p : PlankId) (rs1 rs2 : XReg)
  /-- SYNC_WAIT (R204). The plank core waits on a local object until it reaches its target, drawing fill items while unsatisfied. -/
  | syncWait (p : PlankId) (rd rs1 rs2 : XReg)
  /-- SYNC_WAIT_RETURN (R273). A held wait returns success when its object reaches the target, or returns orphaned or cancelled. -/
  | syncWaitReturn (p : PlankId)
  /-- FILL_PASS_ISSUE (R149). During an unsatisfied wait with an empty waiting slot, the plank core rechecks the object and issues the next pass of the oldest fill item. -/
  | fillPassIssue (p : PlankId) (ecc : CoreEcc)
  /-- FILL_ENQ (R151). The plank core enqueues a fill item, first completing the oldest item if the list is full. -/
  | fillEnq (p : PlankId) (rs1 : XReg) (ecc : CoreEcc)
  /-- FILL_FLUSH (R151). The plank core runs every fill item in FIFO order. -/
  | fillFlush (p : PlankId) (ecc : CoreEcc)
  /-- ILV_NEXT (R152). The plank core obtains the next pipeline work unit from the interleave order. -/
  | ilvNext (p : PlankId) (rd : XReg) (ecc : CoreEcc)
  /-- STRM_QP (R207). The plank core reaches a stream quiesce point. -/
  | strmQp (p : PlankId) (rs1 : XReg)
  /-- STRM_STATE (R374). The plank core reads a stream's state. -/
  | strmState (p : PlankId) (rd rs1 : XReg)
  /-- STRM_END (R374). The plank core ends a stream as Done, Failed or Cancelled. -/
  | strmEnd (p : PlankId) (rs1 rs2 : XReg)
  /-- XFER (R205). The plank core starts a transfer described by a transfer descriptor. -/
  | xfer (p : PlankId) (rs1 : XReg) (ecc : CoreEcc)
  /-- XFER_COMPLETE (R250). A transfer completes when its responses account for every packet, and its DONE_OBJ is signalled. -/
  | xferComplete (x : Nat)
  /-- CORE_AUTO_RESET (R209). Hjelper resets a trapped plank core once it is running, and the core reads Reset. -/
  | coreAutoReset (p : PlankId)
  /-- CORE_QUIESCE (R207). With SUSP_PEND set, the plank core stops at a quiesce point and waits for port 3, transfers and the array's spill. -/
  | coreQuiesce (p : PlankId)
  /-- CONTEXT_WRITE_COMPLETE (R207). The context record is written with VALID last and the core enters Quiesced. -/
  | contextWriteComplete (p : PlankId)
  /-- CORE_RESUME (R208). A core with a valid context reloads it, resumes any spilled pass and re-executes its quiesce instruction. -/
  | coreResume (p : PlankId) (ecc : CoreEcc)
  /-- CORE_START (R209). A write of CORE_CTL.START starts a core in Reset at CORE_ENTRY. -/
  | coreStart (p : PlankId) (w : Writer)
  /-- CORE_RESET (R209). A write of CORE_CTL.RESET resets the plank core at once. -/
  | coreReset (p : PlankId) (w : Writer)
  /-- CORE_DISCARD_CTX (R207). A write of CORE_CTL.DISCARD_CTX clears CTX_VALID. -/
  | coreDiscardCtx (p : PlankId) (w : Writer)
  /-- CHECK_BEGIN (R159). When a member's part of Reduce is complete, Check begins and the member builds its check record. -/
  | checkBegin (job : BitVec 16) (replicas : List ReplicaView)
  /-- CHECK_REDUCTION_COMPLETE (R160). The check records of all members are reduced up the barrier tree and broadcast back. -/
  | checkReductionComplete (job : BitVec 16) (others : List MemberPart)
  /-- ATTEMPT_BEGIN (R167). After Reblock or a replay decision, the next attempt of the step begins at Forward with attempt state cleared. -/
  | attemptBegin (job : BitVec 16)
  /-- SUSPECT_REPLAY (R309). A member replays a replay capsule on a plank of another compute die and classifies its outcome. -/
  | suspectReplay (job : BitVec 16) (slot : Nat)
  /-- SECOND_ROUND_REDUCTION (R163). The suspect-resolution flags are reduced across members and the verdict derived again. -/
  | secondRoundReduction (job : BitVec 16) (others : List FlagPart)
  /-- SEQ_LOSS_NONFINITE (R168). A sequence loss record with a non-finite LOSS sets NONFIN and, under policy 0, masks the sequence. -/
  | seqLossNonfinite (job : BitVec 16) (slot : Fin 128)
  /-- UPDATE_STAGE_U1 (R172). Update copies staged histories, ladder fields, loss statistics and re-fetches replica blocks. -/
  | updateStageU1 (job : BitVec 16) (refetched : List Region)
  /-- UPDATE_STAGE_U2 (R174). Update runs the optimizer on every update block. -/
  | updateStageU2 (job : BitVec 16)
  /-- UPDATE_STAGE_U3 (R178). Update makes the forward copies for the next step from the new masters. -/
  | updateStageU3 (job : BitVec 16)
  /-- UPDATE_STAGE_U4 (R122). Update refreshes the nap factors and swaps the factor buffers. -/
  | updateStageU4 (job : BitVec 16) (plans : List NapPlan)
  /-- UPDATE_STAGE_U5 (R180). Update writes the telemetry table and fingerprints and sets PHASE 0. -/
  | updateStageU5 (job : BitVec 16) (tids : List TelemPart)
  /-- EVALUATION_POINT (R131). A stepless program's evaluation point enters pending maxima, evaluates thresholds and triggers and runs replays. -/
  | evaluationPoint (job : BitVec 16) (stream : StreamId) (others : List MemberPart)
  /-- ERROR_FILED (R319). An error enters Hjelper's error queue, step-masking a plank that already has an open entry. -/
  | errorFiled (cls : BitVec 8) (unit : BitVec 16) (code : BitVec 8)
  /-- SOUNDING_SLICE (R324). An armed sounding slice of a due, idle plank runs and tests its part. -/
  | soundingSlice (p : PlankId)
  /-- SOUNDING_SLICE_END (R327). A sounding slice ends, and a failure or a passed retry is logged and acted on. -/
  | soundingSliceEnd (p : PlankId) (passed : Bool)
  /-- SOUND_WIN_ARM (R325). A write of SOUND_WIN.ARM arms sounding slices. -/
  | soundWinArm (p : PlankId) (w : Writer) (n : BitVec 8)
  /-- SOUND_OVERDUE (R326). A plank due for a second full SOUND_PERIOD causes an EVENT message per period overdue. -/
  | soundOverdue (p : PlankId)
  /-- INTEG_RESTORE (R317). A write of INTEG_CTL.RESTORE returns LEVEL, LDO and clock to nominal while no job is loaded. -/
  | integRestore (p : PlankId) (w : Writer)
  /-- INTEG_UNMASK (R317). A write of INTEG_CTL.UNMASK clears MASKED and LEVEL while no job is loaded. -/
  | integUnmask (p : PlankId) (w : Writer)
  /-- SLOT_SERVE (R217). At each slot a pseudo-channel serves the head request of the slot's owner or leaves the slot idle. -/
  | slotServe (m : StackId) (c : PcId) (ecc : Ecc)
  /-- BANK_REFRESH (R218). At the refresh interval the controller refreshes a bank. -/
  | bankRefresh (m : StackId) (c : PcId) (bank : Fin 64) (slots : Nat)
  /-- CALIBRATION_SLICE (R221). A pseudo-channel's calibration frame runs rewrites, scrubbing, retraining or margin points;
  `ecc` is what the scrub meets in its sectors, in order. -/
  | calibrationSlice (m : StackId) (c : PcId) (ecc : List Ecc) (laneBits : BitVec 32)
  /-- CAL_PERIOD_EXPIRY (R222). CAL_PERIOD expires and a retrain starts. -/
  | calPeriodExpiry (m : StackId)
  /-- CAL_RETRAIN (R222). A write of CAL_CTL.RETRAIN starts a retrain of all pseudo-channels. -/
  | calRetrain (m : StackId) (w : Writer)
  /-- RETRAIN_COMPLETE (R223). A retrain ends and moves the operating centre, or keeps settings and sets MARGIN_LOW. The
  edges of the measured eye and the centre chosen are steps in two's complement. -/
  | retrainComplete (m : StackId) (c : PcId) (dqLo dqHi vrefLo vrefHi dq vref : BitVec 7)
  /-- STACK_TEMP_READ (R233). Every 16 µs the controller reads its stack temperature and enters or leaves heat actions. -/
  | stackTempRead (m : StackId) (temp : BitVec 16)
  /-- PC_SWITCH_ARM (R216). A write of PC_SWITCH.ARM arms a share-table switch. -/
  | pcSwitchArm (m : StackId) (c : PcId) (w : Writer) (v : Word64)
  /-- SHARE_SWITCH_APPLY (R216). An armed share switch is applied at a slot boundary once its object is reached and outgoing requests are done. -/
  | shareSwitchApply (m : StackId) (c : PcId)
  /-- BANK_SWITCH_ARM (R230). A write of BANK_SWITCH.ARM arms a bank-ownership switch. -/
  | bankSwitchArm (p : PlankId) (w : Writer) (v : Word64)
  /-- BANK_SWITCH_APPLY (R230). Banks whose next owner differs change hands once the gate is reached and requests are done. -/
  | bankSwitchApply (p : PlankId)
  /-- PS_MAP_WRITE (R229). A write of PS_MAP changes span codes of quads owned by the plank core or traps. -/
  | psMapWrite (p : PlankId) (w : Writer) (v : Word64)
  /-- FRAME_RECEIVE (R242). A link receiver takes a frame whole, accepts or discards it, updates credits and acknowledgements. -/
  | frameReceive (l : LinkId) (f : Frame) (fecOk : Bool) (corrected : BitVec 32)
  /-- LINK_TRAINING_DONE (R243). Equalisation settles with codeword lock for 1 ms and the link enters Identify. -/
  | linkTrainingDone (l : LinkId)
  /-- LINK_TRAINING_TIMEOUT (R243). Training does not succeed within 100 ms, counting one failure. -/
  | linkTrainingTimeout (l : LinkId)
  /-- LINK_IDENTIFY (R243). The peer's identity is received and the link becomes Active or Miswired. -/
  | linkIdentify (l : LinkId) (chip : BitVec 14) (peer : BitVec 6)
  /-- CODEWORD_LOCK_LOST (R243). An Active link loses codeword lock and returns to Training. -/
  | codewordLockLost (l : LinkId)
  /-- LINK_LOSS_TIMEOUT (R244). A link not Active again within 10 ms truncates its unfinished packets. -/
  | linkLossTimeout (l : LinkId)
  /-- LINK_DISABLE (R243). A write of LINK_CTL.DISABLE disables or re-enables a link. -/
  | linkDisable (l : LinkId) (w : Writer) (on : Bool)
  /-- LINK_RETRAIN (R243). A write of LINK_CTL.RETRAIN sends a link to Training. -/
  | linkRetrain (l : LinkId) (w : Writer)
  /-- LINK_TEST (R264). A write of LINK_CTL.TEST moves a Down link into Test or back. -/
  | linkTest (l : LinkId) (w : Writer) (on : Bool)
  /-- PACKET_HEAD_ROUTE (R255). A router routes a packet head to an output, drops it, or waits. -/
  | packetHeadRoute (d : LinkDieId) (head : Nat)
  /-- CAUSEWAY_THRESHOLD (R255). A head that waited CW_THRESH router cycles moves onto the causeway lane. -/
  | causewayThreshold (d : LinkDieId) (head : Nat)
  /-- PKT_WRITE (R249). The destination link die checks and writes a WRITE packet and counts it for DONE. -/
  | pktWrite (d : LinkDieId) (pkt : Packet)
  /-- PKT_ACCUM (R231). The destination applies an ACCUM packet as accumulate-on-write into a plank store. -/
  | pktAccum (d : LinkDieId) (pkt : Packet)
  /-- PKT_READ_REQ (R249). The destination reads the requested data and answers with READ_DATA. `ecc` is what SECDED finds in a plank
  store that it reads (R232). -/
  | pktReadReq (d : LinkDieId) (pkt : Packet) (ecc : CoreEcc)
  /-- PKT_READ_DATA (R250). The requester writes returned read data and counts it toward its transfer. -/
  | pktReadData (d : LinkDieId) (pkt : Packet)
  /-- PKT_DONE (R250). A DONE packet's COUNT is credited to its transfer. -/
  | pktDone (d : LinkDieId) (pkt : Packet)
  /-- PKT_SIGNAL (R272). A SIGNAL packet applies its operation to a local object. -/
  | pktSignal (d : LinkDieId) (pkt : Packet)
  /-- PKT_CHUNK (R291). A collective chunk packet is checked and written at its offset. -/
  | pktChunk (d : LinkDieId) (pkt : Packet)
  /-- DONE_RECORD_FLUSH (R249). A completion record whose first packet is 256 router cycles old is sent as DONE. -/
  | doneRecordFlush (d : LinkDieId) (r : Nat)
  /-- TREE_ARRIVE (R280). A leader or root counts a barrier arrive message and forwards when complete. -/
  | treeArrive (src : BitVec 14) (flit : BitVec 512)
  /-- TREE_RELEASE (R280). A release message raises GEN, passes down and signals RELEASE_OBJ. -/
  | treeRelease (flit : BitVec 512)
  /-- TREE_OWNER_MESSAGE (R276). An owner message orphans, flags or clears partner-naming objects and passes down. -/
  | treeOwnerMessage (flit : BitVec 512)
  /-- TREE_ABORT (R299). A first abort for a stream and epoch passes down and cancels the stream. -/
  | treeAbort (flit : BitVec 512)
  /-- MARKER_ECHO (R258). A receiver answers a marker with an echo once earlier flits have left its buffers. -/
  | markerEcho (l : LinkId)
  /-- FABRIC_DRAINED (R258). The member finds all echoes back and its routers empty, sets drained and sends an EVENT. -/
  | fabricDrained
  /-- OBJ_CMD_WORD0 (R269). A write of word 0 of an object command register is latched for its writer. -/
  | objCmdWord0 (w : Writer) (obj : ObjId) (v : Word64)
  /-- OBJ_CLAIM (R270). A claim command makes a Retired object Active with its owner and fields. -/
  | objClaim (w : Writer) (obj : ObjId) (v : Word64)
  /-- OBJ_REARM (R270). A re-arm command sets VALUE and EPOCH of an Active object without waiters. -/
  | objRearm (w : Writer) (obj : ObjId) (v : Word64)
  /-- OBJ_RETIRE (R270). A retire command makes an object Retired. -/
  | objRetire (w : Writer) (obj : ObjId) (v : Word64)
  /-- WAIT_WATCHDOG (R282). A wait held for a multiple of WAIT_WDOG.LIMIT files a stall report. -/
  | waitWatchdog (who : WaitWho)
  /-- BARRIER_WATCHDOG (R282). A barrier generation held past BAR_WDOG.LIMIT files a stall report. -/
  | barrierWatchdog (gen : GenWho)
  /-- INPUT_SAMPLE (R336). Every 10 µs the input monitor measures VIN and IIN. -/
  | inputSample (mv cur : BitVec 16)
  /-- CAP_COMPARE (R337). Every 100 µs Hjelper compares input power with the cap and steps CAP_MHZ. -/
  | capCompare
  /-- CAP_UNMET (R338). After 10 ms at 1,350 MHz above the cap, UNMET and an alert are raised. -/
  | capUnmet
  /-- POWER_CAP_WRITE (R338). A write of POWER_CAP clamps CAP_W, sets IIN_LIMIT and starts or stops capping. -/
  | powerCapWrite (w : Writer) (v : Word64)
  /-- BACKSTOP_ENGAGE (R339). IIN above IIN_LIMIT for 20 µs engages the hardware backstop. -/
  | backstopEngage
  /-- BACKSTOP_RELEASE (R339). Hjelper releases the backstop after input power stays below the cap for 1 ms. -/
  | backstopRelease
  /-- CLOCK_GLIDE_STEP (R335). A plank island's clock and LDO move one step toward the target. -/
  | clockGlideStep (p : PlankId)
  /-- ENERGY_READ (R340). Every 100 µs Hjelper reads every energy monitor and updates the totals. -/
  | energyRead (nj : EnergyReading)
  /-- TEMP_SENSOR_READ (R343). Every 16 µs a temperature sensor is read and warnings and throttles applied. -/
  | tempSensorRead (sensor : Fin 200) (temp : BitVec 16)
  /-- THERMAL_CLOCK_STEP (R343). Hjelper lowers or raises a compute die's thermal clock by 27 MHz. -/
  | thermalClockStep (c : DieId)
  /-- RAIL_OUT_OF_RANGE (R344). VIN or an island rail out of range raises an alert and logs an event. -/
  | railOutOfRange (rail : Rail)
  /-- TRIP (R345). The trip path stops compute islands, fails streams and enters Tripped. -/
  | trip (cause : TripCause)
  /-- THR_COMPUTE_WRITE (R343). A write of THR_COMPUTE changes limits, never raising one above its reset value. -/
  | thrComputeWrite (w : Writer) (v : Word64)
  /-- PWR_EN (R423). PWR_EN rises and the module powers on, or falls and it powers down. -/
  | pwrEn (level : Bool)
  /-- PRESENT_N (R347). An accepted PRESENT_N level acts as PWR_EN. -/
  | presentN (level : Bool)
  /-- THERM_TRIP_N (R347). THERM_TRIP_N accepted low trips the module. -/
  | thermTripN (level : Bool)
  /-- RESET_N (R347). RESET_N accepted low enters Reset, and released enters Boot. -/
  | resetN (level : Bool)
  /-- HOLD_N (R347). HOLD_N accepted low suspends streams at boundaries, and released resumes them. -/
  | holdN (level : Bool)
  /-- CHATTER_EXIT (R346). A chattering input whose raw level holds for 10 ms leaves chattering. -/
  | chatterExit (pin : Fin 5) (level : Bool)
  /-- POWER_DOWN_COMPLETE (R424). The always-on domain turns off and the input path opens after power-down. -/
  | powerDownComplete
  /-- HJELPER_WATCHDOG_KICK (R332). Hjelper kicks the trust-die watchdog at least every 100 ms. -/
  | hjelperWatchdogKick
  /-- HJELPER_WATCHDOG_RESET (R332). The watchdog expires and the trust die resets Hjelper. -/
  | hjelperWatchdogReset
  /-- HJELPER_RESTART (R321). Hjelper restarts, drains its FIFO and rescans sticky fault fields. `peatRead` says that the peat log can be
  read, which its first start needs (R323, Table 16-11). -/
  | hjelperRestart (peatRead : Bool)
  /-- ACTIVATION_REVERT (R352). New firmware not running within 2 s is reverted to the old bank. -/
  | activationRevert
  /-- REFCLK_LOSS (R431). A reference clock stops or drifts and its links or ports go down. -/
  | refclkLoss (which : Fin 2) (ppm : BitVec 16)
  /-- REFCLK_RETURN (R431). A lost reference clock returns within range and links and ports retrain. -/
  | refclkReturn (which : Fin 2) (ppm : BitVec 16)
  /-- SLOT_SELECT (R399). At start the trust die classifies both flash slots and selects one or enters Mire hold. -/
  | slotSelect (straps : BitVec 5)
  /-- DIE_CALIBRATION_COMPLETE (R409). A compute die's calibration ends, entering Shallows or Service when ready. -/
  | dieCalibrationComplete (c : DieId) (stack0Ok stack1Ok : Bool) (sweeps : List SweepResult) (failed : List SoundingFail) (lists : JobLists)
  /-- ETH_PORT_UP (R356). An Ethernet port completes training and comes up or goes down. -/
  | ethPortUp (e : PortId) (up : Bool)
  /-- ARP_REQUEST (R357). The module answers an ARP request. -/
  | arpRequest (e : PortId) (x : EthIn) (senderMac : BitVec 48) (senderIp targetIp : BitVec 32)
  /-- NEIGHBOUR_SOLICITATION (R357). The module answers IPv6 neighbour discovery. -/
  | neighbourSolicitation (e : PortId) (x : EthIn) (source target : BitVec 128)
  /-- ICMP_ECHO (R357). The module answers an ICMP or ICMPv6 echo request. -/
  | icmpEcho (e : PortId) (x : EthIn) (v6 : Bool) (source target : BitVec 128) (data : List Byte)
  /-- SLUICE_FRAGMENT (R363). A Sluice fragment is authenticated and reassembled, or dropped. -/
  | sluiceFragment (e : PortId) (x : EthIn) (peer : Peer) (head payload tag : List Byte)
  /-- REASSEMBLY_TIMEOUT (R365). A request incomplete 100 ms after its first fragment is discarded. -/
  | reassemblyTimeout (session : Nat) (reqId : BitVec 32)
  /-- SESSION_IDLE_TIMEOUT (R368). A session ends after 60 s without an accepted message. -/
  | sessionIdleTimeout (session : Nat)
  /-- HELLO (R366). A HELLO starts session setup and the module answers with CHALLENGE. -/
  | hello (e : PortId) (peer : Peer) (reqId : BitVec 32) (payload : List Byte)
  /-- FINISH (R366). A FINISH is verified and the module answers ACCEPT or fails the setup. -/
  | finish (e : PortId) (peer : Peer) (session : Nat) (reqId : BitVec 32) (payload : List Byte)
  /-- IDENT (R369). IDENT returns the part number, serial, chip, state and identity key. -/
  | ident (rq : Req)
  /-- STATUS (R371). STATUS returns the status record. -/
  | statusVerb (rq : Req)
  /-- ATTEST (R381). ATTEST returns a signed attestation report with a fresh key. -/
  | attest (rq : Req) (nonce : List Byte)
  /-- PEEK (R439). PEEK reads a range of the management window. -/
  | peek (rq : Req) (off : BitVec 64) (len : BitVec 32)
  /-- POKE (R444). POKE writes words of the management window in ascending order. -/
  | poke (rq : Req) (off : BitVec 64) (data : List Byte)
  /-- JOB_LOAD (R373). JOB_LOAD reads and checks a job manifest and its records and loads the job. -/
  | jobLoad (rq : Req) (source : BitVec 8) (off : BitVec 64) (lists : JobLists)
  /-- SUSPEND (R377). SUSPEND sets the host suspension bit of a stream or job. -/
  | suspendStream (rq : Req) (stream : BitVec 16) (flags : BitVec 8) (job : BitVec 16)
  /-- RESUME (R378). RESUME clears the host bit and restarts streams with no other holders. -/
  | resumeStream (rq : Req) (stream : BitVec 16) (flags : BitVec 8) (job : BitVec 16)
  /-- CANCEL (R379). CANCEL moves a stream to Cancelling and orphans its objects. -/
  | cancelStream (rq : Req) (stream : BitVec 16) (flags : BitVec 8) (job : BitVec 16)
  /-- STREAM_QUIESCED (R377). All units of a Suspending stream reach quiesce points and it becomes Suspended. -/
  | streamQuiesced (stream : StreamId)
  /-- HOLD_STEP (R166). HOLD_STEP sets H_HOST for later Checks of a step. -/
  | holdStep (rq : Req) (job : BitVec 16) (step : BitVec 64)
  /-- RELEASE_STEP (R166). RELEASE_STEP withdraws a HOLD_STEP. -/
  | releaseStep (rq : Req) (job : BitVec 16) (step : BitVec 64)
  /-- VERDICT (R165). A VERDICT message resolves a Held step through a reduction of decisions. -/
  | verdict (rq : Req) (job : BitVec 16) (step : BitVec 64) (decision : BitVec 8) (others : List (BitVec 14 × BitVec 8))
  /-- CHECKPOINT (R388). CHECKPOINT arranges for committed regions to be written at the next step boundary. -/
  | checkpoint (rq : Req) (job stream : BitVec 16)
  /-- CHECKPOINT_WRITE (R388). At the job's next step boundary the committed regions are written as egress records. -/
  | checkpointWrite (job : BitVec 16)
  /-- DRAIN_FABRIC (R258). DRAIN_FABRIC stops injection and sends markers on every Active link. -/
  | drainFabric (rq : Req)
  /-- TABLE_LOAD (R259). TABLE_LOAD checks and loads a routing-table image while drained. -/
  | tableLoad (rq : Req) (image : List Byte)
  /-- UNDRAIN (R259). UNDRAIN returns the member to normal and resumes injection. -/
  | undrain (rq : Req)
  /-- SYNC_DUMP (R283). SYNC_DUMP returns every object and barrier record. -/
  | syncDump (rq : Req)
  /-- LOG_READ (R350). LOG_READ returns event-log records by sequence number. -/
  | logRead (rq : Req) (first : BitVec 32) (count : BitVec 16)
  /-- PEAT_READ (R322). PEAT_READ returns peat records by sequence number. -/
  | peatRead (rq : Req) (first : BitVec 32) (count : BitVec 16)
  /-- UPDATE_BEGIN (R413). UPDATE_BEGIN erases the target slot's trailer sector and opens an update. -/
  | updateBegin (rq : Req) (slot : BitVec 8) (len : BitVec 32)
  /-- UPDATE_CHUNK (R413). UPDATE_CHUNK erases and programs the next part of the image. -/
  | updateChunk (rq : Req) (off : BitVec 32) (data : List Byte)
  /-- UPDATE_COMMIT (R414). UPDATE_COMMIT verifies the image, writes its trailer and closes the update. -/
  | updateCommit (rq : Req)
  /-- UPDATE_ACTIVATE (R415). UPDATE_ACTIVATE applies named components live from the selected slot. -/
  | updateActivate (rq : Req) (mask : BitVec 32)
  /-- MARGIN (R224). MARGIN sweeps a parameter over pseudo-channels and returns pass bits per point. -/
  | margin (rq : Req) (m : BitVec 8) (pcs : BitVec 64) (param first last stride : BitVec 8)
  /-- PATTERN (R369). PATTERN sets, reads or releases a lane's generator and checker. -/
  | pattern (rq : Req) (lc : BitVec 8) (unit : BitVec 16) (lane gen chk : BitVec 8) (user : BitVec 64) (action : BitVec 8)
  /-- KEY_DELIVER (R382). KEY_DELIVER unwraps key entries against the latest attestation report. -/
  | keyDeliver (rq : Req) (reportId : BitVec 64) (ct : List Byte) (entries : List (List Byte))
  /-- STREAM_OPEN (R380). STREAM_OPEN opens a data stream and connects its queue pair. -/
  | streamOpen (rq : Req) (payload : List Byte)
  /-- STREAM_CLOSE (R380). STREAM_CLOSE returns an ended stream to Idle and clears its key. -/
  | streamClose (rq : Req) (stream : BitVec 16)
  /-- EVENT_ACK (R372). The host acknowledges an EVENT message. -/
  | eventAck (session : Nat) (reqId : BitVec 32)
  /-- EVENT_RESEND (R372). An EVENT unacknowledged after 10 ms is sent again or abandoned. -/
  | eventResend (session : Nat) (reqId : BitVec 32)
  /-- INGEST_RECORD (R385). A SEND carrying an ingest record is decrypted and written to its ring slot, or refused. -/
  | ingestRecord (q : QpId) (x : EthIn) (send : Bool) (message : List Byte)
  /-- EGRESS_RECORD_WRITE (R386). A ready egress record is encrypted and written to the host by RDMA WRITE when credit allows. -/
  | egressRecordWrite (stream : StreamId)
  /-- LOAD_RECORD (R386). A READ response of a load stream is decrypted and written to the ring. -/
  | loadRecord (stream : StreamId) (x : EthIn) (record : List Byte)
  /-- ROCE_ACK (R360). An ACK or NAK for an RDMA WRITE or READ is received on a queue pair. -/
  | roceAck (q : QpId) (x : EthIn) (stream : StreamId) (kind : AckKind)
  /-- ROCE_ACK_TIMEOUT (R360). The local ACK timeout expires, retrying or putting the QP into error. -/
  | roceAckTimeout (q : QpId)
  /-- CNP_RECEIVE (R361). A received CNP halves the queue pair's rate. -/
  | cnpReceive (q : QpId) (x : EthIn)
  /-- RATE_INCREASE (R361). After 55 µs without a CNP the queue pair's rate rises by 5 Gb/s. -/
  | rateIncrease (q : QpId)
  /-- REGISTER_WRITE (R441). A write to a register without behaviour of its own applies under the access codes. -/
  | registerWrite (w : Writer) (off : BitVec 64) (v : Word64)
  /-- CORE_BASE_INSTRUCTION (R202). The plank core executes one base RV64IMC or Zifencei instruction, including loads and stores to its memories, its banks and the management window, and takes any standard trap. -/
  | coreBaseInstruction (p : PlankId) (ecc : CoreEcc)
  /-- OUTPUT_PORT_CYCLE (R257). In each router cycle an output port grants waiting heads round robin and sends one flit; a link port packs flits into frames and sends idle frames and alignment codewords otherwise. -/
  | outputPortCycle (d : LinkDieId) (out : Outlet)
  /-- PATTERN_CHECKER_LOCK (R264). A lane's pattern checker locks after 1,024 consecutive correct bits and begins counting errors and compared bits. -/
  | patternCheckerLock (l : LinkId) (lane : Fin 2) (bits : List Bool)
  /-- INPUT_PATH_CHANGE (R421). The input path closes when VIN at J1 reaches 30.5 V and opens when VIN falls below 28 V. -/
  | inputPathChange (mv : BitVec 16)
  /-- LOAD_READ_ISSUE (R386). A load stream issues an RDMA READ for its next sealed record from the host slots once a ring slot is free. -/
  | loadReadIssue (stream : StreamId)
  /-- CREDIT_RECORD (R386). A SEND record with CREDIT set and LENGTH 0 raises the cumulative count of host slots freed for an egress or checkpoint stream. -/
  | creditRecord (q : QpId) (x : EthIn) (message : List Byte)
  /-- JOB_UNLOAD (R374). A loaded job is unloaded, returning its streams to Idle, clearing its barriers and making its tree maps and measurements free. -/
  | jobUnload (job : BitVec 16)
deriving DecidableEq, Repr

end Sys2Proof
end

