-- ==== Sys2Proof/Decode.lean ====
section
/-!
DEFINITION. Reading a command from a word. The block's opcode table gives no row any bits: a command reaches the module
as a pin event, a measurement, a packet, a register write or a Sluice message, never as one word of a common format.
So no word spells a command (assumption 15).
-/
namespace Sys2Proof

/-- The command that a word of the opcode table's bits spells: no row of the table gives bits, so there is none. -/
def decodeTableWord (_nbits _w : Nat) : Option Instr := none

end Sys2Proof
end

