-- ==== Sys2Proof/Machine/Arith.lean ====
section
/-!
DEFINITION. Bit fields, byte order and the number formats of the chapter "Number formats and arithmetic rules":
decoding, rounding, converts, binary32 arithmetic and the lane generator.
-/
namespace Sys2Proof.Machine

/-! ## Fields and bytes (R3, R4) -/

/-- Bits [lo + w - 1 : lo] of a number. -/
def bits (x lo w : Nat) : Nat := (x >>> lo) % 2 ^ w

/-- Bit n of a number. -/
def bit (x n : Nat) : Bool := x.testBit n

/-- Field [hi:lo] of a bit vector, as a number. -/
def fld {n : Nat} (x : BitVec n) (hi lo : Nat) : Nat := bits x.toNat lo (hi + 1 - lo)

/-- Place the value v in field [hi:lo] of x, leaving the other bits. -/
def setFld {n : Nat} (x : BitVec n) (hi lo v : Nat) : BitVec n :=
  let m := BitVec.ofNat n ((2 ^ (hi + 1 - lo) - 1) <<< lo)
  (x &&& ~~~m) ||| (BitVec.ofNat n ((v % 2 ^ (hi + 1 - lo)) <<< lo))

/-- Two's complement reading of a w-bit field. -/
def signed (v w : Nat) : Int := if v < 2 ^ (w - 1) then (v : Int) else (v : Int) - 2 ^ w

/-- The w-bit two's complement field that holds an integer. -/
def unsign (v : Int) (w : Nat) : Nat := (v % (2 ^ w : Int)).toNat

/-- Little-endian number of a byte list (R4). -/
def leNat : List Byte → Nat
  | [] => 0
  | b :: bs => b.toNat + 256 * leNat bs

/-- The n little-endian bytes of a number (R4). -/
def leBytes : Nat → Nat → List Byte
  | 0, _ => []
  | n + 1, v => BitVec.ofNat 8 v :: leBytes n (v / 256)

/-- The n bytes of a number, most significant first: Sluice fields and packet headers (R4). -/
def be (n v : Nat) : List Byte := (leBytes n v).reverse

/-- Most-significant-first number of a byte list (R4). -/
def beNat (bs : List Byte) : Nat := leNat bs.reverse

/-- Saturating addition in w bits (Table 3-6). -/
def satAdd (w a b : Nat) : Nat := min (a + b) (2 ^ w - 1)

/-- Saturating increment of a w-bit field. -/
def satInc (w a : Nat) : Nat := satAdd w a 1

/-! ## Exact values -/

/-- An exact non-negative magnitude num / den × 2^exp. -/
structure Mag where
  num : Nat
  den : Nat
  exp : Int
deriving DecidableEq, Repr

/-- A value between formats: NaN, an infinity, or a signed exact magnitude. -/
inductive Val where
  | nan
  | inf (neg : Bool)
  | fin (neg : Bool) (m : Mag)
deriving DecidableEq, Repr

/-- A dyadic magnitude n × 2^e. -/
def Mag.dy (n : Nat) (e : Int) : Mag := ⟨n, 1, e⟩

/-- The finite value n × 2^e with a sign. -/
def Val.dy (neg : Bool) (n : Nat) (e : Int) : Val := .fin neg (Mag.dy n e)

def Val.zero : Val := Val.dy false 0 0

def Mag.isZero (m : Mag) : Bool := m.num == 0

/-- a × 2^k for integers a, k with k ≥ 0 taken as a shift. -/
def shl (a : Nat) (k : Int) : Nat := a <<< k.toNat

/-- Compare two magnitudes exactly. -/
def Mag.lt (a b : Mag) : Bool :=
  let k := a.exp - b.exp
  if 0 ≤ k then decide (shl (a.num * b.den) k < b.num * a.den)
  else decide (a.num * b.den < shl (b.num * a.den) (-k))

def Mag.le (a b : Mag) : Bool := !(b.lt a)

/-- floor(log2 m) of a nonzero magnitude. -/
def Mag.log2 (m : Mag) : Int :=
  let k : Int := (m.num.log2 : Int) - (m.den.log2 : Int)
  let ge : Bool := if 0 ≤ k then decide (shl m.den k ≤ m.num) else decide (m.den ≤ shl m.num (-k))
  (if ge then k else k - 1) + m.exp

/-- Multiply a magnitude by 2^k. -/
def Mag.scale (m : Mag) (k : Int) : Mag := { m with exp := m.exp + k }

def Mag.mul (a b : Mag) : Mag := ⟨a.num * b.num, a.den * b.den, a.exp + b.exp⟩

def Mag.div (a b : Mag) : Mag := ⟨a.num * b.den, a.den * b.num, a.exp - b.exp⟩

/-- Signed sum of two finite values, as a sign and a magnitude; an exact zero takes the sign given. -/
def finAdd (zneg : Bool) (na : Bool) (a : Mag) (nb : Bool) (b : Mag) : Val :=
  let e := min a.exp b.exp
  let x : Nat := shl (a.num * b.den) (a.exp - e)
  let y : Nat := shl (b.num * a.den) (b.exp - e)
  let d := a.den * b.den
  if na == nb then
    (if a.isZero && b.isZero then .fin na ⟨0, 1, 0⟩ else .fin na ⟨x + y, d, e⟩)
  else if x == y then .fin zneg ⟨0, 1, 0⟩
  else if x < y then .fin nb ⟨y - x, d, e⟩
  else .fin na ⟨x - y, d, e⟩

/-! ## Rounding (R52, R53) -/

/-- Rounding modes of Table 2-9; stochastic rounding carries b and its random bits r (R53). -/
inductive Rnd where
  | rne | rz | ru | rd
  | sr (b r : Nat)
deriving DecidableEq, Repr

/-- The mode of code `c`, with b − 4 in `srb` and the 16 random bits in `r16` (R52, R55). -/
def Rnd.ofCode (c srb r16 : Nat) : Rnd :=
  match c with
  | 0 => .rne
  | 1 => .rz
  | 2 => .ru
  | 3 => .rd
  | _ => .sr (srb + 4) (r16 % 2 ^ (srb + 4))

/-- Round the magnitude n / d (d > 0) of a value with sign `neg` to an integer. -/
def Rnd.apply (m : Rnd) (neg : Bool) (n d : Nat) : Nat :=
  let lo := n / d
  let rem := n % d
  if rem == 0 then lo else
  match m with
  | .rne => if 2 * rem > d || (2 * rem == d && lo % 2 == 1) then lo + 1 else lo
  | .rz => lo
  | .ru => if neg then lo else lo + 1
  | .rd => if neg then lo + 1 else lo
  | .sr b r => if r < (rem * 2 ^ (b + 1) + d) / (2 * d) then lo + 1 else lo

/-- Round a magnitude to a multiple of 2^q: the multiple. -/
def roundTo (m : Rnd) (neg : Bool) (x : Mag) (q : Int) : Nat :=
  let k := x.exp - q
  if 0 ≤ k then m.apply neg (shl x.num k) x.den else m.apply neg x.num (shl x.den (-k))

/-! ## Formats (R25 to R31) -/

/-- The formats of Table 2-1. -/
inductive Fmt where
  | fp4 | int4 | e4m3 | e5m2 | int8 | bf16 | fp16 | fp32 | sw8 | e8m0
deriving DecidableEq, Repr

/-- Format of a 4-bit format code; codes 0xA to 0xF are reserved (R25). -/
def Fmt.ofCode : Nat → Option Fmt
  | 0 => some .fp4 | 1 => some .int4 | 2 => some .e4m3 | 3 => some .e5m2 | 4 => some .int8
  | 5 => some .bf16 | 6 => some .fp16 | 7 => some .fp32 | 8 => some .sw8 | 9 => some .e8m0
  | _ => none

/-- Bits of an element in memory (Table 2-1). -/
def Fmt.width : Fmt → Nat
  | .fp4 => 4 | .int4 => 4 | .e4m3 => 8 | .e5m2 => 8 | .int8 => 8
  | .bf16 => 16 | .fp16 => 16 | .fp32 => 32 | .sw8 => 8 | .e8m0 => 8

/-- Exponent-field bits, fraction bits and bias of a float format (R27, R28). -/
def Fmt.layout : Fmt → Nat × Nat × Int
  | .fp4 => (2, 1, 1) | .e4m3 => (4, 3, 7) | .e5m2 => (5, 2, 15)
  | .bf16 => (8, 7, 127) | .fp16 => (5, 10, 15) | .fp32 => (8, 23, 127)
  | _ => (0, 0, 0)

def Fmt.isInt : Fmt → Bool
  | .int4 => true | .int8 => true | _ => false

/-- Formats that carry block shifts (Table 3-1 and the split targets). -/
def Fmt.blocked : Fmt → Bool
  | .fp4 => true | .int4 => true | .e4m3 => true | .e5m2 => true | .int8 => true | .sw8 => true | _ => false

/-- Formats with codes for infinities (Table 2-1). -/
def Fmt.hasInf : Fmt → Bool
  | .e5m2 => true | .bf16 => true | .fp16 => true | .fp32 => true | _ => false

/-- Format offset o_f of Table 2-4. -/
def Fmt.off : Fmt → Int
  | .fp4 => -1 | .e4m3 => 5 | .e5m2 => 12 | .int8 => 4 | _ => 0

/-- Words of a format as an array operand (Table 2-4). -/
def Fmt.words : Fmt → Nat
  | .int8 => 2 | .bf16 => 2 | .fp16 => 3 | .fp32 => 6 | _ => 1

/-- Scale limit L_f in sixteenths of a scaled unit (Table 3-2); split targets use 8. -/
def Fmt.limit16 : Fmt → Nat
  | .fp4 => 192 | .int4 => 112 | .e4m3 => 224 | .e5m2 => 224 | .int8 => 127 | _ => 128

/-- Canonical NaN code (Table 2-1). -/
def Fmt.nanCode : Fmt → Nat
  | .e4m3 => 0x7F | .e5m2 => 0x7E | .bf16 => 0x7FC0 | .fp16 => 0x7E00 | .fp32 => 0x7FC00000 | .sw8 => 0x78
  | .e8m0 => 0xFF | _ => 0

/-- Code of ±Inf in the formats that have it. -/
def Fmt.infCode (f : Fmt) (neg : Bool) : Nat :=
  let (eb, fb, _) := f.layout
  ((2 ^ eb - 1) <<< fb) + (if neg then 2 ^ (eb + fb) else 0)

/-- Magnitude code of the largest finite value of a float format (Tables 2-1 and 2-3). -/
def Fmt.maxCode : Fmt → Nat
  | .fp4 => 7 | .e4m3 => 0x7E | .e5m2 => 0x7B | .bf16 => 0x7F7F | .fp16 => 0x7BFF | .fp32 => 0x7F7FFFFF | _ => 0

/-- The value of a code of a single-code format (R27, R28); SW8 elements are decoded from their planes instead. -/
def Fmt.decode (f : Fmt) (code : Nat) : Val :=
  match f with
  | .int4 => let v := signed (code % 16) 4; Val.dy (decide (v < 0)) v.natAbs 0
  | .int8 => let v := signed (code % 256) 8; Val.dy (decide (v < 0)) v.natAbs 0
  | .e8m0 => if code % 256 == 255 then .nan else Val.dy false 1 ((code % 256 : Nat) - 127)
  | .sw8 => .nan
  | _ =>
    let (eb, fb, bias) := f.layout
    let neg := bit code (eb + fb)
    let ef := bits code fb eb
    let fr := bits code 0 fb
    if f == .e4m3 && ef == 15 && fr == 7 then .nan
    else if f.hasInf && ef == 2 ^ eb - 1 then (if fr == 0 then .inf neg else .nan)
    else if ef == 0 then Val.dy neg fr (1 - bias - fb)
    else Val.dy neg (fr + 2 ^ fb) ((ef : Int) - bias - fb)

/-- Code of the float magnitude r × 2^q, which the format represents. -/
def Fmt.encodeMag (f : Fmt) (r : Nat) (q : Int) : Nat :=
  let (_, fb, bias) := f.layout
  if r == 0 then 0 else
  let e := (r.log2 : Int) + q
  if e < 1 - bias then (roundTo .rz false (Mag.dy r q) (1 - bias - fb))
  else
    let sig := roundTo .rz false (Mag.dy r q) (e - fb)
    ((e + bias).toNat <<< fb) + (sig - 2 ^ fb)

/-- Put the sign of a float format on a magnitude code. -/
def Fmt.withSign (f : Fmt) (neg : Bool) (code : Nat) : Nat :=
  let (eb, fb, _) := f.layout
  if neg then code + 2 ^ (eb + fb) else code

/-- Largest finite magnitude of a float format. -/
def Fmt.maxMag (f : Fmt) : Mag :=
  match f.decode f.maxCode with
  | .fin _ m => m
  | _ => Mag.dy 0 0

/-- What a convert of one element yields: its code and what it counts (R50). -/
structure Conv where
  code : Nat
  brim : Bool
  sunk : Bool
  nonfin : Bool
deriving DecidableEq, Repr

/-- A strict-mode overflow that IEEE 754 rounds to the largest finite value (R51). -/
def strictSat (m : Rnd) (neg : Bool) : Bool :=
  match m with
  | .rz => true
  | .rd => !neg
  | .ru => neg
  | _ => false

/-- Convert a value to a format with no block shift of its own, under R50, R51 and Table 2-8. -/
def convert (f : Fmt) (strict : Bool) (m : Rnd) (x : Val) : Conv :=
  match x with
  | .nan =>
    (match f with
     | .fp4 => ⟨0, false, false, true⟩
     | .int4 => ⟨0, false, false, true⟩
     | .int8 => ⟨0, false, false, true⟩
     | _ => ⟨f.nanCode, false, false, true⟩)
  | .inf neg =>
    (match f with
     | .e4m3 => ⟨0x7F, false, false, true⟩
     | .fp4 => ⟨f.withSign neg 7, false, false, true⟩
     | .int4 => ⟨if neg then 8 else 7, false, false, true⟩
     | .int8 => ⟨if neg then 128 else 127, false, false, true⟩
     | .sw8 => ⟨if neg then 0xF0 else 0x70, false, false, true⟩
     | _ => ⟨f.infCode neg, false, false, true⟩)
  | .fin neg a =>
    if f.isInt then
      let r := roundTo m neg a 0
      let w := f.width
      let lim := if neg then 2 ^ (w - 1) else 2 ^ (w - 1) - 1
      if lim < r then ⟨unsign (if neg then -(lim : Int) else lim) w, true, false, false⟩
      else ⟨unsign (if neg then -(r : Int) else r) w, false, !a.isZero && r == 0, false⟩
    else if a.isZero then ⟨f.withSign neg 0, false, false, false⟩
    else
      let (_, fb, bias) := f.layout
      let q := max a.log2 (1 - bias) - fb
      let r := roundTo m neg a q
      if f.maxMag.lt (Mag.dy r q) then
        (if strict && !strictSat m neg && f != .fp4 then
          (if f == .e4m3 then ⟨0x7F, false, false, true⟩ else ⟨f.infCode neg, false, false, true⟩)
         else ⟨f.withSign neg f.maxCode, true, false, false⟩)
      else ⟨f.withSign neg (f.encodeMag r q), false, r == 0, false⟩

/-! ## Binary32 arithmetic (R46, R47, R48, R185) -/

def f32 (x : F32) : Val := Fmt.fp32.decode x.toNat

/-- Round a value to binary32 as an IEEE 754 operation does: an overflow goes to ±Inf, or to the largest finite value in
the directed modes that IEEE 754 names. -/
def toF32 (m : Rnd) (x : Val) : F32 := BitVec.ofNat 32 (convert .fp32 true m x).code

def f32Nan : F32 := 0x7FC00000

def isNan32 (x : F32) : Bool := f32 x == .nan

/-- A signalling NaN input (R48): exponent all ones, quiet bit clear, fraction nonzero. -/
def isSnan32 (x : F32) : Bool := isNan32 x && !(x.getLsbD 22)

def Val.negate : Val → Val
  | .nan => .nan
  | .inf n => .inf !n
  | .fin n m => .fin (!n) m

/-- Exact sum of two values; the sign of an exact zero follows IEEE 754 in the mode given. -/
def Val.add (m : Rnd) : Val → Val → Val
  | .nan, _ => .nan
  | _, .nan => .nan
  | .inf a, .inf b => if a == b then .inf a else .nan
  | .inf a, _ => .inf a
  | _, .inf b => .inf b
  | .fin na a, .fin nb b => finAdd (m == .rd) na a nb b

/-- Exact product of two values. -/
def Val.mul : Val → Val → Val
  | .nan, _ => .nan
  | _, .nan => .nan
  | .inf a, .inf b => .inf (a != b)
  | .inf a, .fin nb b => if b.isZero then .nan else .inf (a != nb)
  | .fin na a, .inf b => if a.isZero then .nan else .inf (na != b)
  | .fin na a, .fin nb b => .fin (na != nb) (a.mul b)

/-- Exact quotient of two values. -/
def Val.div : Val → Val → Val
  | .nan, _ => .nan
  | _, .nan => .nan
  | .inf _, .inf _ => .nan
  | .inf a, .fin nb _ => .inf (a != nb)
  | .fin na _, .inf b => .fin (na != b) (Mag.dy 0 0)
  | .fin na a, .fin nb b =>
    if b.isZero then (if a.isZero then .nan else .inf (na != nb)) else .fin (na != nb) (a.div b)

/-- A magnitude that rounds as the square root of m does: 64 result bits and a sticky bit. -/
def Mag.sqrt (m : Mag) : Mag :=
  let e0 := m.exp - 128
  let e := if e0 % 2 == 0 then e0 else e0 - 1
  let n := shl m.num (m.exp - e) / m.den
  let r := Nat.sqrt n
  if r * r == n then Mag.dy r (e / 2) else Mag.dy (2 * r + 1) (e / 2 - 1)

def addF (m : Rnd) (a b : F32) : F32 := toF32 m (Val.add m (f32 a) (f32 b))
def subF (m : Rnd) (a b : F32) : F32 := toF32 m (Val.add m (f32 a) (f32 b).negate)
def mulF (m : Rnd) (a b : F32) : F32 := toF32 m (Val.mul (f32 a) (f32 b))
def fmaF (m : Rnd) (a b c : F32) : F32 := toF32 m (Val.add m (Val.mul (f32 a) (f32 b)) (f32 c))
def divF (m : Rnd) (a b : F32) : F32 := toF32 m (Val.div (f32 a) (f32 b))
def sqrtF (m : Rnd) (a : F32) : F32 :=
  match f32 a with
  | .nan => f32Nan
  | .inf true => f32Nan
  | .inf false => a
  | .fin neg x => if x.isZero then a else if neg then f32Nan else toF32 m (.fin false x.sqrt)

/-- Total order key of a non-NaN binary32 value, in which −0 lies below +0 (R47). -/
def keyF (a : F32) : Int := if a.getLsbD 31 then -(bits a.toNat 0 31 : Int) - 1 else (bits a.toNat 0 31 : Int)

def minF (a b : F32) : F32 := if isNan32 a || isNan32 b then f32Nan else if keyF a ≤ keyF b then a else b
def maxF (a b : F32) : F32 := if isNan32 a || isNan32 b then f32Nan else if keyF a ≤ keyF b then b else a
def absF (a : F32) : F32 := a &&& 0x7FFFFFFF
def negF (a : F32) : F32 := a ^^^ 0x80000000
/-- max over absolute values (R47). -/
def amaxF (a b : F32) : F32 := maxF (absF a) (absF b)

/-- Numeric value of a non-NaN binary32, −0 and +0 alike, for the quiet comparisons of R46. -/
def cmpKey (a : F32) : Int := if a.getLsbD 31 then -(bits a.toNat 0 31 : Int) else (bits a.toNat 0 31 : Int)

/-- Conditions 0 to 3 of opcode 0x0B: eq, ne, lt, le (R46, Table 8-3). -/
def cmpF (cond : Nat) (a b : F32) : Bool :=
  if isNan32 a || isNan32 b then cond == 1 else
  match cond with
  | 0 => cmpKey a == cmpKey b
  | 1 => cmpKey a != cmpKey b
  | 2 => decide (cmpKey a < cmpKey b)
  | _ => decide (cmpKey a ≤ cmpKey b)

/-- The canonical NaN for any NaN (R48). -/
def canon (x : F32) : F32 := if isNan32 x then f32Nan else x
/-- An operation of R48 is invalid: a signalling NaN, or a NaN made from operands that are none. -/
def badOp (ins : List F32) (out : F32) : Bool := ins.any isSnan32 || (isNan32 out && !ins.any isNan32)

def addR := addF .rne
def subR := subF .rne
def mulR := mulF .rne
def divR := divF .rne
def fmaR := fmaF .rne

/-- A binary32 value on its way through a chain of operations, and whether one of them raised the invalid flag (R48). -/
structure Noted where
  val : F32
  inv : Bool
deriving DecidableEq, Repr

/-- A value as read. -/
def Noted.of (x : F32) : Noted := ⟨x, false⟩
def Noted.op2 (f : F32 → F32 → F32) (a b : Noted) : Noted :=
  let r := f a.val b.val
  ⟨r, a.inv || b.inv || badOp [a.val, b.val] r⟩
def Noted.fma (a b c : Noted) : Noted :=
  let r := fmaR a.val b.val c.val
  ⟨r, a.inv || b.inv || c.inv || badOp [a.val, b.val, c.val] r⟩

/-- An unsigned integer converted to FP32 with RNE. -/
def natF32 (n : Nat) : F32 := toF32 .rne (Val.dy false n 0)

/-- BF16 bits widened to FP32 exactly. -/
def bf16F (x : Nat) : F32 := BitVec.ofNat 32 ((x % 65536) <<< 16)

/-- Round an FP32 magnitude upward: RU of R70 and R175. -/
def ruF32 (m : Mag) : F32 := if m.isZero then 0 else toF32 .ru (.fin false m)

/-! ## The lane generator (R54, R55) -/

def rotl32 (v n : Nat) : Nat := ((v <<< n) ||| (v >>> (32 - n))) % 2 ^ 32

/-- One round of R54 on (x0, x1, x2, x3). -/
def laneRound (k0 k1 r : Nat) (x : Nat × Nat × Nat × Nat) : Nat × Nat × Nat × Nat :=
  let (x0, x1, x2, x3) := x
  let x0 := (x0 + x1) % 2 ^ 32
  let x3 := rotl32 (x3 ^^^ x0) 16
  let x2 := (x2 + x3) % 2 ^ 32
  let x1 := rotl32 (x1 ^^^ x2) 12
  let x0 := (x0 + x1) % 2 ^ 32
  let x3 := rotl32 (x3 ^^^ x0) 8
  let x2 := (x2 + x3) % 2 ^ 32
  let x1 := rotl32 (x1 ^^^ x2) 7
  (x0 ^^^ ((k0 + r) % 2 ^ 32), x1, x2 ^^^ ((k1 + r) % 2 ^ 32), x3)

/-- lanegen of R54: 128 bits, x0 in [31:0]. -/
def laneGen (seed step tensor i : Nat) : BitVec 128 :=
  let k0 := bits seed 0 32
  let k1 := bits seed 32 32
  let x : Nat × Nat × Nat × Nat :=
    (bits step 0 32, (i / 512) % 2 ^ 32, (tensor % 65536) * 0x10000 + i % 512, 0x9E3779B9)
  let (x0, x1, x2, x3) := (List.range 10).foldl (fun x r => laneRound k0 k1 r x) x
  BitVec.ofNat 128 (x0 + (x1 <<< 32) + (x2 <<< 64) + (x3 <<< 96))

/-- Bits [16u + 15 : 16u] of an element's generator output (R55). -/
def drawBits (seed step tensor i u : Nat) : Nat := bits (laneGen seed step tensor i).toNat (16 * u) 16

/-- The rounding of one element: RND, SRB and DRAW with the element's own random bits (R52, R55). -/
def elemRnd (rnd srb draw seed step tensor i : Nat) : Rnd :=
  if rnd < 4 then Rnd.ofCode rnd 0 0 else Rnd.ofCode 4 srb (drawBits seed step tensor i draw)

end Sys2Proof.Machine
end

