-- ==== Sys2Proof/Machine/Map.lean ====
section
/-!
DEFINITION. A sparse map from numbers to values: a list of pairs with strictly rising keys and no entry equal to what an
unlisted key reads as. Memory, the register words and every sparse table of the state are held in this one form, so equal
contents are equal data.
-/
namespace Sys2Proof.Machine

/-- Value at key k; an unlisted key reads as `d k`. -/
def kget {α : Type} (d : Nat → α) : List (Nat × α) → Nat → α
  | [], k => d k
  | (j, v) :: m, k => if j = k then v else kget d m k

/-- Put v at key k, keeping the canonical form. -/
def kput {α : Type} [DecidableEq α] (d : Nat → α) : List (Nat × α) → Nat → α → List (Nat × α)
  | [], k, v => if v = d k then [] else [(k, v)]
  | (j, u) :: m, k, v =>
    if k < j then (if v = d k then (j, u) :: m else (k, v) :: (j, u) :: m)
    else if j = k then (if v = d k then m else (k, v) :: m)
    else (j, u) :: kput d m k v

/-- The keys of a list of pairs rise strictly from above `lo`. -/
def kabove {α : Type} (lo : Nat) : List (Nat × α) → Bool
  | [] => true
  | (j, _) :: m => decide (lo ≤ j) && kabove (j + 1) m

/-- The canonical form. -/
def kwf {α : Type} [DecidableEq α] (d : Nat → α) (m : List (Nat × α)) : Bool :=
  kabove 0 m && m.all (fun e => !decide (e.2 = d e.1))

/-- Put consecutive values from key k on. -/
def kputs {α : Type} [DecidableEq α] (d : Nat → α) : List (Nat × α) → Nat → List α → List (Nat × α)
  | m, _, [] => m
  | m, k, v :: vs => kputs d (kput d m k v) (k + 1) vs

/-- The n consecutive values from key k on. -/
def kgets {α : Type} (d : Nat → α) (m : List (Nat × α)) (k : Nat) : Nat → List α
  | 0 => []
  | n + 1 => kget d m k :: kgets d m (k + 1) n

/-- The empty byte of a memory that nothing has written (assumption 1). -/
def noByte (_ : Nat) : Byte := 0

end Sys2Proof.Machine
end

