-- ==== Sys2Proof/Machine/Convert.lean ====
section
/-!
DEFINITION. Conversion of channels (R50, R59, R68 to R76, R112 to R115, R33 to R35): block shifts, split words, channel
scales, flat channels, outliers, and the counts of a conversion statistics record.
-/
namespace Sys2Proof.Machine

/-- Largest of the finite magnitudes in a list, if any is listed: the largest input magnitude of R68 leaves NaN and ±Inf out
(assumption 108). -/
def maxMagOf : List Val → Mag
  | [] => Mag.dy 0 0
  | .fin _ m :: vs => let r := maxMagOf vs; if r.lt m then m else r
  | _ :: vs => maxMagOf vs

/-- L_f of a target in scaled units (Table 3-2). -/
def Fmt.limit (f : Fmt) : Mag := Mag.dy f.limit16 (-4)

/-- Largest s in 0 to n for which a × 2^(s − E) stays within the limit. -/
def largestShift (f : Fmt) (e : Int) (a : Mag) : Nat → Nat
  | 0 => 0
  | n + 1 => if (a.scale ((n + 1 : Nat) - e)).le f.limit then n + 1 else largestShift f e a n

/-- Block shift of a single-word target (R68): none for a brim block, which takes 0. -/
def blockShift (f : Fmt) (e : Int) (a : Mag) : Nat × Bool :=
  if a.isZero then (15, false)
  else if f.limit.lt (a.scale (-e)) then (0, true)
  else (largestShift f e a 15, false)

/-- The tensor exponent (R63): the smallest E, within −256 to 255, for which REF × 2^m ≤ L_f × 2^E; 0 when REF is 0. -/
def tensorExp (f : Fmt) (ref : F32) (margin : Nat) : Int :=
  match f32 ref with
  | .fin _ m =>
    if m.isZero then 0 else
    let a := m.scale margin
    let e0 : Int := a.log2 - f.limit.log2
    let e := if a.le (f.limit.scale e0) then e0 else e0 + 1
    max (-256) (min 255 e)
  | _ => 0

/-- What a convert does to one element. `code` packs the planes of a split target, plane j in bits [8j+7:8j]. -/
structure ElemRes where
  code : Nat
  brim : Bool
  sunk : Bool
  nonfin : Bool
  back : Val
deriving DecidableEq, Repr

/-- Parameters of a convert into one channel. -/
structure CvtCtx where
  fmt : Fmt
  words : Nat
  sig : Nat
  e : Int
  strict : Bool
  c : Val
  z : Val
deriving DecidableEq, Repr

/-- c × value + z, exactly (R59). -/
def rebuild (k : CvtCtx) (v : Val) : Val := Val.add .rne (Val.mul k.c v) k.z

/-- x′ = (x − z) / c, exactly (R68). -/
def scaledIn (k : CvtCtx) (x : Val) : Val := Val.div (Val.add .rne x k.z.negate) k.c

/-- Digits of a split element, w planes with a common sign and down-shift (R34). -/
def packPlanes (neg : Bool) (d mant : Nat) : Nat → Nat
  | 0 => 0
  | w + 1 =>
    ((if neg then 128 else 0) + d * 16 + mant >>> (4 * w) % 16) + 256 * packPlanes neg d (mant % 2 ^ (4 * w)) w

/-- Round a split element to the significand of its format (R35). -/
def splitRound (k : CvtCtx) (m : Rnd) (x : Val) : Val :=
  match x with
  | .fin neg a => if a.isZero then x else
    let q := a.log2 - (k.sig - 1 : Nat)
    .fin neg (Mag.dy (roundTo m neg a q) q)
  | v => v

/-- Block shift of a split target (R35): the largest element takes d = 0, within 0 to 15. -/
def splitShift (e : Int) (a : Mag) : Nat × Bool :=
  if a.isZero then (15, false)
  else
    let s := 3 + e - a.log2
    if s < 0 then (0, true) else if 15 < s then (15, false) else (s.toNat, false)

/-- One split element at block shift s (R34, R35). -/
def splitElem (k : CvtCtx) (m : Rnd) (s : Nat) (x : Val) : ElemRes :=
  match x with
  | .nan => ⟨0x78, false, false, true, .nan⟩
  | .inf neg => ⟨if neg then 0xF0 else 0x70, false, false, true, rebuild k (.inf neg)⟩
  | .fin neg a =>
    if a.isZero then ⟨packPlanes neg 0 0 k.words, false, false, false, rebuild k (.fin neg a)⟩
    else if (Mag.dy 16 k.e).le a then
      let top := 2 ^ (4 * k.words) - 1
      ⟨packPlanes neg 0 top k.words, true, false, false,
        rebuild k (Val.dy neg top (k.e - (4 * (k.words - 1) : Nat)))⟩
    else
      let dist := 3 + k.e - s - a.log2
      let d : Nat := if dist < 6 then dist.toNat else 6
      let q := k.e - s - d - (4 * (k.words - 1) : Nat)
      let r := roundTo m neg a q
      ⟨packPlanes neg d r k.words, false, r == 0, false, rebuild k (Val.dy neg r q)⟩

/-- One element of a single-word target at block shift s (R59, R68). -/
def blockElem (k : CvtCtx) (m : Rnd) (s : Nat) (x : Val) : ElemRes :=
  let sc : Int := (s : Int) + k.fmt.off - k.e
  let y := match x with
    | .fin neg a => .fin neg (a.scale sc)
    | v => v
  let r := convert k.fmt k.strict m y
  let v := match k.fmt.decode r.code with
    | .fin neg a => .fin neg (a.scale (-sc))
    | w => w
  ⟨r.code, r.brim, r.sunk, r.nonfin, rebuild k v⟩

/-- One element of a target without block shifts: FP32, BF16 or FP16. -/
def plainElem (k : CvtCtx) (m : Rnd) (x : Val) : ElemRes :=
  let r := convert k.fmt k.strict m x
  ⟨r.code, r.brim, r.sunk, r.nonfin, k.fmt.decode r.code⟩

/-- An element on its way through a convert: its exact input, x′, its rounding, and its part: ordinary, padding or masked
(zero code, not counted), extracted to the outlier list with its BF16 value, or overflow of that list. -/
inductive Part where
  | plain | pad | taken (w : Nat) (brim : Bool) | over
deriving DecidableEq, Repr

structure Elem where
  x : Val
  x' : Val
  rnd : Rnd
  part : Part
deriving DecidableEq, Repr

/-- Counts of a convert (Table 3-6); `err` and `inp` are the squares of each element in order, the inputs of the lane sums. -/
structure Tally where
  elems : Nat
  blocks : Nat
  brimE : Nat
  sunkE : Nat
  brimB : Nat
  sunkB : Nat
  flat : Nat
  nonfin : Nat
  sedgeOvf : Nat
  pmax : F32
  err : List F32
  inp : List F32
deriving DecidableEq, Repr

def Tally.zero : Tally := ⟨0, 0, 0, 0, 0, 0, 0, 0, 0, 0, [], []⟩

def Tally.add (a b : Tally) : Tally :=
  ⟨a.elems + b.elems, a.blocks + b.blocks, a.brimE + b.brimE, a.sunkE + b.sunkE, a.brimB + b.brimB, a.sunkB + b.sunkB,
   a.flat + b.flat, a.nonfin + b.nonfin, a.sedgeOvf + b.sedgeOvf, maxF a.pmax b.pmax, a.err ++ b.err, a.inp ++ b.inp⟩

/-- Square of a value rounded to FP32 (R75): the value is formed exactly and rounded once before it is squared
(assumption 108). -/
def sqF (v : Val) : F32 := let x := toF32 .rne v; mulR x x

/-- The pending maximum of one input (R65), as FP32; a larger magnitude counts as the largest finite FP32 value. -/
def pmaxOf (x : Val) : F32 :=
  match x with
  | .fin _ a => BitVec.ofNat 32 (convert .fp32 false .rne (.fin false a)).code
  | _ => 0

/-- What one element adds to the counts (R44, R69, R75). -/
def elemTally (x : Val) (r : ElemRes) : Tally :=
  let fin := match x with
    | .fin _ _ => true
    | _ => false
  { Tally.zero with
    elems := 1, brimE := if r.brim then 1 else 0, sunkE := if r.sunk then 1 else 0, nonfin := if r.nonfin then 1 else 0,
    pmax := pmaxOf x,
    err := [if fin then sqF (Val.add .rne x r.back.negate) else 0],
    inp := [if fin then sqF x else 0] }

/-- An element that is not counted keeps its place in the lanes. -/
def padTally : Tally := { Tally.zero with err := [0], inp := [0] }

/-- Code of ±L_f that an overflow element takes (R115). -/
def overCode (f : Fmt) (neg : Bool) : Nat :=
  match f with
  | .int4 => if neg then 9 else 7
  | _ => if neg then 0xF else 7

/-- Convert one element at the block's shift. -/
def elemConv (k : CvtCtx) (s : Nat) (el : Elem) : ElemRes × Tally :=
  match el.part with
  | .pad => (⟨0, false, false, false, .zero⟩, padTally)
  | .taken w brim =>
    let r : ElemRes := ⟨0, brim, false, false, rebuild k (Fmt.bf16.decode w)⟩
    (r, elemTally el.x r)
  | .over =>
    let neg := match el.x' with
      | .fin n _ => n
      | _ => false
    let r : ElemRes := ⟨overCode k.fmt neg, false, false, false,
      rebuild k (.fin neg ((k.fmt.limit).scale (k.e - s)))⟩
    (r, { elemTally el.x r with sedgeOvf := 1 })
  | .plain =>
    let r := if k.fmt == .sw8 then splitElem k el.rnd s (splitRound k el.rnd el.x') else blockElem k el.rnd s el.x'
    (r, elemTally el.x r)

def Elem.isPlain (e : Elem) : Bool := e.part == .plain

/-- x′ is finite and nonzero. -/
def finNonzero (v : Val) : Bool :=
  match v with
  | .fin _ a => !a.isZero
  | _ => false

/-- A converted block: codes, shift and counts. -/
structure BlockRes where
  codes : List Nat
  shift : Nat
  tally : Tally
deriving DecidableEq, Repr

/-- A zero code (R69, R74): +0, −0, integer 0; digit 0 in every plane of a split element that is not special. -/
def zeroCode (f : Fmt) (words code : Nat) : Bool :=
  if f == .sw8 then (List.range words).all (fun j => bits code (8 * j) 4 == 0) && bits code 4 3 != 7
  else if f.isInt then code == 0
  else code % 2 ^ (f.width - 1) == 0

/-- Convert one block of at most 16 elements (R68, R69, R115, R35). A block whose elements are all extracted or overflow
takes shift 0 (R115), one whose elements are all padding or masked shift 15 (R68). A block of masked elements alone does not
count in BLOCKS (assumption 108). -/
def convBlock (k : CvtCtx) (els : List Elem) : BlockRes :=
  let plain := (els.filter Elem.isPlain)
  let vals := plain.map (fun e => if k.fmt == .sw8 then splitRound k e.rnd e.x' else e.x')
  let a := maxMagOf vals
  let (s, brimB) := if plain.isEmpty && els.any (fun e => e.part != .pad) then (0, false)
    else if k.fmt == .sw8 then splitShift k.e a else blockShift k.fmt k.e a
  let rs := els.map (elemConv k s)
  let counted := els.any (fun e => e.part != .pad)
  let live := els.any (fun e => e.part != .pad && finNonzero e.x')
  let zero := rs.all (fun r => zeroCode k.fmt k.words r.1.code)
  let t := rs.foldl (fun t r => t.add r.2) Tally.zero
  { codes := rs.map (fun r => r.1.code), shift := s,
    tally := { t with blocks := if counted then 1 else 0, brimB := if brimB && counted then 1 else 0,
                      sunkB := if live && zero then 1 else 0 } }

/-- Cut a list into runs of n. The fuel is the list's length. -/
def chunksOf {α : Type} (n : Nat) : Nat → List α → List (List α)
  | 0, _ => []
  | _, [] => []
  | f + 1, xs => xs.take n :: chunksOf n f (xs.drop n)

def chunks {α : Type} (n : Nat) (xs : List α) : List (List α) := chunksOf n xs.length xs

/-! ## Outliers (R113) -/

/-- |a| > |b| of two finite values. -/
def magGt (a b : Val) : Bool :=
  match a, b with
  | .fin _ x, .fin _ y => y.lt x
  | _, _ => false

/-- Insert (index, x′) into a list held by descending |x′|, a tie after the earlier index. -/
def insertDesc (p : Nat × Val) : List (Nat × Val) → List (Nat × Val)
  | [] => [p]
  | q :: qs => if magGt p.2 q.2 then p :: q :: qs else q :: insertDesc p qs

/-- Mark the candidates of one segment: up to four are taken, the rest overflow (R113, R114). -/
def markOutliers (thr : F32) (els : List Elem) : List Elem :=
  let idx := els.zipIdx
  let cands := (idx.filter (fun e => e.1.part == .plain && magGt e.1.x' (f32 thr))).map (fun e => (e.2, e.1.x'))
  let sorted := cands.foldl (fun l c => insertDesc c l) []
  let top := (sorted.take 4).map (·.1)
  let rest := (sorted.drop 4).map (·.1)
  idx.map (fun e =>
    if top.contains e.2 then
      let r := convert .bf16 false .rne e.1.x'
      { e.1 with part := .taken r.code r.brim }
    else if rest.contains e.2 then { e.1 with part := .over }
    else e.1)

/-- The four 32-bit entries of a segment's outlier list (Table 5-1). -/
def outlierEntries (els : List Elem) : List Nat :=
  let es := els.zipIdx.filterMap (fun e =>
    match e.1.part with
    | .taken w _ => some (e.2 % 512 + 2 ^ 15 + w * 2 ^ 16)
    | _ => none)
  es ++ List.replicate (4 - es.length) 0

/-! ## Channel scales and flat channels (R70, R74) -/

/-- Smaller and larger of two finite values by their exact value. -/
def valLt (a b : Val) : Bool :=
  match Val.add .rne a b.negate with
  | .fin neg m => neg && !m.isZero
  | _ => false
def valMax (a b : Val) : Val := if valLt a b then b else a
def valMin (a b : Val) : Val := if valLt a b then a else b
def Val.abs : Val → Val
  | .fin _ m => .fin false m
  | v => v

def finites (xs : List Val) : List Val := xs.filter (fun v => match v with
  | .fin _ _ => true
  | _ => false)

def foldVals (f : Val → Val → Val) : List Val → Val
  | [] => .zero
  | v :: vs => vs.foldl f v

/-- RU to FP32 of a / (L_f × 2^E) (R70). -/
def ruScale (f : Fmt) (e : Int) (a : Val) : F32 :=
  match a with
  | .fin _ m => ruF32 (m.div (f.limit.scale e))
  | _ => 0

/-- How a channel is converted (R70, R74): its FP32 scale, its BF16 zero point, and whether it is flat, with the constant. -/
structure ChanScale where
  c : F32
  z : Nat
  flat : Option Val
deriving DecidableEq, Repr

/-- A normal positive FP32 value. -/
def normalF32 (x : Val) : Bool :=
  match x with
  | .fin false m => !m.isZero && decide (-126 ≤ m.log2) && decide (m.log2 ≤ 127)
  | _ => false

/-- Scale and zero point of a channel (R70) and the flat-channel rule (Table 3-5). Mode 0 unit, 1 symmetric, 2 asymmetric.
A channel whose elements are all masked counts as flat with constant 0, and a constant of more than 24 significant bits
gives its scale by RNE (assumption 108). -/
def chanScale (f : Fmt) (e : Int) (mode : Nat) (xs : List Val) : ChanScale :=
  if mode = 0 then ⟨0x3F800000, 0, none⟩ else
  let fs := finites xs
  let hi := foldVals valMax fs
  let lo := foldVals valMin fs
  let flat := fs.isEmpty || (!valLt lo hi)
  let k := if fs.isEmpty then Val.zero else hi
  let tiny : F32 := 0x00800000
  if mode = 1 then
    let a := foldVals valMax (fs.map Val.abs)
    let ord : ChanScale := ⟨ruScale f e a, 0, none⟩
    if !flat then ord
    else if !finNonzero k then ⟨tiny, 0, some k⟩
    else
      let sh : Int := if f == .sw8 then -3 - e else f.off - e
      let c := match k.abs with
        | .fin _ m => Val.fin false (m.scale sh)
        | v => v
      if normalF32 c then ⟨toF32 .rne c, 0, some k⟩ else ord
  else
    let mid := match Val.add .rne hi lo with
      | .fin n m => Val.fin n (m.scale (-1))
      | v => v
    let zc := (convert .bf16 false .rne (if flat then k else mid)).code
    let zv := Fmt.bf16.decode zc
    if flat then ⟨tiny, if finNonzero k then zc else 0, some k⟩
    else
      let m := valMax (Val.add .rne hi zv.negate) (Val.add .rne zv lo.negate)
      ⟨ruScale f e m, zc, none⟩

/-- Elements of a flat channel (Table 3-5): fixed shifts and codes, counted in ELEMS, NONFINITE and the error sums only.
DESIGN CHOICE (assumption 121): a zero code is +0 whatever the sign of the channel's zeros. -/
def flatBlock (k : CvtCtx) (mode : Nat) (const : Val) (els : List Elem) : BlockRes :=
  let symNz := mode == 1 && finNonzero const
  let neg := match const with
    | .fin n _ => n
    | _ => false
  let one : Nat :=
    if !symNz then 0
    else if k.fmt == .sw8 then packPlanes neg 0 (8 * 2 ^ (4 * (k.words - 1))) k.words
    else match k.fmt with
      | .int4 => unsign (if neg then -1 else 1) 4
      | .int8 => unsign (if neg then -1 else 1) 8
      | f => (convert f false .rne (Val.dy neg 1 0)).code
  let rs := els.map (fun el =>
    match el.part, el.x with
    | .pad, _ => ((⟨0, false, false, false, .zero⟩ : ElemRes), padTally)
    | _, .fin _ _ =>
      let back := rebuild k (if symNz then Val.dy neg 1 (if k.fmt == Fmt.sw8 then k.e + 3 else k.e - k.fmt.off)
        else Val.dy false 0 0)
      let r : ElemRes := ⟨one, false, false, false, back⟩
      (r, elemTally el.x r)
    | _, _ => elemConv k 15 { el with part := .plain })
  let counted := els.any (fun e => e.part != .pad)
  let t := rs.foldl (fun t r => t.add r.2) Tally.zero
  { codes := rs.map (fun r => r.1.code), shift := if symNz then 0 else 15,
    tally := { t with blocks := if counted then 1 else 0 } }

/-! ## Lane sums and records (R76, R197, Table 3-6) -/

/-- One level of the tree of R197; a lane without a partner meets `d`, which is +0 of the values' type. -/
def pairUp {α : Type} (f : α → α → α) (d : α) : List α → List α
  | a :: b :: t => f a b :: pairUp f d t
  | [a] => [f a d]
  | [] => []

/-- Nine levels of the tree. -/
def treeFold {α : Type} (f : α → α → α) (d : α) (xs : List α) : α :=
  ((List.range 9).foldl (fun l _ => pairUp f d l) xs).headD d

/-- Add the entries of one row of lanes to the lane sums. -/
def laneAdd : List F32 → List F32 → List F32
  | a :: as, b :: bs => addR a b :: laneAdd as bs
  | as, [] => as
  | [], bs => bs.map (addR 0)

/-- Lane sums of squares in element order, element e in lane e mod 512, and their fold. -/
def laneFold (xs : List F32) : F32 :=
  treeFold addR 0 ((chunks 512 xs).foldl laneAdd [])

/-- Fold the squares of a block into a running FP32 sum over the lanes (R159, R180). -/
def addSquares (old : F32) (xs : List F32) : F32 := addR old (laneFold (xs.map (fun x => mulR x x)))

/-- Merge of two statistics records by the Merge column; `a` first (Table 3-6, R197). -/
def statMerge (a b : StatRec) : StatRec :=
  { elems := satAdd 64 a.elems b.elems, blocks := satAdd 64 a.blocks b.blocks,
    brimElems := satAdd 32 a.brimElems b.brimElems, sunkElems := satAdd 32 a.sunkElems b.sunkElems,
    brimBlocks := satAdd 32 a.brimBlocks b.brimBlocks, sunkBlocks := satAdd 32 a.sunkBlocks b.sunkBlocks,
    flatCh := satAdd 32 a.flatCh b.flatCh, nonfinite := satAdd 32 a.nonfinite b.nonfinite,
    sedgeOvf := satAdd 32 a.sedgeOvf b.sedgeOvf, lostlow := satAdd 32 a.lostlow b.lostlow,
    err2 := addR a.err2 b.err2, in2 := addR a.in2 b.in2, pmax := maxF a.pmax b.pmax }

def statZero : StatRec := ⟨0, 0, 0, 0, 0, 0, 0, 0, 0, 0, 0, 0, 0⟩

/-- The record that a convert's counts make, its sums folded over the lanes. -/
def Tally.record (t : Tally) : StatRec :=
  { elems := t.elems, blocks := t.blocks, brimElems := t.brimE, sunkElems := t.sunkE, brimBlocks := t.brimB,
    sunkBlocks := t.sunkB, flatCh := t.flat, nonfinite := t.nonfin, sedgeOvf := t.sedgeOvf, lostlow := 0,
    err2 := laneFold t.err, in2 := laneFold t.inp, pmax := t.pmax }

/-- The 64 B of a record. -/
def statWord (r : StatRec) : BitVec 512 :=
  let x : BitVec 512 := 0
  let x := setFld x 63 0 r.elems
  let x := setFld x 127 64 r.blocks
  let x := setFld x 159 128 r.brimElems
  let x := setFld x 191 160 r.sunkElems
  let x := setFld x 223 192 r.brimBlocks
  let x := setFld x 255 224 r.sunkBlocks
  let x := setFld x 287 256 r.flatCh
  let x := setFld x 319 288 r.nonfinite
  let x := setFld x 351 320 r.sedgeOvf
  let x := setFld x 383 352 r.lostlow
  let x := setFld x 415 384 r.err2.toNat
  let x := setFld x 447 416 r.in2.toNat
  setFld x 479 448 r.pmax.toNat

/-- The record that 64 B hold. -/
def statOfWord (x : BitVec 512) : StatRec :=
  { elems := fld x 63 0, blocks := fld x 127 64, brimElems := fld x 159 128, sunkElems := fld x 191 160,
    brimBlocks := fld x 223 192, sunkBlocks := fld x 255 224, flatCh := fld x 287 256, nonfinite := fld x 319 288,
    sedgeOvf := fld x 351 320, lostlow := fld x 383 352, err2 := BitVec.ofNat 32 (fld x 415 384),
    in2 := BitVec.ofNat 32 (fld x 447 416), pmax := BitVec.ofNat 32 (fld x 479 448) }

/-! ## Element and block storage (R26, R61) -/

/-- Pack element codes of w bits, in element order. -/
def packCodes (w : Nat) (codes : List Nat) : List Byte :=
  if w = 4 then (chunks 2 codes).map (fun c => BitVec.ofNat 8 (c.headD 0 % 16 + (c.drop 1).headD 0 % 16 * 16))
  else codes.flatMap (fun c => leBytes (w / 8) c)

/-- Put the nibble of one block shift into a byte of a shift line. -/
def putNibble (b : Byte) (k v : Nat) : Byte := if k % 2 = 0 then setFld b 3 0 v else setFld b 7 4 v

end Sys2Proof.Machine
end

