-- ==== Sys2Proof/Machine/Channels.lean ====
section
/-!
DEFINITION. The die-to-die connections (R7 to R10, R251, R252, Table 1-2): which dies are joined, by how many channels, the
route between two compute dies, and the numbers of channel directions.
-/
namespace Sys2Proof.Machine

/-! Logic dies by number: C0 to C7 are 0 to 7, L0 to L11 are 8 to 19, H0 and H1 are 20 and 21, the Hjelper die is 22
(assumption 109). -/

/-- Number of link die Lk, of host die Hh, and of the Hjelper die. -/
def dieOfLink (k : Nat) : Nat := 8 + k
def dieOfHost (h : Nat) : Nat := 20 + h
def dieOfHjelper : Nat := 22
/-- A die is Lk for some k. -/
def isLinkDie (d : Nat) : Bool := decide (8 ≤ d) && decide (d < 20)

/-- Channels per direction from a compute die to die b (Table 1-2): 16 to a row or column neighbour or the host die of its row
end, 5 to a link die of its column, 1 to the Hjelper die. -/
def computeChannels (a b : Nat) : Nat :=
  if b < 8 then
    (if a % 4 = b % 4 && a != b || a / 4 = b / 4 && (a + 1 == b || b + 1 == a) then 16 else 0)
  else if isLinkDie b then (if (b - 8) % 4 = a % 4 then 5 else 0)
  else if b = dieOfHost 0 then (if a % 4 = 0 then 16 else 0)
  else if b = dieOfHost 1 then (if a % 4 = 3 then 16 else 0)
  else if b = dieOfHjelper then 1
  else 0

/-- Channels per direction between two link dies, neighbours of the mesh of three rows and four columns (R251). -/
def meshChannels (i k : Nat) : Nat :=
  if i % 4 = k % 4 && (i + 4 == k || k + 4 == i) || i / 4 = k / 4 && (i + 1 == k || k + 1 == i) then 8 else 0

/-- Channels from die a to die b. -/
def dieChannels (a b : Nat) : Nat :=
  if a < 8 then computeChannels a b
  else if b < 8 then computeChannels b a
  else if isLinkDie a && isLinkDie b then meshChannels (a - 8) (b - 8)
  else 0

/-- Number of the direction from die a to die b of a channel of their connection (assumption 109). -/
def chanIndex (a b ch : Nat) : Nat := (a * 32 + b) * 16 + ch
/-- The dies and the channel of a direction's number. -/
def chanFrom (n : Nat) : Nat := n / 512
def chanTo (n : Nat) : Nat := n / 16 % 32
/-- A direction of a channel that the package has. -/
def chanExists (n : Nat) : Bool := decide (n % 16 < dieChannels (chanFrom n) (chanTo n))

/-- The dies that the route from compute die a to compute die b passes after a (R10): along the row to b's column, then across
to the other row. -/
def dieRoute (a b : Nat) : List Nat :=
  let cols := (List.range (b % 4 - a % 4)).map (fun i => a + i + 1) ++ (List.range (a % 4 - b % 4)).map (fun i => a - i - 1)
  cols ++ (if a / 4 = b / 4 then [] else [b])

/-- The connections of that route, each from one die to the next. -/
def dieHops (a b : Nat) : List (Nat × Nat) := (a :: dieRoute a b).zip (dieRoute a b)

/-- Permanent owner of a channel direction (R251, R252), as an owner code of Table 9-2: the sending link die of a mesh
channel, the link die of channel 0 between a link die and a compute die. -/
def chanFixed (n : Nat) : Option Nat :=
  let a := chanFrom n
  let b := chanTo n
  if !chanExists n then none
  else if isLinkDie a && isLinkDie b then some (0xA0 + (a - 8))
  else if n % 16 ≠ 0 then none
  else if isLinkDie a && decide (b < 8) then some (0xA0 + (a - 8))
  else if isLinkDie b && decide (a < 8) then some (0xA0 + (b - 8))
  else none

end Sys2Proof.Machine
end

