-- ==== Sys2Proof/Config.lean ====
section
/-!
DEFINITION. What an implementation fixes and what the manual leaves open: constants without a body, so that no proof
can see a value of them. Each is named in a row of the assumption log.
-/
namespace Sys2Proof.Config

/-- Cycles of Hjelper's oscillator that pass before the n-th stamp of a run (R14): time is not modelled, so they are free. -/
opaque hcount : Nat → BitVec 64
/-- One lane of a destination that an execution error leaves as an undefined mix (R190): a free value per occurrence
and lane. -/
opaque mixLane : Nat → Nat → BitVec 32
/-- One byte of a memory destination that an execution error leaves undefined (R190): free per occurrence and byte. -/
opaque mixByte : Nat → Nat → BitVec 8
/-- A value that the manual does not state, drawn freshly: free per draw. -/
opaque freeWord : Nat → BitVec 64
/-- The fused voltage-frequency table of a compute die, in millivolts (R335). -/
opaque vf : Nat → Nat → Nat
/-- Serial number of the module (R369), 16 bytes read as a number. -/
opaque serial : BitVec 128
/-- The factory MAC address (R400). -/
opaque factoryMac : BitVec 48
/-- Identity public key of the trust die (R369). -/
opaque identityKey : List (BitVec 8)
/-- Digest of the release key held in the boot ROM (R394). -/
opaque releaseDigest : List (BitVec 8)
/-- Measurement of the boot ROM, M_ROM (Table 15-9). -/
opaque mRom : List (BitVec 8)
/-- Bytes of the recovery area of the flash, written at manufacture (Table 16-1). -/
opaque recoveryArea : Nat → BitVec 8
/-- FW_VERSION of a Hjelper firmware component (Table 14-10): the manual does not say where the image holds it. -/
opaque firmwareVersion : List (BitVec 8) → BitVec 32
/-- SHA3-512 of FIPS 202, as used by R366, R373, R381, R393 to R395. -/
opaque sha3_512 : List (BitVec 8) → List (BitVec 8)
/-- KMAC256 of NIST SP 800-185: key, message, output bits, customisation (R260, R366, R382). -/
opaque kmac256 : List (BitVec 8) → List (BitVec 8) → Nat → List (BitVec 8) → List (BitVec 8)
/-- AES-256-GCM encryption: key, IV, additional data, plaintext; the ciphertext and the tag (R261, R363, R384). -/
opaque gcmSeal : List (BitVec 8) → List (BitVec 8) → List (BitVec 8) → List (BitVec 8) → List (BitVec 8) × List (BitVec 8)
/-- AES-256-GCM decryption: key, IV, additional data, ciphertext, tag; none when the tag does not match. -/
opaque gcmOpen : List (BitVec 8) → List (BitVec 8) → List (BitVec 8) → List (BitVec 8) → List (BitVec 8) →
  Option (List (BitVec 8))
/-- ML-KEM-1024 encapsulation number n against a key: shared secret and ciphertext (R366). -/
opaque kemEncaps : Nat → List (BitVec 8) → List (BitVec 8) × List (BitVec 8)
/-- ML-KEM-1024 key pair number n of the trust die: decapsulation key and encapsulation key (R381). -/
opaque kemKeyGen : Nat → List (BitVec 8) × List (BitVec 8)
/-- ML-KEM-1024 decapsulation (R382). -/
opaque kemDecaps : List (BitVec 8) → List (BitVec 8) → List (BitVec 8)
/-- ML-DSA-87 signature of the identity key over a message (R366, R381). -/
opaque dsaSign : List (BitVec 8) → List (BitVec 8)
/-- ML-DSA-87 verification: public key, message, signature (R366, R394). -/
opaque dsaVerify : List (BitVec 8) → List (BitVec 8) → List (BitVec 8) → Bool
/-- The module nonce number n of a CHALLENGE (R366). -/
opaque nonce : Nat → List (BitVec 8)
/-- Order of a sum of products in a nap refresh (R122), which the manual does not give: of a sum of n terms with m partial sums left, the
places of the two that are added next. -/
opaque napOrder : Nat → Nat → Nat × Nat
/-- The manifest that a plank without a loaded job works under: the manual gives no table bases for it (R67, R373). -/
opaque noManifest : BitVec 2048
/-- Sequence slot of the token that an element of a token-indexed tensor belongs to: tensor id and element index give
the slot (R168); the manual does not say how the module knows it. -/
opaque tokenSlot : Nat → Nat → Nat

end Sys2Proof.Config
end

