-- ==== Sys2Proof/Machine/Regs.lean ====
section
/-!
DEFINITION. The register map (Tables 18-1 to 18-11): the base of each block, the fields of each register with their bits, and
for each register word its reset value and the bits of each access code (R5, R6, R440, R441). The tables of the chapters
name the fields; the names here are theirs.
-/
namespace Sys2Proof.Machine

/-- A field of a register: the module offset of its word and its bits [hi:lo]. -/
structure RegF where
  off : Nat
  hi : Nat
  lo : Nat
deriving DecidableEq, Repr

/-- A register word: its reset value and the bits that are RW, W1C, WO and ST; the rest is RO or reserved. -/
structure RegRow where
  rst : Nat
  rw : Nat
  w1c : Nat
  wo : Nat
  st : Nat
deriving DecidableEq, Repr

def identBase : Nat := 0xF0000000000
def hjBase : Nat := 0xF0000010000
def sensorBase : Nat := 0xF0000020000
def plankBase (n : Nat) : Nat := 0xF0100000000 + n * 0x10000
def stackBase (n : Nat) : Nat := 0xF0200000000 + n * 0x10000
def linkBase (n : Nat) : Nat := 0xF0300000000 + n * 0x10000
def syncBase : Nat := 0xF0400000000
def streamBase : Nat := 0xF0500000000
def peatBase : Nat := 0xF0600000000
/-- Plank store of plank n (R228). -/
def storeBase (n : Nat) : Nat := 0x80000000000 + n * 0x1000000

/-- A register without fields of its own: the whole word at an offset. -/
def RegF.word (off : Nat) : RegF := ⟨off, 63, 0⟩

/-- Word w of share table t of pseudo-channel p of stack n (Table 9-11). -/
def shareOff (n p t w : Nat) : Nat := stackBase n + 0x4000 + p * 0x200 + t * 0x100 + w * 8
/-- Word w of the record of barrier b (Table 11-6). -/
def barOff (b w : Nat) : Nat := syncBase + 0x200000 + b * 0x40 + w * 8
/-- Entry h of tree map t (Table 11-5): the word that holds it, at bits 16 (h mod 4). -/
def treeMapOff (t h : Nat) : Nat := syncBase + 0x300000 + t * 0x400 + h / 4 * 8
/-- Entry h of the member mask of tree map t (R277). -/
def treeMaskOff (t h : Nat) : Nat := syncBase + 0x340000 + t * 0x800 + h / 2 * 8
/-- Word w of ENERGY_LAST (Table 14-10). -/
def energyLastOff (w : Nat) : Nat := hjBase + 0x100 + w * 8

namespace Reg

/-- PLANK_ID.PLANK (Table 4-10): Plank number. -/
def PLANK_ID_PLANK (n : Nat) : RegF := ⟨plankBase n + (0x0000), 7, 0⟩
/-- PLANK_ID.DIE (Table 4-10): Compute die. -/
def PLANK_ID_DIE (n : Nat) : RegF := ⟨plankBase n + (0x0000), 10, 8⟩
/-- PLANK_STATUS.STATE (Table 4-10): 0 Idle, 1 Running, 2 Suspending, 3 Suspended, 4 Faulted, 5 Masked. -/
def PLANK_STATUS_STATE (n : Nat) : RegF := ⟨plankBase n + (0x0008), 2, 0⟩
/-- PLANK_STATUS.MASKED (Table 4-10): Plank masked. -/
def PLANK_STATUS_MASKED (n : Nat) : RegF := ⟨plankBase n + (0x0008), 3, 3⟩
/-- PLANK_STATUS.ACC0_STATE (Table 4-10): 0 Free, 1 Accumulating, 2 Held, 3 Drain-pending, 4 Draining. -/
def PLANK_STATUS_ACC0_STATE (n : Nat) : RegF := ⟨plankBase n + (0x0008), 6, 4⟩
/-- PLANK_STATUS.ACC1_STATE (Table 4-10): As ACC0_STATE. -/
def PLANK_STATUS_ACC1_STATE (n : Nat) : RegF := ⟨plankBase n + (0x0008), 9, 7⟩
/-- PLANK_STATUS.SPILL_VALID (Table 4-10): Spill record valid. -/
def PLANK_STATUS_SPILL_VALID (n : Nat) : RegF := ⟨plankBase n + (0x0008), 10, 10⟩
/-- PLANK_STATUS.WAITING (Table 4-10): A descriptor waits. -/
def PLANK_STATUS_WAITING (n : Nat) : RegF := ⟨plankBase n + (0x0008), 11, 11⟩
/-- PLANK_CTL.SUSPEND (Table 4-10): Suspend under R105. -/
def PLANK_CTL_SUSPEND (n : Nat) : RegF := ⟨plankBase n + (0x0010), 0, 0⟩
/-- PLANK_CTL.FAULT_ACK (Table 4-10): Leave Faulted. -/
def PLANK_CTL_FAULT_ACK (n : Nat) : RegF := ⟨plankBase n + (0x0010), 1, 1⟩
/-- PLANK_CTL.DISCARD_SPILL (Table 4-10): Clear SPILL_VALID. -/
def PLANK_CTL_DISCARD_SPILL (n : Nat) : RegF := ⟨plankBase n + (0x0010), 2, 2⟩
/-- SPILL_BASE.BASE (Table 4-10): Spill area, 4 KiB units of the plank store. -/
def SPILL_BASE_BASE (n : Nat) : RegF := ⟨plankBase n + (0x0018), 23, 12⟩
/-- EXC_RING.BASE (Table 4-10): Exception ring, 64 B units. -/
def EXC_RING_BASE (n : Nat) : RegF := ⟨plankBase n + (0x0020), 23, 6⟩
/-- EXC_RING.SIZE (Table 4-10): Records in the ring; 0 disables it. -/
def EXC_RING_SIZE (n : Nat) : RegF := ⟨plankBase n + (0x0020), 47, 32⟩
/-- EXC_PTR.HEAD (Table 4-10): Free-running count of records written, modulo 2^16; the next record goes to entry HEAD mod SIZE (R103). -/
def EXC_PTR_HEAD (n : Nat) : RegF := ⟨plankBase n + (0x0028), 15, 0⟩
/-- EXC_PTR.TAIL (Table 4-10): Free-running count of records read, modulo 2^16; the next unread record is entry TAIL mod SIZE (R103). -/
def EXC_PTR_TAIL (n : Nat) : RegF := ⟨plankBase n + (0x0028), 31, 16⟩
/-- EXC_OVF.OVF (Table 4-10): Records dropped. -/
def EXC_OVF_OVF (n : Nat) : RegF := ⟨plankBase n + (0x0030), 31, 0⟩
/-- CHK_BUF.BASE (Table 4-10): Checksum buffer, 4 KiB units. -/
def CHK_BUF_BASE (n : Nat) : RegF := ⟨plankBase n + (0x0038), 23, 12⟩
/-- CHK_BUF.SIZE (Table 4-10): 4 KiB units; 0 excludes every accumulation from comparison. -/
def CHK_BUF_SIZE (n : Nat) : RegF := ⟨plankBase n + (0x0038), 35, 24⟩
/-- PASS_COUNT.DRAINS (Table 4-10): Drains completed. -/
def PASS_COUNT_DRAINS (n : Nat) : RegF := ⟨plankBase n + (0x0040), 63, 0⟩
/-- KBLOCK_COUNT.KBLOCKS (Table 4-10): K-blocks streamed. -/
def KBLOCK_COUNT_KBLOCKS (n : Nat) : RegF := ⟨plankBase n + (0x0048), 63, 0⟩
/-- FAULT_INFO.CODE (Table 4-10): First fault, Table 4-8. -/
def FAULT_INFO_CODE (n : Nat) : RegF := ⟨plankBase n + (0x0050), 7, 0⟩
/-- FAULT_INFO.TAG (Table 4-10): PASS_TAG at the first fault. -/
def FAULT_INFO_TAG (n : Nat) : RegF := ⟨plankBase n + (0x0050), 31, 16⟩
/-- FAULT_INFO.LATER (Table 4-10): Further faults while Faulted, saturating. -/
def FAULT_INFO_LATER (n : Nat) : RegF := ⟨plankBase n + (0x0050), 47, 32⟩
/-- FEED_CORR.COUNT (Table 4-10): Corrected feed errors. -/
def FEED_CORR_COUNT (n : Nat) : RegF := ⟨plankBase n + (0x0058), 31, 0⟩
/-- CLOCK.MHZ (Table 4-10): Current island clock [MHz]. -/
def PLANK_CLOCK_MHZ (n : Nat) : RegF := ⟨plankBase n + (0x0060), 15, 0⟩
/-- CLOCK.LDO_OFS (Table 4-10): Voltage offset in 12.5 mV steps, 0–4. -/
def PLANK_CLOCK_LDO_OFS (n : Nat) : RegF := ⟨plankBase n + (0x0060), 18, 16⟩
/-- FILL_RING.BASE (Table 6-5): Fill ring, 64 B units of the plank store. -/
def FILL_RING_BASE (n : Nat) : RegF := ⟨plankBase n + (0x0068), 23, 6⟩
/-- FILL_RING.SIZE (Table 6-5): Entries, 1–255; 0 disables the fill list. -/
def FILL_RING_SIZE (n : Nat) : RegF := ⟨plankBase n + (0x0068), 31, 24⟩
/-- FILL_PTR.HEAD (Table 6-5): Next entry written. -/
def FILL_PTR_HEAD (n : Nat) : RegF := ⟨plankBase n + (0x0070), 7, 0⟩
/-- FILL_PTR.TAIL (Table 6-5): Oldest item not completed. -/
def FILL_PTR_TAIL (n : Nat) : RegF := ⟨plankBase n + (0x0070), 15, 8⟩
/-- FILL_PTR.DONE (Table 6-5): Passes of the oldest item already issued. -/
def FILL_PTR_DONE (n : Nat) : RegF := ⟨plankBase n + (0x0070), 23, 16⟩
/-- FILL_PTR.ITEM_HELD (Table 6-5): ACC1 holds a partly run item. -/
def FILL_PTR_ITEM_HELD (n : Nat) : RegF := ⟨plankBase n + (0x0070), 24, 24⟩
/-- FILL_COUNT.PASSES (Table 6-5): Passes issued from the fill list. -/
def FILL_COUNT_PASSES (n : Nat) : RegF := ⟨plankBase n + (0x0078), 63, 0⟩
/-- ILV.BASE (Table 6-5): Interleave table, 64 B units. -/
def ILV_BASE (n : Nat) : RegF := ⟨plankBase n + (0x0080), 23, 6⟩
/-- ILV.EN (Table 6-5): Interleave table in use. -/
def ILV_EN (n : Nat) : RegF := ⟨plankBase n + (0x0080), 24, 24⟩
/-- FTAB.BASE (Table 8-13): Function-table images, 64 B units. -/
def FTAB_BASE (n : Nat) : RegF := ⟨plankBase n + (0x0088), 23, 6⟩
/-- TAB_SLOTS.SLOT0 (Table 8-13): Image in slot 0; 0 empty. -/
def TAB_SLOTS_SLOT0 (n : Nat) : RegF := ⟨plankBase n + (0x0090), 5, 0⟩
/-- TAB_SLOTS.SLOT1 (Table 8-13): Image in slot 1. -/
def TAB_SLOTS_SLOT1 (n : Nat) : RegF := ⟨plankBase n + (0x0090), 13, 8⟩
/-- TAB_SLOTS.SLOT2 (Table 8-13): Image in slot 2. -/
def TAB_SLOTS_SLOT2 (n : Nat) : RegF := ⟨plankBase n + (0x0090), 21, 16⟩
/-- TAB_SLOTS.SLOT3 (Table 8-13): Image in slot 3. -/
def TAB_SLOTS_SLOT3 (n : Nat) : RegF := ⟨plankBase n + (0x0090), 29, 24⟩
/-- CTX_BASE.BASE (Table 8-13): Context area, 4 KiB units. -/
def CTX_BASE_BASE (n : Nat) : RegF := ⟨plankBase n + (0x0098), 23, 12⟩
/-- CORE_CTL.START (Table 8-13): Start at CORE_ENTRY from Reset; no effect in any other state (R209). -/
def CORE_CTL_START (n : Nat) : RegF := ⟨plankBase n + (0x00A0), 0, 0⟩
/-- CORE_CTL.RESET (Table 8-13): Reset the core under R209. -/
def CORE_CTL_RESET (n : Nat) : RegF := ⟨plankBase n + (0x00A0), 1, 1⟩
/-- CORE_CTL.DISCARD_CTX (Table 8-13): Clear CTX_VALID. -/
def CORE_CTL_DISCARD_CTX (n : Nat) : RegF := ⟨plankBase n + (0x00A0), 2, 2⟩
/-- CORE_STATUS.STATE (Table 8-13): 0 Reset, 1 Running, 2 Waiting, 3 Quiesced, 4 Trapped. -/
def CORE_STATUS_STATE (n : Nat) : RegF := ⟨plankBase n + (0x00A8), 2, 0⟩
/-- CORE_STATUS.SUSP_PEND (Table 8-13): Suspend pending. -/
def CORE_STATUS_SUSP_PEND (n : Nat) : RegF := ⟨plankBase n + (0x00A8), 3, 3⟩
/-- CORE_STATUS.CTX_VALID (Table 8-13): Context record valid. -/
def CORE_STATUS_CTX_VALID (n : Nat) : RegF := ⟨plankBase n + (0x00A8), 4, 4⟩
/-- CORE_PC.PC (Table 8-13): Current pc. -/
def CORE_PC_PC (n : Nat) : RegF := ⟨plankBase n + (0x00B0), 63, 0⟩
/-- TRAP_INFO.CAUSE (Table 8-13): Trap cause, Table 8-11. -/
def TRAP_INFO_CAUSE (n : Nat) : RegF := ⟨plankBase n + (0x00B8), 7, 0⟩
/-- TRAP_INFO.SUB (Table 8-13): Sub-code. -/
def TRAP_INFO_SUB (n : Nat) : RegF := ⟨plankBase n + (0x00B8), 15, 8⟩
/-- TRAP_INFO.INSN (Table 8-13): Trapping instruction, or bits [31:0] of the vector word. -/
def TRAP_INFO_INSN (n : Nat) : RegF := ⟨plankBase n + (0x00B8), 63, 32⟩
/-- VEC_STATUS.PORT_BUSY (Table 8-13): Bit per port with work. -/
def VEC_STATUS_PORT_BUSY (n : Nat) : RegF := ⟨plankBase n + (0x00C0), 3, 0⟩
/-- VEC_STATUS.STREAM_Q (Table 8-13): Stream instructions queued, 0–8. -/
def VEC_STATUS_STREAM_Q (n : Nat) : RegF := ⟨plankBase n + (0x00C0), 7, 4⟩
/-- VEC_STATUS.INVALID (Table 8-13): Invalid flag raised under R185. -/
def VEC_STATUS_INVALID (n : Nat) : RegF := ⟨plankBase n + (0x00C0), 8, 8⟩
/-- VEC_CYCLES.CYCLES (Table 8-13): Lane cycles executed. -/
def VEC_CYCLES_CYCLES (n : Nat) : RegF := ⟨plankBase n + (0x00C8), 63, 0⟩
/-- XI.XI (Table 8-13): Index register. -/
def XI_XI (n : Nat) : RegF := ⟨plankBase n + (0x00D0), 63, 0⟩
/-- CORE_ENTRY.ENTRY (Table 8-13): Start address. -/
def CORE_ENTRY_ENTRY (n : Nat) : RegF := ⟨plankBase n + (0x00D8), 63, 0⟩
/-- PS_MAP.SPAN (Table 9-12): Two bits per quad, quad q in [2q + 1:2q], Table 9-5. -/
def PS_MAP_SPAN (n : Nat) : RegF := ⟨plankBase n + (0x00E0), 15, 0⟩
/-- BANK_OWN_LO.OWN (Table 9-12): Owners of banks 0–15, bank b in [4b + 3:4b], Table 9-6. -/
def BANK_OWN_LO_OWN (n : Nat) : RegF := ⟨plankBase n + (0x00E8), 63, 0⟩
/-- BANK_OWN_HI.OWN (Table 9-12): Owners of banks 16–31. -/
def BANK_OWN_HI_OWN (n : Nat) : RegF := ⟨plankBase n + (0x00F0), 63, 0⟩
/-- BANK_NEXT_LO.NEXT (Table 9-12): Next owners of banks 0–15. -/
def BANK_NEXT_LO_NEXT (n : Nat) : RegF := ⟨plankBase n + (0x00F8), 63, 0⟩
/-- BANK_NEXT_HI.NEXT (Table 9-12): Next owners of banks 16–31. -/
def BANK_NEXT_HI_NEXT (n : Nat) : RegF := ⟨plankBase n + (0x0100), 63, 0⟩
/-- BANK_SWITCH.OBJ (Table 9-12): Gating object. -/
def BANK_SWITCH_OBJ (n : Nat) : RegF := ⟨plankBase n + (0x0108), 14, 0⟩
/-- BANK_SWITCH.TARGET (Table 9-12): Target value. -/
def BANK_SWITCH_TARGET (n : Nat) : RegF := ⟨plankBase n + (0x0108), 47, 16⟩
/-- BANK_SWITCH.ARM (Table 9-12): Arm the switch. -/
def BANK_SWITCH_ARM (n : Nat) : RegF := ⟨plankBase n + (0x0108), 48, 48⟩
/-- BANK_SWITCH.ARMED (Table 9-12): Switch armed. -/
def BANK_SWITCH_ARMED (n : Nat) : RegF := ⟨plankBase n + (0x0108), 49, 49⟩
/-- PS_ECC.CORR (Table 9-12): Corrected words. -/
def PS_ECC_CORR (n : Nat) : RegF := ⟨plankBase n + (0x0110), 31, 0⟩
/-- PS_ECC.UNCORR (Table 9-12): Uncorrectable or poisoned words read. -/
def PS_ECC_UNCORR (n : Nat) : RegF := ⟨plankBase n + (0x0110), 63, 32⟩
/-- WAIT_WDOG.LIMIT (Table 11-12): Wait limit, plank cycles; 0 disables. -/
def WAIT_WDOG_LIMIT (n : Nat) : RegF := ⟨plankBase n + (0x0118), 47, 0⟩
/-- WAIT_STATE.OBJ (Table 11-12): Object now waited on. -/
def WAIT_STATE_OBJ (n : Nat) : RegF := ⟨plankBase n + (0x0120), 14, 0⟩
/-- WAIT_STATE.WAITING (Table 11-12): A wait holds. -/
def WAIT_STATE_WAITING (n : Nat) : RegF := ⟨plankBase n + (0x0120), 15, 15⟩
/-- WAIT_STATE.TARGET (Table 11-12): Its target. -/
def WAIT_STATE_TARGET (n : Nat) : RegF := ⟨plankBase n + (0x0120), 47, 16⟩
/-- WAIT_STATE.REPORTS (Table 11-12): Stall reports of this wait, saturating. -/
def WAIT_STATE_REPORTS (n : Nat) : RegF := ⟨plankBase n + (0x0120), 63, 48⟩
/-- SAMPLE_CTL.RATE_LOG2 (Table 13-9): Sampling 1 in 2^RATE_LOG2; a write outside 4–10 leaves the field unchanged. -/
def SAMPLE_CTL_RATE_LOG2 (n : Nat) : RegF := ⟨plankBase n + (0x0128), 3, 0⟩
/-- SAMPLE_CTL.EN (Table 13-9): Sampling under R304; CHK 1 is sampled regardless. -/
def SAMPLE_CTL_EN (n : Nat) : RegF := ⟨plankBase n + (0x0128), 4, 4⟩
/-- SAMPLE_COUNT.SAMPLED (Table 13-9): Accumulations sampled, saturating. -/
def SAMPLE_COUNT_SAMPLED (n : Nat) : RegF := ⟨plankBase n + (0x0130), 31, 0⟩
/-- SAMPLE_COUNT.COMPARED (Table 13-9): Accumulations compared, saturating. -/
def SAMPLE_COUNT_COMPARED (n : Nat) : RegF := ⟨plankBase n + (0x0130), 63, 32⟩
/-- CHK_COUNT.MISMATCH (Table 13-9): Accumulations with a mismatch. -/
def CHK_COUNT_MISMATCH (n : Nat) : RegF := ⟨plankBase n + (0x0138), 31, 0⟩
/-- CHK_COUNT.EXCLUDED (Table 13-9): Sampled accumulations excluded under R102. -/
def CHK_COUNT_EXCLUDED (n : Nat) : RegF := ⟨plankBase n + (0x0138), 63, 32⟩
/-- INTEG_STATE.LEVEL (Table 13-9): Table 13-4. -/
def INTEG_STATE_LEVEL (n : Nat) : RegF := ⟨plankBase n + (0x0140), 3, 0⟩
/-- INTEG_STATE.CLASS (Table 13-9): R323. -/
def INTEG_STATE_CLASS (n : Nat) : RegF := ⟨plankBase n + (0x0140), 5, 4⟩
/-- INTEG_STATE.STEP_MASKED (Table 13-9): Step-masked under R319. -/
def INTEG_STATE_STEP_MASKED (n : Nat) : RegF := ⟨plankBase n + (0x0140), 6, 6⟩
/-- INTEG_STATE.CHARGES (Table 13-9): Charges, saturating. -/
def INTEG_STATE_CHARGES (n : Nat) : RegF := ⟨plankBase n + (0x0140), 15, 8⟩
/-- INTEG_STATE.LAST_TICK (Table 13-9): STEP_TICK of the last charge. -/
def INTEG_STATE_LAST_TICK (n : Nat) : RegF := ⟨plankBase n + (0x0140), 63, 16⟩
/-- INTEG_CTL.RESTORE (Table 13-9): R317. -/
def INTEG_CTL_RESTORE (n : Nat) : RegF := ⟨plankBase n + (0x0148), 0, 0⟩
/-- INTEG_CTL.UNMASK (Table 13-9): R317. -/
def INTEG_CTL_UNMASK (n : Nat) : RegF := ⟨plankBase n + (0x0148), 1, 1⟩
/-- CLOCK_CEIL.MHZ (Table 13-9): Clock ceiling [MHz]. -/
def CLOCK_CEIL_MHZ (n : Nat) : RegF := ⟨plankBase n + (0x0150), 15, 0⟩
/-- SOUND_WIN.ARM (Table 13-9): Arm slices. -/
def SOUND_WIN_ARM (n : Nat) : RegF := ⟨plankBase n + (0x0158), 7, 0⟩
/-- SOUND_WIN.REMAIN (Table 13-9): Armed slices not yet run. -/
def SOUND_WIN_REMAIN (n : Nat) : RegF := ⟨plankBase n + (0x0158), 15, 8⟩
/-- SOUND_STATUS.NEXT (Table 13-9): Next slice. -/
def SOUND_STATUS_NEXT (n : Nat) : RegF := ⟨plankBase n + (0x0160), 5, 0⟩
/-- SOUND_STATUS.RUNNING (Table 13-9): A slice runs. -/
def SOUND_STATUS_RUNNING (n : Nat) : RegF := ⟨plankBase n + (0x0160), 6, 6⟩
/-- SOUND_STATUS.RETRY (Table 13-9): Failed slice awaiting retry. -/
def SOUND_STATUS_RETRY (n : Nat) : RegF := ⟨plankBase n + (0x0160), 7, 7⟩
/-- SOUND_STATUS.FAILS (Table 13-9): Slice failures, saturating. -/
def SOUND_STATUS_FAILS (n : Nat) : RegF := ⟨plankBase n + (0x0160), 15, 8⟩
/-- SOUND_STATUS.LAST_START (Table 13-9): Bits [47:0] of the Hjelper-local count at the start of the last complete sounding. -/
def SOUND_STATUS_LAST_START (n : Nat) : RegF := ⟨plankBase n + (0x0160), 63, 16⟩
/-- STACK_ID.STACK (Table 9-11): Stack number. -/
def STACK_ID_STACK (n : Nat) : RegF := ⟨stackBase n + (0x0000), 3, 0⟩
/-- STACK_ID.HOME_DIE (Table 9-11): Home compute die. -/
def STACK_ID_HOME_DIE (n : Nat) : RegF := ⟨stackBase n + (0x0000), 6, 4⟩
/-- STACK_STATUS.STATE (Table 9-11): 0 untrained, 1 training, 2 in service, 3 failed. -/
def STACK_STATUS_STATE (n : Nat) : RegF := ⟨stackBase n + (0x0008), 1, 0⟩
/-- STACK_STATUS.HEAT (Table 9-11): Table 9-8. -/
def STACK_STATUS_HEAT (n : Nat) : RegF := ⟨stackBase n + (0x0008), 5, 4⟩
/-- TEMP.TEMP (Table 9-11): Temperature, 1/16 °C, two's complement. -/
def STACK_TEMP_TEMP (n : Nat) : RegF := ⟨stackBase n + (0x0010), 15, 0⟩
/-- TEMP.PEAK (Table 9-11): Highest temperature since power-on, 1/16 °C. -/
def STACK_TEMP_PEAK (n : Nat) : RegF := ⟨stackBase n + (0x0010), 31, 16⟩
/-- HEAT_COUNT.THROTTLES (Table 9-11): Entries into HEAT 2, saturating. -/
def HEAT_COUNT_THROTTLES (n : Nat) : RegF := ⟨stackBase n + (0x0018), 15, 0⟩
/-- HEAT_COUNT.SUSPENDS (Table 9-11): Entries into HEAT 3, saturating. -/
def HEAT_COUNT_SUSPENDS (n : Nat) : RegF := ⟨stackBase n + (0x0018), 31, 16⟩
/-- ECC_CORR.COUNT (Table 9-11): Corrected sectors. -/
def ECC_CORR_COUNT (n : Nat) : RegF := ⟨stackBase n + (0x0020), 31, 0⟩
/-- ECC_UNCORR.COUNT (Table 9-11): Uncorrectable or poisoned sectors. -/
def ECC_UNCORR_COUNT (n : Nat) : RegF := ⟨stackBase n + (0x0028), 31, 0⟩
/-- ECC_LAST.ADDR (Table 9-11): Stack offset of the last uncorrectable sector. -/
def ECC_LAST_ADDR (n : Nat) : RegF := ⟨stackBase n + (0x0030), 35, 0⟩
/-- SCRUB.EN (Table 9-11): Scrubbing under R221. -/
def SCRUB_EN (n : Nat) : RegF := ⟨stackBase n + (0x0038), 0, 0⟩
/-- CAL_CTL.RETRAIN (Table 9-11): Retrain all pseudo-channels. -/
def CAL_CTL_RETRAIN (n : Nat) : RegF := ⟨stackBase n + (0x0040), 0, 0⟩
/-- CAL_CTL.CAL_PERIOD (Table 9-11): Retrain interval [ms]; 0 disables periodic retraining. -/
def CAL_CTL_CAL_PERIOD (n : Nat) : RegF := ⟨stackBase n + (0x0040), 31, 16⟩
/-- PC_STATUS.ACTIVE (Table 9-11): Active share table. -/
def PC_STATUS_ACTIVE (n : Nat) (p : Nat) : RegF := ⟨stackBase n + (0x1000 + p * 0x20), 0, 0⟩
/-- PC_STATUS.ARMED (Table 9-11): Switch armed. -/
def PC_STATUS_ARMED (n : Nat) (p : Nat) : RegF := ⟨stackBase n + (0x1000 + p * 0x20), 1, 1⟩
/-- PC_STATUS.CAL_BUSY (Table 9-11): Retraining or margining in progress. -/
def PC_STATUS_CAL_BUSY (n : Nat) (p : Nat) : RegF := ⟨stackBase n + (0x1000 + p * 0x20), 2, 2⟩
/-- PC_STATUS.MARGIN_LOW (Table 9-11): Eye below 16 steps under R223. -/
def PC_STATUS_MARGIN_LOW (n : Nat) (p : Nat) : RegF := ⟨stackBase n + (0x1000 + p * 0x20), 3, 3⟩
/-- PC_SWITCH.OBJ (Table 9-11): Gating object. -/
def PC_SWITCH_OBJ (n : Nat) (p : Nat) : RegF := ⟨stackBase n + (0x1008 + p * 0x20), 14, 0⟩
/-- PC_SWITCH.TARGET (Table 9-11): Target value. -/
def PC_SWITCH_TARGET (n : Nat) (p : Nat) : RegF := ⟨stackBase n + (0x1008 + p * 0x20), 47, 16⟩
/-- PC_SWITCH.ARM (Table 9-11): Arm the switch. -/
def PC_SWITCH_ARM (n : Nat) (p : Nat) : RegF := ⟨stackBase n + (0x1008 + p * 0x20), 48, 48⟩
/-- PC_TRAIN.DQ_CENTRE (Table 9-11): DQ delay, steps, two's complement. -/
def PC_TRAIN_DQ_CENTRE (n : Nat) (p : Nat) : RegF := ⟨stackBase n + (0x1010 + p * 0x20), 6, 0⟩
/-- PC_TRAIN.EYE (Table 9-11): Last eye width, steps. -/
def PC_TRAIN_EYE (n : Nat) (p : Nat) : RegF := ⟨stackBase n + (0x1010 + p * 0x20), 14, 8⟩
/-- PC_TRAIN.VREF_CENTRE (Table 9-11): VREF offset, 0.5 % steps, two's complement. -/
def PC_TRAIN_VREF_CENTRE (n : Nat) (p : Nat) : RegF := ⟨stackBase n + (0x1010 + p * 0x20), 22, 16⟩
/-- PC_CORR.COUNT (Table 9-11): Corrected sectors of the pseudo-channel. -/
def PC_CORR_COUNT (n : Nat) (p : Nat) : RegF := ⟨stackBase n + (0x1018 + p * 0x20), 31, 0⟩
/-- LINKDIE_ID.DIE (Table 10-13): Link die. -/
def LINKDIE_ID_DIE (n : Nat) : RegF := ⟨linkBase n + (0x0000), 3, 0⟩
/-- LINKDIE_ID.CHIP (Table 10-13): Chip number of the module. -/
def LINKDIE_ID_CHIP (n : Nat) : RegF := ⟨linkBase n + (0x0000), 29, 16⟩
/-- FAB_STATUS.MODE (Table 10-13): 0 normal, 1 draining, 2 drained, 3 loading. -/
def FAB_STATUS_MODE (n : Nat) : RegF := ⟨linkBase n + (0x0008), 1, 0⟩
/-- FAB_STATUS.ECHOES (Table 10-13): All echoes returned. -/
def FAB_STATUS_ECHOES (n : Nat) : RegF := ⟨linkBase n + (0x0008), 2, 2⟩
/-- FAB_STATUS.EMPTY (Table 10-13): Router holds no flit. -/
def FAB_STATUS_EMPTY (n : Nat) : RegF := ⟨linkBase n + (0x0008), 3, 3⟩
/-- FAB_STATUS.TABLE_VER (Table 10-13): VERSION of the image. -/
def FAB_STATUS_TABLE_VER (n : Nat) : RegF := ⟨linkBase n + (0x0008), 63, 32⟩
/-- ROUTER_CFG.CW_THRESH (Table 10-13): Causeway threshold, router cycles. -/
def ROUTER_CFG_CW_THRESH (n : Nat) : RegF := ⟨linkBase n + (0x0010), 15, 0⟩
/-- ROUTER_DROP.NOROUTE (Table 10-13): Dropped, no route. -/
def ROUTER_DROP_NOROUTE (n : Nat) : RegF := ⟨linkBase n + (0x0018), 15, 0⟩
/-- ROUTER_DROP.HOPDROP (Table 10-13): Dropped at HOPS 3. -/
def ROUTER_DROP_HOPDROP (n : Nat) : RegF := ⟨linkBase n + (0x0018), 31, 16⟩
/-- ROUTER_DROP.LOST (Table 10-13): Truncated under R244. -/
def ROUTER_DROP_LOST (n : Nat) : RegF := ⟨linkBase n + (0x0018), 47, 32⟩
/-- ROUTER_DROP.BADPKT (Table 10-13): Reserved TYPE. -/
def ROUTER_DROP_BADPKT (n : Nat) : RegF := ⟨linkBase n + (0x0018), 63, 48⟩
/-- CW_COUNT.COUNT (Table 10-13): Packets moved onto the causeway. -/
def CW_COUNT_COUNT (n : Nat) : RegF := ⟨linkBase n + (0x0020), 31, 0⟩
/-- SEAL_KEYS.SLOT0 (Table 10-13): Contexts holding a key in slot 0. -/
def SEAL_KEYS_SLOT0 (n : Nat) : RegF := ⟨linkBase n + (0x0028), 15, 0⟩
/-- SEAL_KEYS.SLOT1 (Table 10-13): Contexts holding a key in slot 1. -/
def SEAL_KEYS_SLOT1 (n : Nat) : RegF := ⟨linkBase n + (0x0028), 31, 16⟩
/-- SEAL_FAIL.COUNT (Table 10-13): Tag mismatches. -/
def SEAL_FAIL_COUNT (n : Nat) : RegF := ⟨linkBase n + (0x0030), 31, 0⟩
/-- SEAL_NOKEY.COUNT (Table 10-13): Sealed packets without a key. -/
def SEAL_NOKEY_COUNT (n : Nat) : RegF := ⟨linkBase n + (0x0038), 31, 0⟩
/-- XFER_OUT.COUNT (Table 10-13): Transfers outstanding, 0–4,096. -/
def XFER_OUT_COUNT (n : Nat) : RegF := ⟨linkBase n + (0x0040), 12, 0⟩
/-- CLOCK.MHZ (Table 10-13): Router clock [MHz]. -/
def LINKDIE_CLOCK_MHZ (n : Nat) : RegF := ⟨linkBase n + (0x0048), 15, 0⟩
/-- LINK_STATUS.STATE (Table 10-13): Table 10-2. -/
def LINK_STATUS_STATE (n : Nat) (j : Nat) : RegF := ⟨linkBase n + (0x1000 + j * 0x100), 2, 0⟩
/-- LINK_STATUS.MISWIRED (Table 10-13): Identity mismatch. -/
def LINK_STATUS_MISWIRED (n : Nat) (j : Nat) : RegF := ⟨linkBase n + (0x1000 + j * 0x100), 3, 3⟩
/-- LINK_STATUS.PEER_CHIP (Table 10-13): Chip number received in Identify. -/
def LINK_STATUS_PEER_CHIP (n : Nat) (j : Nat) : RegF := ⟨linkBase n + (0x1000 + j * 0x100), 17, 4⟩
/-- LINK_STATUS.PEER_LINK (Table 10-13): Link number received in Identify. -/
def LINK_STATUS_PEER_LINK (n : Nat) (j : Nat) : RegF := ⟨linkBase n + (0x1000 + j * 0x100), 23, 18⟩
/-- LINK_STATUS.PORT (Table 10-13): Logical port. -/
def LINK_STATUS_PORT (n : Nat) (j : Nat) : RegF := ⟨linkBase n + (0x1000 + j * 0x100), 29, 24⟩
/-- LINK_CTL.DISABLE (Table 10-13): Disable the link. -/
def LINK_CTL_DISABLE (n : Nat) (j : Nat) : RegF := ⟨linkBase n + (0x1008 + j * 0x100), 0, 0⟩
/-- LINK_CTL.RETRAIN (Table 10-13): Retrain. -/
def LINK_CTL_RETRAIN (n : Nat) (j : Nat) : RegF := ⟨linkBase n + (0x1008 + j * 0x100), 1, 1⟩
/-- LINK_CTL.TEST (Table 10-13): Enter Test from Down. -/
def LINK_CTL_TEST (n : Nat) (j : Nat) : RegF := ⟨linkBase n + (0x1008 + j * 0x100), 2, 2⟩
/-- LINK_FEC.CORR (Table 10-13): Corrected codewords. -/
def LINK_FEC_CORR (n : Nat) (j : Nat) : RegF := ⟨linkBase n + (0x1010 + j * 0x100), 31, 0⟩
/-- LINK_FEC.UNCORR (Table 10-13): Uncorrectable codewords. -/
def LINK_FEC_UNCORR (n : Nat) (j : Nat) : RegF := ⟨linkBase n + (0x1010 + j * 0x100), 63, 32⟩
/-- LINK_RETRY.FRAMES (Table 10-13): Frames retransmitted. -/
def LINK_RETRY_FRAMES (n : Nat) (j : Nat) : RegF := ⟨linkBase n + (0x1018 + j * 0x100), 31, 0⟩
/-- LINK_RETRY.TRAINS (Table 10-13): Trainings. -/
def LINK_RETRY_TRAINS (n : Nat) (j : Nat) : RegF := ⟨linkBase n + (0x1018 + j * 0x100), 47, 32⟩
/-- LINK_RETRY.FAILS (Table 10-13): Entries into Failed. -/
def LINK_RETRY_FAILS (n : Nat) (j : Nat) : RegF := ⟨linkBase n + (0x1018 + j * 0x100), 63, 48⟩
/-- LINK_TX.FLITS (Table 10-13): Flits sent. -/
def LINK_TX_FLITS (n : Nat) (j : Nat) : RegF := ⟨linkBase n + (0x1020 + j * 0x100), 63, 0⟩
/-- LINK_RX.FLITS (Table 10-13): Flits received. -/
def LINK_RX_FLITS (n : Nat) (j : Nat) : RegF := ⟨linkBase n + (0x1028 + j * 0x100), 63, 0⟩
/-- PAT_CTL.GEN (Table 10-13): Generator pattern, Table 10-10. -/
def PAT_CTL_GEN (n : Nat) (j : Nat) (i : Nat) : RegF := ⟨linkBase n + (0x1040 + j * 0x100 + i * 0x20), 2, 0⟩
/-- PAT_CTL.CHK (Table 10-13): Checker pattern. -/
def PAT_CTL_CHK (n : Nat) (j : Nat) (i : Nat) : RegF := ⟨linkBase n + (0x1040 + j * 0x100 + i * 0x20), 6, 4⟩
/-- PAT_USER.USER (Table 10-13): User pattern. -/
def PAT_USER_USER (n : Nat) (j : Nat) (i : Nat) : RegF := ⟨linkBase n + (0x1048 + j * 0x100 + i * 0x20), 63, 0⟩
/-- PAT_ERR.ERRORS (Table 10-13): Bit errors after lock. -/
def PAT_ERR_ERRORS (n : Nat) (j : Nat) (i : Nat) : RegF := ⟨linkBase n + (0x1050 + j * 0x100 + i * 0x20), 47, 0⟩
/-- PAT_ERR.LOCK (Table 10-13): Checker locked. -/
def PAT_ERR_LOCK (n : Nat) (j : Nat) (i : Nat) : RegF := ⟨linkBase n + (0x1050 + j * 0x100 + i * 0x20), 63, 63⟩
/-- PAT_BITS.BITS (Table 10-13): Bits compared. -/
def PAT_BITS_BITS (n : Nat) (j : Nat) (i : Nat) : RegF := ⟨linkBase n + (0x1058 + j * 0x100 + i * 0x20), 63, 0⟩
/-- SYNC_STATUS.ACTIVE (Table 11-12): Objects Active. -/
def SYNC_STATUS_ACTIVE : RegF := ⟨syncBase + (0x00400000), 15, 0⟩
/-- SYNC_STATUS.SUSPENDED (Table 11-12): Objects Owner-suspended. -/
def SYNC_STATUS_SUSPENDED : RegF := ⟨syncBase + (0x00400000), 31, 16⟩
/-- SYNC_STATUS.ORPHANED (Table 11-12): Objects Orphaned. -/
def SYNC_STATUS_ORPHANED : RegF := ⟨syncBase + (0x00400000), 47, 32⟩
/-- SYNC_DROP.COUNT (Table 11-12): Signals and messages dropped. -/
def SYNC_DROP_COUNT : RegF := ⟨syncBase + (0x00400008), 31, 0⟩
/-- BAR_WDOG.LIMIT (Table 11-12): Barrier limit, link-die cycles; 0 disables. -/
def BAR_WDOG_LIMIT : RegF := ⟨syncBase + (0x00400010), 31, 0⟩
/-- STALLS.COUNT (Table 11-12): Stall reports filed. -/
def STALLS_COUNT : RegF := ⟨syncBase + (0x00400018), 31, 0⟩
/-- PEAT_STATUS.HEAD (Table 13-10): Next record written. -/
def PEAT_STATUS_HEAD : RegF := ⟨peatBase + (0x0000), 15, 0⟩
/-- PEAT_STATUS.OLDEST (Table 13-10): Oldest valid record. -/
def PEAT_STATUS_OLDEST : RegF := ⟨peatBase + (0x0000), 31, 16⟩
/-- PEAT_STATUS.WRAPPED (Table 13-10): The ring has wrapped. -/
def PEAT_STATUS_WRAPPED : RegF := ⟨peatBase + (0x0000), 32, 32⟩
/-- PEAT_SEQ.SEQ (Table 13-10): Sequence number of the last record. -/
def PEAT_SEQ_SEQ : RegF := ⟨peatBase + (0x0008), 31, 0⟩
/-- PEAT_LOST.COUNT (Table 13-10): Records not written. -/
def PEAT_LOST_COUNT : RegF := ⟨peatBase + (0x0010), 31, 0⟩
/-- STEP_TICK.TICK (Table 13-10): Module tick count of R313, restored at bring-up. -/
def STEP_TICK_TICK : RegF := ⟨peatBase + (0x0018), 63, 0⟩
/-- ERRQ_STATUS.OPEN (Table 13-10): Open queue entries, 0–256. -/
def ERRQ_STATUS_OPEN : RegF := ⟨peatBase + (0x0020), 8, 0⟩
/-- ERRQ_STATUS.OVERFLOW (Table 13-10): Errors not queued. -/
def ERRQ_STATUS_OVERFLOW : RegF := ⟨peatBase + (0x0020), 31, 16⟩
/-- SOUND_PERIOD.PERIOD (Table 13-10): Sounding period, Hjelper-local counts. -/
def SOUND_PERIOD_PERIOD : RegF := ⟨peatBase + (0x0028), 63, 0⟩
/-- HJ_VERSION.FW_VERSION (Table 14-10): Firmware version of the active bank. -/
def HJ_VERSION_FW_VERSION : RegF := ⟨hjBase + (0x0000), 31, 0⟩
/-- HJ_VERSION.BANK (Table 14-10): 0 bank A, 1 bank B. -/
def HJ_VERSION_BANK : RegF := ⟨hjBase + (0x0000), 32, 32⟩
/-- HJ_STATUS.STATE (Table 14-10): 0 starting, 1 running, 2 activating. -/
def HJ_STATUS_STATE : RegF := ⟨hjBase + (0x0008), 1, 0⟩
/-- HJ_STATUS.WDOG_RESETS (Table 14-10): Watchdog resets, saturating. -/
def HJ_STATUS_WDOG_RESETS : RegF := ⟨hjBase + (0x0008), 23, 8⟩
/-- HJ_STATUS.ACTIVATIONS (Table 14-10): Activations, saturating. -/
def HJ_STATUS_ACTIVATIONS : RegF := ⟨hjBase + (0x0008), 39, 24⟩
/-- HJ_STATUS.REVERTED (Table 14-10): Last activation reverted. -/
def HJ_STATUS_REVERTED : RegF := ⟨hjBase + (0x0008), 40, 40⟩
/-- POWER_CAP.CAP_W (Table 14-10): Cap [W], clamped under R338. -/
def POWER_CAP_CAP_W : RegF := ⟨hjBase + (0x0010), 15, 0⟩
/-- POWER_CAP.EN (Table 14-10): Capping enabled. -/
def POWER_CAP_EN : RegF := ⟨hjBase + (0x0010), 16, 16⟩
/-- POWER_CAP.HYST_PCT (Table 14-10): Hysteresis [%], 1–20. -/
def POWER_CAP_HYST_PCT : RegF := ⟨hjBase + (0x0010), 31, 24⟩
/-- POWER_STATUS.CAP_MHZ (Table 14-10): Cap clock [MHz]. -/
def POWER_STATUS_CAP_MHZ : RegF := ⟨hjBase + (0x0018), 15, 0⟩
/-- POWER_STATUS.CAPPING (Table 14-10): R337. -/
def POWER_STATUS_CAPPING : RegF := ⟨hjBase + (0x0018), 16, 16⟩
/-- POWER_STATUS.UNMET (Table 14-10): R338. -/
def POWER_STATUS_UNMET : RegF := ⟨hjBase + (0x0018), 17, 17⟩
/-- POWER_STATUS.BACKSTOP (Table 14-10): R339. -/
def POWER_STATUS_BACKSTOP : RegF := ⟨hjBase + (0x0018), 18, 18⟩
/-- INPUT_PWR.AVG_MW (Table 14-10): 1 ms mean input power [mW]. -/
def INPUT_PWR_AVG_MW : RegF := ⟨hjBase + (0x0020), 31, 0⟩
/-- INPUT_PWR.PEAK_MW (Table 14-10): Highest mean since power-on [mW]. -/
def INPUT_PWR_PEAK_MW : RegF := ⟨hjBase + (0x0020), 63, 32⟩
/-- IIN_LIMIT.LIMIT (Table 14-10): Backstop threshold, 10 mA units. -/
def IIN_LIMIT_LIMIT : RegF := ⟨hjBase + (0x0028), 15, 0⟩
/-- ENERGY_IN.UJ (Table 14-10): Input energy since power-on [µJ]. -/
def ENERGY_IN_UJ : RegF := ⟨hjBase + (0x0030), 63, 0⟩
/-- ENERGY_PLANK.UJ (Table 14-10): Plank islands [µJ]. -/
def ENERGY_PLANK_UJ : RegF := ⟨hjBase + (0x0038), 63, 0⟩
/-- ENERGY_HBM.UJ (Table 14-10): HBM controllers and stacks [µJ]. -/
def ENERGY_HBM_UJ : RegF := ⟨hjBase + (0x0040), 63, 0⟩
/-- ENERGY_LINK.UJ (Table 14-10): Link dies [µJ]. -/
def ENERGY_LINK_UJ : RegF := ⟨hjBase + (0x0048), 63, 0⟩
/-- ENERGY_HOST.UJ (Table 14-10): Host dies [µJ]. -/
def ENERGY_HOST_UJ : RegF := ⟨hjBase + (0x0050), 63, 0⟩
/-- ENERGY_MGMT.UJ (Table 14-10): Hjelper and trust dies [µJ]. -/
def ENERGY_MGMT_UJ : RegF := ⟨hjBase + (0x0058), 63, 0⟩
/-- BOARD_IN.LEVEL (Table 14-10): Accepted levels: [0] RESET_N, [1] HOLD_N, [2] PWR_EN, [3] THERM_TRIP_N, [4] PRESENT_N. -/
def BOARD_IN_LEVEL : RegF := ⟨hjBase + (0x0060), 4, 0⟩
/-- BOARD_IN.CHATTER (Table 14-10): Inputs chattering, same order. -/
def BOARD_IN_CHATTER : RegF := ⟨hjBase + (0x0060), 12, 8⟩
/-- BOARD_IN.CHATTER_CNT (Table 14-10): Chattering entries, saturating. -/
def BOARD_IN_CHATTER_CNT : RegF := ⟨hjBase + (0x0060), 47, 32⟩
/-- ALERT_STATUS.ALERTS (Table 14-10): [0] temperature, [1] throttle, [2] trip, [3] voltage, [4] cap unmet, [5] backstop, [6] chatter, [7] watchdog reset, [8] revert. -/
def ALERT_STATUS_ALERTS : RegF := ⟨hjBase + (0x0068), 8, 0⟩
/-- ALERT_MASK.MASK (Table 14-10): Alerts that drive ALERT_N. -/
def ALERT_MASK_MASK : RegF := ⟨hjBase + (0x0070), 8, 0⟩
/-- EVLOG_STATUS.HEAD (Table 14-10): Next record written. -/
def EVLOG_STATUS_HEAD : RegF := ⟨hjBase + (0x0078), 12, 0⟩
/-- EVLOG_STATUS.OLDEST (Table 14-10): Oldest record. -/
def EVLOG_STATUS_OLDEST : RegF := ⟨hjBase + (0x0078), 28, 16⟩
/-- EVLOG_STATUS.SEQ (Table 14-10): SEQ of the last record. -/
def EVLOG_STATUS_SEQ : RegF := ⟨hjBase + (0x0078), 63, 32⟩
/-- EVLOG_LOST.COUNT (Table 14-10): Events lost from the FIFO. -/
def EVLOG_LOST_COUNT : RegF := ⟨hjBase + (0x0080), 31, 0⟩
/-- EVT_MASK.CLASSES (Table 14-10): Classes sent as EVENT messages. -/
def EVT_MASK_CLASSES : RegF := ⟨hjBase + (0x0088), 3, 0⟩
/-- WDOG.PERIOD_MS (Table 14-10): Watchdog period [ms]. -/
def WDOG_PERIOD_MS : RegF := ⟨hjBase + (0x0090), 15, 0⟩
/-- WDOG.KICK_MS (Table 14-10): Kick interval [ms]. -/
def WDOG_KICK_MS : RegF := ⟨hjBase + (0x0090), 31, 16⟩
/-- VIN.MV (Table 14-11): Input voltage [mV]. -/
def VIN_MV : RegF := ⟨sensorBase + (0x0000), 15, 0⟩
/-- VIN.MIN (Table 14-11): Lowest since power-on [mV]. -/
def VIN_MIN : RegF := ⟨sensorBase + (0x0000), 31, 16⟩
/-- VIN.MAX (Table 14-11): Highest since power-on [mV]. -/
def VIN_MAX : RegF := ⟨sensorBase + (0x0000), 47, 32⟩
/-- IIN.CUR (Table 14-11): Input current, 10 mA units. -/
def IIN_CUR : RegF := ⟨sensorBase + (0x0008), 15, 0⟩
/-- IIN.PEAK (Table 14-11): Highest since power-on. -/
def IIN_PEAK : RegF := ⟨sensorBase + (0x0008), 31, 16⟩
/-- THR_COMPUTE.WARN (Table 14-11): [°C]. -/
def THR_COMPUTE_WARN : RegF := ⟨sensorBase + (0x0010), 7, 0⟩
/-- THR_COMPUTE.THROTTLE (Table 14-11): [°C]. -/
def THR_COMPUTE_THROTTLE : RegF := ⟨sensorBase + (0x0010), 15, 8⟩
/-- THR_COMPUTE.RELEASE (Table 14-11): [°C]. -/
def THR_COMPUTE_RELEASE : RegF := ⟨sensorBase + (0x0010), 23, 16⟩
/-- THR_COMPUTE.CRIT (Table 14-11): [°C]. -/
def THR_COMPUTE_CRIT : RegF := ⟨sensorBase + (0x0010), 31, 24⟩
/-- DIE_MHZ_LO.MHZ (Table 14-11): Thermal clocks of C0–C3, Cd in [16d + 15:16d]. -/
def DIE_MHZ_LO_MHZ : RegF := ⟨sensorBase + (0x0018), 63, 0⟩
/-- DIE_MHZ_HI.MHZ (Table 14-11): Thermal clocks of C4–C7. -/
def DIE_MHZ_HI_MHZ : RegF := ⟨sensorBase + (0x0020), 63, 0⟩
/-- TEMP.TEMP (Table 14-11): 1/16 °C, two's complement. -/
def SENSOR_TEMP_TEMP (s : Nat) : RegF := ⟨sensorBase + (0x1000 + s * 8), 15, 0⟩
/-- TEMP.PEAK (Table 14-11): Highest since power-on. -/
def SENSOR_TEMP_PEAK (s : Nat) : RegF := ⟨sensorBase + (0x1000 + s * 8), 31, 16⟩
/-- TEMP.LEVEL (Table 14-11): 0 normal, 1 warning, 2 throttle, 3 critical. -/
def SENSOR_TEMP_LEVEL (s : Nat) : RegF := ⟨sensorBase + (0x1000 + s * 8), 33, 32⟩
/-- VMON.MV (Table 14-11): Rail voltage [mV]. -/
def VMON_MV (i : Nat) : RegF := ⟨sensorBase + (0x2000 + i * 8), 15, 0⟩
/-- VMON.TARGET (Table 14-11): Target under R335 [mV]. -/
def VMON_TARGET (i : Nat) : RegF := ⟨sensorBase + (0x2000 + i * 8), 31, 16⟩
/-- VMON.MIN (Table 14-11): Lowest since power-on [mV]. -/
def VMON_MIN (i : Nat) : RegF := ⟨sensorBase + (0x2000 + i * 8), 47, 32⟩
/-- VMON.MAX (Table 14-11): Highest since power-on [mV]. -/
def VMON_MAX (i : Nat) : RegF := ⟨sensorBase + (0x2000 + i * 8), 63, 48⟩
/-- REFCLK_STATUS.REF0_OK (Table 17-9): REFCLK0 present and within 500 ppm. -/
def REFCLK_STATUS_REF0_OK : RegF := ⟨sensorBase + (0x0028), 0, 0⟩
/-- REFCLK_STATUS.REF1_OK (Table 17-9): REFCLK1 present and within 500 ppm. -/
def REFCLK_STATUS_REF1_OK : RegF := ⟨sensorBase + (0x0028), 1, 1⟩
/-- REFCLK_STATUS.REF0_LOSS (Table 17-9): Losses of REFCLK0, saturating. -/
def REFCLK_STATUS_REF0_LOSS : RegF := ⟨sensorBase + (0x0028), 15, 8⟩
/-- REFCLK_STATUS.REF1_LOSS (Table 17-9): Losses of REFCLK1, saturating. -/
def REFCLK_STATUS_REF1_LOSS : RegF := ⟨sensorBase + (0x0028), 23, 16⟩
/-- REFCLK_STATUS.REF0_PPM (Table 17-9): REFCLK0 offset from the module board's oscillator [ppm], two's complement. -/
def REFCLK_STATUS_REF0_PPM : RegF := ⟨sensorBase + (0x0028), 47, 32⟩
/-- REFCLK_STATUS.REF1_PPM (Table 17-9): REFCLK1 offset [ppm], two's complement. -/
def REFCLK_STATUS_REF1_PPM : RegF := ⟨sensorBase + (0x0028), 63, 48⟩
/-- PORT_STATUS.UP (Table 15-15): Link up. -/
def PORT_STATUS_UP (e : Nat) : RegF := ⟨identBase + (0x1000 + e * 0x40), 0, 0⟩
/-- PORT_STATUS.FEC_LOCK (Table 15-15): FEC lock. -/
def PORT_STATUS_FEC_LOCK (e : Nat) : RegF := ⟨identBase + (0x1000 + e * 0x40), 1, 1⟩
/-- PORT_STATUS.AN_DONE (Table 15-15): Auto-negotiation complete. -/
def PORT_STATUS_AN_DONE (e : Nat) : RegF := ⟨identBase + (0x1000 + e * 0x40), 2, 2⟩
/-- PORT_FEC.CORR (Table 15-15): Corrected codewords. -/
def PORT_FEC_CORR (e : Nat) : RegF := ⟨identBase + (0x1008 + e * 0x40), 31, 0⟩
/-- PORT_FEC.UNCORR (Table 15-15): Uncorrectable codewords. -/
def PORT_FEC_UNCORR (e : Nat) : RegF := ⟨identBase + (0x1008 + e * 0x40), 63, 32⟩
/-- PORT_RX.FRAMES (Table 15-15): Frames received. -/
def PORT_RX_FRAMES (e : Nat) : RegF := ⟨identBase + (0x1010 + e * 0x40), 63, 0⟩
/-- PORT_TX.FRAMES (Table 15-15): Frames sent. -/
def PORT_TX_FRAMES (e : Nat) : RegF := ⟨identBase + (0x1018 + e * 0x40), 63, 0⟩
/-- PORT_DROP.COUNT (Table 15-15): Frames dropped: bad FCS, IP fragment, unknown protocol. -/
def PORT_DROP_COUNT (e : Nat) : RegF := ⟨identBase + (0x1020 + e * 0x40), 31, 0⟩
/-- SLUICE_STATUS.SESSIONS (Table 15-15): Open sessions. -/
def SLUICE_STATUS_SESSIONS : RegF := ⟨identBase + (0x1200), 4, 0⟩
/-- SLUICE_STATUS.UDP_PORT (Table 15-15): Sluice port. -/
def SLUICE_STATUS_UDP_PORT : RegF := ⟨identBase + (0x1200), 31, 16⟩
/-- SLUICE_STATUS.FRAG_MAX (Table 15-15): Fragment payload limit [B]. -/
def SLUICE_STATUS_FRAG_MAX : RegF := ⟨identBase + (0x1200), 47, 32⟩
/-- SLUICE_REJECT.COUNT (Table 15-15): Fragments dropped under R363. -/
def SLUICE_REJECT_COUNT : RegF := ⟨identBase + (0x1208), 31, 0⟩
/-- EVENT_LOST.COUNT (Table 15-15): EVENT messages abandoned. -/
def EVENT_LOST_COUNT : RegF := ⟨identBase + (0x1210), 31, 0⟩
/-- ROCE_STATUS.CONNECTED (Table 15-15): Connected QPs. -/
def ROCE_STATUS_CONNECTED : RegF := ⟨identBase + (0x1218), 12, 0⟩
/-- ROCE_STATUS.ERRORED (Table 15-15): QPs in the error state. -/
def ROCE_STATUS_ERRORED : RegF := ⟨identBase + (0x1218), 28, 16⟩
/-- ROCE_CNP.SENT (Table 15-15): CNPs sent. -/
def ROCE_CNP_SENT : RegF := ⟨identBase + (0x1220), 31, 0⟩
/-- ROCE_CNP.RECEIVED (Table 15-15): CNPs received. -/
def ROCE_CNP_RECEIVED : RegF := ⟨identBase + (0x1220), 63, 32⟩
/-- INGEST_FAIL.COUNT (Table 15-15): Ingest tag mismatches. -/
def INGEST_FAIL_COUNT : RegF := ⟨identBase + (0x1228), 31, 0⟩
/-- INGEST_DUP.COUNT (Table 15-15): Records dropped as already seen. -/
def INGEST_DUP_COUNT : RegF := ⟨identBase + (0x1230), 31, 0⟩
/-- MODULE_STATE.STATE (Table 16-12): Table 16-6. -/
def MODULE_STATE_STATE : RegF := ⟨identBase + (0x0000), 3, 0⟩
/-- MODULE_STATE.SERVICE (Table 16-12): 0 none, 1 shallows service, 2 full service. -/
def MODULE_STATE_SERVICE : RegF := ⟨identBase + (0x0000), 5, 4⟩
/-- MODULE_STATE.MIRE_REASON (Table 16-12): 0 none, 1 no valid image, 2 both half-written, 3 equal SEQ with different headers, 4 no owner key and no configuration. -/
def MODULE_STATE_MIRE_REASON : RegF := ⟨identBase + (0x0000), 11, 8⟩
/-- CHIP_ID.MEMBER (Table 16-12): SLOT_ID straps sampled at Boot. -/
def CHIP_ID_MEMBER : RegF := ⟨identBase + (0x0008), 4, 0⟩
/-- CHIP_ID.HUMMOCK (Table 16-12): From the configuration. -/
def CHIP_ID_HUMMOCK : RegF := ⟨identBase + (0x0008), 13, 5⟩
/-- BOOT_INFO.SELECTED (Table 16-12): 0 slot A, 1 slot B. -/
def BOOT_INFO_SELECTED : RegF := ⟨identBase + (0x0010), 0, 0⟩
/-- BOOT_INFO.SLOT_A (Table 16-12): 0 valid, 1 bad, 2 half-written. -/
def BOOT_INFO_SLOT_A : RegF := ⟨identBase + (0x0010), 2, 1⟩
/-- BOOT_INFO.SLOT_B (Table 16-12): As SLOT_A. -/
def BOOT_INFO_SLOT_B : RegF := ⟨identBase + (0x0010), 4, 3⟩
/-- BOOT_INFO.RECOVERY (Table 16-12): Running the recovery image. -/
def BOOT_INFO_RECOVERY : RegF := ⟨identBase + (0x0010), 5, 5⟩
/-- BOOT_INFO.OWNER_SET (Table 16-12): Owner key enrolled. -/
def BOOT_INFO_OWNER_SET : RegF := ⟨identBase + (0x0010), 6, 6⟩
/-- SEQ_A.SEQ (Table 16-12): SEQ of slot A. -/
def SEQ_A_SEQ : RegF := ⟨identBase + (0x0018), 63, 0⟩
/-- SEQ_B.SEQ (Table 16-12): SEQ of slot B. -/
def SEQ_B_SEQ : RegF := ⟨identBase + (0x0020), 63, 0⟩
/-- BOOT_TIMES.HJ_READY (Table 16-12): Hjelper ready [ms]. -/
def BOOT_TIMES_HJ_READY : RegF := ⟨identBase + (0x0028), 15, 0⟩
/-- BOOT_TIMES.CFG_OK (Table 16-12): Configuration verified [ms]. -/
def BOOT_TIMES_CFG_OK : RegF := ⟨identBase + (0x0028), 31, 16⟩
/-- BOOT_TIMES.SHALLOWS (Table 16-12): First shallows service [ms]. -/
def BOOT_TIMES_SHALLOWS : RegF := ⟨identBase + (0x0028), 47, 32⟩
/-- BOOT_TIMES.FULL (Table 16-12): Full service [ms]. -/
def BOOT_TIMES_FULL : RegF := ⟨identBase + (0x0028), 63, 48⟩
/-- READY.DIES (Table 16-12): Bit d: Cd ready. -/
def READY_DIES : RegF := ⟨identBase + (0x0030), 7, 0⟩
/-- READY.STACKS (Table 16-12): Bit n: Mn in service. -/
def READY_STACKS : RegF := ⟨identBase + (0x0030), 23, 8⟩
/-- READY.CAL_DIE (Table 16-12): Die being calibrated. -/
def READY_CAL_DIE : RegF := ⟨identBase + (0x0030), 26, 24⟩
/-- RB_CTR0.FW (Table 16-12): Anti-rollback counter 0. -/
def RB_CTR0_FW : RegF := ⟨identBase + (0x0038), 63, 0⟩
/-- RB_CTR1.CFG (Table 16-12): Anti-rollback counter 1. -/
def RB_CTR1_CFG : RegF := ⟨identBase + (0x0040), 63, 0⟩
/-- RB_CTR2.OWNER (Table 16-12): Owner-key generation. -/
def RB_CTR2_OWNER : RegF := ⟨identBase + (0x0048), 63, 0⟩
/-- UPDATE_STATUS.OPEN (Table 16-12): An update is open. -/
def UPDATE_STATUS_OPEN : RegF := ⟨identBase + (0x0050), 0, 0⟩
/-- UPDATE_STATUS.TARGET (Table 16-12): Its slot. -/
def UPDATE_STATUS_TARGET : RegF := ⟨identBase + (0x0050), 1, 1⟩
/-- UPDATE_STATUS.LAST_REFUSAL (Table 16-12): Detail code of Table 16-9. -/
def UPDATE_STATUS_LAST_REFUSAL : RegF := ⟨identBase + (0x0050), 15, 8⟩
/-- UPDATE_STATUS.BYTES (Table 16-12): Bytes written in the open update. -/
def UPDATE_STATUS_BYTES : RegF := ⟨identBase + (0x0050), 63, 32⟩
/-- WIN_ERR.COUNT (Table 18-3): Accesses ignored or faulted under R440, R443 and R444, saturating. -/
def WIN_ERR_COUNT : RegF := ⟨identBase + (0x0058), 31, 0⟩
/-- WIN_ERR.CAUSE (Table 18-3): Last cause: 1 reserved or unmapped offset, 2 unpowered block, 3 guarded or masked, 4 store width or alignment. -/
def WIN_ERR_CAUSE : RegF := ⟨identBase + (0x0058), 35, 32⟩
/-- WIN_ERR.SRC (Table 18-3): Last source: plank 0x00–0x9F, host die 0xB0–0xB1 for POKE, 0xFF none. -/
def WIN_ERR_SRC : RegF := ⟨identBase + (0x0058), 47, 40⟩
/-- WIN_ERR_ADDR.OFFSET (Table 18-3): Module offset of the last such access. -/
def WIN_ERR_ADDR_OFFSET : RegF := ⟨identBase + (0x0060), 43, 0⟩

/-! ## Barrier records (Table 11-6) and tree maps (Table 11-5) -/

def BAR_ARRIVE_OBJ (b : Nat) : RegF := ⟨barOff b 0, 14, 0⟩
def BAR_RELEASE_OBJ (b : Nat) : RegF := ⟨barOff b 0, 30, 16⟩
def BAR_VALID (b : Nat) : RegF := ⟨barOff b 0, 31, 31⟩
def BAR_LOCAL_N (b : Nat) : RegF := ⟨barOff b 0, 39, 32⟩
def BAR_TREE (b : Nat) : RegF := ⟨barOff b 0, 43, 40⟩
def BAR_STREAM (b : Nat) : RegF := ⟨barOff b 0, 63, 48⟩
def BAR_GEN (b : Nat) : RegF := ⟨barOff b 1, 31, 0⟩
def BAR_HUM_COUNT (b : Nat) : RegF := ⟨barOff b 1, 37, 32⟩
def BAR_ROOT_COUNT (b : Nat) : RegF := ⟨barOff b 1, 57, 48⟩
def BAR_ARRIVED (b : Nat) : RegF := ⟨barOff b 2, 31, 0⟩
def BAR_BROKEN (b : Nat) : RegF := ⟨barOff b 2, 32, 32⟩
def TREE_LEADER (t h : Nat) : RegF := ⟨treeMapOff t h, h % 4 * 16 + 4, h % 4 * 16⟩
def TREE_MEMBERS (t h : Nat) : RegF := ⟨treeMapOff t h, h % 4 * 16 + 10, h % 4 * 16 + 5⟩
def TREE_PRESENT (t h : Nat) : RegF := ⟨treeMapOff t h, h % 4 * 16 + 15, h % 4 * 16 + 15⟩
def TREE_MASK (t h : Nat) : RegF := ⟨treeMaskOff t h, h % 2 * 32 + 31, h % 2 * 32⟩
/-- Owner code of slot i in share table t of pseudo-channel p of stack n (Table 9-2). -/
def SHARE_OWNER (n p t i : Nat) : RegF := ⟨shareOff n p t (i / 8), i % 8 * 8 + 7, i % 8 * 8⟩

end Reg

/-! ## The words of each block -/

/-- Words of the identity block at fixed offsets. -/
def identityRow (o : Nat) : Option RegRow :=
  match o with
  | 0x1200 => some ⟨0x200053B60000, 0x0, 0x0, 0x0, 0x0⟩ -- SLUICE_STATUS
  | 0x1208 => some ⟨0x0, 0x0, 0xFFFFFFFF, 0x0, 0x0⟩ -- SLUICE_REJECT
  | 0x1210 => some ⟨0x0, 0x0, 0xFFFFFFFF, 0x0, 0x0⟩ -- EVENT_LOST
  | 0x1218 => some ⟨0x0, 0x0, 0x0, 0x0, 0x0⟩ -- ROCE_STATUS
  | 0x1220 => some ⟨0x0, 0x0, 0xFFFFFFFFFFFFFFFF, 0x0, 0x0⟩ -- ROCE_CNP
  | 0x1228 => some ⟨0x0, 0x0, 0xFFFFFFFF, 0x0, 0xFFFFFFFF⟩ -- INGEST_FAIL
  | 0x1230 => some ⟨0x0, 0x0, 0xFFFFFFFF, 0x0, 0x0⟩ -- INGEST_DUP
  | 0x0000 => some ⟨0x2, 0x0, 0x0, 0x0, 0x0⟩ -- MODULE_STATE
  | 0x0008 => some ⟨0x0, 0x0, 0x0, 0x0, 0x0⟩ -- CHIP_ID
  | 0x0010 => some ⟨0x0, 0x0, 0x0, 0x0, 0x0⟩ -- BOOT_INFO
  | 0x0018 => some ⟨0x0, 0x0, 0x0, 0x0, 0x0⟩ -- SEQ_A
  | 0x0020 => some ⟨0x0, 0x0, 0x0, 0x0, 0x0⟩ -- SEQ_B
  | 0x0028 => some ⟨0x0, 0x0, 0x0, 0x0, 0x0⟩ -- BOOT_TIMES
  | 0x0030 => some ⟨0x0, 0x0, 0x0, 0x0, 0x0⟩ -- READY
  | 0x0038 => some ⟨0x0, 0x0, 0x0, 0x0, 0x0⟩ -- RB_CTR0
  | 0x0040 => some ⟨0x0, 0x0, 0x0, 0x0, 0x0⟩ -- RB_CTR1
  | 0x0048 => some ⟨0x0, 0x0, 0x0, 0x0, 0x0⟩ -- RB_CTR2
  | 0x0050 => some ⟨0x0, 0x0, 0x0, 0x0, 0x0⟩ -- UPDATE_STATUS
  | 0x0058 => some ⟨0xFF0000000000, 0x0, 0xFFFFFFFF, 0x0, 0x0⟩ -- WIN_ERR
  | 0x0060 => some ⟨0x0, 0x0, 0x0, 0x0, 0x0⟩ -- WIN_ERR_ADDR
  | _ => none

/-- Words of the hjelper block at fixed offsets. -/
def hjelperRow (o : Nat) : Option RegRow :=
  match o with
  | 0x0000 => some ⟨0x0, 0x0, 0x0, 0x0, 0x0⟩ -- HJ_VERSION
  | 0x0008 => some ⟨0x0, 0x0, 0x0, 0x0, 0x1FFFFFFFF00⟩ -- HJ_STATUS
  | 0x0010 => some ⟨0x3010BB8, 0xFF01FFFF, 0x0, 0x0, 0x0⟩ -- POWER_CAP
  | 0x0018 => some ⟨0xA8C, 0x0, 0x0, 0x0, 0x0⟩ -- POWER_STATUS
  | 0x0020 => some ⟨0x0, 0x0, 0x0, 0x0, 0xFFFFFFFF00000000⟩ -- INPUT_PWR
  | 0x0028 => some ⟨0x2710, 0x0, 0x0, 0x0, 0x0⟩ -- IIN_LIMIT
  | 0x0030 => some ⟨0x0, 0x0, 0x0, 0x0, 0x0⟩ -- ENERGY_IN
  | 0x0038 => some ⟨0x0, 0x0, 0x0, 0x0, 0x0⟩ -- ENERGY_PLANK
  | 0x0040 => some ⟨0x0, 0x0, 0x0, 0x0, 0x0⟩ -- ENERGY_HBM
  | 0x0048 => some ⟨0x0, 0x0, 0x0, 0x0, 0x0⟩ -- ENERGY_LINK
  | 0x0050 => some ⟨0x0, 0x0, 0x0, 0x0, 0x0⟩ -- ENERGY_HOST
  | 0x0058 => some ⟨0x0, 0x0, 0x0, 0x0, 0x0⟩ -- ENERGY_MGMT
  | 0x0060 => some ⟨0x0, 0x0, 0xFFFF00000000, 0x0, 0xFFFF00000000⟩ -- BOARD_IN
  | 0x0068 => some ⟨0x0, 0x0, 0x1FF, 0x0, 0x0⟩ -- ALERT_STATUS
  | 0x0070 => some ⟨0x1FF, 0x1FF, 0x0, 0x0, 0x0⟩ -- ALERT_MASK
  | 0x0078 => some ⟨0x0, 0x0, 0x0, 0x0, 0x0⟩ -- EVLOG_STATUS
  | 0x0080 => some ⟨0x0, 0x0, 0xFFFFFFFF, 0x0, 0x0⟩ -- EVLOG_LOST
  | 0x0088 => some ⟨0xF, 0xF, 0x0, 0x0, 0x0⟩ -- EVT_MASK
  | 0x0090 => some ⟨0x6401F4, 0x0, 0x0, 0x0, 0x0⟩ -- WDOG
  | _ => none

/-- Words of the sensor block at fixed offsets. -/
def sensorRow (o : Nat) : Option RegRow :=
  match o with
  | 0x0000 => some ⟨0xFFFF0000, 0x0, 0x0, 0x0, 0xFFFFFFFF0000⟩ -- VIN
  | 0x0008 => some ⟨0x0, 0x0, 0x0, 0x0, 0xFFFF0000⟩ -- IIN
  | 0x0010 => some ⟨0x6E61645F, 0xFFFFFF, 0x0, 0x0, 0x0⟩ -- THR_COMPUTE
  | 0x0018 => some ⟨0xA8C0A8C0A8C0A8C, 0x0, 0x0, 0x0, 0x0⟩ -- DIE_MHZ_LO
  | 0x0020 => some ⟨0xA8C0A8C0A8C0A8C, 0x0, 0x0, 0x0, 0x0⟩ -- DIE_MHZ_HI
  | 0x0028 => some ⟨0x0, 0x0, 0xFFFF00, 0x0, 0xFFFF00⟩ -- REFCLK_STATUS
  | _ => none

/-- Words of the peat block at fixed offsets. -/
def peatRow (o : Nat) : Option RegRow :=
  match o with
  | 0x0000 => some ⟨0x0, 0x0, 0x0, 0x0, 0x0⟩ -- PEAT_STATUS
  | 0x0008 => some ⟨0x0, 0x0, 0x0, 0x0, 0x0⟩ -- PEAT_SEQ
  | 0x0010 => some ⟨0x0, 0x0, 0xFFFFFFFF, 0x0, 0xFFFFFFFF⟩ -- PEAT_LOST
  | 0x0018 => some ⟨0x0, 0x0, 0x0, 0x0, 0x0⟩ -- STEP_TICK
  | 0x0020 => some ⟨0x0, 0x0, 0xFFFF0000, 0x0, 0x0⟩ -- ERRQ_STATUS
  | 0x0028 => some ⟨0x80000000000, 0xFFFFFFFFFFFFFFFF, 0x0, 0x0, 0x0⟩ -- SOUND_PERIOD
  | _ => none

/-- Words of the sync block at fixed offsets. -/
def syncRow (o : Nat) : Option RegRow :=
  match o with
  | 0x00400000 => some ⟨0x0, 0x0, 0x0, 0x0, 0x0⟩ -- SYNC_STATUS
  | 0x00400008 => some ⟨0x0, 0x0, 0xFFFFFFFF, 0x0, 0x0⟩ -- SYNC_DROP
  | 0x00400010 => some ⟨0x8000000, 0xFFFFFFFF, 0x0, 0x0, 0x0⟩ -- BAR_WDOG
  | 0x00400018 => some ⟨0x0, 0x0, 0xFFFFFFFF, 0x0, 0x0⟩ -- STALLS
  | _ => none

/-- Words of the plank block at fixed offsets. -/
def plankRow (n : Nat) (o : Nat) : Option RegRow :=
  match o with
  | 0x0000 => some ⟨n + n / 20 * 0x100 + 0x0, 0x0, 0x0, 0x0, 0x0⟩ -- PLANK_ID
  | 0x0008 => some ⟨0x0, 0x0, 0x0, 0x0, 0x8⟩ -- PLANK_STATUS
  | 0x0010 => some ⟨0x0, 0x0, 0x0, 0x7, 0x0⟩ -- PLANK_CTL
  | 0x0018 => some ⟨0x0, 0xFFF000, 0x0, 0x0, 0x0⟩ -- SPILL_BASE
  | 0x0020 => some ⟨0x0, 0xFFFF00FFFFC0, 0x0, 0x0, 0x0⟩ -- EXC_RING
  | 0x0028 => some ⟨0x0, 0xFFFF0000, 0x0, 0x0, 0x0⟩ -- EXC_PTR
  | 0x0030 => some ⟨0x0, 0x0, 0xFFFFFFFF, 0x0, 0x0⟩ -- EXC_OVF
  | 0x0038 => some ⟨0x0, 0xFFFFFF000, 0x0, 0x0, 0x0⟩ -- CHK_BUF
  | 0x0040 => some ⟨0x0, 0x0, 0x0, 0x0, 0x0⟩ -- PASS_COUNT
  | 0x0048 => some ⟨0x0, 0x0, 0x0, 0x0, 0x0⟩ -- KBLOCK_COUNT
  | 0x0050 => some ⟨0x0, 0x0, 0x0, 0x0, 0xFFFFFFFF00FF⟩ -- FAULT_INFO
  | 0x0058 => some ⟨0x0, 0x0, 0xFFFFFFFF, 0x0, 0x0⟩ -- FEED_CORR
  | 0x0060 => some ⟨0x0, 0x0, 0x0, 0x0, 0x0⟩ -- CLOCK
  | 0x0068 => some ⟨0x0, 0xFFFFFFC0, 0x0, 0x0, 0x0⟩ -- FILL_RING
  | 0x0070 => some ⟨0x0, 0x0, 0x0, 0x0, 0x0⟩ -- FILL_PTR
  | 0x0078 => some ⟨0x0, 0x0, 0x0, 0x0, 0x0⟩ -- FILL_COUNT
  | 0x0080 => some ⟨0x0, 0x1FFFFC0, 0x0, 0x0, 0x0⟩ -- ILV
  | 0x0088 => some ⟨0x0, 0xFFFFC0, 0x0, 0x0, 0x0⟩ -- FTAB
  | 0x0090 => some ⟨0x0, 0x0, 0x0, 0x0, 0x0⟩ -- TAB_SLOTS
  | 0x0098 => some ⟨0x0, 0xFFF000, 0x0, 0x0, 0x0⟩ -- CTX_BASE
  | 0x00A0 => some ⟨0x0, 0x0, 0x0, 0x7, 0x0⟩ -- CORE_CTL
  | 0x00A8 => some ⟨0x0, 0x0, 0x0, 0x0, 0x0⟩ -- CORE_STATUS
  | 0x00B0 => some ⟨0x0, 0x0, 0x0, 0x0, 0x0⟩ -- CORE_PC
  | 0x00B8 => some ⟨0x0, 0x0, 0x0, 0x0, 0xFFFFFFFF0000FFFF⟩ -- TRAP_INFO
  | 0x00C0 => some ⟨0x0, 0x0, 0x100, 0x0, 0x0⟩ -- VEC_STATUS
  | 0x00C8 => some ⟨0x0, 0x0, 0x0, 0x0, 0x0⟩ -- VEC_CYCLES
  | 0x00D0 => some ⟨0x0, 0x0, 0x0, 0x0, 0x0⟩ -- XI
  | 0x00D8 => some ⟨0x100000000000, 0xFFFFFFFFFFFFFFFF, 0x0, 0x0, 0x0⟩ -- CORE_ENTRY
  | 0x00E0 => some ⟨0x0, 0xFFFF, 0x0, 0x0, 0x0⟩ -- PS_MAP
  | 0x00E8 => some ⟨0x0, 0x0, 0x0, 0x0, 0x0⟩ -- BANK_OWN_LO
  | 0x00F0 => some ⟨0x0, 0x0, 0x0, 0x0, 0x0⟩ -- BANK_OWN_HI
  | 0x00F8 => some ⟨0x0, 0xFFFFFFFFFFFFFFFF, 0x0, 0x0, 0x0⟩ -- BANK_NEXT_LO
  | 0x0100 => some ⟨0x0, 0xFFFFFFFFFFFFFFFF, 0x0, 0x0, 0x0⟩ -- BANK_NEXT_HI
  | 0x0108 => some ⟨0x0, 0xFFFFFFFF7FFF, 0x0, 0x1000000000000, 0x0⟩ -- BANK_SWITCH
  | 0x0110 => some ⟨0x0, 0x0, 0xFFFFFFFFFFFFFFFF, 0x0, 0xFFFFFFFF00000000⟩ -- PS_ECC
  | 0x0118 => some ⟨0x10000000, 0xFFFFFFFFFFFF, 0x0, 0x0, 0x0⟩ -- WAIT_WDOG
  | 0x0120 => some ⟨0x0, 0x0, 0x0, 0x0, 0x0⟩ -- WAIT_STATE
  | 0x0128 => some ⟨0x16, 0x1F, 0x0, 0x0, 0x0⟩ -- SAMPLE_CTL
  | 0x0130 => some ⟨0x0, 0x0, 0x0, 0x0, 0x0⟩ -- SAMPLE_COUNT
  | 0x0138 => some ⟨0x0, 0x0, 0xFFFFFFFF, 0x0, 0xFFFFFFFF⟩ -- CHK_COUNT
  | 0x0140 => some ⟨0x0, 0x0, 0x0, 0x0, 0xFFFFFFFFFFFFFF3F⟩ -- INTEG_STATE
  | 0x0148 => some ⟨0x0, 0x0, 0x0, 0x3, 0x0⟩ -- INTEG_CTL
  | 0x0150 => some ⟨0xA8C, 0x0, 0x0, 0x0, 0xFFFF⟩ -- CLOCK_CEIL
  | 0x0158 => some ⟨0x0, 0x0, 0x0, 0xFF, 0x0⟩ -- SOUND_WIN
  | 0x0160 => some ⟨0x0, 0x0, 0x0, 0x0, 0xFFFFFFFFFFFFFFBF⟩ -- SOUND_STATUS
  | _ => none

/-- Words of the stack block at fixed offsets. -/
def stackRow (n : Nat) (o : Nat) : Option RegRow :=
  match o with
  | 0x0000 => some ⟨n + n / 2 * 0x10 + 0x0, 0x0, 0x0, 0x0, 0x0⟩ -- STACK_ID
  | 0x0008 => some ⟨0x0, 0x0, 0x0, 0x0, 0x0⟩ -- STACK_STATUS
  | 0x0010 => some ⟨0x0, 0x0, 0x0, 0x0, 0xFFFF0000⟩ -- TEMP
  | 0x0018 => some ⟨0x0, 0x0, 0xFFFFFFFF, 0x0, 0x0⟩ -- HEAT_COUNT
  | 0x0020 => some ⟨0x0, 0x0, 0xFFFFFFFF, 0x0, 0x0⟩ -- ECC_CORR
  | 0x0028 => some ⟨0x0, 0x0, 0xFFFFFFFF, 0x0, 0xFFFFFFFF⟩ -- ECC_UNCORR
  | 0x0030 => some ⟨0x0, 0x0, 0x0, 0x0, 0xFFFFFFFFF⟩ -- ECC_LAST
  | 0x0038 => some ⟨0x1, 0x1, 0x0, 0x0, 0x0⟩ -- SCRUB
  | 0x0040 => some ⟨0x3E80000, 0xFFFF0000, 0x0, 0x1, 0x0⟩ -- CAL_CTL
  | _ => none

/-- Words of the linkdie block at fixed offsets. -/
def linkdieRow (n : Nat) (o : Nat) : Option RegRow :=
  match o with
  | 0x0000 => some ⟨n + 0x0, 0x0, 0x0, 0x0, 0x0⟩ -- LINKDIE_ID
  | 0x0008 => some ⟨0x8, 0x0, 0x0, 0x0, 0x0⟩ -- FAB_STATUS
  | 0x0010 => some ⟨0x800, 0xFFFF, 0x0, 0x0, 0x0⟩ -- ROUTER_CFG
  | 0x0018 => some ⟨0x0, 0x0, 0xFFFFFFFFFFFFFFFF, 0x0, 0x0⟩ -- ROUTER_DROP
  | 0x0020 => some ⟨0x0, 0x0, 0xFFFFFFFF, 0x0, 0x0⟩ -- CW_COUNT
  | 0x0028 => some ⟨0x0, 0x0, 0x0, 0x0, 0x0⟩ -- SEAL_KEYS
  | 0x0030 => some ⟨0x0, 0x0, 0xFFFFFFFF, 0x0, 0xFFFFFFFF⟩ -- SEAL_FAIL
  | 0x0038 => some ⟨0x0, 0x0, 0xFFFFFFFF, 0x0, 0x0⟩ -- SEAL_NOKEY
  | 0x0040 => some ⟨0x0, 0x0, 0x0, 0x0, 0x0⟩ -- XFER_OUT
  | 0x0048 => some ⟨0x0, 0x0, 0x0, 0x0, 0x0⟩ -- CLOCK
  | _ => none

/-- Words of the port array of the identity block, by offset within one entry. -/
def identityPortRow (o : Nat) : Option RegRow :=
  match o with
  | 0x1000 => some ⟨0x0, 0x0, 0x0, 0x0, 0x0⟩ -- PORT_STATUS
  | 0x1008 => some ⟨0x0, 0x0, 0xFFFFFFFFFFFFFFFF, 0x0, 0x0⟩ -- PORT_FEC
  | 0x1010 => some ⟨0x0, 0x0, 0x0, 0x0, 0x0⟩ -- PORT_RX
  | 0x1018 => some ⟨0x0, 0x0, 0x0, 0x0, 0x0⟩ -- PORT_TX
  | 0x1020 => some ⟨0x0, 0x0, 0xFFFFFFFF, 0x0, 0x0⟩ -- PORT_DROP
  | _ => none

/-- Words of the array array of the sensor block, by offset within one entry. -/
def sensorArrayRow (o : Nat) : Option RegRow :=
  match o with
  | 0x1000 => some ⟨0x0, 0x0, 0x0, 0x0, 0xFFFF0000⟩ -- TEMP
  | 0x2000 => some ⟨0xFFFF00000000, 0x0, 0x0, 0x0, 0xFFFFFFFF00000000⟩ -- VMON
  | _ => none

/-- Words of the pc array of the stack block, by offset within one entry. -/
def stackPcRow (o : Nat) : Option RegRow :=
  match o with
  | 0x1000 => some ⟨0x0, 0x0, 0x0, 0x0, 0x8⟩ -- PC_STATUS
  | 0x1008 => some ⟨0x0, 0xFFFFFFFF7FFF, 0x0, 0x1000000000000, 0x0⟩ -- PC_SWITCH
  | 0x1010 => some ⟨0x0, 0x0, 0x0, 0x0, 0x0⟩ -- PC_TRAIN
  | 0x1018 => some ⟨0x0, 0x0, 0xFFFFFFFF, 0x0, 0x0⟩ -- PC_CORR
  | _ => none

/-- Words of the link array of the linkdie block, by offset within one entry. -/
def linkdieLinkRow (o : Nat) : Option RegRow :=
  match o with
  | 0x1000 => some ⟨0x0, 0x0, 0x0, 0x0, 0x0⟩ -- LINK_STATUS
  | 0x1008 => some ⟨0x0, 0x5, 0x0, 0x2, 0x0⟩ -- LINK_CTL
  | 0x1010 => some ⟨0x0, 0x0, 0xFFFFFFFFFFFFFFFF, 0x0, 0x0⟩ -- LINK_FEC
  | 0x1018 => some ⟨0x0, 0x0, 0xFFFFFFFFFFFFFFFF, 0x0, 0xFFFF000000000000⟩ -- LINK_RETRY
  | 0x1020 => some ⟨0x0, 0x0, 0x0, 0x0, 0x0⟩ -- LINK_TX
  | 0x1028 => some ⟨0x0, 0x0, 0x0, 0x0, 0x0⟩ -- LINK_RX
  | _ => none

/-- Words of the lane array of the linkdie block, by offset within one entry. -/
def linkdieLaneRow (o : Nat) : Option RegRow :=
  match o with
  | 0x1040 => some ⟨0x0, 0x77, 0x0, 0x0, 0x0⟩ -- PAT_CTL
  | 0x1048 => some ⟨0x0, 0xFFFFFFFFFFFFFFFF, 0x0, 0x0, 0x0⟩ -- PAT_USER
  | 0x1050 => some ⟨0x0, 0x0, 0xFFFFFFFFFFFF, 0x0, 0x0⟩ -- PAT_ERR
  | 0x1058 => some ⟨0x0, 0x0, 0x0, 0x0, 0x0⟩ -- PAT_BITS
  | _ => none

/-- A word that is RW whole, with a reset value. -/
def RegRow.plain (rst : Nat) : RegRow := ⟨rst, 2 ^ 64 - 1, 0, 0, 0⟩
/-- A word that is RO whole. -/
def RegRow.ro : RegRow := ⟨0, 0, 0, 0, 0⟩

/-- The sensor block: fixed words, 200 temperature sensors and 192 island monitors. -/
def sensorWord (o : Nat) : Option RegRow :=
  if 0x1000 ≤ o && o < 0x1000 + 200 * 8 then sensorArrayRow 0x1000
  else if 0x2000 ≤ o && o < 0x2000 + 192 * 8 then sensorArrayRow 0x2000
  else sensorRow o

/-- The identity block: fixed words and eight Ethernet ports. -/
def identityWord (o : Nat) : Option RegRow :=
  if 0x1000 ≤ o && o < 0x1200 then identityPortRow (0x1000 + o % 0x40) else identityRow o

/-- The Hjelper block: fixed words and ENERGY_LAST. -/
def hjelperWord (o : Nat) : Option RegRow :=
  if 0x100 ≤ o && o < 0x140 then some .ro else hjelperRow o

/-- A stack block: fixed words, 64 pseudo-channels, and two share tables each, whose words 25 to 31 are reserved. -/
def stackWord (n o : Nat) : Option RegRow :=
  if 0x1000 ≤ o && o < 0x1800 then stackPcRow (0x1000 + o % 0x20)
  else if 0x4000 ≤ o && o < 0xC000 then
    (if o % 0x100 < 200 then some (.plain (2 ^ 64 - 1)) else none)
  else stackRow n o

/-- A link-die block: fixed words and four links with two lanes each. -/
def linkdieWord (n o : Nat) : Option RegRow :=
  if 0x1000 ≤ o && o < 0x1400 then
    (if o % 0x100 < 0x40 then linkdieLinkRow (0x1000 + o % 0x100)
     else if o % 0x100 < 0x80 then linkdieLaneRow (0x1040 + o % 0x20) else none)
  else linkdieRow n o

/-- The synchronisation window without the object records and their commands: barriers (word 0 RW, the rest RO), tree maps (four
entries a word),
member masks and the fixed words. -/
def syncWord (o : Nat) : Option RegRow :=
  if 0x200000 ≤ o && o < 0x210000 then some (if o % 0x40 == 0 then ⟨0, 0xFFFF0FFFFFFF7FFF, 0, 0, 0⟩ else .ro)
  else if 0x300000 ≤ o && o < 0x304000 then some ⟨0, 0x87FF87FF87FF87FF, 0, 0, 0⟩
  else if 0x340000 ≤ o && o < 0x348000 then some (.plain 0)
  else syncRow o

/-- The register word at a module offset, when it is one of the words held in `State.win`; object records, command
registers, the stream table and peat records are held elsewhere (R438). -/
def regRow (off : Nat) : Option RegRow :=
  if off % 8 ≠ 0 then none
  else if off < identBase then none
  else if off < hjBase then identityWord (off - identBase)
  else if off < sensorBase then hjelperWord (off - hjBase)
  else if off < sensorBase + 0x10000 then sensorWord (off - sensorBase)
  else if off < plankBase 0 then none
  else if off < plankBase 160 then plankRow ((off - plankBase 0) / 0x10000) ((off - plankBase 0) % 0x10000)
  else if off < stackBase 0 then none
  else if off < stackBase 16 then stackWord ((off - stackBase 0) / 0x10000) ((off - stackBase 0) % 0x10000)
  else if off < linkBase 0 then none
  else if off < linkBase 12 then linkdieWord ((off - linkBase 0) / 0x10000) ((off - linkBase 0) % 0x10000)
  else if off < syncBase then none
  else if off < syncBase + 0x400020 then syncWord (off - syncBase)
  else if off < peatBase then none
  else if off < peatBase + 0x30 then peatRow (off - peatBase)
  else none

/-- What a register word holds at power-on (R445, the Reset columns). -/
def winReset (off : Nat) : Word64 :=
  match regRow off with
  | some r => BitVec.ofNat 64 r.rst
  | none => 0

/-- The ST bits of a word (R445). -/
def winSticky (off : Nat) : Word64 :=
  match regRow off with
  | some r => BitVec.ofNat 64 r.st
  | none => 0

/-- What a write of v leaves in a word under its access codes (R5, R6, R441). -/
def regWrite (r : RegRow) (old v : Word64) : Word64 :=
  let rw := BitVec.ofNat 64 r.rw
  let w1c := BitVec.ofNat 64 r.w1c
  (old &&& ~~~(rw ||| w1c)) ||| (v &&& rw) ||| (old &&& w1c &&& ~~~v)

end Sys2Proof.Machine
end

