-- ==== Sys2Proof/Machine/State.lean ====
section
/-!
DEFINITION. The state of the EXM-T40: every register word, memory, the units of the planks, stacks, links, host dies,
Hjelper and the trust die, the loaded jobs, and the queue of commands that wait. Records that software reads whole
(objects, stream-table entries, log records) are bit vectors with named fields.
-/
namespace Sys2Proof.Machine

/-- A field [hi:lo] of a record. -/
abbrev Fd := Nat × Nat

def fget {n : Nat} (x : BitVec n) (f : Fd) : Nat := fld x f.1 f.2
def fset {n : Nat} (x : BitVec n) (f : Fd) (v : Nat) : BitVec n := setFld x f.1 f.2 v

/-! ## The plank -/

/-- A cell of an accumulator (R83): the 64-bit accumulator, the status word of Table 4-6, the block pre-sum in accumulator units as
the accumulator's last K-block left it, the parity bits of the accumulator's low and high word and of the status, and the sign and
K-block of its first infinity, which R146 needs where another part of the sum has the other one (assumption 111). -/
structure Cell where
  acc : BitVec 64
  stat : BitVec 32
  pre : Int
  par : BitVec 3
  first : Option (Bool × Nat)
deriving DecidableEq, Repr

/-- Parity of a 32-bit word: 1 when it has an odd number of ones (assumption 111). -/
def parity32 (x : Nat) : Bool := (List.range 32).foldl (fun b i => b != x.testBit i) false

/-- A cell with the parity of what it holds. -/
def Cell.of (acc : BitVec 64) (stat : BitVec 32) (pre : Int) (first : Option (Bool × Nat)) : Cell :=
  ⟨acc, stat, pre, BitVec.ofBool (parity32 stat.toNat) ++ BitVec.ofBool (parity32 (acc.toNat / 2 ^ 32)) ++
    BitVec.ofBool (parity32 (acc.toNat % 2 ^ 32)), first⟩

/-- A cell that holds nothing. -/
def Cell.zero : Cell := ⟨0, 0, 0, 0, none⟩

/-- What an accumulator holds beside its state code, which PLANK_STATUS holds (R83, R92, R101, R117, Table 4-6). `rest` is
what every unlisted cell holds; `fill` is the FILL_TAG of the fill item whose pass it is (R147), `sedgeSide` the side record of its
latest pass with SEDGE 1 (R119). -/
structure Accum where
  cells : List (Nat × Cell)
  rest : Cell
  sedge : List (Nat × F32)
  sedgeRows : BitVec 128
  sedgeSide : Option (BitVec 512)
  desc : BitVec 256
  side : BitVec 512
  passes : List (BitVec 256)
  eA : Int
  eB : Int
  eOut : Int
  kblocks : Nat
  passPos : Nat
  lostlow : Nat
  sampled : Bool
  taps : Nat
  tapsFit : Bool
  fill : Option Nat
  seq : Nat
  loaded : Bool
deriving DecidableEq, Repr

/-- An accumulator that holds nothing. -/
def Accum.empty : Accum :=
  ⟨[], .zero, [], 0, none, 0, 0, [], 0, 0, 0, 0, 0, 0, false, 0, true, none, 0, false⟩

/-- A pass that the array holds, running or waiting: its descriptor, the side record and the exponents read at issue
(R87, R88), where the descriptor lies, the K-block at which it starts, and the FILL_TAG of its item when it comes from the fill
list (R147). -/
structure PassRun where
  desc : BitVec 256
  side : BitVec 512
  off : Nat
  eA : Int
  eB : Int
  eOut : Int
  pos : Nat
  fill : Option Nat
deriving DecidableEq, Repr

/-- Outlier entries still to process: segment `seg` of a pass of accumulator `sel`, from K-block `lo` on (R118, R119);
`live` while the feed has not ended that pass. `feed` is what the feed read of B in those K-blocks, kept from the end of the pass on:
byte runs by module offset (R117). -/
structure SegJob where
  sel : Nat
  desc : BitVec 256
  side : BitVec 512
  eB : Int
  seg : Nat
  lo : Nat
  hi : Nat
  live : Bool
  feed : List (Nat × List Byte)
deriving DecidableEq, Repr

/-- An add-out or a load-in (R144, R145): accumulator, plank-store offset of the image, whether it has begun and the STATE
that the image had then, and whether it ends a fill item. -/
structure ImageReq where
  load : Bool
  sel : Nat
  image : Nat
  rd : XReg
  begun : Bool
  old : Nat
  fill : Bool
deriving DecidableEq, Repr

/-- What the plank notes about the accumulation in its checksum buffer (R199); `ready` once its column sums are there. -/
structure ChkNote where
  sampled : Bool
  excluded : Bool
  tag : Nat
  ready : Bool
deriving DecidableEq, Repr

/-- A vector instruction in a port's queue, with its place in the order of issue (R186 to R188) and the XI of its issue. -/
structure VecSlot where
  seq : Nat
  word : Word64
  xi : Word64
deriving DecidableEq, Repr

/-- The state of one plank beyond its register words. `fillN` counts the items of the fill list, `fillIssued` the passes
issued of those items, the oldest first; `held` is the quiesce-point code (Table 8-10) of the instruction at
which the core holds, `quiesce` that at which it has stopped for a suspend (R207); `ctxLost` says that the suspend's spill
was lost, so that no context is written; `ops` counts array operations under R2 (Table 14-3); `mism`
holds the tags of a stepless program's checksum mismatches since its last evaluation point (R448); `unstarted` says that a job load set its program up and the core
has not started it yet; `overdue` counts full
periods that a due sounding is late and `soundStart` is the count at which the sounding under way began (R325, R326); `windowOver`
says that the slices still armed wait for the next window (R327, R328), and `replaying` that the plank runs the replay of a capsule,
whose faults decide its outcome and nothing else of the work named (R311, R448). `stats` are the partial statistics records by tensor
id (R76). The manual keeps them in the plank store and gives no address there: the model keeps them beside its memory
(assumption 118). -/
structure Plank where
  acc0 : Accum
  acc1 : Accum
  run : Option PassRun
  wait : Option PassRun
  reload : Option PassRun
  segs : List SegJob
  image : Option ImageReq
  chk : ChkNote
  accSeq : Nat
  spilling : Bool
  fillN : Nat
  fillIssued : Nat
  waitOff : Option Nat
  -- vector engine (R185)
  v : List (Nat × F32)
  vm : BitVec 512
  tables : List (Nat × List Byte)
  port2 : List VecSlot
  port3 : List VecSlot
  vecSeq : Nat
  vecRun : Nat
  stats : List (Nat × StatRec)
  -- plank core (R202)
  x : List (Nat × Word64)
  csr : List (Nat × Word64)
  imem : List (Nat × Byte)
  dmem : List (Nat × Byte)
  waitRd : Option XReg
  waited : Nat
  held : Option Nat
  quiesce : Option Nat
  ctxLost : Bool
  stream : Option StreamId
  ended : Bool
  ilvPos : Nat
  trapUnlogged : Bool
  faultUnlogged : Bool
  ops : Nat
  mism : List Nat
  maskPending : Bool
  unstarted : Bool
  overdue : Nat
  soundStart : BitVec 48
  windowOver : Bool
  replaying : Bool
deriving DecidableEq, Repr

def noF32 (_ : Nat) : F32 := 0
def noWord (_ : Nat) : Word64 := 0
def noTable (_ : Nat) : List Byte := []
def noRec (_ : Nat) : StatRec := ⟨0, 0, 0, 0, 0, 0, 0, 0, 0, 0, 0, 0, 0⟩
def noCount (_ : Nat) : Nat := 0
def noFlag (_ : Nat) : Bool := false

/-- A plank at power-on. Registers x1 to x31, the seven CSRs, V0 to V31, VM, the core's memories, the cells and their accumulators have
no reset value in the manual: zero (assumption 2). -/
def Plank.reset : Plank :=
  { acc0 := .empty, acc1 := .empty, run := none, wait := none, reload := none, segs := [], image := none,
    chk := ⟨false, false, 0, false⟩, accSeq := 0, spilling := false, fillN := 0, fillIssued := 0, waitOff := none, v := [], vm := 0, tables := [], port2 := [], port3 := [],
    vecSeq := 0, vecRun := 0, stats := [], x := [], csr := [], imem := [], dmem := [], waitRd := none, waited := 0, held := none,
    quiesce := none, ctxLost := false,
    stream := none, ended := false, ilvPos := 0, trapUnlogged := false, faultUnlogged := false, ops := 0, mism := [],
    maskPending := false, unstarted := false, overdue := 0, soundStart := 0,
    windowOver := false, replaying := false }

def plankReset (_ : Nat) : Plank := Plank.reset

/-! ## Objects, streams and logs -/

/-- Record of a synchronisation object (Table 11-1). -/
abbrev ObjRec := BitVec 256
namespace Obj
def VALUE : Fd := (31, 0)
def STATE : Fd := (34, 32)
def CAUSE : Fd := (36, 35)
def PARTNER_SUSP : Fd := (37, 37)
def TREE : Fd := (41, 38)
def OWNER : Fd := (55, 48)
def OWNER_STREAM : Fd := (71, 56)
def EPOCH : Fd := (87, 72)
def WAITERS : Fd := (95, 88)
def LAST_CHIP : Fd := (109, 96)
def LAST_SRC : Fd := (117, 110)
def LAST_STEP : Fd := (191, 128)
def PARTNER_CHIP : Fd := (205, 192)
def PARTNER_EN : Fd := (206, 206)
def PARTNER_STREAM : Fd := (223, 208)
def SIGNALS : Fd := (255, 224)
end Obj

/-- An object at power-on: Retired, OWNER and LAST_SRC 0xFF (R267). -/
def objReset (_ : Nat) : ObjRec := fset (fset 0 Obj.OWNER 0xFF) Obj.LAST_SRC 0xFF

/-- A stream-table entry (Table 15-7). -/
abbrev StreamRec := BitVec 512
namespace Strm
def STATE : Fd := (3, 0)
def KIND : Fd := (7, 4)
def SUSP_SRC : Fd := (10, 8)
def OUTCOME : Fd := (13, 12)
def JOB : Fd := (31, 16)
def PARTITION : Fd := (47, 32)
def SESSION : Fd := (63, 48)
def STEP : Fd := (127, 64)
def BYTES : Fd := (191, 128)
def RECORDS : Fd := (223, 192)
def DONE_OBJ : Fd := (238, 224)
def DONE_EN : Fd := (239, 239)
def QP : Fd := (251, 240)
def FAIL_CODE : Fd := (271, 256)
def RB_CROSSED : Fd := (272, 272)
def RUNG_CHANGED : Fd := (273, 273)
def SUSPECT : Fd := (274, 274)
def HC_START : Fd := (383, 320)
def HC_LAST : Fd := (447, 384)
end Strm

/-- An Idle stream-table entry: the Reset column gives 0 (Table 18-11). -/
def streamReset (_ : Nat) : StreamRec := 0

/-- An event before Hjelper gives it its sequence number (Table 14-6). -/
structure Event where
  cls : Nat
  kind : Nat
  unitClass : Nat
  unit : Nat
  step : Nat
  hcount : BitVec 64
  payload : BitVec 512
deriving DecidableEq, Repr

/-- An entry of Hjelper's error queue (R319): the unit by the class and number of Table 13-6, the error code, the pass tag
and tensor id of a plank's error, the step and the count; a plank's code 0 stands for a checksum mismatch. It is open while it is
listed; `linked` says that a second error of the unit has joined it. -/
structure ErrEntry where
  unitClass : Nat
  unit : Nat
  code : Nat
  tag : Nat
  tid : Nat
  step : Nat
  hcount : BitVec 64
  linked : Bool
deriving DecidableEq, Repr

/-! ## Jobs -/

/-- A loaded job (R373): its manifest (Table 15-6) and lists, and the state of its current step on this member
(R155 to R167). `flags` are the V and H flags gathered for the next check record, bit i standing for bit 68 + i of Table 7-2,
`suspect` the accumulations that mismatched, `updNonfin` the elements left unchanged per tensor. `phase`, `verdict`, `final`,
`stage`, `spike` and `rbEnd` are those of the step record (Table 7-8); `replay` says that the attempt is a Reblock replay.
`own` is the member's check record of the first round and `red` the reduced one; `marked` are the tensors marked under R81 in
the attempt, `crossed` those with a crossing or a trigger in any attempt of the step. `replayed` counts the capsules replayed,
`flags2` the second-round flags (V_SUSPECT, H_INTEGRITY), `decided` is the decision of a VERDICT whose reduction still waits for other
members (R165). `refetch` says that the next commit re-fetches committed state,
`holds` the steps under HOLD_STEP, `staged` where stage U1 copies the staged records to, with their lengths (R172), `scale` SCALE of
R174, `loss` LOSS, `napDue` the weights whose factors take four iterations, `naps` the weights that have factors, with whether these
lie in the second buffers (R121, R122). `waited` counts the limits that the Held wait or the check reduction has lasted (R282). `ckpt` is a checkpoint
asked for (R388): its stream, and whether its records are being written; `digest` is the measurement M_JOB, `code` the
program images for M_PROGRAMS (Table 15-9). -/
structure Job where
  id : BitVec 16
  man : BitVec 2048
  lists : JobLists
  step : Nat
  attempt : Nat
  flags : BitVec 11
  suspect : Nat
  updNonfin : List (Nat × Nat)
  phase : Nat
  verdict : Nat
  final : Bool
  stage : Nat
  spike : Bool
  rbEnd : Bool
  replay : Bool
  own : Option CheckRec
  red : Option CheckRec
  marked : List Nat
  crossed : List Nat
  replayed : Nat
  flags2 : BitVec 2
  decided : Option Nat
  refetch : Bool
  holds : List Nat
  staged : List (Nat × Nat)
  scale : F32
  loss : F32
  napDue : List Nat
  naps : List (Nat × Bool)
  waited : Nat
  maskSusp : List Nat
  cancelDue : List Nat
  ckpt : Option (Nat × Bool)
  digest : List Byte
  code : List Byte
deriving DecidableEq, Repr
/-! ## Transfers (R205, R248 to R250) -/

/-- A line of a transfer or of a packet being served: 64 B, and whether it is poisoned. -/
structure Line where
  data : List Byte
  poison : Bool
deriving DecidableEq, Repr

/-- A transfer in progress. `num` is the model's number for it, `id` its XFER_ID on link die `die` when it crosses the
fabric, `left` the sector reads, sector writes or packets still outstanding, `writing` whether its source is all read,
`status` the first status of Table 10-6 that traps, `chans` the die-to-die channel directions that it uses (R205). -/
structure Xfer where
  num : Nat
  plank : Nat
  stream : Nat
  desc : BitVec 512
  insn : Nat
  remote : Bool
  die : Nat
  id : Nat
  writing : Bool
  left : Nat
  lines : List (Nat × Line)
  status : Nat
  chans : List Nat
  refused : Bool
deriving DecidableEq, Repr

/-- A request packet whose target is HBM and whose sectors wait in the queues of its link die (R217, R249). -/
structure Serve where
  num : Nat
  die : Nat
  pkt : Packet
  left : Nat
  lines : List (Nat × Line)
deriving DecidableEq, Repr

/-- A TYPE 2 accumulating transfer at its destination (R231): the transfer by its source chip, number and stream; where its 12 B
entries begin, as an address modulo 12, once that is known; whether its last packet has come; the lowest address that came; the bytes
that wait for the rest of their entries; and its packets, by link die, whose bytes are not all added. -/
structure AccumXfer where
  chip : Nat
  xid : Nat
  stream : Nat
  phase : Option Nat
  last : Bool
  low : Nat
  parts : List (Nat × List Byte)
  waits : List (Nat × Packet)
deriving DecidableEq, Repr

/-- A completion record of a destination link die (R249). -/
structure DoneRec where
  die : Nat
  chip : Nat
  xid : Nat
  status : Nat
  stream : Nat
  partition : Nat
  slot : Nat
  count : Nat
deriving DecidableEq, Repr

/-! ## Links and routers -/

/-- A packet that a router holds whole. `inp` is the input it came in by (0 to 3 link j of the die, 4 + k the mesh from
Lk, 16 the die's own injection), `pool` the buffer pool it occupies (Table 10-1, 7 none), `link` the link chosen for it,
`out` the output port it waits for (0 to 3 link j, 4 + k the mesh to Lk), `wire` its flits still to send once granted. -/
structure Head where
  id : Nat
  die : Nat
  inp : Nat
  pool : Nat
  pkt : Packet
  link : Option Nat
  out : Option Nat
  granted : Bool
  wire : List (BitVec 512 × Bool)
  begun : Bool
deriving DecidableEq, Repr

/-- A data frame of the retry buffer and how often it was retransmitted without an ACK (R242). -/
structure RetryFrame where
  frame : Frame
  times : Nat
deriving DecidableEq, Repr

/-- A received marker whose echo is due once what came before it has left: the pools with a packet half received then, and the
heads that must leave (R258). -/
structure EchoWait where
  pools : List Nat
  heads : List Nat
deriving DecidableEq, Repr

/-- One fabric link beyond its register words (R238 to R244). `retry` is oldest first, `resend` the position in it of the
next frame to resend; `credits`, `lastCred`, `credOut` and `freed` are per pool; `rx` holds the flits of packets being
received; `echoWait` the markers received whose echo is not due yet, oldest first, and `echoDue` the echoes to send; `marks` and
`echoes` count the markers sent and the echoes back, and `drainMark` is the count of echoes that a drain waits for (R258); `failed`
counts training failures in a row; `lost` that the link left Active and its 10 ms have not run out; `bits` the message bits sent since the
last alignment codeword; `inFlight` the packets
sent whole and not yet acknowledged, by the SEQ of their last flit's frame. -/
structure Link where
  txSeq : Nat
  retry : List RetryFrame
  resend : Option Nat
  rxSeq : Nat
  nak : Bool
  discard : Bool
  credits : List (Nat × Nat)
  lastCred : List (Nat × Nat)
  credOut : List (Nat × Nat)
  freed : List (Nat × Nat)
  cvc : Nat
  slots : List (Nat × BitVec 512 × Bool)
  rx : List (Nat × List (BitVec 512 × Bool))
  markDue : Bool
  echoDue : Nat
  echoWait : List EchoWait
  marks : Nat
  echoes : Nat
  drainMark : Nat
  failed : Nat
  lost : Bool
  bits : Nat
  inFlight : List (Nat × BitVec 512)
deriving DecidableEq, Repr

/-- A link at power-on (R241, R243). -/
def linkReset (_ : Nat) : Link :=
  { txSeq := 0, retry := [], resend := none, rxSeq := 0, nak := false, discard := false, credits := [], lastCred := [],
    credOut := [], freed := [], cvc := 0, slots := [], rx := [], markDue := false, echoDue := 0, echoWait := [],
    marks := 0, echoes := 0, drainMark := 0, failed := 0, lost := false, bits := 0, inFlight := [] }

/-- An output port's round robin: the input last granted, and the lane last served (R257). -/
structure Port where
  lastInp : Nat
  lastLane : Nat
deriving DecidableEq, Repr
def portReset (_ : Nat) : Port := ⟨16, 3⟩

/-- A partition key in a slot of a link die's context: the key P and its EPOCH (R260). -/
structure SealKey where
  key : List Byte
  epoch : Nat
deriving DecidableEq, Repr

/-- A partition context of a link die (R260, R263): which slot the links send on, and, while the other slot waits to be
cleared, the count of echoes that each of the die's four links must have back. -/
structure SealCtx where
  partition : Nat
  slot0 : Option SealKey
  slot1 : Option SealKey
  send : Nat
  clearing : List Nat
deriving DecidableEq, Repr

/-- An owner message already sent, by stream, event, cause and tree map (R276). -/
structure SentMsg where
  stream : Nat
  event : Nat
  tree : Nat
deriving DecidableEq, Repr

/-- A signal to apply to a local object (R272). -/
structure Signal where
  obj : Nat
  set : Bool
  val : Nat
  chip : Nat
  src : Nat
  step : Nat
deriving DecidableEq, Repr

/-- Work of the synchronisation objects that waits: a signal to apply, or a barrier of which GEN or VALID has just been written and
whose ARRIVE_OBJ may stand at the target already (R280). -/
inductive SyncWork where
  | sig (g : Signal)
  | check (b : Nat)
deriving DecidableEq, Repr

/-- A change of owner of a die-to-die channel direction that waits for its gate (R16): the job that assigned it, the direction,
the new owner's code, the gating object and its target; one without a gate waits until the direction has no owner. -/
structure Handover where
  job : BitVec 16
  chan : Nat
  owner : Nat
  gated : Bool
  obj : Nat
  target : Nat
deriving DecidableEq, Repr

/-- The fabric: packets in routers, links by number, output ports by 16 × die + port, the link last chosen per logical
port, transfers, packets being served, bytes of cut accumulator entries, completion records, the routing-table image, sealing contexts by 16 × die + index, the dies that wait for a new image (R259),
sealing counters by link, partition and slot, stall
reports of barriers under way, aborts acted on (stream and epoch, R299), owner messages sent and passed
on, packets delivered by the routers that wait for their command, owners of the die-to-die channel directions that a program
assigns (0xFF none), and the changes of owner that wait. -/
structure Fabric where
  heads : List Head
  links : List (Nat × Link)
  outs : List (Nat × Port)
  lastLink : List (Nat × Nat)
  xfers : List Xfer
  serves : List Serve
  accums : List AccumXfer
  dones : List DoneRec
  table : List Byte
  loading : List Nat
  ctxs : List (Nat × SealCtx)
  ctrs : List (Nat × Nat)
  aborts : List (Nat × Nat)
  sent : List SentMsg
  passed : List (BitVec 512)
  arrived : List (Nat × Packet)
  selfSig : List SyncWork
  barWaits : List (Nat × Nat)
  chans : List (Nat × Nat)
  handovers : List Handover
  nextId : Nat
deriving DecidableEq, Repr

/-- A die-to-die channel direction that nothing was assigned to has no owner (R15). -/
def chanReset (_ : Nat) : Nat := 0xFF

/-- A context that holds no key. -/
def ctxReset (_ : Nat) : SealCtx := ⟨0, none, none, 0, []⟩

def Fabric.reset : Fabric :=
  { heads := [], links := [], outs := [], lastLink := [], xfers := [], serves := [], accums := [], dones := [], table := [], loading := [], ctxs := [],
    ctrs := [], aborts := [], sent := [], passed := [], arrived := [], selfSig := [], barWaits := [], chans := [],
    handovers := [], nextId := 0 }

/-! ## The HBM controllers -/

/-- Whose work a sector request is: transfer, served packet or host-die record of that number, or a bit of the update bitmap
(R176). -/
inductive Who where
  | xfer (num : Nat)
  | serve (num : Nat)
  | host (num : Nat)
  | mask (byteOff bitNo : Nat)
deriving DecidableEq, Repr

/-- A sector request in a pseudo-channel's queue (R217): `place` is the line's place in its transfer or packet. -/
structure HbmReq where
  write : Bool
  off : Nat
  line : Line
  who : Who
  place : Nat
deriving DecidableEq, Repr

/-- One pseudo-channel beyond its register words (R215 to R223): the slot within its cycle of 200 frames, the request queue
of each owner, the open row of each bank, slots since the last activation (at most 3), the direction of the previous
transfer, owners whose head has waited its turnaround slot, banks under refresh with the slots left, the rewrite queue,
the next sector to scrub, retrain points left, the temperature of its last retrain, and the margin points still to run with
the pass bits of those that ran (R224). -/
structure Pc where
  slot : Nat
  queues : List (Nat × List HbmReq)
  rows : List (Nat × Nat)
  sinceAct : Nat
  lastWrite : Option Bool
  turned : List Nat
  refresh : List (Nat × Nat)
  rewrite : List Nat
  scrub : Nat
  train : Nat
  trainTemp : Int
  param : Nat
  points : List Nat
  passes : List (BitVec 32)
deriving DecidableEq, Repr

/-- A pseudo-channel at power-on: every row closed. -/
def pcReset (_ : Nat) : Pc :=
  { slot := 0, queues := [], rows := [], sinceAct := 3, lastWrite := none, turned := [], refresh := [], rewrite := [],
    scrub := 0, train := 0, trainTemp := 0, param := 0, points := [], passes := [] }

/-! ## Host networks, Sluice and data streams (chapter 15) -/

/-- A whole Sluice message (Table 15-1): the header fields that do not change between its fragments, and the payload. -/
structure Msg where
  kind : Nat
  verb : Nat
  status : Nat
  session : Nat
  reqId : BitVec 32
  payload : List Byte
deriving DecidableEq, Repr

/-- A request that its session has answered, or is still to answer (R364): the answer is kept when it is at most 8,192 B. -/
structure Kept where
  reqId : BitVec 32
  answer : Option Msg
deriving DecidableEq, Repr

/-- A datagram that leaves a port (R357, R362): IPv6 or IPv4, the DF bit of an IPv4 header, the VLAN id (0 untagged), the addresses, the
UDP ports, the UDP checksum and the UDP payload. -/
structure Datagram where
  v6 : Bool
  df : Bool
  vlan : Nat
  source : BitVec 128
  dest : BitVec 128
  sport : BitVec 16
  dport : BitVec 16
  sum : BitVec 16
  data : List Byte
deriving DecidableEq, Repr

/-- A message being reassembled (R365): session, REQ_ID, verb, KIND, port, NFRAG, and the fragments that have come. -/
structure Partial where
  session : Nat
  reqId : BitVec 32
  verb : Nat
  kind : Nat
  port : Nat
  nfrag : Nat
  frags : List (Nat × List Byte)
deriving DecidableEq, Repr

/-- An EVENT message that its session has not acknowledged (R372), and how often it was sent. -/
structure EvDue where
  reqId : BitVec 32
  record : BitVec 1024
  tries : Nat
deriving DecidableEq, Repr

/-- A Sluice session (R363 to R368). `opened` says that FINISH was accepted; before that the session waits for it. `helloReq` and `hello` are
the REQ_ID and the payload of its HELLO, `chal` the CHALLENGE that answered. `role` is 1
operator, 2 observer, 3 enrolment (R367, R401). `rxSeen` bit i stands for SEQ rxHigh - 1 - i. `txSeq` is the next SEQ sent,
`port` and `peer` where the last accepted request came from. -/
structure Session where
  num : Nat
  opened : Bool
  role : Nat
  digest : List Byte
  helloReq : BitVec 32
  hello : List Byte
  chal : List Byte
  ss : List Byte
  keyIn : List Byte
  keyOut : List Byte
  rxHigh : Nat
  rxSeen : BitVec 64
  txSeq : Nat
  port : Nat
  peer : Peer
  kept : List Kept
  events : List EvDue
  nextEvent : BitVec 32
deriving DecidableEq, Repr

/-- A queue pair (R360): its connection block, the PSNs that the next packet of each direction takes, its rate in kb/s
(R361), whether it is in the error state, its transport and its RNR retries in a row, and the count at its last CNP sent. -/
structure Qp where
  connected : Bool
  port : Nat
  dscp : Nat
  remoteQpn : Nat
  gid : List Byte
  txPsn : Nat
  rxPsn : Nat
  rate : Nat
  error : Bool
  retries : Nat
  rnr : Nat
  lastCnp : Option (BitVec 64)
deriving DecidableEq, Repr

/-- A queue pair that nothing has connected. -/
def qpReset (_ : Nat) : Qp := ⟨false, 0, 0, 0, [], 0, 0, 100000000, false, 0, 0, none⟩

/-- A data stream beyond its table entry (Table 15-8): `next` is its next RSEQ, `freed` the host slots freed, `busy` that a
WRITE or a READ of the next record is out, `moved` that a WRITE is to be sent again over the QP that its stream moved to, or that the
answer to a READ is to be dropped, `regions` the byte runs still to write by a checkpoint stream. -/
structure DataStream where
  session : Nat
  isSealed : Bool
  keyId : Nat
  qp : Nat
  alt : Option Nat
  ring : Nat
  slots : Nat
  slotSize : Nat
  doneObj : Nat
  freeObj : Nat
  remote : Nat
  rkey : Nat
  remoteSlots : Nat
  next : Nat
  freed : Nat
  busy : Bool
  moved : Bool
  regions : List (Nat × Nat)
deriving DecidableEq, Repr

/-- A record that a host die writes to HBM, or one that it reads from there (R213, R384 to R386): its number, stream, host die
and direction, FLAGS and RSEQ, the HBM offset of its range, the bytes before its data and LENGTH, the channel directions that
it uses, the sectors still outstanding and the lines read, and whether a record to write was dropped before it was written. -/
structure HostWork where
  num : Nat
  stream : Nat
  die : Nat
  write : Bool
  flags : Nat
  rseq : Nat
  off : Nat
  skip : Nat
  len : Nat
  chans : List Nat
  left : Nat
  lines : List (Nat × Line)
  dropped : Bool
deriving DecidableEq, Repr

/-- No data stream at an entry. -/
def dataReset (_ : Nat) : Option DataStream := none

/-- A key that the trust die released (Table 15-10): KEY_ID, TYPE, IV salt, key bytes, for TYPE 3 partition and slot, and whether
a stream that seals with it was opened (R384). -/
structure TrustKey where
  id : Nat
  type : Nat
  salt : Nat
  key : List Byte
  partition : Nat
  slot : Nat
  bound : Bool
deriving DecidableEq, Repr

/-- The last attestation report (R381): REPORT_ID, its bytes, its decapsulation key, and whether it is stale. -/
structure Report where
  id : Nat
  bytes : List Byte
  dk : List Byte
  stale : Bool
deriving DecidableEq, Repr

/-- A MARGIN whose points are being measured (R224): the request, the stack, the pseudo-channels and the points. -/
structure MarginReq where
  req : Req
  stack : Nat
  pcs : List Nat
  points : Nat
deriving DecidableEq, Repr

/-- The generator and checker of a lane (R264, R369); `taken` from a set to its release. A fabric lane's codes and counts stand in
its registers; here it has the last 64 bits that its generator sent (`taken` once it has begun) and that its checker saw, the latest
in bit 0, how many the checker saw, at most 64, and its run of correct bits before lock. -/
structure LaneTest where
  taken : Bool
  gen : Nat
  chk : Nat
  user : BitVec 64
  errors : Nat
  bits : Nat
  lock : Bool
  sent : BitVec 64
  seen : BitVec 64
  seenLen : Nat
  run : Nat
deriving DecidableEq, Repr
def laneReset (_ : Nat) : LaneTest := ⟨false, 0, 0, 0, 0, 0, false, 0, 0, 0, 0⟩

/-- The host networks. `ready` holds requests reassembled whole that wait for their verb's command, `cache` the IDENT and
STATUS payloads that the host dies answer with while Hjelper is down (R333), `tests` the lane tests by class, unit and lane
as (class × 65,536 + unit) × 256 + lane. -/
structure Net where
  sessions : List Session
  nextSession : Nat
  parts : List Partial
  ready : List Msg
  qps : List (Nat × Qp)
  data : List (Nat × Option DataStream)
  work : List HostWork
  keys : List TrustKey
  report : Option Report
  reports : Nat
  cache : List Byte × List Byte
  margin : Option MarginReq
  tests : List (Nat × LaneTest)
deriving DecidableEq, Repr
def Net.reset : Net :=
  { sessions := [], nextSession := 1, parts := [], ready := [], qps := [], data := [], work := [], keys := [], report := none, reports := 0,
    cache := ([], []), margin := none, tests := [] }

/-! ## Hjelper, the board and the trust die -/

/-- Totals of the energy monitors in nanojoules since power-on, by consumer class (R340). -/
structure Energy where
  input : Nat
  planks : Nat
  hbm : Nat
  links : Nat
  hosts : Nat
  mgmt : Nat
deriving DecidableEq, Repr
def Energy.zero : Energy := ⟨0, 0, 0, 0, 0, 0⟩

/-- An energy interval (R341), of a job's steps or of a stepless stream: running while `live`, with the step or batch, the
count and the totals at its start, E_GAP, the array operations at its start and the flags of Table 14-3. A closed interval
keeps the totals at its end in `e0`. -/
structure EnergyIv where
  job : Nat
  stream : Option Nat
  live : Bool
  step : Nat
  h0 : BitVec 64
  e0 : Energy
  gap : Nat
  ops0 : Nat
  capped : Bool
  backstop : Bool
  throttled : Bool
  hjReset : Bool
  suspended : Bool
deriving DecidableEq, Repr

/-- A board input (R346): whether a level was ever accepted, the accepted level, the last stable level, whether the input chatters, the
counts at its last accepted edges, newest first, at most 11. -/
structure Pin where
  known : Bool
  level : Bool
  stable : Bool
  chatter : Bool
  edges : List (BitVec 64)
deriving DecidableEq, Repr
def pinReset (_ : Nat) : Pin := ⟨false, false, false, false, []⟩

/-- An open update (R413): its slot, the image length, the next offset, and the session that owns it. -/
structure Update where
  slot : Nat
  len : Nat
  next : Nat
  session : Nat
deriving DecidableEq, Repr

/-- The handover record that Hjelper leaves with the trust die (R351): POWER_CAP and POWER_STATUS, the escalation state of every
plank, STEP_TICK, and the open energy intervals. -/
structure HjRecord where
  cap : Word64
  power : Word64
  levels : List Word64
  tick : Word64
  ivs : List EnergyIv
deriving DecidableEq, Repr

/-- An UPDATE_ACTIVATE that waits for Hjelper's new firmware (R351, R352): the request that it answers, the mask bits still to
do, those done, the bank, version and measurement before, and the handover record. -/
structure Activation where
  req : Req
  todo : Nat
  done : Nat
  oldBank : Nat
  oldVersion : Nat
  oldHj : List Byte
  handover : HjRecord
deriving DecidableEq, Repr

/-- What the module holds of its board and bring-up beyond the register words. `calDone` marks the compute dies whose
calibration has ended since Boot: their planks are powered (R409, R443). `eccUnlogged` and `linkUnlogged` mark stacks and
links with a sticky error that Hjelper has not filed yet (R321), `errDropped` that the error queue has dropped an error
since its last record, `charges` those that wait for Hjelper's restart: plank, peat kind, code, tag, tensor id.
`inputClosed` is the input path and `vinOk` that VIN was at least 30.5 V at its last change (R421), `pins` the inputs of J4 in the order of BOARD_IN, `pgOut` PG_OUT, `samples` the last
measurements of the input power in mW, newest first, `wdogAt` the count at the last watchdog kick. `booted` says that a slot
was selected in this Boot, `calNext` is the next compute die to calibrate, `reached` the header digests of the images
that have reached shallows service (R398). `flash` is the attached flash, listed where it differs from its delivery (R392), `bootAt` the
count as Boot began (R412), `bankA` and `bankB` the firmware in Hjelper's banks and `hjData` the bytes of its data memory that are
not zero (R331), `recoveryFailed` that a start needed the recovery image and it was bad (R402),
`owner` the enrolled owner-key digest, `config` the last configuration record verified, `bootConf` that of the last Boot, whose fields not
marked Live are in force, and `bootSlot` the slot that it ran (R403), `committed` the slot that UPDATE_COMMIT chose in this Mire hold and
`startSlot` the one from which UPDATE_ACTIVATE restarts Boot (R415), `recoveryWp` the write protection of the recovery area (R392),
`peatDue` that the peat log could not be read at the start and its record is still to be written (Table 16-11), `logSeq` the SEQ of the last
event-log record (R350), `mHj`, `mConfig` and `routing` the digests M_HJELPER, M_CONFIG
and M_ROUTING,
`rbs` the anti-rollback counters 0 to 2. `hjUp` says that Hjelper has run since Boot.
`energy` are the monitors' totals, `ivs` the energy intervals, `ivDue` the energy records that wait for Hjelper, with their place and job. -/
structure Board where
  calDone : BitVec 8
  eccUnlogged : BitVec 16
  linkUnlogged : BitVec 48
  errDropped : Bool
  charges : List ErrEntry
  heat : List (Nat × Nat)
  energy : Energy
  ivs : List EnergyIv
  ivDue : List (Nat × Nat × BitVec 512)
  inputClosed : Bool
  vinOk : Bool
  pins : List (Nat × Pin)
  pgOut : Bool
  samples : List Nat
  wdogAt : BitVec 64
  booted : Bool
  calNext : Nat
  reached : List (List Byte)
  flash : List (Nat × Byte)
  bootAt : BitVec 64
  bankA : List Byte
  bankB : List Byte
  hjData : List (Nat × Byte)
  recoveryFailed : Bool
  owner : Option (List Byte)
  config : Option (List Byte)
  bootConf : Option (List Byte)
  bootSlot : Nat
  committed : Option Nat
  startSlot : Option Nat
  recoveryWp : Bool
  peatDue : Bool
  logSeq : Nat
  mHj : List Byte
  mConfig : List Byte
  routing : List Byte
  rbs : List Nat
  hjUp : Bool
  update : Option Update
  activation : Option Activation
deriving DecidableEq, Repr
def Board.reset : Board :=
  { calDone := 0, eccUnlogged := 0, linkUnlogged := 0, errDropped := false, charges := [], heat := [], energy := .zero, ivs := [],
    ivDue := [], inputClosed := true, vinOk := true, pins := [], pgOut := false, samples := [], wdogAt := 0, booted := false, calNext := 0,
    reached := [], flash := [], bootAt := 0, bankA := [], bankB := [], hjData := [], recoveryFailed := false, owner := none, config := none, bootConf := none, bootSlot := 0,
    committed := none, startSlot := none, recoveryWp := true, peatDue := false, logSeq := 0, mHj := [], mConfig := [], routing := [], rbs := [0, 0, 0],
    hjUp := false, update := none, activation := none }


/-! ## The machine -/

/-- What the module hands to the outside: the model's own record, newest first (assumption 3). A Sluice message stands with its
datagrams, an ARP, neighbour or echo answer with its VLAN id and, in an IPv4 packet, its DF bit. A RoCE message stands with its queue
pair for its packets of the path MTU, each tagged as its port's frames are, with DF set over IPv4 and the destination of its REMOTE_QPN
and REMOTE_GID (R357, R359). -/
inductive OutMsg where
  | identity (l chip link : Nat)
  | pattern (l lane : Nat) (bits : BitVec 64)
  | frame (l : Nat) (f : Frame)
  | alignment (l : Nat)
  | sluice (port : Nat) (m : Msg) (wire : List Datagram)
  | arpReply (port vlan : Nat) (mac : BitVec 48) (ip : BitVec 32) (toMac : BitVec 48) (toIp : BitVec 32)
  | neighbourAdvert (port vlan : Nat) (mac : BitVec 48) (ip dest : BitVec 128)
  | echoReply (port vlan : Nat) (v6 df : Bool) (source dest : BitVec 128) (data : List Byte)
  | ack (q : Nat)
  | rnrNak (q : Nat)
  | invalidNak (q : Nat)
  | cnp (q : Nat)
  | rdmaWrite (q : Nat) (addr : BitVec 64) (rkey : BitVec 32) (data : List Byte)
  | rdmaRead (q : Nat) (addr : BitVec 64) (rkey : BitVec 32) (len : Nat)
deriving DecidableEq, Repr

/-- The state of the module. `win` holds every register word of the management window by offset (R440), `mem` HBM and the plank
stores by module offset, `poison` their poisoned granules (R220), `planks` the planks beyond their registers, `objs` the object
records (R267) and `latch` word 0 of an object command by writer (R269), `streams` the stream table (R374), `evlog` the event
log and `fifo` the events that wait for Hjelper (R333), `errq` its open errors (R319), `peat` the peat log (R322), `count` the
Hjelper-local count as it last stood in a record (R14), `wall` and `wallAt` the wall time and the count it was set at, `jobs` the loaded jobs, `fab` the fabric, `pcs` the pseudo-channels, `board`
Hjelper, the board and the trust die, `net` the host networks, `out` what the module sent (assumption 3), `stamps` and `draws`
how many hummock counts and free values were taken (assumption 5), `pending` the commands that wait, first in, first out.
Lists of pairs are in canonical form: keys rising, no entry equal to what an unlisted key holds. -/
structure State where
  win : List (Nat × Word64)
  mem : List (Nat × Byte)
  poison : List (Nat × Bool)
  planks : List (Nat × Plank)
  objs : List (Nat × ObjRec)
  latch : List (Nat × Word64)
  streams : List (Nat × StreamRec)
  evlog : List (Nat × BitVec 1024)
  fifo : List Event
  errq : List ErrEntry
  peat : List (Nat × BitVec 512)
  count : BitVec 64
  wall : BitVec 64
  wallAt : BitVec 64
  jobs : List Job
  fab : Fabric
  pcs : List (Nat × Pc)
  board : Board
  net : Net
  out : List OutMsg
  stamps : Nat
  draws : Nat
  pending : List Instr
deriving DecidableEq, Repr

/-- Why a command stops the machine with a fault: no command of this block does. Each is an event that the module meets, and
the manual gives every one an outcome; where its condition does not hold, it changes nothing. -/
inductive Fault where
deriving DecidableEq, Repr

/-- Why a command is refused. -/
inductive Refusal where
  /-- Raised only by an arm of `exec` for a command that has no meaning in the model. Safe: nothing is claimed of it. -/
  | notModelled (mnemonic : String)
deriving DecidableEq, Repr

/-- Outcome of a step of this machine. -/
abbrev Out := Host.Outcome State Fault Refusal

/-- The machine right after reset (R445, R267, R15): every register word at its reset value, nothing written in memory,
every unit idle, no job, no session, an empty queue. -/
def State.reset : State :=
  { win := [], mem := [], poison := [], planks := [], objs := [], latch := [], streams := [], evlog := [], fifo := [],
    errq := [], peat := [], count := 0, wall := 0, wallAt := 0, jobs := [], fab := .reset, pcs := [], board := .reset, net := .reset, out := [],
    stamps := 0, draws := 0, pending := [] }

end Sys2Proof.Machine
end

