-- ==== Sys2Proof/Machine/Msg.lean ====
section
/-!
DEFINITION. How a Sluice message goes onto the wire (R357, R362, R363, R365, Table 15-1): its fragments, their headers, their
sealing, their datagrams; and the configuration record that names the module's addresses (R403 to R405).
-/
namespace Sys2Proof.Machine

/-- n bytes of a payload from byte off. -/
def slice (bs : List Byte) (off n : Nat) : List Byte := (bs.drop off).take n
/-- The number in n bytes of a payload from byte off, most significant first. -/
def beAt (bs : List Byte) (off n : Nat) : Nat := beNat (slice bs off n)

/-- The number in n bytes from byte off, least significant first. -/
def leAt (bs : List Byte) (off n : Nat) : Nat := leNat (slice bs off n)
def allZero (bs : List Byte) : Bool := bs.all (· == 0)

/-! ## The configuration record (R403 to R405) -/

namespace Cfg
def hummock (c : List Byte) : Nat := leAt c 0 2
def sluicePort (c : List Byte) : Nat := let p := leAt c 2 2; if p = 0 then 21430 else p
def fragMax (c : List Byte) : Nat := leAt c 4 2
def autoload (c : List Byte) : Nat := leAt c 6 1
/-- Entry of port e: MAC, VLAN, IPv4, IPv6. -/
def port (c : List Byte) (e : Nat) : List Byte := slice c (8 + 32 * e) 32
/-- VLAN id of port e, 0 untagged. -/
def vlan (c : List Byte) (e : Nat) : Nat := leAt (port c e) 6 2
def mac (c : List Byte) (e : Nat) : BitVec 48 := BitVec.ofNat 48 (leAt (port c e) 0 6)
def ipv4 (c : List Byte) (e : Nat) : BitVec 32 := BitVec.ofNat 32 (leAt (port c e) 8 4)
def ipv6 (c : List Byte) (e : Nat) : BitVec 128 := BitVec.ofNat 128 (leAt (port c e) 16 16)
/-- Host-key digests with their roles; role 0 is unused (R367). -/
def hosts (c : List Byte) : List (List Byte × Nat) :=
  ((List.range 8).map (fun i => let h := slice c (264 + 72 * i) 72; (h.take 64, leAt h 64 1))).filter (fun h => h.2 != 0)
def capW (c : List Byte) : Nat := leAt c 840 2
def hyst (c : List Byte) : Nat := leAt c 842 1
def evtMask (c : List Byte) : Nat := leAt c 843 1
def rate (c : List Byte) : Nat := leAt c 844 1
def calPeriod (c : List Byte) : Nat := leAt c 846 2
def soundPeriod (c : List Byte) : Nat := leAt c 848 8
def thr (c : List Byte) (i : Nat) : Nat := leAt c (856 + i) 1
def ownerNext (c : List Byte) : List Byte := slice c 864 64
end Cfg

/-! ## Fragments and datagrams -/

/-- Header of fragment i of n (Table 15-1); WALL is the host's field alone. -/
def fragHead (m : Msg) (i n seq len : Nat) : List Byte :=
  be 1 1 ++ be 1 m.kind ++ be 2 m.verb ++ be 2 m.status ++ be 1 i ++ be 1 n ++ be 4 m.session ++ be 4 m.reqId.toNat
    ++ be 8 seq ++ be 8 0 ++ be 4 len ++ be 4 0

/-- IV of a sealed fragment: 32 zero bits and SEQ (R363). -/
def seqIv (seq : Nat) : List Byte := be 4 0 ++ be 8 seq

/-- Number of fragments of a payload: at least one. -/
def fragCount (fragMax len : Nat) : Nat := max 1 ((len + fragMax - 1) / fragMax)

/-- Sum of the 16-bit words of a run of bytes, a last odd byte above a zero. -/
def wordSum : List Byte → Nat
  | [] => 0
  | [a] => a.toNat * 256
  | a :: b :: t => a.toNat * 256 + b.toNat + wordSum t

/-- The UDP checksum (R357; the rule of IPv4 and IPv6 for it): the inverse of the one's-complement sum over the pseudo-header, the UDP
header and the payload, a result of 0 sent as 0xFFFF. -/
def udpSum (v6 : Bool) (source dest : BitVec 128) (sport dport : BitVec 16) (data : List Byte) : BitVec 16 :=
  let len := 8 + data.length
  let addrs := if v6 then be 16 source.toNat ++ be 16 dest.toNat else be 4 source.toNat ++ be 4 dest.toNat
  let n := wordSum (addrs ++ be 4 len ++ be 4 17 ++ be 2 sport.toNat ++ be 2 dport.toNat ++ be 2 len ++ data)
  let r := 65535 - ((n - 1) % 65535 + 1)
  BitVec.ofNat 16 (if r = 0 then 65535 else r)

/-- A datagram from the module: DF in every IPv4 packet, and its UDP checksum (R357). -/
def datagram (v6 : Bool) (vlan : Nat) (source dest : BitVec 128) (sport dport : BitVec 16) (data : List Byte) : Datagram :=
  ⟨v6, !v6, vlan, source, dest, sport, dport, udpSum v6 source dest sport dport data, data⟩

/-- The UDP payloads of a message. A sealed message takes one SEQ per fragment from `seq` on; a message without a key is unsealed,
with SEQ 0. -/
def wireMsg (fragMax : Nat) (key : Option (List Byte)) (seq : Nat) (m : Msg) : List (List Byte) :=
  let n := fragCount fragMax m.payload.length
  (List.range n).map (fun i =>
    let data := slice m.payload (i * fragMax) fragMax
    match key with
    | some k =>
      let h := fragHead m i n (seq + i) data.length
      let c := Config.gcmSeal k (seqIv (seq + i)) h data
      h ++ c.1 ++ c.2
    | none => fragHead m i n 0 data.length ++ data)

end Sys2Proof.Machine
end

