-- ==== Sys2Proof/Machine/Ops.lean ====
section
/-!
DEFINITION. The operations that the meanings share: register words, memory with its poison, plank-store banks and their
owners, objects and their signals, streams, the event log, traps of the plank core and pass exception records.
-/
namespace Sys2Proof.Machine

/-! ## Register words -/

def State.word (s : State) (off : Nat) : Word64 := kget winReset s.win off
def State.setWord (s : State) (off : Nat) (v : Word64) : State := { s with win := kput winReset s.win off v }
/-- Value of a register field. -/
def State.rget (s : State) (f : RegF) : Nat := fld (s.word f.off) f.hi f.lo
/-- Whether a register field is nonzero. -/
def State.rbit (s : State) (f : RegF) : Bool := s.rget f != 0
/-- Set a register field; the rest of its word keeps its value. -/
def State.rset (s : State) (f : RegF) (v : Nat) : State := s.setWord f.off (setFld (s.word f.off) f.hi f.lo v)
/-- Add to a counter that saturates (assumption 4 says which counters do). -/
def State.rsat (s : State) (f : RegF) (n : Nat) : State := s.rset f (satAdd (f.hi + 1 - f.lo) (s.rget f) n)
/-- Add to a counter modulo its width. -/
def State.radd (s : State) (f : RegF) (n : Nat) : State := s.rset f (s.rget f + n)
/-- Raise a register field that keeps the highest value. -/
def State.rmax (s : State) (f : RegF) (n : Nat) : State := if s.rget f < n then s.rset f n else s
def boolNat (b : Bool) : Nat := if b then 1 else 0

/-! ## Free values (assumption 5) -/

/-- The Hjelper-local count at this instant (R14): the count of the last record plus a free number of cycles since, which does
not run over 64 bits. -/
def State.hc (s : State) : BitVec 64 :=
  s.count + BitVec.ofNat 64 ((Config.hcount s.stamps).toNat % (2 ^ 64 - s.count.toNat))
/-- A record takes the count: the next one is no lower. -/
def State.tick (s : State) : State := { s with count := s.hc, stamps := s.stamps + 1 }
/-- One millisecond in Hjelper-local counts of 10 ns (R331). -/
def msCounts : Nat := 100000
/-- Milliseconds since Boot began, as BOOT_TIMES holds a milestone (R412); a field that they overrun holds its top. -/
def bootMs (s : State) : Nat := min 65535 ((s.hc - s.board.bootAt).toNat / msCounts)
/-- The next free word, for a value that the manual leaves open. -/
def State.fresh (s : State) : BitVec 64 := Config.freeWord s.draws
def State.drew (s : State) : State := { s with draws := s.draws + 1 }

/-! ## Planks -/

def State.plank (s : State) (p : Nat) : Plank := kget plankReset s.planks p
def State.setPlank (s : State) (p : Nat) (x : Plank) : State := { s with planks := kput plankReset s.planks p x }
def State.modPlank (s : State) (p : Nat) (f : Plank → Plank) : State := s.setPlank p (f (s.plank p))

/-! ## Memory (R4, R214, R220, R228) -/

def State.byte (s : State) (a : Nat) : Byte := kget noByte s.mem a
def State.bytes (s : State) (a n : Nat) : List Byte := kgets noByte s.mem a n
def State.le (s : State) (a n : Nat) : Nat := leNat (s.bytes a n)
/-- A little-endian record of w bits at a. -/
def State.recAt (s : State) (a w : Nat) : BitVec w := BitVec.ofNat w (s.le a (w / 8))

/-- Size of the poison granule at an offset: a 64 B sector in HBM, a 64-bit word in a plank store (R220). -/
def granule (a : Nat) : Nat := if a < 2 ^ 40 then 64 else 8
/-- Any byte of [a, a + n) poisoned. -/
def State.poisoned (s : State) (a n : Nat) : Bool :=
  s.poison.any (fun e => e.2 && decide (e.1 < a + n) && decide (a < e.1 + granule e.1))
/-- Mark poisoned every granule that [a, a + n) touches. -/
def State.addPoison (s : State) (a n : Nat) : State :=
  if n = 0 then s else
  let g := granule a
  let first := a / g
  let last := (a + n - 1) / g
  { s with poison := (List.range (last + 1 - first)).foldl (fun m i => kput noFlag m ((first + i) * g) true) s.poison }
/-- Write bytes; a granule that the write covers whole loses its poison, another keeps it (R220). -/
def State.store (s : State) (a : Nat) (bs : List Byte) : State :=
  { s with
    mem := kputs noByte s.mem a bs
    poison := s.poison.filter (fun e => !(decide (a ≤ e.1) && decide (e.1 + granule e.1 ≤ a + bs.length))) }
/-- Write bytes that leave the poison of their granules as it stands: an accumulate-on-write (R220). -/
def State.storeKeep (s : State) (a : Nat) (bs : List Byte) : State := { s with mem := kputs noByte s.mem a bs }
/-- Write a record of w bits, little-endian. -/
def State.storeRec {w : Nat} (s : State) (a : Nat) (x : BitVec w) : State := s.store a (leBytes (w / 8) x.toNat)

/-! ## Plank-store banks (R228, R230, Table 9-5, Table 9-6) -/

/-- A span of banks: its first bank, the offset at which it begins, and how many banks it joins. -/
structure Span where
  first : Nat
  base : Nat
  banks : Nat
deriving DecidableEq, Repr

/-- Span code that quad q carries. -/
def spanCode (s : State) (p q : Nat) : Nat := bits (s.rget (Reg.PS_MAP_SPAN p)) (2 * q) 2

/-- The span that holds quad q (R228): the quads of its code when all of them carry it, else the quad alone. -/
def spanOf (s : State) (p q : Nat) : Span :=
  let c := spanCode s p q
  let n := 2 ^ c
  let q0 := q / n * n
  if (List.range n).all (fun i => spanCode s p (q0 + i) == c) then ⟨4 * q0, q0 * 0x200000, 4 * n⟩
  else ⟨4 * q, q * 0x200000, 4⟩

/-- Bank of a plank-store offset. -/
def bankOf (s : State) (p off : Nat) : Nat :=
  let sp := spanOf s p (off / 0x200000)
  sp.first + (off - sp.base) / 64 % sp.banks

/-- Owner code of bank b; codes 5 to 15 read as 0 (Table 9-6). -/
def bankOwner (s : State) (p b : Nat) : Nat :=
  let w := if b < 16 then s.word (Reg.BANK_OWN_LO_OWN p).off else s.word (Reg.BANK_OWN_HI_OWN p).off
  let c := bits w.toNat (b % 16 * 4) 4
  if c < 5 then c else 0

/-- Banks that hold the lines of [off, off + n), each span's banks at most once. -/
def rangeBanks (s : State) (p off n : Nat) : List Nat :=
  if n = 0 then [] else
  (List.range 8).flatMap (fun q =>
    let sp := spanOf s p q
    if sp.base ≠ q * 0x200000 then [] else
    let lo := max off sp.base
    let hi := min (off + n) (sp.base + sp.banks * 0x80000)
    if hi ≤ lo then [] else
    let l0 := lo / 64
    let l1 := (hi - 1) / 64
    (List.range (min (l1 + 1 - l0) sp.banks)).map (fun i => bankOf s p ((l0 + i) * 64)))

/-- The first bank of a range that none of the owner codes given holds. -/
def badBank (s : State) (p : Nat) (codes : List Nat) (off n : Nat) : Option Nat :=
  (rangeBanks s p off n).find? (fun b => !codes.contains (bankOwner s p b))

/-- The first bank of a range that the owner codes do not cover; a range beyond the store counts as such (assumption 11). -/
def storeBad (s : State) (p : Nat) (codes : List Nat) (r : Nat × Nat) : Option Nat :=
  if r.2 = 0 then none else if 0x1000000 < r.1 + r.2 then some 31 else badBank s p codes r.1 r.2

def firstBad (s : State) (p : Nat) (codes : List Nat) (rs : List (Nat × Nat)) : Option Nat :=
  rs.findSome? (storeBad s p codes)

/-- Owner codes of Table 9-6. -/
def ownCells : Nat := 1
def ownVector : Nat := 2
def ownCore : Nat := 3
def ownTransfer : Nat := 4

/-! ## The event log and EVENT messages (R333, R350) -/

/-- Chip number of the module (R246). -/
def chipNo (s : State) : Nat := s.rget Reg.CHIP_ID_HUMMOCK * 32 + s.rget Reg.CHIP_ID_MEMBER

/-- The 128 B event-log record of an event (Table 14-6). -/
def eventRec (s : State) (seq : Nat) (e : Event) : BitVec 1024 :=
  let h : BitVec 1024 := 0
  let h := fset h (31, 0) seq
  let h := fset h (33, 32) e.cls
  let h := fset h (63, 48) e.kind
  let h := fset h (71, 64) e.unitClass
  let h := fset h (87, 72) e.unit
  let h := fset h (151, 88) e.step
  let h := fset h (215, 152) e.hcount.toNat
  let h := fset h (279, 216) s.wall.toNat
  let h := fset h (343, 280) s.wallAt.toNat
  fset h (1023, 512) e.payload.toNat

/-! ## Sluice messages (R358, R362, R368, R372) -/

def portIsUp (s : State) (e : Nat) : Bool := s.rbit (Reg.PORT_STATUS_UP e)
/-- Ports of a network: A is E0 to E3, B is E4 to E7 (R356). -/
def networkPorts (n : Nat) : List Nat := (List.range 4).map (fun i => 4 * n + i)
/-- The port on which a message leaves: the one named, else one of the other network, else another of its own (R358, R372). -/
def portFor (s : State) (e : Nat) : Option Nat :=
  if portIsUp s e then some e else (networkPorts (1 - e / 4) ++ networkPorts (e / 4)).find? (portIsUp s)

/-- The last SEQ of a session's direction (R368). -/
def lastSeq : Nat := 2 ^ 32
/-- A session that has not come to the end of its SEQ. -/
def Session.usable (x : Session) : Bool := decide (x.txSeq ≤ lastSeq) && decide (x.rxHigh ≤ lastSeq)
def findSession (s : State) (n : Nat) : Option Session := s.net.sessions.find? (fun x => x.num == n && x.usable)
def modSession (s : State) (n : Nat) (f : Session → Session) : State :=
  { s with net := { s.net with sessions := s.net.sessions.map (fun x => if x.num == n then f x else x) } }

/-! ## Addresses (R357, R400, R403): those of the configuration that Boot applied -/

/-- MAC address of a port: the configuration's, else the factory's. -/
def portMac (s : State) (e : Nat) : BitVec 48 :=
  match s.board.bootConf with
  | some c => Cfg.mac c e
  | none => Config.factoryMac
/-- IPv4 address, 0 for none. -/
def portIp4 (s : State) (e : Nat) : BitVec 32 :=
  match s.board.bootConf with
  | some c => Cfg.ipv4 c e
  | none => 0
/-- Modified EUI-64 of a MAC address: the universal bit inverted, FFFE in the middle. -/
def eui64 (mac : BitVec 48) : Nat := (fld mac 47 24 ^^^ 0x020000) * 2 ^ 40 + 0xFFFE * 2 ^ 24 + fld mac 23 0
def portIp6 (s : State) (e : Nat) : BitVec 128 :=
  match s.board.bootConf with
  | some c => Cfg.ipv6 c e
  | none => BitVec.ofNat 128 (0xFE80 * 2 ^ 112 + eui64 Config.factoryMac)
/-- VLAN id of a port's frames, 0 untagged (Table 16-5). -/
def portVlan (s : State) (e : Nat) : Nat :=
  match s.board.bootConf with
  | some c => Cfg.vlan c e
  | none => 0

def fragMax (s : State) : Nat := s.rget Reg.SLUICE_STATUS_FRAG_MAX

/-- The Sluice datagrams of a port to a peer (R357, R362). -/
def sluiceDatagrams (s : State) (p : Nat) (peer : Peer) (payloads : List (List Byte)) : List Datagram :=
  let mine : BitVec 128 := if peer.v6 then portIp6 s p else (portIp4 s p).setWidth 128
  payloads.map (datagram peer.v6 (portVlan s p) mine peer.ip (BitVec.ofNat 16 (s.rget Reg.SLUICE_STATUS_UDP_PORT)) peer.udp)

/-- Send a message by port e to a peer. A sealed one takes the next SEQs of its session; a session that has none left ends (R368). With
no port up, nothing leaves. -/
def sendMsg (s : State) (e : Nat) (peer : Peer) (m : Msg) : State :=
  match portFor s e with
  | none => s
  | some p =>
    let n := fragCount (fragMax s) m.payload.length
    if m.kind = 1 then
      match findSession s m.session with
      | none => s
      | some x =>
        let s := modSession s x.num (fun x => { x with txSeq := x.txSeq + n })
        if lastSeq + 1 < x.txSeq + n then s
        else { s.radd (Reg.PORT_TX_FRAMES p) n with
          out := .sluice p m (sluiceDatagrams s p peer (wireMsg (fragMax s) (some x.keyOut) x.txSeq m)) :: s.out }
    else { s.radd (Reg.PORT_TX_FRAMES p) n with
      out := .sluice p m (sluiceDatagrams s p peer (wireMsg (fragMax s) none 0 m)) :: s.out }

/-- The EVENT message of a record (Table 15-4): 128 B in memory order. -/
def eventMsg (x : Session) (reqId : BitVec 32) (er : BitVec 1024) : Msg :=
  ⟨1, 0x00F0, 0, x.num, reqId, leBytes 128 er.toNat⟩

/-- Send a record as an EVENT message on every open session (R372). -/
def sendEvent (s : State) (er : BitVec 1024) : State :=
  (s.net.sessions.filter (fun x => x.opened && x.usable)).foldl (fun s x =>
    let s := modSession s x.num (fun x => { x with
      events := x.events ++ [⟨x.nextEvent, er, 1⟩]
      nextEvent := x.nextEvent + 1 })
    sendMsg s x.port x.peer (eventMsg x x.nextEvent er)) s

/-- Write an event into the log ring, the oldest overwritten when it is full, and send it when EVT_MASK enables its class. The ring and its
SEQ are kept through RESET_N (R350), while EVLOG_STATUS returns to its Reset value (R445) and shows them again from the next record on
(assumption 93). -/
def logEvent (s : State) (e : Event) : State :=
  let seq := s.board.logSeq + 1
  let head := s.board.logSeq % 8192
  let full := decide (8192 < seq)
  let er := eventRec s seq e
  let s : State := { s with evlog := kput (fun _ => 0) s.evlog head er, board := { s.board with logSeq := seq } }
  let s := s.rset Reg.EVLOG_STATUS_SEQ seq
  let s := s.rset Reg.EVLOG_STATUS_HEAD ((head + 1) % 8192)
  let s := s.rset Reg.EVLOG_STATUS_OLDEST (if full then (head + 1) % 8192 else 0)
  if bit (s.rget Reg.EVT_MASK_CLASSES) e.cls then sendEvent s er else s

/-- Hjelper's firmware runs (Table 14-10): from its reset on it does not, be it starting or activating. -/
def hjelperUp (s : State) : Bool := s.rget Reg.HJ_STATUS_STATE == 1

/-- A unit files an event: into the log while Hjelper runs, else into the 256-entry FIFO, which counts what it drops (R333). -/
def fileEvent (s : State) (cls kind unitClass unit step : Nat) (payload : BitVec 512) : State :=
  let e : Event := ⟨cls, kind, unitClass, unit, step, s.hc, payload⟩
  let s := s.tick
  if hjelperUp s then logEvent s e
  else if s.fifo.length < 256 then { s with fifo := s.fifo ++ [e] }
  else s.rsat Reg.EVLOG_LOST_COUNT 1

/-- Set an alert bit (R349). -/
def alert (s : State) (n : Nat) : State :=
  s.rset Reg.ALERT_STATUS_ALERTS (s.rget Reg.ALERT_STATUS_ALERTS ||| 2 ^ n)

/-! ## Streams, jobs and the verdict flags of a step -/

def State.obj (s : State) (o : Nat) : ObjRec := kget objReset s.objs o
def State.setObj (s : State) (o : Nat) (r : ObjRec) : State := { s with objs := kput objReset s.objs o r }
def State.strm (s : State) (n : Nat) : StreamRec := kget streamReset s.streams n
def State.setStrm (s : State) (n : Nat) (r : StreamRec) : State := { s with streams := kput streamReset s.streams n r }

/-- Set a field of a stream-table entry. -/
def strmSet (s : State) (n : Nat) (f : Fd) (v : Nat) : State := s.setStrm n (fset (s.strm n) f v)

def findJob (s : State) (id : Nat) : Option Job := s.jobs.find? (fun j => j.id.toNat == id)
def modJob (s : State) (id : Nat) (f : Job → Job) : State :=
  { s with jobs := s.jobs.map (fun j => if j.id.toNat == id then f j else j) }

/-- Stream of the program that a plank runs, when a job names the plank. -/
def plankStream (s : State) (p : Nat) : Option StreamRec := (s.plank p).stream.map (fun n => s.strm n.val)
/-- Step number of a plank: its stream's STEP (R14, R272). -/
def plankStep (s : State) (p : Nat) : Nat :=
  match plankStream s p with
  | some r => fget r Strm.STEP
  | none => 0
/-- Job of a plank's stream. -/
def plankJob (s : State) (p : Nat) : Option Job :=
  match plankStream s p with
  | some r => findJob s (fget r Strm.JOB)
  | none => none
/-- The plank runs a stepless program (KIND 1 of Table 15-7). -/
def stepless (s : State) (p : Nat) : Bool :=
  match plankStream s p with
  | some r => fget r Strm.KIND == 1
  | none => false

/-- A field of a plank's job manifest, [hi:lo] of its 256 B; a plank without a job has no manifest (assumption 6). -/
def manField (s : State) (p : Nat) (f : Fd) : Nat :=
  match plankJob s p with
  | some j => fget j.man f
  | none => fget Config.noManifest f

-- Fields of the job manifest (Table 15-6).
namespace Man
def JOB_ID : Fd := (15, 0)
def PARTITION : Fd := (31, 16)
def START : Fd := (32, 32)
def SEED : Fd := (127, 64)
def POLICY : Fd := (171, 128)
def TENSORS : Fd := (235, 192)
def STATS : Fd := (299, 256)
def LADDER : Fd := (363, 320)
def CLASSES : Fd := (427, 384)
def OPT : Fd := (491, 448)
def TELEM : Fd := (555, 512)
def STEPREC : Fd := (619, 576)
def LOSS : Fd := (683, 640)
def STAGING : Fd := (747, 704)
def PLAN : Fd := (811, 768)
def ENERGY : Fd := (875, 832)
def ENERGY_ENTRIES : Fd := (895, 880)
def COLLECTIVES : Fd := (939, 896)
def OBJECTS : Fd := (1003, 960)
def REPLICAS : Fd := (1067, 1024)
def STASH : Fd := (1131, 1088)
def REPLAY_SLOTS : Fd := (1151, 1136)
def SAMPLE_ID : Fd := (1167, 1152)
def EPOCHS : Fd := (1259, 1216)
def REGIONS : Fd := (1323, 1280)
def STREAMS : Fd := (1387, 1344)
def PROGRAMS : Fd := (1451, 1408)
def TREES : Fd := (1515, 1472)
end Man

-- Fields of the step policy record (Table 7-4).
namespace Policy
def REBLOCK_MAX : Fd := (2, 0)
def REBLOCK_END : Fd := (4, 3)
def SEQ_POLICY : Fd := (5, 5)
def SPIKE_EN : Fd := (6, 6)
def SPIKE_VOID : Fd := (7, 7)
def SPIKE_K : Fd := (11, 8)
def SPIKE_M : Fd := (19, 12)
def SPIKE_WARM : Fd := (35, 20)
def MASTER_SRB : Fd := (39, 36)
def CLIP_EN : Fd := (40, 40)
def RES1 : Fd := (63, 41)
def CLIP_NORM : Fd := (95, 64)
def FIRST_LO : Fd := (127, 96)
def FIRST_HI : Fd := (159, 128)
def RES2 : Fd := (511, 160)
end Policy

/-- Bits of `Job.flags`: the flags of Table 7-2 from bit 68 up. -/
inductive StepFlag where
  | vFault | vRefusal | vOwnership | vOrphaned | vCancelled | vMismatch | vSuspect | vHost | hHost | hIntegrity | hReplica
deriving DecidableEq, Repr

def StepFlag.idx : StepFlag → Nat
  | .vFault => 0 | .vRefusal => 1 | .vOwnership => 2 | .vOrphaned => 3 | .vCancelled => 4 | .vMismatch => 5
  | .vSuspect => 6 | .vHost => 7 | .hHost => 8 | .hIntegrity => 9 | .hReplica => 10

/-- A check record with a flag of Table 7-2 set. -/
def withFlag (c : CheckRec) : StepFlag → CheckRec
  | .vFault => { c with vFault := true }
  | .vRefusal => { c with vRefusal := true }
  | .vOwnership => { c with vOwnership := true }
  | .vOrphaned => { c with vOrphaned := true }
  | .vCancelled => { c with vCancelled := true }
  | .vMismatch => { c with vMismatch := true }
  | .vSuspect => { c with vSuspect := true }
  | .vHost => { c with vHost := true }
  | .hHost => { c with hHost := true }
  | .hIntegrity => { c with hIntegrity := true }
  | .hReplica => { c with hReplica := true }

/-- Set a flag that the job's next check record carries. One that has formed and is not reduced yet carries it too: the member still
contributes it (R159). -/
def jobFlag (s : State) (id : Nat) (f : StepFlag) : State :=
  modJob s id (fun j => { j with
    flags := j.flags ||| BitVec.ofNat 11 (2 ^ f.idx)
    own := if j.phase == 5 && !j.final && j.red.isNone then j.own.map (withFlag · f) else j.own })

-- States of Table 15-11.
namespace St
def idle : Nat := 0
def queued : Nat := 1
def running : Nat := 2
def suspending : Nat := 3
def suspended : Nat := 4
def cancelling : Nat := 5
def done : Nat := 6
def failed : Nat := 7
def orphaned : Nat := 8
end St

/-- A stream changes state (R374): the entry's counts are stamped, and the change is logged as kind 0x0200. -/
def streamTo (s : State) (n st : Nat) : State :=
  let h := s.hc
  let s := strmSet s.tick n Strm.STATE st
  let s := strmSet s n Strm.HC_LAST h.toNat
  let s := if st == St.running then strmSet s n Strm.HC_START h.toNat else s
  fileEvent s 1 0x0200 9 (fget (s.strm n) Strm.JOB) (fget (s.strm n) Strm.STEP) 0

-- Packet header fields (Table 10-4).
namespace Pk
def TYPE : Fd := (511, 508)
def LANE : Fd := (507, 505)
def HOPS : Fd := (504, 501)
def DST_CHIP : Fd := (500, 487)
def SRC_CHIP : Fd := (486, 473)
def DST_OFS : Fd := (472, 429)
def FLITS : Fd := (428, 422)
def ATYPE : Fd := (421, 420)
def PARTITION : Fd := (419, 404)
def KEY_SLOT : Fd := (403, 403)
def STREAM : Fd := (402, 387)
def XFER_ID : Fd := (386, 375)
def LAST : Fd := (374, 374)
def COUNT : Fd := (373, 367)
def STATUS : Fd := (366, 364)
def OBJ_CHIP : Fd := (363, 350)
def OBJ : Fd := (349, 335)
def SIG_OP : Fd := (334, 333)
def SIG_VAL : Fd := (332, 301)
def RET_OFS : Fd := (300, 257)
def CHUNK : Fd := (255, 128)
def SEAL_CTR : Fd := (127, 64)
end Pk

/-! ## Messages over a tree map (R277, R278) -/

/-- A TREE packet that carries one flit to a chip (Table 10-4). -/
def treePacket (s : State) (dst : Nat) (flit : BitVec 512) : Packet :=
  let h : BitVec 512 := 0
  let h := fset h Pk.TYPE 8
  let h := fset h Pk.DST_CHIP dst
  let h := fset h Pk.SRC_CHIP (chipNo s)
  let h := fset h Pk.FLITS 1
  { hdr := h, payload := leBytes 64 flit.toNat, poison := [], badTail := false }

/-- A response (Table 10-5): READ_DATA or DONE. -/
def isResponse (h : BitVec 512) : Bool := fget h Pk.TYPE == 4 || fget h Pk.TYPE == 5

/-- Hand a packet to the router of link die d, by the die's own injection, on the lane of R256. -/
def emit (s : State) (d : Nat) (pkt : Packet) : State :=
  let lane := (if isResponse pkt.hdr then 2 else 0) + (if fget pkt.hdr Pk.DST_CHIP / 32 = chipNo s / 32 then 1 else 0)
  let h : Head := ⟨s.fab.nextId, d, 16, 7, { pkt with hdr := fset pkt.hdr Pk.LANE lane }, none, none, false, [], false⟩
  { s with fab := { s.fab with heads := s.fab.heads ++ [h], nextId := s.fab.nextId + 1 } }

/-- Present hummocks of a tree map, ascending. -/
def treeHums (s : State) (t : Nat) : List Nat := (List.range 512).filter (fun h => s.rbit (Reg.TREE_PRESENT t h))
/-- Leader chip of a hummock in a tree map. -/
def treeLeader (s : State) (t h : Nat) : Nat := h * 32 + s.rget (Reg.TREE_LEADER t h)
/-- Root chip of a tree map: the leader of the lowest present hummock. -/
def treeRoot (s : State) (t : Nat) : Nat :=
  match (treeHums s t).head? with
  | some h => treeLeader s t h
  | none => chipNo s
/-- Members of hummock h in the group, by the member mask (R277). -/
def treeMembers (s : State) (t h : Nat) : List Nat :=
  ((List.range 32).filter (fun m => bit (s.rget (Reg.TREE_MASK t h)) m)).map (fun m => h * 32 + m)
def isLeader (s : State) (t : Nat) : Bool := treeLeader s t (chipNo s / 32) == chipNo s
def isRoot (s : State) (t : Nat) : Bool := treeRoot s t == chipNo s

/-- Chips to which this module passes a message that starts here or comes up from below (R278). -/
def treeUp (s : State) (t : Nat) : List Nat :=
  let me := chipNo s
  if isRoot s t then
    ((treeHums s t).map (treeLeader s t) ++ treeMembers s t (me / 32)).filter (· != me)
  else if isLeader s t then treeRoot s t :: (treeMembers s t (me / 32)).filter (· != me)
  else [treeLeader s t (me / 32)]

/-- Chips to which this module passes a message that comes down (R278). -/
def treeDown (s : State) (t : Nat) : List Nat :=
  let me := chipNo s
  if isRoot s t then
    ((treeHums s t).map (treeLeader s t) ++ treeMembers s t (me / 32)).filter (· != me)
  else if isLeader s t then (treeMembers s t (me / 32)).filter (· != me)
  else []

/-- Send a flit to chips. TREE packets leave from the barrier engine of L0. -/
def sendFlits (s : State) (dsts : List Nat) (flit : BitVec 512) : State :=
  dsts.foldl (fun s d => emit s 0 (treePacket s d flit)) s

/-- Owner message (Table 11-7, KIND 3). -/
def ownerFlit (s : State) (stream event cause tree step : Nat) : BitVec 512 :=
  let f : BitVec 512 := 0
  let f := fset f (3, 0) 3
  let f := fset f (17, 14) tree
  let f := fset f (77, 64) (chipNo s)
  let f := fset f (93, 78) stream
  let f := fset f (95, 94) event
  let f := fset f (97, 96) cause
  fset f (191, 128) step

/-- Send one owner message per stream, event and tree map (R276); a resume frees the suspend message and the other way
round (assumption 7). -/
def ownerMessage (s : State) (stream event cause tree : Nat) : State :=
  let m : SentMsg := ⟨stream, event, tree⟩
  if s.fab.sent.contains m then s else
  let keep := s.fab.sent.filter (fun x => !(x.stream == stream && x.tree == tree && x.event != event && event != 0))
  let s := { s with fab := { s.fab with sent := m :: keep } }
  sendFlits s (treeUp s tree) (ownerFlit s stream event cause tree (fget (s.strm stream) Strm.STEP))

/-! ## Objects (R267 to R276) -/

/-- An object has reached target t (R273). -/
def reached (v t : Nat) : Bool := decide ((v + 2 ^ 32 - t % 2 ^ 32) % 2 ^ 32 < 2 ^ 31)
def objReached (s : State) (o t : Nat) : Bool := reached (fget (s.obj o) Obj.VALUE) t

/-! ## Tests of lanes (R264, R369) -/

/-- Key of a lane in `Net.tests`: class, unit and lane. -/
def laneKey (cls unit lane : Nat) : Nat := (cls * 65536 + unit) * 256 + lane

/-- The counts of a running checker at this instant are free values (assumption 29). -/
def sampleCounts (s : State) : (Nat × Nat) × State :=
  let s1 := s.drew
  ((s.fresh.toNat % 2 ^ 48, s1.fresh.toNat), s1.drew)

/-- A lane test ends at once: its generator stops, and the counts of its checker stay as they stand at this instant (R369). -/
def freezeLane (s : State) (key : Nat) : State :=
  let x := kget laneReset s.net.tests key
  if !x.taken then s else
  let r := if x.chk ≠ 0 then
      let c := sampleCounts s
      let x : LaneTest := { x with
        errors := c.1.1
        bits := c.1.2
        lock := c.2.fresh.getLsbD 0 }
      (x, c.2.drew)
    else (x, s)
  let y : LaneTest := { r.1 with taken := false, gen := 0, chk := 0 }
  { r.2 with net := { r.2.net with tests := kput laneReset r.2.net.tests key y } }

/-! ## Die-to-die channels (R15 to R17, R205, R251, R252) -/

/-- Owner of a channel direction: its permanent one, else the one that a program gave it, 0xFF for none. -/
def chanOwner (s : State) (n : Nat) : Nat := (chanFixed n).getD (kget chanReset s.fab.chans n)

/-- The lowest direction from die a to die b that an owner holds. -/
def chanOwned (s : State) (owner a b : Nat) : Option Nat :=
  ((List.range (dieChannels a b)).map (chanIndex a b)).find? (fun n => chanOwner s n == owner)

/-- A masked plank owns nothing (R12). -/
def ownsNothing (s : State) (owner : Nat) : Bool := decide (owner < 160) && s.rbit (Reg.PLANK_STATUS_MASKED owner)

/-- A direction gets an owner, or none: tests of its lanes end at once (R369). A direction that the package lacks or that a
link die owns permanently keeps what it has; one that would come to a masked plank has no owner (R12). -/
def setChan (s : State) (n owner : Nat) : State :=
  if !chanExists n || (chanFixed n).isSome then s else
  let owner := if ownsNothing s owner then 0xFF else owner
  let s := if owner = 0xFF then s
    else ((s.net.tests.map (·.1)).filter (fun k => k / 256 == 2 * 65536 + n)).foldl freezeLane s
  { s with fab := { s.fab with chans := kput chanReset s.fab.chans n owner } }

/-- A handover applies (R16): its object is at the target, and no transfer or record that uses the direction is in progress. One without
a gate gives a first owner to a direction that has none. A transfer of a masked plank, which is never served (assumption 119), holds
nothing up. -/
def handoverDue (s : State) (h : Handover) : Bool :=
  (if h.gated then objReached s h.obj h.target else chanOwner s h.chan == 0xFF) && !s.fab.xfers.any (fun x => x.chans.contains h.chan && !ownsNothing s x.plank)
    && !s.net.work.any (fun w => w.chans.contains h.chan)

/-- Apply the handovers that are due, those of one direction in their order. -/
def handWork : List Handover → List Handover → State → State
  | [], kept, s => { s with fab := { s.fab with handovers := kept } }
  | h :: hs, kept, s =>
    if kept.any (fun k => k.chan == h.chan) || !handoverDue s h then handWork hs (kept ++ [h]) s
    else handWork hs kept (setChan s h.chan h.owner)
def applyHandovers (s : State) : State := handWork s.fab.handovers [] s

/-- An owner loses every direction that a program gave it. -/
def dropChans (s : State) (owner : Nat) : State :=
  { s with fab := { s.fab with chans := s.fab.chans.filter (fun e => e.2 != owner) } }

/-- Link die into which plank p injects, and the direction that it uses: the lowest of the three link dies joined to its compute
die to which it owns a direction (R252, assumption 8). -/
def plankInject (s : State) (p : Nat) : Option (Nat × Nat) :=
  let c := p / 20 % 4
  [c, c + 4, c + 8].findSome? (fun k => (chanOwned s p (p / 20) (dieOfLink k)).map (fun n => (k, n)))

/-- Barriers in use, from the listed records with VALID set (Table 11-6). -/
def validBarriers (s : State) : List Nat :=
  (s.win.filter (fun e => decide (barOff 0 0 ≤ e.1) && decide (e.1 < barOff 1024 0) && (e.1 - barOff 0 0) % 0x40 == 0
    && e.2.getLsbD 31)).map (fun e => (e.1 - barOff 0 0) / 0x40)

/-- A valid barrier ends (R281): BROKEN set, VALID cleared. -/
def breakBarrier (s : State) (b : Nat) : State :=
  let s := { s with fab := { s.fab with barWaits := kput noCount s.fab.barWaits b 0 } }
  (s.rset (Reg.BAR_BROKEN b) 1).rset (Reg.BAR_VALID b) 0

/-- Objects of this module that name a chip and stream as partner. -/
def partners (s : State) (chip stream : Nat) : List Nat :=
  (s.objs.filter (fun e => fget e.2 Obj.PARTNER_EN == 1 && fget e.2 Obj.PARTNER_CHIP == chip
    && fget e.2 Obj.PARTNER_STREAM == stream)).map (·.1)

/-- One object becomes Orphaned (R274): it is marked, the barriers that use it end (R281), and its owner's stream is named
in an owner message. Answers the objects that follow it here: the release objects of ended barriers and, on the root of
a tree map, which hears its own message there, the partners of the message and the release objects of every barrier on that tree map,
which ends (Table 11-11, assumption 112). -/
def orphanOne (s : State) (o cause : Nat) : State × List Nat :=
  let r := s.obj o
  let st := fget r Obj.STATE
  if st == 0 || st == 3 then (s, []) else
  let stream := fget r Obj.OWNER_STREAM
  let tree := fget r Obj.TREE
  let s := s.setObj o (fset (fset r Obj.STATE 3) Obj.CAUSE cause)
  let bs := (validBarriers s).filter (fun b => s.rget (Reg.BAR_ARRIVE_OBJ b) == o || s.rget (Reg.BAR_RELEASE_OBJ b) == o)
  let sent := (stream, tree) :: bs.map (fun b => (s.rget (Reg.BAR_STREAM b), s.rget (Reg.BAR_TREE b)))
  let heard := sent.filter (fun m => isRoot s m.2)
  let also := (validBarriers s).filter (fun b => !bs.contains b && heard.any (fun m => m.2 == s.rget (Reg.BAR_TREE b)))
  let rel := (bs ++ also).map (fun b => s.rget (Reg.BAR_RELEASE_OBJ b))
  let s := (bs ++ also).foldl breakBarrier s
  let s := sent.foldl (fun s m => ownerMessage s m.1 0 cause m.2) s
  (s, rel ++ heard.flatMap (fun m => partners s (chipNo s) m.1))

/-- Orphan a work list of objects and all that follow them. Each object is orphaned and each barrier broken once, so the fuel bounds
the work. -/
def orphanWork : Nat → List Nat → Nat → State → State
  | 0, _, _, s => s
  | _, [], _, s => s
  | n + 1, o :: os, cause, s =>
    let r := orphanOne s o cause
    orphanWork n (os ++ r.2) cause r.1

def orphan (s : State) (os : List Nat) (cause : Nat) : State :=
  let n := s.objs.length + os.length + (validBarriers s).length + 2
  orphanWork (n * n) os cause s

/-- Objects owned by a unit, and objects owned by a stream. -/
def ownedBy (s : State) (unit : Nat) : List Nat :=
  (s.objs.filter (fun e => fget e.2 Obj.OWNER == unit && fget e.2 Obj.STATE != 0)).map (·.1)
def ownedByStream (s : State) (n : Nat) : List Nat :=
  (s.objs.filter (fun e => fget e.2 Obj.OWNER_STREAM == n && fget e.2 Obj.STATE != 0)).map (·.1)

/-- Arrive and release messages of a barrier (Table 11-7, KIND 1 and 2). -/
def barFlit (s : State) (kind b gen : Nat) : BitVec 512 :=
  let f : BitVec 512 := 0
  let f := fset f (3, 0) kind
  let f := fset f (13, 4) b
  let f := fset f (17, 14) (s.rget (Reg.BAR_TREE b))
  let f := fset f (63, 32) gen
  fset f (191, 128) (fget (s.strm (s.rget (Reg.BAR_STREAM b))) Strm.STEP)

/-- Release of a generation on this member (R280 step 5): GEN raised, counts cleared, the signal for RELEASE_OBJ, and the
next generation, whose planks may all have arrived. -/
def barRelease (s : State) (b gen : Nat) : State × List SyncWork :=
  let s := { s with fab := { s.fab with barWaits := kput noCount s.fab.barWaits b 0 } }
  let s := s.rset (Reg.BAR_GEN b) gen
  let s := s.rset (Reg.BAR_HUM_COUNT b) 0
  let s := s.rset (Reg.BAR_ROOT_COUNT b) 0
  let s := s.rset (Reg.BAR_ARRIVED b) 0
  (s, [.sig ⟨s.rget (Reg.BAR_RELEASE_OBJ b), false, 1, chipNo s, 0xA0, fget (s.strm (s.rget (Reg.BAR_STREAM b))) Strm.STEP⟩,
    .check b])

/-- The root counts a hummock (R280 step 4); the last one raises GEN and sends release down the tree. -/
def rootArrive (s : State) (b gen : Nat) : State × List SyncWork :=
  let t := s.rget (Reg.BAR_TREE b)
  let s := s.radd (Reg.BAR_ROOT_COUNT b) 1
  if s.rget (Reg.BAR_ROOT_COUNT b) < (treeHums s t).length then (s, [])
  else barRelease (sendFlits s (treeDown s t) (barFlit s 2 b gen)) b gen

/-- The leader counts a member of its hummock once (R280 step 3); the last one sends one arrive to the root. -/
def leaderArrive (s : State) (b gen member : Nat) : State × List SyncWork :=
  let t := s.rget (Reg.BAR_TREE b)
  if bit (s.rget (Reg.BAR_ARRIVED b)) member then (s, []) else
  let s := s.rset (Reg.BAR_ARRIVED b) (s.rget (Reg.BAR_ARRIVED b) ||| 2 ^ member)
  let s := s.radd (Reg.BAR_HUM_COUNT b) 1
  if s.rget (Reg.BAR_HUM_COUNT b) < s.rget (Reg.TREE_MEMBERS t (chipNo s / 32)) then (s, [])
  else if isRoot s t then rootArrive s b gen
  else (sendFlits s [treeRoot s t] (barFlit s 1 b gen), [])

/-- ARRIVE_OBJ of a barrier reached the target of its generation here (R280 step 2). -/
def localArrive (s : State) (b : Nat) : State × List SyncWork :=
  let t := s.rget (Reg.BAR_TREE b)
  let gen := (s.rget (Reg.BAR_GEN b) + 1) % 2 ^ 32
  if isLeader s t then leaderArrive s b gen (chipNo s % 32)
  else (sendFlits s [treeLeader s t (chipNo s / 32)] (barFlit s 1 b gen), [])

/-- Target of a barrier's ARRIVE_OBJ in its current generation. -/
def barTarget (s : State) (b : Nat) : Nat := s.rget (Reg.BAR_LOCAL_N b) * (s.rget (Reg.BAR_GEN b) + 1)

/-- The barriers whose ARRIVE_OBJ o has just reached the target arrive (R280 step 2); `old` is its value before, if it had one. -/
def arrivals (s : State) (o : Nat) (old : Option Nat) : State × List SyncWork :=
  let v := fget (s.obj o) Obj.VALUE
  let bs := (validBarriers s).filter (fun b => s.rget (Reg.BAR_ARRIVE_OBJ b) == o
    && !(old.map (fun x => reached x (barTarget s b))).getD false && reached v (barTarget s b))
  bs.foldl (fun (x : State × List SyncWork) b => let y := localArrive x.1 b; (y.1, x.2 ++ y.2)) (s, [])

/-- A barrier whose generation or VALID is new arrives at once where its ARRIVE_OBJ stands at the target (R280 step 2). -/
def barCheck (s : State) (b : Nat) : State × List SyncWork :=
  let r := s.obj (s.rget (Reg.BAR_ARRIVE_OBJ b))
  if s.rbit (Reg.BAR_VALID b) && s.rget (Reg.BAR_LOCAL_N b) != 0 && (fget r Obj.STATE == 1 || fget r Obj.STATE == 2)
      && reached (fget r Obj.VALUE) (barTarget s b) then localArrive s b
  else (s, [])

/-- Apply one signal to a local object (R272); the barriers whose ARRIVE_OBJ it brings to the target arrive (R280). -/
def signalOne (s : State) (g : Signal) : State × List SyncWork :=
  let r := s.obj g.obj
  let st := fget r Obj.STATE
  if st == 0 || st == 3 then (s.rsat Reg.SYNC_DROP_COUNT 1, []) else
  let old := fget r Obj.VALUE
  let v := if g.set then g.val % 2 ^ 32 else (old + g.val) % 2 ^ 32
  let r := fset r Obj.VALUE v
  let r := fset r Obj.LAST_CHIP g.chip
  let r := fset r Obj.LAST_SRC g.src
  let r := fset r Obj.LAST_STEP g.step
  let r := fset r Obj.SIGNALS (satInc 32 (fget r Obj.SIGNALS))
  arrivals (s.setObj g.obj r) g.obj (some old)

/-- Do a list of work and what barrier releases add; what the fuel does not reach stays for the next signal. -/
def signalWork : Nat → List SyncWork → State → State
  | 0, gs, s => { s with fab := { s.fab with selfSig := s.fab.selfSig ++ gs } }
  | _, [], s => s
  | n + 1, .sig g :: gs, s =>
    let r := signalOne s g
    signalWork n (gs ++ r.2) r.1
  | n + 1, .check b :: gs, s =>
    let r := barCheck s b
    signalWork n (gs ++ r.2) r.1

/-- Do work of the objects after what still waits. Handovers that it gates follow (R16). -/
def syncWork (s : State) (gs : List SyncWork) : State :=
  applyHandovers (signalWork 1024 (s.fab.selfSig ++ gs) { s with fab := { s.fab with selfSig := [] } })

/-- Signal a local object. -/
def signal (s : State) (g : Signal) : State := syncWork s [.sig g]

/-- An object's value is set by a command: the barriers that it brings to their target arrive. -/
def objSet (s : State) (o : Nat) (r : ObjRec) (old : Option Nat) : State :=
  let x := arrivals (s.setObj o r) o old
  syncWork x.1 x.2

/-- A SIGNAL packet to another chip (Table 10-4). -/
def signalPacket (s : State) (g : Signal) (dst stream : Nat) : Packet :=
  let h : BitVec 512 := 0
  let h := fset h Pk.TYPE 6
  let h := fset h Pk.DST_CHIP dst
  let h := fset h Pk.SRC_CHIP (chipNo s)
  let h := fset h Pk.PARTITION (fget (s.strm stream) Strm.PARTITION)
  let h := fset h Pk.STREAM stream
  let h := fset h Pk.OBJ_CHIP dst
  let h := fset h Pk.OBJ g.obj
  let h := fset h Pk.SIG_OP (if g.set then 2 else 1)
  let h := fset h Pk.SIG_VAL g.val
  { hdr := h, payload := [], poison := [], badTail := false }

/-- Signal an object of any chip from this module (R272): directly here, by packet elsewhere. -/
def signalChip (s : State) (die chip stream : Nat) (g : Signal) : State :=
  if chip == chipNo s then signal s g else emit s die (signalPacket s g chip stream)

/-- The link die of a plank's packets; with no direction owned none leaves, and the die named is the lowest of the three. -/
def plankLinkDie (s : State) (p : Nat) : Nat := ((plankInject s p).map (·.1)).getD (p / 20 % 4)

/-- A plank signals an object: its chip, its number and its step stand in the object's LAST fields. -/
def plankSignal (s : State) (p chip obj val : Nat) (isSet : Bool) : State :=
  let stream := match (s.plank p).stream with
    | some n => n.val
    | none => 0
  signalChip s (plankLinkDie s p) chip stream ⟨obj, isSet, val % 2 ^ 32, chipNo s, p, plankStep s p⟩

/-! ## Failing a stream, and what a fault does to the step -/

/-- A stream becomes Failed with a FAIL_CODE (R376): its objects become Orphaned with CAUSE 3 (Table 11-4). A stream that
is Idle, Done, Failed or Orphaned stays as it is. -/
def failStream (s : State) (n code : Nat) : State :=
  let st := fget (s.strm n) Strm.STATE
  if st == St.idle || st == St.done || st == St.failed || st == St.orphaned then s else
  let s := strmSet s n Strm.FAIL_CODE code
  let s := streamTo s n St.failed
  orphan s (ownedByStream s n) 3

/-- What a refusal, violation or fault of a plank does to its work: the flag of the step, or the failure of a stepless
program's stream (R17, R89, R108, R209). A replay has its outcome instead (R311, R448). -/
def stepFault (s : State) (p : Nat) (f : StepFlag) (code : Nat) : State :=
  match (s.plank p).stream with
  | none => s
  | some n =>
    if (s.plank p).replaying then s
    else if stepless s p then failStream s n.val code
    else jobFlag s (fget (s.strm n.val) Strm.JOB) f

/-- Ownership-violation record (R17, kind 0x0212 of Table 14-12). The manual gives the payload alone: the header names the resource's
unit in the coding of Table 13-6, a plank, a pseudo-channel or a die-to-die connection (assumption 110). -/
def violation (s : State) (cls unit index reqUnit reqChip tag step : Nat) : State :=
  let pl : BitVec 512 := 0
  let pl := fset pl (3, 0) cls
  let pl := fset pl (23, 8) unit
  let pl := fset pl (31, 24) index
  let pl := fset pl (39, 32) reqUnit
  let pl := fset pl (53, 40) reqChip
  let pl := fset pl (79, 64) tag
  fileEvent s 2 0x0212 (if cls = 3 then 1 else if cls = 2 then 3 else 0) unit step pl

/-- A violation by work of plank p on a bank of its own store: the record, and the step or stream. -/
def bankViolation (s : State) (p b tag : Nat) : State :=
  stepFault (violation s 1 p b p (chipNo s) tag (plankStep s p)) p .vOwnership 0xFF08

/-! ## Hjelper's error queue (R319 to R321) -/

/-- Set or clear one flag of a vector of flags. -/
def putBit {n : Nat} (x : BitVec n) (i : Nat) (b : Bool) : BitVec n := fset x (i, i) (boolNat b)

/-- An error waits for Hjelper in its sticky field (R321): planks, stacks by pseudo-channel, links. A checksum mismatch has none. -/
def markUnlogged (s : State) (unitClass unit code : Nat) (on : Bool) : State :=
  if unitClass = 0 then
    if code = 0 then s
    else if 27 ≤ code then s.modPlank unit (fun k => { k with trapUnlogged := on })
    else s.modPlank unit (fun k => { k with faultUnlogged := on })
  else if unitClass = 1 then { s with board := { s.board with eccUnlogged := putBit s.board.eccUnlogged (unit / 64) on } }
  else if unitClass = 2 then { s with board := { s.board with linkUnlogged := putBit s.board.linkUnlogged unit on } }
  else s

/-- An error is filed with Hjelper (R319). A second error of a unit with an open entry joins it, and step-masks a plank, but for a
checksum mismatch of a stepless program, which stops nothing (R448); a full queue keeps its entries and counts the drop. While Hjelper is down the sticky field alone keeps the error. -/
def fileError (s : State) (unitClass unit code tag tid step : Nat) : State :=
  if s.rget Reg.HJ_STATUS_STATE ≠ 1 then markUnlogged s unitClass unit code true
  else
    let s := markUnlogged s unitClass unit code false
    let here (e : ErrEntry) : Bool := e.unitClass == unitClass && e.unit == unit
    if s.errq.any here then
      let s := { s with errq := s.errq.map (fun e => if here e then { e with linked := true } else e) }
      if unitClass ≠ 0 || code = 0 && stepless s unit then s else
      let s := s.rset (Reg.INTEG_STATE_STEP_MASKED unit) 1
      match plankJob s unit with
      | some j => if stepless s unit then s else jobFlag s j.id.toNat .vFault
      | none => s
    else if 256 ≤ s.errq.length then
      let s := (s.rsat Reg.ERRQ_STATUS_OVERFLOW 1).rsat Reg.PEAT_LOST_COUNT 1
      { s with board := { s.board with errDropped := true } }
    else { s.tick with errq := s.errq ++ [⟨unitClass, unit, code, tag, tid, step, s.hc, false⟩] }

/-- An error of a plank. -/
def filePlank (s : State) (p code tag tid : Nat) : State := fileError s 0 p code tag tid (plankStep s p)

/-! ## Pass exception records (R103, Table 4-5) -/

/-- Fields of a pass exception record that differ from zero. -/
structure Exc where
  tag : Nat := 0
  tid : Nat := 0
  kind : Nat := 0
  code : Nat := 0
  sel : Nat := 0
  invalid : Nat := 0
  invK : Nat := 0
  invRow : Nat := 0
  invCol : Nat := 0
  lostlow : Nat := 0
  brim : Nat := 0
  nonfin : Nat := 0
  sunk : Nat := 0
  chkCols : Nat := 0
  chkFirst : Nat := 0
  pos : Nat := 0
  fillTag : Nat := 0
deriving DecidableEq, Repr

/-- The 64 B of a record. FILL_TAG of a fill item's pass stands in the reserved bits [423:408] (R147, assumption 111). -/
def excWord (e : Exc) (step : Nat) (h : BitVec 64) : BitVec 512 :=
  let x : BitVec 512 := 0
  let x := fset x (15, 0) e.tag
  let x := fset x (31, 16) e.tid
  let x := fset x (39, 32) e.kind
  let x := fset x (47, 40) e.code
  let x := fset x (48, 48) e.sel
  let x := fset x (127, 64) step
  let x := fset x (159, 128) e.invalid
  let x := fset x (183, 160) e.invK
  let x := fset x (190, 184) e.invRow
  let x := fset x (200, 192) e.invCol
  let x := fset x (255, 224) e.lostlow
  let x := fset x (287, 256) e.brim
  let x := fset x (319, 288) e.nonfin
  let x := fset x (351, 320) e.sunk
  let x := fset x (361, 352) e.chkCols
  let x := fset x (370, 362) e.chkFirst
  let x := fset x (407, 384) e.pos
  let x := fset x (423, 408) e.fillTag
  fset x (511, 448) h.toNat

/-- Write a pass exception record into the plank's ring; a full ring drops it and counts it in EXC_OVF; SIZE 0 disables
the ring (R103, R111). A bank of the ring that its writer does not own refuses the record (R17, R91, assumption 85): the cells write it, and
for a comparison (kind 2) the vector engine. -/
def excRecord (s : State) (p : Nat) (e : Exc) : State :=
  let size := s.rget (Reg.EXC_RING_SIZE p)
  if size = 0 then s else
  let head := s.rget (Reg.EXC_PTR_HEAD p)
  let tail := s.rget (Reg.EXC_PTR_TAIL p)
  let at0 := s.rget (Reg.EXC_RING_BASE p) * 64 + head % size * 64
  if (head + 65536 - tail) % 65536 == size then s.rsat (Reg.EXC_OVF_OVF p) 1
  else match storeBad s p (if e.kind = 2 then [ownVector, ownCells] else [ownCells]) (at0, 64) with
    | some b => bankViolation s p b e.tag
    | none =>
      let x := excWord e (plankStep s p) s.hc
      let s := s.tick
      let s := s.storeRec (storeBase p + at0) x
      s.rset (Reg.EXC_PTR_HEAD p) ((head + 1) % 65536)

/-! ## The plank core (R202, R209) -/

-- Core states of CORE_STATUS.STATE (Table 8-13).
namespace CoreSt
def reset : Nat := 0
def running : Nat := 1
def waiting : Nat := 2
def quiesced : Nat := 3
def trapped : Nat := 4
end CoreSt

def coreState (s : State) (p : Nat) : Nat := s.rget (Reg.CORE_STATUS_STATE p)
/-- The core executes: Running, or Waiting on the instruction at its pc. -/
def coreActive (s : State) (p : Nat) : Bool := coreState s p == CoreSt.running || coreState s p == CoreSt.waiting
def setCore (s : State) (p st : Nat) : State := s.rset (Reg.CORE_STATUS_STATE p) st

/-- x0 reads as zero. -/
def State.xreg (s : State) (p : Nat) (r : Nat) : Word64 := if r = 0 then 0 else kget noWord (s.plank p).x r
/-- A write to x0 is discarded. -/
def State.setX (s : State) (p : Nat) (r : Nat) (v : Word64) : State :=
  if r = 0 then s else s.modPlank p (fun k => { k with x := kput noWord k.x r v })
def State.pc (s : State) (p : Nat) : Nat := s.rget (Reg.CORE_PC_PC p)
def State.setPc (s : State) (p : Nat) (v : Nat) : State := s.rset (Reg.CORE_PC_PC p) v

-- CSRs in the order of Table 8-10.
namespace Csr
def mstatus : Nat := 0
def mepc : Nat := 1
def mcause : Nat := 2
def mtval : Nat := 3
def mscratch : Nat := 4
def mie : Nat := 5
def mtvec : Nat := 6
end Csr
def State.csr (s : State) (p : Nat) (c : Nat) : Word64 := kget noWord (s.plank p).csr c
def State.setCsr (s : State) (p : Nat) (c : Nat) (v : Word64) : State :=
  s.modPlank p (fun k => { k with csr := kput noWord k.csr c v })

/-- The core's wait on an object ends: WAIT_STATE clears and the object's WAITERS falls (R273). -/
def endWait (s : State) (p : Nat) : State :=
  if !s.rbit (Reg.WAIT_STATE_WAITING p) then s else
  let o := s.rget (Reg.WAIT_STATE_OBJ p)
  let r := s.obj o
  let s := s.setObj o (fset r Obj.WAITERS (fget r Obj.WAITERS - 1))
  let s := s.setWord (Reg.WAIT_STATE_WAITING p).off 0
  s.modPlank p (fun k => { k with waitRd := none, waited := 0 })

/-- The fill list is emptied: HEAD and TAIL return to zero (R151). -/
def emptyFill (s : State) (p : Nat) : State :=
  (s.setWord (Reg.FILL_PTR_HEAD p).off 0).modPlank p (fun k => { k with fillN := 0, fillIssued := 0 })

/-- The image work of a core that stops: an add-out or load-in that it requested and that has not begun is withdrawn. -/
def coreImage (i : Option ImageReq) : Option ImageReq := i.filter (fun q => q.begun || q.fill)

/-- An invalid operation is noted in VEC_STATUS (R48, R185). -/
def noteInvalid (s : State) (p : Nat) (b : Bool) : State := if b then s.rset (Reg.VEC_STATUS_INVALID p) 1 else s
/-- Lane cycles of the vector engine, of any port (Table 8-1). -/
def laneCycles (s : State) (p n : Nat) : State := s.radd (Reg.VEC_CYCLES_CYCLES p) n

/-- The plank core takes a trap (R209): TRAP_INFO, Trapped, its objects Orphaned with CAUSE 0, the fill list discarded, and
V_REFUSAL of the step or the failure of a stepless stream. A context write under way is lost (Table 8-12). mepc holds the
pc; mcause and mtval follow the RISC-V privileged architecture (assumption 9). -/
def coreTrap (s : State) (p cause sub insn tval : Nat) : State :=
  let quiescing := (s.plank p).quiesce.isSome
  let s := endWait s p
  let s := s.rset (Reg.TRAP_INFO_CAUSE p) cause
  let s := s.rset (Reg.TRAP_INFO_SUB p) sub
  let s := s.rset (Reg.TRAP_INFO_INSN p) insn
  let s := s.setCsr p Csr.mepc (BitVec.ofNat 64 (s.pc p))
  let s := s.setCsr p Csr.mcause (BitVec.ofNat 64 cause)
  let s := s.setCsr p Csr.mtval (BitVec.ofNat 64 tval)
  let s := setCore s p CoreSt.trapped
  let s := s.modPlank p (fun k => { k with quiesce := none, held := none, waitRd := none, image := coreImage k.image })
  let s := if cause = 27 then filePlank s p 27 0 0 else s
  let s := emptyFill s p
  let s := orphan s (ownedBy s p) 0
  let s := stepFault s p .vRefusal (cause * 256 + sub)
  match (s.plank p).stream with
  | some n => if quiescing then failStream s n.val 0xFF07 else s
  | none => s

/-- An access of the plank core, its vector engine or its transfers that R17 refuses, from the state with the record written.
The step's flag is set; the stream of a stepless program is failed by the trap that follows, with the trap's code (R376), or
here when the core takes no trap. -/
def ownTrapFlag (s : State) (p : Nat) : State :=
  if stepless s p && coreActive s p then s else stepFault s p .vOwnership 0xFF08
/-- The same for a bank of the plank's own store. -/
def bankRefused (s : State) (p b : Nat) : State := ownTrapFlag (violation s 1 p b p (chipNo s) 0 (plankStep s p)) p

/-- A request of a plank that no die-to-die channel direction of its own carries: the record of direction n, the flag of the
step, the trap (Table 8-11, cause 26 sub-code 2). -/
def chanRefused (s : State) (p n insn : Nat) : State :=
  coreTrap (ownTrapFlag (violation s 2 n 0 p (chipNo s) 0 (plankStep s p)) p) p 26 2 insn 0

/-- The core moves past a 4-byte instruction and runs. -/
def coreNext (s : State) (p : Nat) : State :=
  setCore (s.setPc p (s.pc p + 4)) p CoreSt.running |>.modPlank p (fun k => { k with held := none })
/-- The core holds at the instruction; `q` is its code as a quiesce point, if it is one. -/
def coreHold (s : State) (p : Nat) (q : Option Nat) : State :=
  setCore s p CoreSt.waiting |>.modPlank p (fun k => { k with held := q })

/-- The core can execute an instruction: active, neither stopped at a quiesce point nor held in a wait on an object. -/
def coreReady (s : State) (p : Nat) : Bool :=
  coreActive s p && (s.plank p).quiesce.isNone && !s.rbit (Reg.WAIT_STATE_WAITING p)
def suspPend (s : State) (p : Nat) : Bool := s.rbit (Reg.CORE_STATUS_SUSP_PEND p)
end Sys2Proof.Machine
end

