-- ==== Sys2Proof/Machine/Operands.lean ====
section
/-!
DEFINITION. Operand forms: the fields of pass descriptors, side records, stream descriptors, vector words and
custom-instruction words, the tensor and ladder records they name, and how an element of an operand is read.
-/
namespace Sys2Proof.Machine

/-! ## Pass descriptor (Table 4-1) -/
namespace Desc
def OPC : Fd := (3, 0)
def FMT_A : Fd := (7, 4)
def FMT_B : Fd := (11, 8)
def WORD_A : Fd := (14, 12)
def WORD_B : Fd := (17, 15)
def ACC : Fd := (19, 18)
def DRAIN : Fd := (20, 20)
def STRICT : Fd := (21, 21)
def SUB : Fd := (22, 22)
def CARD : Fd := (25, 23)
def ASYM : Fd := (27, 26)
def SCL : Fd := (29, 28)
def CHK : Fd := (31, 30)
def K_BLOCKS_M1 : Fd := (55, 32)
def EADJ : Fd := (63, 56)
def SRC_A : Fd := (81, 64)
def SRC_B : Fd := (99, 82)
def DST : Fd := (117, 100)
def SEL : Fd := (118, 118)
def RES0 : Fd := (127, 119)
def SIDE : Fd := (145, 128)
def ROWS_M1 : Fd := (152, 146)
def COLS_M1 : Fd := (161, 153)
def OUT_TID : Fd := (177, 162)
def RES1 : Fd := (191, 178)
def OUT_FMT : Fd := (195, 192)
def RND : Fd := (198, 196)
def SRB : Fd := (202, 199)
def DRAW : Fd := (205, 203)
def EPI_MODE : Fd := (207, 206)
def EPI_ID : Fd := (213, 208)
def SEDGE : Fd := (214, 214)
def NAP : Fd := (217, 215)
def PASS_TAG : Fd := (233, 218)
def RES2 : Fd := (255, 234)
end Desc

/-! ## Side record (Table 4-2) -/
namespace Side
def SHF_A : Fd := (17, 0)
def SHF_A_FIRST : Fd := (23, 18)
def SHF_B : Fd := (41, 24)
def SHF_B_FIRST : Fd := (47, 42)
def SCL_A : Fd := (65, 48)
def SCL_B : Fd := (83, 66)
def ZP : Fd := (101, 84)
def CORR : Fd := (119, 102)
def AUX : Fd := (137, 120)
def SEDGE_LIST : Fd := (155, 138)
def NAP_ADDR : Fd := (173, 156)
def OUT_SHF : Fd := (191, 174)
def OUT_SHF_FIRST : Fd := (197, 192)
def RES0 : Fd := (223, 198)
def STRIDE_A : Fd := (247, 224)
def STRIDE_B : Fd := (271, 248)
def LINES_A : Fd := (287, 272)
def LINES_B : Fd := (303, 288)
def OUT_PITCH : Fd := (327, 304)
def OUT_SHF_PITCH : Fd := (343, 328)
def ORIGIN_ROW : Fd := (375, 344)
def ORIGIN_COL : Fd := (407, 376)
def OUT_WIDTH : Fd := (439, 408)
def A_TID : Fd := (455, 440)
def B_TID : Fd := (471, 456)
def RES1 : Fd := (511, 472)
end Side

/-! ## Sedge header (Table 5-2), image header (Table 6-3), fill-list entry (Table 6-4) -/
namespace Sedge
def LIST : Fd := (17, 0)
def SPILL : Fd := (41, 24)
def SEG_STRIDE : Fd := (71, 48)
end Sedge
namespace Img
def STATE : Fd := (1, 0)
def E_A : Fd := (24, 16)
def E_B : Fd := (33, 25)
def KBLOCKS : Fd := (87, 64)
def LOSTLOW : Fd := (127, 96)
def ADDS : Fd := (143, 128)
end Img
namespace Fill
def CHAIN : Fd := (17, 0)
def PASSES : Fd := (31, 24)
def END : Fd := (32, 32)
def IMAGE : Fd := (44, 33)
def DONE_OBJ : Fd := (62, 48)
def DONE_EN : Fd := (63, 63)
def FILL_TAG : Fd := (79, 64)
def STEP : Fd := (191, 128)
end Fill

/-! ## Tensor scaling and ladder records (Tables 3-3, 5-6) -/
namespace Ten
def HLEN_M1 : Fd := (5, 0)
def MARGIN : Fd := (8, 6)
def CSMODE : Fd := (10, 9)
def FMT : Fd := (14, 11)
def RES0 : Fd := (15, 15)
def COUNT : Fd := (22, 16)
def HEAD : Fd := (28, 23)
def RES1 : Fd := (31, 29)
def INIT_REF : Fd := (63, 32)
def E : Fd := (72, 64)
def RES2 : Fd := (79, 73)
def BRIM_K : Fd := (84, 80)
def SUNK_K : Fd := (89, 85)
def RMSE_K : Fd := (94, 90)
def RES3 : Fd := (95, 95)
def BRIM_EN : Fd := (96, 96)
def SUNK_EN : Fd := (97, 97)
def RMSE_EN : Fd := (98, 98)
def RES4 : Fd := (127, 99)
def REF : Fd := (159, 128)
def RES5 : Fd := (511, 160)
end Ten
namespace Lad
def RUNG : Fd := (2, 0)
def MAX_RUNG : Fd := (5, 3)
def LADDER_EN : Fd := (6, 6)
def RES0 : Fd := (7, 7)
def NAP_RANK : Fd := (10, 8)
def OVF_K : Fd := (15, 11)
def NAP_TID : Fd := (31, 16)
def CLEAN_RUN : Fd := (47, 32)
def DOWN_AFTER : Fd := (63, 48)
def SEDGE_THR : Fd := (95, 64)
def PEND_RUNG : Fd := (98, 96)
def MARKED : Fd := (99, 99)
def RES1 : Fd := (127, 100)
def TRIGGERS : Fd := (159, 128)
def LAST_CHANGE : Fd := (223, 160)
def RES2 : Fd := (511, 224)
end Lad

/-- Header of a tensor's scaling record, in the table that a plank's job names (R67). -/
def tensorRec (s : State) (p tid : Nat) : BitVec 512 := s.recAt (manField s p Man.TENSORS + 320 * tid) 512
/-- A tensor's ladder record (R125). -/
def ladderRec (s : State) (p tid : Nat) : BitVec 512 := s.recAt (manField s p Man.LADDER + 64 * tid) 512
/-- A tensor's class byte: [0] activation, [1] gradient, [2] token-indexed (Table 15-6). -/
def tensorClass (s : State) (p tid : Nat) : Nat := (s.byte (manField s p Man.CLASSES + tid)).toNat
def tensorE (r : BitVec 512) : Int := signed (fget r Ten.E) 9

/-- Rung of a laddered tensor for the attempt: PEND_RUNG (R127, Table 5-6). -/
def tensorRung (lad : BitVec 512) : Nat := fget lad Lad.PEND_RUNG

/-- A tensor carries an outlier list (R112): its ladder is in use and it stands on rung 2 or 3. -/
def hasOutliers (lad : BitVec 512) : Bool :=
  fget lad Lad.LADDER_EN == 1 && (tensorRung lad == 2 || tensorRung lad == 3)

/-- Format in which a tensor is held for the attempt (R124, R136, Table 5-5); a split tensor counts as SW8. -/
def heldFmt (ten lad : BitVec 512) : Option Fmt :=
  let base := match Fmt.ofCode (fget ten Ten.FMT) with
    | some .bf16 => some Fmt.sw8
    | some .fp16 => some Fmt.sw8
    | some .fp32 => some Fmt.sw8
    | f => f
  if fget lad Lad.LADDER_EN == 1 then
    (if tensorRung lad == 4 then some .e4m3 else if tensorRung lad == 5 then some .sw8 else base)
  else base

/-- Format from which a split tensor was split: the record's FMT, or BF16 on rung 5 (R33, Table 5-5). -/
def splitFmt (ten lad : BitVec 512) : Option Fmt :=
  if fget lad Lad.LADDER_EN == 1 && tensorRung lad == 5 then some .bf16 else
  match Fmt.ofCode (fget ten Ten.FMT) with
  | some .bf16 => some .bf16
  | some .fp16 => some .fp16
  | some .fp32 => some .fp32
  | _ => none

/-- Words of a split format, and its significand bits (R33, R35). -/
def splitWords (f : Fmt) : Nat := f.words
def splitSig : Fmt → Nat
  | .bf16 => 8 | .fp16 => 11 | _ => 24

/-- Size of one plane of a split tensor: whole blocks, rounded up to 64 B (R33). -/
def planeSize (channels len : Nat) : Nat := (channels * ((len + 15) / 16 * 16) + 63) / 64 * 64

/-! ## An array operand -/

/-- One operand of a pass: format and digit, where its codes and shift lines lie (R61, R87). -/
structure Opnd where
  fmt : Fmt
  word : Nat
  src : Nat
  stride : Nat
  shf : Nat
  first : Nat
  lines : Nat
deriving DecidableEq, Repr

/-- Code bytes of a block of 16 elements (Table 3-1); an SW8 plane has one byte per element. -/
def Fmt.blockBytes (f : Fmt) : Nat := 2 * f.width

def rowOpnd (d : BitVec 256) (sd : BitVec 512) : Opnd :=
  ⟨(Fmt.ofCode (fget d Desc.FMT_A)).getD .fp4, fget d Desc.WORD_A, fget d Desc.SRC_A * 64, fget sd Side.STRIDE_A,
   fget sd Side.SHF_A * 64, fget sd Side.SHF_A_FIRST, fget sd Side.LINES_A⟩
def colOpnd (d : BitVec 256) (sd : BitVec 512) : Opnd :=
  ⟨(Fmt.ofCode (fget d Desc.FMT_B)).getD .fp4, fget d Desc.WORD_B, fget d Desc.SRC_B * 64, fget sd Side.STRIDE_B,
   fget sd Side.SHF_B * 64, fget sd Side.SHF_B_FIRST, fget sd Side.LINES_B⟩

/-- A block shift: nibble n of the shift lines of a channel at a module offset (R61). -/
def shiftFrom (s : State) (line n : Nat) : Nat :=
  let b := (s.byte (line + n / 2)).toNat
  if n % 2 = 0 then b % 16 else b / 16

/-- A block shift in a plank store. -/
def shiftAt (s : State) (p line n : Nat) : Nat := shiftFrom s (storeBase p + line) n

/-- Value of an SW8 byte as digit j, divided by 2^(E − s) (R34, Table 2-5). -/
def sw8Digit (b : Nat) (j : Nat) : Val :=
  let neg := bit b 7
  let d := bits b 4 3
  if d == 7 then
    (if j == 0 && b % 16 == 0 then .inf neg else .nan)
  else Val.dy neg (b % 16) (-(d : Int))

/-- Value of one code as the cell takes it, divided by 2^(E − s): the digit's word weight is not included (R30, R31, R33). -/
def cellValue (f : Fmt) (word code : Nat) : Val :=
  match f with
  | .int8 =>
    let v := signed (code % 256) 8
    let dg := if word = 0 then v.natAbs / 16 else v.natAbs % 16
    Val.dy (decide (v < 0)) dg 0
  | .sw8 => sw8Digit code word
  | _ =>
    match f.decode code with
    | .fin n m => .fin n (m.scale (-f.off))
    | v => v

/-- The code of element i of a block whose codes begin at a module offset (R26). -/
def codeFrom (s : State) (f : Fmt) (base i : Nat) : Nat :=
  if f.width = 4 then
    let b := (s.byte (base + i / 2)).toNat
    if i % 2 = 0 then b % 16 else b / 16
  else s.le (base + i * (f.width / 8)) (f.width / 8)

/-- The code of element i of a block whose codes begin at a byte offset of a plank store. -/
def codeAt (s : State) (p : Nat) (f : Fmt) (base i : Nat) : Nat := codeFrom s f (storeBase p + base) i

/-- The 16 values of K-block k of channel j, divided by 2^E. -/
def opndBlock (s : State) (p : Nat) (o : Opnd) (j k : Nat) : List Val :=
  let base := o.src + (j * o.stride + k) * o.fmt.blockBytes
  let sh := shiftAt s p (o.shf + j * o.lines * 32) (o.first + k)
  (List.range 16).map (fun i =>
    match cellValue o.fmt o.word (codeAt s p o.fmt base i) with
    | .fin n m => .fin n (m.scale (-(sh : Int)))
    | v => v)

/-- Zero codes, which rows and columns outside the tile are fed (R88). -/
def zeroBlock : List Val := List.replicate 16 Val.zero

/-! ## Sizes a pass takes from its descriptor -/
def passRows (d : BitVec 256) : Nat := fget d Desc.ROWS_M1 + 1
def passCols (d : BitVec 256) : Nat := fget d Desc.COLS_M1 + 1
def passBlocks (d : BitVec 256) : Nat := fget d Desc.K_BLOCKS_M1 + 1
/-- Carding order of a CARD code; 1 when uncarded. -/
def cardOrder (c : Nat) : Nat := if c = 0 then 1 else 8 * 2 ^ c

/-! ## Vector instruction words (Table 8-2) -/
namespace Vec
def OPC : Fd := (7, 0)
def VD : Fd := (12, 8)
def VA : Fd := (17, 13)
def VB : Fd := (22, 18)
def VC : Fd := (27, 23)
def STAT : Fd := (23, 23)
def CVT_RES : Fd := (27, 24)
def DESC : Fd := (25, 8)
def FMT_D : Fd := (31, 28)
def FMT_S : Fd := (35, 32)
def RND : Fd := (38, 36)
def SRB : Fd := (42, 39)
def DRAW : Fd := (45, 43)
def STRICT : Fd := (46, 46)
def PRED : Fd := (47, 47)
def IMM : Fd := (63, 48)
def ADDR : Fd := (45, 28)
end Vec

/-! ## Stream descriptors (Table 8-5) -/
namespace SDesc
/-- Address field A_i. -/
def A (i : Nat) : Fd := (18 * i + 17, 18 * i)
def TID_S : Fd := (159, 144)
def TID_D : Fd := (175, 160)
def CHANNELS : Fd := (199, 176)
def CH_LEN : Fd := (231, 200)
def ORIGIN : Fd := (271, 232)
def CH_STRIDE : Fd := (311, 272)
def TID_M1 : Fd := (327, 312)
def TID_M2 : Fd := (343, 328)
def PITCH : Fd := (383, 344)
def RES : Fd := (511, 384)
end SDesc

/-! ## Words of the custom instructions (R203, Table 8-8) -/

/-- An R-type word. -/
def rWord (opcode f3 f7 rd rs1 rs2 : Nat) : Nat :=
  opcode + rd * 2 ^ 7 + f3 * 2 ^ 12 + rs1 * 2 ^ 15 + rs2 * 2 ^ 20 + f7 * 2 ^ 25
def custom0 : Nat := 0b0001011
def custom1 : Nat := 0b0101011

end Sys2Proof.Machine
end

