-- ==== Sys2Proof/Machine/Flags.lean ====
section
/-!
DEFINITION. The status computations: the sticky bits of a cell through a pass (R38, R40, R42, R43, R45), the result a cell
gives at its drain, and the counts that pass exception records and statistics take from them.
-/
namespace Sys2Proof.Machine

/-! ## The status word of a cell (Table 4-6) -/
namespace CellBit
def firstInv : Fd := (23, 0)
def nan : Fd := (24, 24)
def pinf : Fd := (25, 25)
def minf : Fd := (26, 26)
def invalid : Fd := (27, 27)
def brim : Fd := (28, 28)
def nonneg : Fd := (29, 29)
end CellBit

def Cell.has (c : Cell) (f : Fd) : Bool := fget c.stat f != 0

/-- The first infinity that a status word tells, of a cell that is not invalid (assumption 111). -/
def statFirst (st : BitVec 32) : Option (Bool × Nat) :=
  if fget st CellBit.invalid = 1 || fget st CellBit.pinf = fget st CellBit.minf then none
  else some (fget st CellBit.minf == 1, fget st CellBit.firstInv)

/-- A cell as an entry of Table 4-6 gives it. -/
def Cell.read (acc : BitVec 64) (stat : BitVec 32) : Cell := Cell.of acc stat 0 (statFirst stat)

/-- The first infinity of a cell whose status goes from `old` to `new` in a K-block. -/
def firstInf (first : Option (Bool × Nat)) (old new : BitVec 32) (kblk : Nat) : Option (Bool × Nat) :=
  match first with
  | some x => some x
  | none =>
    if fget old CellBit.pinf < fget new CellBit.pinf then some (false, kblk)
    else if fget old CellBit.minf < fget new CellBit.minf then some (true, kblk)
    else none

/-- A 64-bit accumulator as a signed integer, and back. -/
def accInt (x : BitVec 64) : Int := x.toInt
def accBits (v : Int) : BitVec 64 := BitVec.ofInt 64 v

/-- Saturating sum of R38: the sum within ±(2^63 − 1), and whether it was clamped. -/
def satSum (a b : Int) : Int × Bool :=
  let m : Int := 2 ^ 63 - 1
  let s := a + b
  if m < s then (m, true) else if s < -m then (-m, true) else (s, false)

/-- A cell in the middle of a pass, with the sum of the block under way. -/
structure CellWork where
  acc : Int
  sum : F32
  blk : Int
  stat : BitVec 32
  lost : Nat
  first : Option (Bool × Nat)
deriving DecidableEq, Repr

/-- The invalid bit with the K-block of the event that first sets it (R43). -/
def setInvalid (st : BitVec 32) (kblk : Nat) : BitVec 32 :=
  if fget st CellBit.invalid = 1 then st else fset (fset st CellBit.invalid 1) CellBit.firstInv kblk

/-- Sticky bits that the special operands of one product set (Table 2-7, R43); `none` for a finite product. A zero digit or plane of
an element that is not zero counts as the zero of Table 2-7 (assumption 108). The index holds the K-block of the first infinity
until the invalid bit is set, so that a later sum with the other infinity has its K-block (R146, assumption 111). -/
def specialBits (sub : Bool) (kblk : Nat) (st : BitVec 32) (a b : Val) : Option (BitVec 32) :=
  let inf (neg : Bool) : BitVec 32 :=
    let had := fget st CellBit.pinf = 1 && fget st CellBit.minf = 1
    let first := fget st CellBit.pinf = 0 && fget st CellBit.minf = 0 && fget st CellBit.invalid = 0
    let st := if first then fset st CellBit.firstInv kblk else st
    let st := if neg then fset st CellBit.minf 1 else fset st CellBit.pinf 1
    let both := fget st CellBit.pinf = 1 && fget st CellBit.minf = 1
    if both && !had then setInvalid st kblk else st
  match a, b with
  | .nan, _ => some (fset st CellBit.nan 1)
  | _, .nan => some (fset st CellBit.nan 1)
  | .inf n, .inf m => some (inf ((n != m) != sub))
  | .inf n, .fin m x => some (if x.isZero then setInvalid (fset st CellBit.nan 1) kblk else inf ((n != m) != sub))
  | .fin n x, .inf m => some (if x.isZero then setInvalid (fset st CellBit.nan 1) kblk else inf ((n != m) != sub))
  | .fin _ _, .fin _ _ => none

/-- One K-step of a fast pass in one cell (R38): `w` is log2 of the units per product of the operands as read. -/
def fastStep (sub : Bool) (w : Int) (kblk : Nat) (x : CellWork) (a b : Val) : CellWork :=
  match specialBits sub kblk x.stat a b with
  | some st => { x with
      stat := fset st CellBit.nonneg 1
      first := firstInf x.first x.stat st kblk }
  | none =>
    match Val.mul a b with
    | .fin neg m =>
      let neg := neg != sub
      let k := m.exp + w
      let t := if 0 ≤ k then shl m.num k else m.num / shl 1 (-k)
      let exact := decide (0 ≤ k) || m.num % shl 1 (-k) == 0
      let st := if m.isZero && neg then x.stat else fset x.stat CellBit.nonneg 1
      { x with blk := x.blk + (if neg then -(t : Int) else t), stat := st, lost := if exact then x.lost else x.lost + 1 }
    | _ => x

/-- The end of a K-block: the block's sum enters the accumulator (R38) and stays in the pre-sum register until the next block. -/
def blockEnd (x : CellWork) : CellWork :=
  let r := satSum x.acc x.blk
  { x with acc := r.1, stat := if r.2 then fset x.stat CellBit.brim 1 else x.stat }

/-- One K-step of a strict pass in one cell (R40, R42). -/
def strictStep (sub : Bool) (kblk : Nat) (x : CellWork) (a b : Val) : CellWork :=
  let a32 := toF32 .rne a
  let sum := fmaR (if sub then negF a32 else a32) (toF32 .rne b) x.sum
  match specialBits sub kblk x.stat a b with
  | some st => { x with
      sum := sum
      stat := fset st CellBit.nonneg 1
      first := firstInf x.first x.stat st kblk }
  | none =>
    match Val.mul a b with
    | .fin neg m =>
      { x with sum := sum, stat := if m.isZero && (neg != sub) then x.stat else fset x.stat CellBit.nonneg 1 }
    | _ => { x with sum := sum }

/-- K-blocks of one cell: its row's and its column's blocks, numbered from the clearing pass. -/
def cellBlocks (strict sub : Bool) (w : Int) : Nat → List (List Val) → List (List Val) → CellWork → CellWork
  | kblk, a :: as, b :: bs, x =>
    let x := (a.zip b).foldl (fun x ab => if strict then strictStep sub kblk x ab.1 ab.2 else fastStep sub w kblk x ab.1 ab.2) { x with blk := 0 }
    cellBlocks strict sub w (kblk + 1) as bs (if strict then x else blockEnd x)
  | _, _, _, x => x

/-- A cell after a run of K-blocks, and its lost-low products. -/
def cellRun (strict sub : Bool) (w : Int) (kblk : Nat) (c : Cell) (as bs : List (List Val)) : Cell × Nat :=
  let x := cellBlocks strict sub w kblk as bs ⟨accInt c.acc, BitVec.ofNat 32 (c.acc.toNat % 2 ^ 32), c.pre, c.stat, 0, c.first⟩
  (Cell.of (if strict then BitVec.ofNat 64 x.sum.toNat else accBits x.acc) x.stat x.blk x.first, x.lost)

/-- What a cell's status makes of its result at a drain (R43, R95): the special cases before the finite value. -/
inductive CellEnd where
  | nan | inf (neg : Bool) | beyond (neg : Bool) | value
deriving DecidableEq, Repr

def Cell.ending (c : Cell) : CellEnd :=
  if c.has CellBit.nan || (c.has CellBit.pinf && c.has CellBit.minf) then .nan
  else if c.has CellBit.pinf then .inf false
  else if c.has CellBit.minf then .inf true
  else if c.has CellBit.brim then .beyond (decide (accInt c.acc < 0))
  else .value

/-- Invalid at drain: the bit, or both Inf bits (R43 step 1). -/
def Cell.invalidAtDrain (c : Cell) : Bool := c.has CellBit.invalid || (c.has CellBit.pinf && c.has CellBit.minf)

/-- The invalid outputs of a tile: their number, and the coordinate with the lowest K-block, then row, then column (R43). -/
structure InvalidRep where
  count : Nat
  k : Nat
  row : Nat
  col : Nat
deriving DecidableEq, Repr

def InvalidRep.none : InvalidRep := ⟨0, 0, 0, 0⟩

def InvalidRep.see (r : InvalidRep) (c : Cell) (row col : Nat) : InvalidRep :=
  if !c.invalidAtDrain then r else
  let k := fget c.stat CellBit.firstInv
  if r.count = 0 || decide (k < r.k) then ⟨r.count + 1, k, row, col⟩ else { r with count := r.count + 1 }

/-- Any NaN or Inf bit, or brim_cell: what excludes a sampled accumulation from comparison (R102). -/
def Cell.flagged (c : Cell) : Bool :=
  c.has CellBit.nan || c.has CellBit.pinf || c.has CellBit.minf || c.has CellBit.brim

end Sys2Proof.Machine
end

