-- ==== Sys2Proof/Machine/Array.lean ====
section
/-!
DEFINITION. The array of a plank: accumulators, issue and refusal of passes, the K-blocks of a pass, sedge segments, drains,
add-outs and load-ins, suspend, spill and reload, and faults (chapters "The plank", "Sedge path", "The backward pass").
-/
namespace Sys2Proof.Machine

/-! ## Accumulators (R92, Table 4-4) -/

namespace AccSt
def free : Nat := 0
def accumulating : Nat := 1
def held : Nat := 2
def pending : Nat := 3
def draining : Nat := 4
end AccSt

def accF (p sel : Nat) : RegF := if sel = 0 then Reg.PLANK_STATUS_ACC0_STATE p else Reg.PLANK_STATUS_ACC1_STATE p
def accState (s : State) (p sel : Nat) : Nat := s.rget (accF p sel)
def setAccState (s : State) (p sel st : Nat) : State := s.rset (accF p sel) st
def getAcc (s : State) (p sel : Nat) : Accum := if sel = 0 then (s.plank p).acc0 else (s.plank p).acc1
def setAcc (s : State) (p sel : Nat) (a : Accum) : State :=
  s.modPlank p (fun k => if sel = 0 then { k with acc0 := a } else { k with acc1 := a })

def Accum.cell (a : Accum) (r c : Nat) : Cell := kget (fun _ => a.rest) a.cells (r * 512 + c)

-- States of PLANK_STATUS.STATE (Table 4-10).
namespace PlankSt
def idle : Nat := 0
def running : Nat := 1
def suspending : Nat := 2
def suspended : Nat := 3
def faulted : Nat := 4
def masked : Nat := 5
end PlankSt

def plankState (s : State) (p : Nat) : Nat := s.rget (Reg.PLANK_STATUS_STATE p)
def setPlankState (s : State) (p st : Nat) : State := s.rset (Reg.PLANK_STATUS_STATE p) st
/-- Masked, or step-masked (R12, R319): such a plank refuses passes with code 0x0A. -/
def maskedPlank (s : State) (p : Nat) : Bool :=
  s.rbit (Reg.PLANK_STATUS_MASKED p) || s.rbit (Reg.INTEG_STATE_STEP_MASKED p)

/-- The drain path serves an accumulator or an image (R94, R144). -/
def drainBusy (s : State) (p : Nat) : Bool :=
  accState s p 0 == AccSt.draining || accState s p 1 == AccSt.draining ||
  (match (s.plank p).image with
   | some i => i.begun
   | none => false)

/-- Idle or Running by what the array does (assumption 10); the other states stand. -/
def refreshPlank (s : State) (p : Nat) : State :=
  let st := plankState s p
  if st = PlankSt.idle || st = PlankSt.running then
    let k := s.plank p
    let busy := k.run.isSome || k.reload.isSome || drainBusy s p
      || accState s p 0 == AccSt.pending || accState s p 1 == AccSt.pending
    setPlankState s p (if busy then PlankSt.running else PlankSt.idle)
  else s

/-- Discard an accumulator: Free and empty. -/
def freeAcc (s : State) (p sel : Nat) : State := setAccState (setAcc s p sel .empty) p sel AccSt.free

/-! ## Accesses to the plank's own store (R91, R232) -/

/-- Poisoned words of the store in a range (R220). -/
def poisonCount (s : State) (p : Nat) (r : Nat × Nat) : Nat :=
  (s.poison.filter (fun e => e.2 && decide (e.1 < storeBase p + r.1 + r.2) && decide (storeBase p + r.1 < e.1 + granule e.1))).length

def poisonSum (s : State) (p : Nat) (rs : List (Nat × Nat)) : Nat := rs.foldl (fun n r => n + poisonCount s p r) 0

/-- Uncorrectable words that a read of these ranges meets: poisoned ones, and one that SECDED finds new (R232). -/
def storeErrs (s : State) (p : Nat) (ecc : CoreEcc) (rs : List (Nat × Nat)) : Nat :=
  poisonSum s p rs + boolNat (ecc == .store)

/-- Words that SECDED corrected in a read. -/
def eccCorrected : CoreEcc → Nat
  | .corrected n => n.toNat
  | _ => 0

/-- A read of the plank store counts in PS_ECC its corrected words and n uncorrectable ones (R232). -/
def eccCounts (s : State) (p : Nat) (ecc : CoreEcc) (n : Nat) : State :=
  (s.rsat (Reg.PS_ECC_CORR p) (eccCorrected ecc)).rsat (Reg.PS_ECC_UNCORR p) n

/-! ## Faults (R108, R109) -/

/-- The spill record of Table 4-6: where it lies, its header, the live accumulators it names, and their descriptor copies. -/
def spillOff (s : State) (p : Nat) : Nat := s.rget (Reg.SPILL_BASE_BASE p) * 4096
def spillDesc (s : State) (p sel : Nat) : BitVec 256 := s.recAt (storeBase p + spillOff s p + 64 + 32 * sel) 256
def spillHead (s : State) (p : Nat) : BitVec 512 := s.recAt (storeBase p + spillOff s p) 512
def spillLive (s : State) (p : Nat) : Nat := fget (spillHead s p) (2, 1)

/-- A suspend, a spill or a reload is under way (R108). -/
def spillUnderway (s : State) (p : Nat) : Bool :=
  plankState s p == PlankSt.suspending || (s.plank p).spilling || (s.plank p).reload.isSome

/-- A pass whose drain has not completed: its descriptor, the K-blocks that it has completed, and the tag of its fill item. -/
structure OpenPass where
  desc : BitVec 256
  pos : Nat
  tag : Nat
deriving DecidableEq, Repr

/-- Passes whose drain has not completed (R108): those of accumulators that are not Free, and with a spill record that is lost those
of the accumulators that it holds; then the running pass before it enters, and the waiting one. Of an accumulator's passes all but
the last are complete. -/
def openPasses (s : State) (p : Nat) (lost : Bool) : List OpenPass :=
  let k := s.plank p
  let acc (sel : Nat) : List OpenPass :=
    let a := getAcc s p sel
    let spilled := lost && s.rbit (Reg.PLANK_STATUS_SPILL_VALID p) && bit (spillLive s p) sel
    if accState s p sel = AccSt.free && !spilled then []
    else a.passes.dropLast.map (fun d => ⟨d, passBlocks d, a.fill.getD 0⟩)
      ++ a.passes.getLast?.toList.map (fun d => ⟨d, a.passPos, a.fill.getD 0⟩)
  let early := match k.run with
    | some r => if accState s p (fget r.desc Desc.SEL) = AccSt.accumulating then [] else [⟨r.desc, 0, r.fill.getD 0⟩]
    | none => []
  acc 0 ++ acc 1 ++ early ++ (match k.wait with
    | some r => [⟨r.desc, 0, r.fill.getD 0⟩]
    | none => []) ++ (match k.waitOff with
    | some off => if lost then [⟨s.recAt (storeBase p + off) 256, 0, 0⟩] else []
    | none => [])

/-- PASS_TAG at a fault: the running pass, else a draining one, else 0. -/
def faultTag (s : State) (p : Nat) : Nat :=
  match (s.plank p).run with
  | some r => fget r.desc Desc.PASS_TAG
  | none =>
    if accState s p 0 = AccSt.draining then fget (getAcc s p 0).desc Desc.PASS_TAG
    else if accState s p 1 = AccSt.draining then fget (getAcc s p 1).desc Desc.PASS_TAG
    else 0

/-- Fill-ring entry i (R147). -/
def fillEntry (s : State) (p i : Nat) : BitVec 512 :=
  s.recAt (storeBase p + s.rget (Reg.FILL_RING_BASE p) * 64 + i * 64) 512
/-- The oldest item of the fill list. -/
def fillOldest (s : State) (p : Nat) : BitVec 512 := fillEntry s p (s.rget (Reg.FILL_PTR_TAIL p))

/-- FILL_PTR.DONE follows the count of passes issued: those of the oldest item (Table 6-5). -/
def fillDone (s : State) (p : Nat) : State :=
  let k := s.plank p
  s.rset (Reg.FILL_PTR_DONE p) (if k.fillN = 0 then 0 else min k.fillIssued (fget (fillOldest s p) Fill.PASSES))

/-- The oldest item leaves the list: TAIL advances (R149). -/
def fillDrop (s : State) (p : Nat) : State :=
  let size := s.rget (Reg.FILL_RING_SIZE p)
  let n := fget (fillOldest s p) Fill.PASSES
  let s := s.rset (Reg.FILL_PTR_TAIL p) (if size = 0 then 0 else (s.rget (Reg.FILL_PTR_TAIL p) + 1) % size)
  let s := s.rset (Reg.FILL_PTR_ITEM_HELD p) 0
  fillDone (s.modPlank p (fun k => { k with fillN := k.fillN - 1, fillIssued := k.fillIssued - n })) p

/-- Items of which passes are issued leave the list: their sums are lost (Table 6-8). The list's length bounds the work. -/
def fillForget (s : State) (p : Nat) : State :=
  (List.range (s.plank p).fillN).foldl (fun s _ => if (s.plank p).fillIssued = 0 then s else fillDrop s p) s

/-- The array loses what it holds: both accumulators, running and waiting passes, outliers and image work. -/
def clearArray (s : State) (p : Nat) : State :=
  let s := freeAcc (freeAcc s p 0) p 1
  let s := s.rset (Reg.FILL_PTR_ITEM_HELD p) 0
  s.modPlank p (fun k => { k with run := none, wait := none, reload := none, segs := [], image := none, spilling := false })

/-- One abandoned-pass record. -/
def abandonRecord (code : Nat) (s : State) (p : Nat) (o : OpenPass) : State :=
  excRecord s p
    { tag := fget o.desc Desc.PASS_TAG, tid := fget o.desc Desc.OUT_TID, kind := 4, code := code, sel := fget o.desc Desc.SEL, pos := o.pos,
      fillTag := o.tag }

/-- K-blocks that a pass streams count in KBLOCK_COUNT (Table 4-10) and as array operations (R2). -/
def countBlocks (s : State) (p : Nat) (d : BitVec 256) (n : Nat) : State :=
  (s.radd (Reg.KBLOCK_COUNT_KBLOCKS p) n).modPlank p (fun k => { k with ops := k.ops + 32 * passRows d * passCols d * n })

/-- The feed stops inside the running pass (R108, R316). The K-blocks that it has streamed since the pass began or resumed are a free
value (assumption 5); where a suspend had stopped it, it streamed no more. -/
def feedStops (s : State) (p : Nat) : State :=
  match (s.plank p).run with
  | none => s
  | some r =>
    let sel := fget r.desc Desc.SEL
    if accState s p sel ≠ AccSt.accumulating || (s.plank p).spilling then s else
    let n := s.fresh.toNat % (passBlocks r.desc + 1 - r.pos)
    let s := countBlocks s.drew p r.desc n
    setAcc s p sel { getAcc s p sel with passPos := r.pos + n }

/-- The spill record is lost (R108, R110): SPILL_VALID and, where the cells own its bank, the header's VALID bit are cleared. -/
def loseSpill (s : State) (p : Nat) : State :=
  let s := s.rset (Reg.PLANK_STATUS_SPILL_VALID p) 0
  let s := s.modPlank p (fun k => { k with waitOff := none })
  let at0 := storeBase p + spillOff s p
  if (storeBad s p [ownCells] (spillOff s p, 1)).isSome then s else s.storeKeep at0 [s.byte at0 &&& 0xFE]

/-- A fault of the array (R108): the feed and drain stop, accumulators are discarded, passes abandoned with one record each,
FAULT_INFO set and the plank Faulted. During a suspend, spill or reload the code is 0x04 and the spill record is lost. A drain that
such a fault stops had written no row (assumption 120). FAULT_INFO takes the code and the tag of the fault and keeps LATER, also of a
fault after FAULT_ACK (assumption 120). -/
def plankFaultOp (s : State) (p code : Nat) : State :=
  if s.rbit (Reg.PLANK_STATUS_MASKED p) then s
  else if plankState s p = PlankSt.faulted then s.rsat (Reg.FAULT_INFO_LATER p) 1
  else
    let stream := (s.plank p).stream
    let code := if spillUnderway s p then 4 else code
    let tag := faultTag s p
    let s := feedStops s p
    let s := (openPasses s p (code == 4)).foldl (fun s d => abandonRecord code s p d) s
    let s := fillForget (clearArray s p) p
    let s := if code = 4 then loseSpill s p else s
    let s := s.rset (Reg.FAULT_INFO_CODE p) code
    let s := s.rset (Reg.FAULT_INFO_TAG p) tag
    let s := filePlank s p code tag 0
    let s := setPlankState s p PlankSt.faulted
    if code = 3 then stepFault s p .vOwnership 0xFF08
    else
      let s := stepFault s p .vFault (if code = 4 then 0xFF07 else 0xFF09)
      if code ≠ 4 then s else
      let s := s.modPlank p (fun k => { k with ctxLost := true })
      match stream with
      | some n => failStream s n.val 0xFF07
      | none => s

/-- A bank that a spill, a reload or a context cannot use (R106, R107): the violation record and the step's flag. The fault that
follows fails the stream of a stepless program, with the FAIL_CODE of fault 0x04. -/
def spillViolation (s : State) (p b tag : Nat) : State :=
  let s1 := violation s 1 p b p (chipNo s) tag (plankStep s p)
  if stepless s p then s1 else stepFault s1 p .vOwnership 0xFF08

/-- An access of a pass to a bank that the cells do not own (R91): the violation record, then fault 0x03 (0x04 in a spill). -/
def bankFault (s : State) (p b tag : Nat) : State :=
  if spillUnderway s p then plankFaultOp (spillViolation s p b tag) p 4 else plankFaultOp (bankViolation s p b tag) p 3

/-- An uncorrectable read of the feed (R108, R232). -/
def feedFault (s : State) (p n : Nat) : State := plankFaultOp (s.rsat (Reg.PS_ECC_UNCORR p) n) p 2

/-! ## Issue and refusal (R87 to R89, Table 4-3) -/

/-- State that a pass's accumulator will have when the running pass ends, for the tests of code 0x03 (R93): state, exponents
and mode. -/
def futureAcc (s : State) (p sel : Nat) : Nat × Int × Int × Bool :=
  let a := getAcc s p sel
  match (s.plank p).run with
  | some r =>
    if fget r.desc Desc.SEL = sel && fget r.desc Desc.DRAIN = 0 then
      (AccSt.held, r.eA, r.eB, fget r.desc Desc.STRICT == 1)
    else (accState s p sel, a.eA, a.eB, fget a.desc Desc.STRICT == 1)
  | none => (accState s p sel, a.eA, a.eB, fget a.desc Desc.STRICT == 1)

/-- Words of an operand's format in the array; 0 where the format may not be named there (R33, code 0x02). -/
def operandWords (s : State) (p : Nat) (fmt tid : Nat) : Nat :=
  match Fmt.ofCode fmt with
  | some .sw8 =>
    (match splitFmt (tensorRec s p tid) (ladderRec s p tid) with
     | some f => splitWords f
     | none => 0)
  | some .fp4 => 1
  | some .int4 => 1
  | some .e4m3 => 1
  | some .e5m2 => 1
  | some .int8 => 2
  | _ => 0

/-- A descriptor without the fields that a continue-from-spill may change (R107). The drain fields of a pass with DRAIN 0 are compared
like the others: R107 names every field, and R100 the tests that leave them out (assumption 120). -/
def spillKey (d : BitVec 256) : BitVec 256 :=
  [Desc.ACC, Desc.SRC_A, Desc.SRC_B, Desc.DST, Desc.SIDE].foldl (fun d f => fset d f 0) d

/-- Reserved values and bits of a descriptor and its side record (code 0x01); drain fields only with DRAIN 1 (R100). -/
def badFields (d : BitVec 256) (sd : BitVec 512) : Bool :=
  fget d Desc.OPC != 1 || decide (9 < fget d Desc.FMT_A) || decide (9 < fget d Desc.FMT_B) || fget d Desc.ACC == 3
  || decide (5 < fget d Desc.CARD) || fget d Desc.ASYM == 3 || fget d Desc.CHK == 3 || decide (4 < fget d Desc.NAP)
  || (fget d Desc.DRAIN == 1 &&
      (decide (4 < fget d Desc.RND) || decide (12 < fget d Desc.SRB) || decide (7 < fget d Desc.OUT_FMT)))
  || fget d Desc.RES0 != 0 || fget d Desc.RES1 != 0 || fget d Desc.RES2 != 0
  || fget sd Side.RES0 != 0 || fget sd Side.RES1 != 0

/-- An image number is held in a function-table slot. -/
def tableSlot (s : State) (p image : Nat) : Option Nat :=
  if image = 0 then none
  else if s.rget (Reg.TAB_SLOTS_SLOT0 p) = image then some 0
  else if s.rget (Reg.TAB_SLOTS_SLOT1 p) = image then some 1
  else if s.rget (Reg.TAB_SLOTS_SLOT2 p) = image then some 2
  else if s.rget (Reg.TAB_SLOTS_SLOT3 p) = image then some 3
  else none

/-- A fill item is Held or running (R148). -/
def fillBusy (s : State) (p : Nat) : Bool :=
  s.rbit (Reg.FILL_PTR_ITEM_HELD p) ||
  (match (s.plank p).run with
   | some r => r.fill.isSome
   | none => false) ||
  ((getAcc s p 1).fill.isSome && accState s p 1 != AccSt.free)

/-- Sides of a pass that are asymmetric, row and column: by ASYM or by a scaling record in mode 2 (R72, Table 3-3). -/
def asymSides (s : State) (p : Nat) (d : BitVec 256) (sd : BitVec 512) : Bool × Bool :=
  (fget d Desc.ASYM == 1 || fget (tensorRec s p (fget sd Side.A_TID)) Ten.CSMODE == 2,
   fget d Desc.ASYM == 2 || fget (tensorRec s p (fget sd Side.B_TID)) Ten.CSMODE == 2)

/-- Whether a pass breaks R72: at most one asymmetric operand, and that an activation. -/
def asymBad (s : State) (p : Nat) (d : BitVec 256) (sd : BitVec 512) : Bool :=
  let x := asymSides s p d sd
  let notAct (t : Nat) : Bool := !bit (tensorClass s p t) 0 || bit (tensorClass s p t) 1
  (x.1 && x.2) || (x.1 && notAct (fget sd Side.A_TID)) || (x.2 && notAct (fget sd Side.B_TID))

/-- A continue names an accumulation that is not Held or that differs in tensor exponents or mode (R32, R85): the held one, or for a
continue-from-spill the one that the live record holds. -/
def continueBad (s : State) (p : Nat) (d : BitVec 256) (ta tb : BitVec 512) : Bool :=
  let sel := fget d Desc.SEL
  let strict := fget d Desc.STRICT == 1
  let f := futureAcc s p sel
  let a := getAcc s p sel
  if fget d Desc.ACC = 1 then f.1 != AccSt.held || f.2.1 != tensorE ta || f.2.2.1 != tensorE tb || f.2.2.2 != strict
  else if fget d Desc.ACC = 2 then
    s.rbit (Reg.PLANK_STATUS_SPILL_VALID p) && bit (spillLive s p) sel &&
      (a.eA != tensorE ta || a.eB != tensorE tb || (fget (spillDesc s p sel) Desc.STRICT == 1) != strict)
  else false

/-- The refusal code of a descriptor, 0 when it breaks no rule (R89): the lowest code among the rules broken. Its single CARD
field gives the order of both operands (R80). -/
def refusalCode (s : State) (p : Nat) (d : BitVec 256) (sd : BitVec 512) (fill : Bool) : Nat :=
  let sel := fget d Desc.SEL
  let drain := fget d Desc.DRAIN == 1
  let strict := fget d Desc.STRICT == 1
  let wa := operandWords s p (fget d Desc.FMT_A) (fget sd Side.A_TID)
  let wb := operandWords s p (fget d Desc.FMT_B) (fget sd Side.B_TID)
  let ta := tensorRec s p (fget sd Side.A_TID)
  let tb := tensorRec s p (fget sd Side.B_TID)
  let epi := drain && (fget d Desc.EPI_MODE == 1 || fget d Desc.EPI_MODE == 2)
  let valid := s.rbit (Reg.PLANK_STATUS_SPILL_VALID p)
  let live := spillLive s p != 0
  if s.rbit (Reg.PLANK_STATUS_MASKED p) || s.rbit (Reg.INTEG_STATE_STEP_MASKED p) then 0x0A
  else if plankState s p = PlankSt.faulted then 0x0E
  else if badFields d sd then 0x01
  else if wa ≤ fget d Desc.WORD_A || wb ≤ fget d Desc.WORD_B then 0x02
  else if continueBad s p d ta tb then 0x03
  else if strict && (decide (1 < wa) || decide (1 < wb) || fget d Desc.ASYM != 0 || (drain && fget d Desc.EPI_MODE != 0)
      || fget d Desc.SEDGE != 0 || fget d Desc.NAP != 0 || fget d Desc.CARD != 0 || fget d Desc.EADJ != 0) then 0x04
  else if asymBad s p d sd then 0x05
  else if fget d Desc.CARD != 0 &&
      ((asymSides s p d sd).1 || (asymSides s p d sd).2 || passBlocks d * 16 % cardOrder (fget d Desc.CARD) != 0) then 0x06
  else if drain && fget (tensorRec s p (fget d Desc.OUT_TID)) Ten.CSMODE != 0 then 0x07
  else if (if fget d Desc.ACC = 2 then
        !valid || !live || !bit (spillLive s p) sel || spillKey d != spillKey (spillDesc s p sel)
      else valid && live) then 0x08
  else if passCols d % 16 != 0 || (epi && fget d Desc.EPI_ID == 0) then 0x09
  else if fget d Desc.SEDGE = 1 &&
      (decide (1 < fget d Desc.FMT_A) || decide (3 < fget d Desc.FMT_B) || fget d Desc.WORD_B != 0 || fget d Desc.CARD != 0)
      then 0x0B
  else if s.rget (Reg.FILL_RING_SIZE p) != 0 && (if fill then sel == 0 else fillBusy s p && sel == 1) then 0x0C
  else if epi && (tableSlot s p (fget d Desc.EPI_ID)).isNone then 0x0D
  else 0

/-- The effects of a refusal (R89): a record of kind refusal, and the step Void or the stepless stream Failed. -/
def refusePass (s : State) (p code tag tid sel fillTag : Nat) : State :=
  stepFault (excRecord s p { tag := tag, tid := tid, kind := 3, code := code, sel := sel, fillTag := fillTag }) p .vRefusal 0xFF08

/-- A spill record without a live accumulator is dropped by the issue of any pass but a continue-from-spill (R107, R110). -/
def dropIdleSpill (s : State) (p : Nat) : State :=
  if s.rbit (Reg.PLANK_STATUS_SPILL_VALID p) && spillLive s p == 0 then
    let s := s.rset (Reg.PLANK_STATUS_SPILL_VALID p) 0
    if plankState s p = PlankSt.suspended then setPlankState s p PlankSt.idle else s
  else s

/-- Issue a descriptor d read from `off` (R86 to R89, R93, R107): the code that pass.issue returns, and the array's state. The waiting
slot is empty. A continue-from-spill of a fill item's accumulator is a pass of that item (R154). `ecc` is what SECDED finds on
the side record (R232). -/
def issueDesc (s : State) (p : Nat) (d : BitVec 256) (off : Nat) (fill : Option Nat) (ecc : CoreEcc) : Nat × State :=
  let sideOff := fget d Desc.SIDE * 64
  let early := maskedPlank s p || plankState s p == PlankSt.faulted
  let cont := fget d Desc.ACC == 2
  let s := if early || cont then s else dropIdleSpill s p
  let fill := if cont && bit (spillLive s p) (fget d Desc.SEL) then (getAcc s p (fget d Desc.SEL)).fill else fill
  match (if early then none else storeBad s p [ownCells] (sideOff, 64)) with
  | some b =>
    let s := s.modPlank p (fun k => { k with wait := some ⟨d, 0, off, 0, 0, 0, 0, fill⟩ })
    (0, bankFault s p b (fget d Desc.PASS_TAG))
  | none =>
    let bad := storeErrs s p ecc [(sideOff, 64)]
    let s := if early then s else eccCounts s p ecc 0
    if !early && bad != 0 then
      let s := s.modPlank p (fun k => { k with wait := some ⟨d, 0, off, 0, 0, 0, 0, fill⟩ })
      (0, feedFault s p bad)
    else
      let sd := s.recAt (storeBase p + sideOff) 512
      let code := refusalCode s p d sd fill.isSome
      if code ≠ 0 then
        (code, refusePass s p code (fget d Desc.PASS_TAG) (fget d Desc.OUT_TID) (fget d Desc.SEL) (fill.getD 0))
      else
        let r : PassRun := ⟨d, sd, off, tensorE (tensorRec s p (fget sd Side.A_TID)), tensorE (tensorRec s p (fget sd Side.B_TID)),
          if fget d Desc.DRAIN = 1 then tensorE (tensorRec s p (fget d Desc.OUT_TID)) else 0, 0, fill⟩
        if fget d Desc.ACC = 2 then
          (0, refreshPlank (setPlankState (s.modPlank p (fun k => { k with reload := some r })) p PlankSt.idle) p)
        else
          (0, refreshPlank (s.modPlank p (fun k => { k with wait := some r })) p)

/-- Issue the descriptor at an offset of the plank store. It lies in a bank of the core, which hands it over, or of the cells (R91, R150, Table 9-6,
assumption 85); an uncorrectable word of it is a feed error (R108). -/
def issuePass (s : State) (p off : Nat) (fill : Option Nat) (ecc : CoreEcc) : Nat × State :=
  if maskedPlank s p || plankState s p == PlankSt.faulted then issueDesc s p (s.recAt (storeBase p + off) 256) off fill ecc else
  match storeBad s p [ownCore, ownCells] (off, 32) with
  | some b => (0, bankFault s p b 0)
  | none =>
    let bad := poisonCount s p (off, 32)
    if bad ≠ 0 then (0, feedFault s p bad) else issueDesc s p (s.recAt (storeBase p + off) 256) off fill ecc

/-! ## Beginning a pass (R93, R101, R304) -/

/-- Whether an accumulation is sampled, decided when its clearing pass begins (R101, R304). -/
def sampleDecision (s : State) (p : Nat) (chk seq : Nat) : Bool :=
  if chk = 1 then true else if chk = 2 then false
  else if !s.rbit (Reg.SAMPLE_CTL_EN p) then false
  else
    let attempt := if stepless s p then 1 else
      match plankJob s p with
      | some j => j.attempt
      | none => 1
    let g := laneGen (manField s p Man.SEED) (plankStep s p) (manField s p Man.SAMPLE_ID)
      ((attempt * 256 + p) * 2 ^ 24 + seq)
    bits g.toNat 0 (s.rget (Reg.SAMPLE_CTL_RATE_LOG2 p)) == 0

/-- Segments of a pass that starts at K-block `pos`, with the K-blocks each covers (R116, R118). -/
def segJobs (r : PassRun) : List SegJob :=
  if fget r.desc Desc.SEDGE = 0 then [] else
  ((List.range ((passBlocks r.desc + 31) / 32)).filter (fun g => decide (r.pos < 32 * (g + 1)))).map
    (fun g => ⟨fget r.desc Desc.SEL, r.desc, r.side, r.eB, g, max r.pos (32 * g), min (passBlocks r.desc) (32 * (g + 1)), true, []⟩)

/-- A pass with CHK 2 takes its accumulation out of the sampled ones (R101): neither its note nor its count stands. -/
def unsample (s : State) (p : Nat) : State :=
  (s.rset (Reg.SAMPLE_COUNT_SAMPLED p) (s.rget (Reg.SAMPLE_COUNT_SAMPLED p) - 1)).modPlank p
    (fun k => { k with chk := { k.chk with sampled := false, ready := false } })

/-- A pass takes its accumulator: cleared and sampled anew, or continued (R38, R40, R93, R101). A clearing pass discards a Held
accumulation with the outlier entries that wait for it (R117). -/
def enterPass (s : State) (p : Nat) (r : PassRun) : State :=
  let sel := fget r.desc Desc.SEL
  let strict := fget r.desc Desc.STRICT == 1
  let clears := fget r.desc Desc.ACC == 0
  let s := s.modPlank p (fun k => { k with segs := k.segs.filter (fun j => !(clears && j.sel == sel)) ++ segJobs r })
  let s := setAccState s p sel AccSt.accumulating
  if fget r.desc Desc.ACC = 0 then
    let chk := fget r.desc Desc.CHK
    let seq := (s.plank p).accSeq
    let sampled := sampleDecision s p chk seq
    let s := if chk = 0 then s.modPlank p (fun k => { k with accSeq := (k.accSeq + 1) % 2 ^ 24 }) else s
    let s := if sampled then
        (s.rsat (Reg.SAMPLE_COUNT_SAMPLED p) 1).modPlank p (fun k => { k with chk := ⟨true, false, fget r.desc Desc.PASS_TAG, false⟩ })
      else s
    setAcc s p sel { Accum.empty with
      rest := Cell.of (if strict then 0x80000000 else 0) 0 0 none, sedgeSide := if fget r.desc Desc.SEDGE = 1 then some r.side else none,
      desc := r.desc, side := r.side, passes := [r.desc], eA := r.eA, eB := r.eB,
      eOut := r.eOut, sampled := sampled, fill := r.fill, seq := seq }
  else
    let a := getAcc s p sel
    let out := a.sampled && fget r.desc Desc.CHK == 2
    setAcc (if out then unsample s p else s) p sel { a with
      desc := r.desc, side := r.side, passes := a.passes ++ [r.desc], eOut := r.eOut, passPos := 0, fill := r.fill,
      sedgeSide := if fget r.desc Desc.SEDGE = 1 then some r.side else a.sedgeSide,
      sampled := a.sampled && !out }

/-- Codes and shift nibbles of K-blocks pos to pos + n − 1 of channel j of an operand, as plank-store ranges. -/
def opndRanges (o : Opnd) (pos n j : Nat) : List (Nat × Nat) :=
  let i0 := o.first + pos
  [(o.src + (j * o.stride + pos) * o.fmt.blockBytes, n * o.fmt.blockBytes),
   (o.shf + j * o.lines * 32 + i0 / 2, (i0 + n - 1) / 2 + 1 - i0 / 2)]

/-- Plank-store ranges that the feed of a pass reads, and its taps (R61, R87, R91, R101). -/
def feedRanges (s : State) (p : Nat) (r : PassRun) (sampled : Bool) : List (Nat × Nat) :=
  let n := passBlocks r.desc - r.pos
  let a := rowOpnd r.desc r.side
  let b := colOpnd r.desc r.side
  let taps := (getAcc s p (fget r.desc Desc.SEL)).taps
  let chk := if sampled then
      [(s.rget (Reg.CHK_BUF_BASE p) * 4096 + 8 * taps, min (128 * n) (s.rget (Reg.CHK_BUF_SIZE p) * 4096 - 8 * taps))] else []
  (List.range (passRows r.desc)).flatMap (opndRanges a r.pos n) ++ (List.range (passCols r.desc)).flatMap (opndRanges b r.pos n) ++ chk

/-! ## K-blocks (R38 to R45, R88, R101) -/

/-- tap_k of one K-step: the exact sum of the row values in units of 2^(E_A − 47), with word weight and sign (R101). Special
elements add nothing; their accumulation is excluded from comparison. -/
def tapOf (sub : Bool) (word : Nat) (vals : List Val) : Int :=
  vals.foldl (fun t v => match v with
    | .fin n m =>
      let k := m.exp + 47 - 4 * word
      let x : Nat := if 0 ≤ k then shl m.num k else m.num / shl 1 (-k)
      if n != sub then t - x else t + x
    | _ => t) 0

/-- Run K-blocks lo to hi − 1 of a pass in its accumulator. A checksum buffer must hold the taps and 8 KiB of column sums; of a run of
K-blocks that does not fit no tap is written (assumption 120). -/
def runBlocks (s : State) (p : Nat) (r : PassRun) (lo hi : Nat) : State :=
  let d := r.desc
  let sel := fget d Desc.SEL
  let a := getAcc s p sel
  let strict := fget d Desc.STRICT == 1
  let sub := fget d Desc.SUB == 1
  let oa := rowOpnd d r.side
  let ob := colOpnd d r.side
  let rows := passRows d
  let cols := passCols d
  let ks := (List.range (hi - lo)).map (· + lo)
  let rowV := (List.range rows).map (fun j => ks.map (opndBlock s p oa j))
  let colV := (List.range cols).map (fun j => ks.map (opndBlock s p ob j))
  let z := ks.map (fun _ => zeroBlock)
  let w : Int := 36 - 4 * ((oa.word : Int) + ob.word)
  let run := cellRun strict sub w a.kblocks
  let rest' := (run a.rest z z).1
  let rv (j : Nat) := if j < rows then rowV.getD j z else z
  let cv (j : Nat) := if j < cols then colV.getD j z else z
  -- cells of the tile, cells listed before, and cells outside the tile that a special element reaches
  let tile := (List.range rows).flatMap (fun j => (List.range cols).map (fun c => j * 512 + c))
  let oldOut := (a.cells.map (·.1)).filter (fun i => !(decide (i / 512 < rows) && decide (i % 512 < cols)))
  let right := ((List.range rows).filter (fun j => (run a.rest (rv j) z).1 != rest')).flatMap
    (fun j => (List.range (512 - cols)).map (fun c => j * 512 + cols + c))
  let below := ((List.range cols).filter (fun c => (run a.rest z (cv c)).1 != rest')).flatMap
    (fun c => (List.range (128 - rows)).map (fun j => (rows + j) * 512 + c))
  let keys := tile ++ oldOut ++ right ++ below
  let res := keys.map (fun i => (i, run (a.cell (i / 512) (i % 512)) (rv (i / 512)) (cv (i % 512))))
  let cells := res.foldl (fun m e => kput (fun _ => rest') m e.1 e.2.1) []
  let lost := (res.filter (fun e => decide (e.1 / 512 < rows) && decide (e.1 % 512 < cols))).foldl (fun n e => n + e.2.2) 0
  let steps := (List.range ((hi - lo) * 16)).map (fun k =>
    tapOf sub oa.word (rowV.map (fun blks => ((blks.getD (k / 16) zeroBlock).getD (k % 16) .zero))))
  let fits := decide (8 * (a.taps + steps.length) + 8192 ≤ s.rget (Reg.CHK_BUF_SIZE p) * 4096)
  let s := if a.sampled && fits && a.tapsFit then
      s.store (storeBase p + s.rget (Reg.CHK_BUF_BASE p) * 4096 + 8 * a.taps) (steps.flatMap (fun t => leBytes 8 (unsign t 64)))
    else s
  let s := countBlocks s p d (hi - lo)
  setAcc s p sel { a with
    cells := cells, rest := rest', kblocks := a.kblocks + (hi - lo), passPos := hi,
    lostlow := if strict then a.lostlow else satAdd 32 a.lostlow lost,
    taps := if a.sampled then a.taps + steps.length else a.taps, tapsFit := a.tapsFit && (fits || !a.sampled) }

/-! ## The sedge path (R117 to R119) -/

def segPending (s : State) (p sel : Nat) : Bool := (s.plank p).segs.any (fun j => j.sel == sel)

/-- Valid entries of one row of a segment, as (K position in the pass, BF16 value), in ascending K position (R116). -/
def segEntries (s : State) (p : Nat) (j : SegJob) (row : Nat) : List (Nat × Nat) :=
  let h := s.recAt (storeBase p + fget j.side Side.SEDGE_LIST * 64) 512
  let base := storeBase p + 64 * fget h Sedge.LIST + (row * fget h Sedge.SEG_STRIDE + j.seg) * 16
  ((List.range 4).map (fun i => s.le (base + 4 * i) 4)).filterMap (fun e =>
    let k := j.seg * 512 + bits e 0 9
    if bit e 15 && decide (j.lo * 16 ≤ k) && decide (k < j.hi * 16) then some (k, e / 65536) else none)

/-- A signalling NaN among the codes of a format that has them (R48). -/
def snanCode (f : Fmt) (c : Nat) : Bool :=
  let (_, fb, _) := f.layout
  (f == .fp32 || f == .bf16 || f == .fp16 || f == .e5m2) && f.decode c == .nan && !bit c (fb - 1)

/-- Element k of channel c of an operand is a signalling NaN. -/
def opndSnan (s : State) (p : Nat) (o : Opnd) (c k : Nat) : Bool :=
  snanCode o.fmt (codeAt s p o.fmt (o.src + (c * o.stride + k / 16) * o.fmt.blockBytes) (k % 16))

/-- The sedge sums while a segment is applied: the sums, the rows with an entry, an invalid operation, the entries applied. -/
structure SegWork where
  sums : List (Nat × F32)
  rows : BitVec 128
  inv : Bool
  n : Nat
deriving DecidableEq, Repr

/-- One entry of a row, as (K position, BF16 value), for every column (R117). -/
def segEntry (s : State) (p : Nat) (o : Opnd) (cols row : Nat) (x : SegWork) (e : Nat × Nat) : SegWork :=
  let w := bf16F e.2
  let y := (List.range cols).foldl (fun (y : List (Nat × F32) × Bool) c =>
    let b := toF32 .rne ((opndBlock s p o c (e.1 / 16)).getD (e.1 % 16) .zero)
    let t := kget noF32 y.1 (row * 512 + c)
    let r := fmaR w b t
    (kput noF32 y.1 (row * 512 + c) r, y.2 || badOp [w, b, t] r || opndSnan s p o c e.1)) (x.sums, x.inv)
  ⟨y.1, x.rows ||| BitVec.ofNat 128 (2 ^ row), y.2, x.n + 1⟩

/-- What the feed reads of B in a segment's K-blocks, as byte runs by module offset. -/
def segFeed (s : State) (p : Nat) (j : SegJob) : List (Nat × List Byte) :=
  ((List.range (passCols j.desc)).flatMap (opndRanges (colOpnd j.desc j.side) j.lo (j.hi - j.lo))).map
    (fun r => (storeBase p + r.1, s.bytes (storeBase p + r.1) r.2))

/-- The feed ends a pass: the segments still to process keep what it read of B (R117). -/
def segEnd (s : State) (p sel : Nat) (j : SegJob) : SegJob :=
  if j.sel == sel && j.live then { j with
    live := false
    feed := segFeed s p j } else j

/-- Add the entries of a segment to the sums (R117): one lane cycle for each (R118). B is what the feed streamed. -/
def runSeg (s : State) (p : Nat) (j : SegJob) : State :=
  let a := getAcc s p j.sel
  let ob := colOpnd j.desc j.side
  let b := j.feed.foldl (fun b e => b.storeKeep e.1 e.2) s
  let x := (List.range (passRows j.desc)).foldl (fun x row =>
    (segEntries s p j row).foldl (segEntry b p ob (passCols j.desc) row) x) (⟨a.sedge, a.sedgeRows, false, 0⟩ : SegWork)
  laneCycles (noteInvalid (setAcc s p j.sel { a with sedge := x.sums, sedgeRows := x.rows }) p x.inv) p x.n

/-! ## Function tables (R194, R196) -/

/-- Evaluate an image of 4,160 bytes at x (R196). A NaN constant comes out canonical (R48). -/
def tableEval (img : List Byte) (x : Noted) : Noted :=
  if isNan32 x.val then ⟨f32Nan, x.inv || isSnan32 x.val⟩ else
  let at4 (o : Nat) : F32 := BitVec.ofNat 32 (leNat ((img.drop o).take 4))
  let h := leNat (img.take 64)
  let u := Noted.op2 mulR (Noted.op2 subR x (.of (at4 0))) (.of (at4 4))
  let below := bits h 64 2
  let above := bits h 66 2
  let seg (i : Nat) (t : Noted) : Noted :=
    let c (j : Nat) : Noted := .of (at4 (64 + 16 * i + 4 * j))
    Noted.fma (Noted.fma (Noted.fma (c 3) t (c 2)) t (c 1)) t (c 0)
  if cmpF 2 u.val 0 then
    (if below = 1 then { u with val := canon (at4 12) } else seg 0 (if below = 0 then { u with val := 0 } else u))
  else if cmpF 3 0x43800000 u.val then
    (if above = 1 then { u with val := canon (at4 16) }
     else seg 255 (if above = 0 then { u with val := 0x3F800000 } else Noted.op2 subR u (.of 0x437F0000)))
  else if isNan32 u.val then { u with val := f32Nan }
  else
    let i := match f32 u.val with
      | .fin _ m => roundTo .rz false m 0
      | _ => 0
    seg i (Noted.op2 subR u (.of (natF32 i)))

/-! ## Drains (R94 to R99) -/

/-- sig_exp of R95; none for a scale that is zero, negative, subnormal, infinite or NaN (R96). -/
def sigExp (v : F32) : Option (Nat × Int) :=
  let e := bits v.toNat 23 8
  if v.getLsbD 31 || e == 0 || e == 255 then none else some (2 ^ 23 + bits v.toNat 0 23, (e : Int) - 127)

def one32 : F32 := 0x3F800000

/-- FP32 word i of an array at a plank-store offset. -/
def f32At (s : State) (p off i : Nat) : F32 := BitVec.ofNat 32 (s.le (storeBase p + off + 4 * i) 4)
def bf16At (s : State) (p off i : Nat) : F32 := bf16F (s.le (storeBase p + off + 2 * i) 2)

/-- Channel scales of an output, 1.0 where SCL does not apply. -/
def drainScales (s : State) (p : Nat) (d : BitVec 256) (sd : BitVec 512) (r c : Nat) : F32 × F32 :=
  let scl := fget d Desc.SCL
  (if scl % 2 = 1 then f32At s p (fget sd Side.SCL_A * 64) r else one32,
   if scl / 2 = 1 then f32At s p (fget sd Side.SCL_B * 64) c else one32)

/-- Largest finite FP32 value with a sign. -/
def max32 (neg : Bool) : Val := Val.dy neg (2 ^ 24 - 1) 104

/-- A magnitude beyond the range of every format at every exponent: what beyond(sign) of R95 hands on, so that each convert
gives ±max of its own target (R39, Table 2-8). -/
def beyondVal (neg : Bool) : Val := Val.dy neg 1 4096

/-- x of R95: the value of an output before any step of R97, and whether it is beyond range. -/
def drainX (a : Accum) (cell : Cell) (sr sc : F32) : Val × Bool :=
  match cell.ending with
  | .nan => (.nan, false)
  | e =>
    match sigExp sr, sigExp sc with
    | some (mr, er), some (mc, ec) =>
      (match e with
       | .inf n => (.inf n, false)
       | .beyond n => (beyondVal n, true)
       | _ =>
         let m := Rnd.rne.apply false (mr * mc) (2 ^ 16)
         let v := accInt cell.acc
         let neg := if v = 0 then !cell.has CellBit.nonneg else decide (v < 0)
         let g : Int := (a.eA + a.eB + 8) - 74 + er + ec + signed (fget a.desc Desc.EADJ) 8
           - (if fget a.desc Desc.CARD = 0 then 0 else fget a.desc Desc.CARD + 3)
         (Val.dy neg (v.natAbs * m) g, false))
    | _, _ => (.nan, false)

/-- What a drain hands to the final convert: the value that the statistics take, the value that is converted, whether it was
already counted brim (R97), and whether a step raised the invalid flag (R48). -/
structure DrainVal where
  x : Val
  x' : Val
  pre : Bool
  inv : Bool
deriving DecidableEq, Repr

/-- The output value handed to the final convert (R97). The statistics of a value beyond range on the fused path take ±max FP32
(assumption 108). -/
def drainY (s : State) (p : Nat) (a : Accum) (r c : Nat) : DrainVal :=
  let d := a.desc
  let sd := a.side
  let sc := drainScales s p d sd r c
  let x := drainX a (a.cell r c) sc.1 sc.2
  if fget d Desc.SEDGE = 0 && fget d Desc.NAP = 0 && fget d Desc.ASYM = 0 && fget d Desc.EPI_MODE = 0 then
    ⟨match x with
     | (.fin n _, true) => max32 n
     | _ => x.1, x.1, false, false⟩
  else
    let y0 := convert .fp32 false .rne x.1
    let y := Noted.of (BitVec.ofNat 32 y0.code)
    let y := if fget d Desc.SEDGE = 1 && a.sedgeRows.getLsbD r then
        let sum := kget noF32 a.sedge (r * 512 + c)
        let t := match f32 sum with
          | .fin n m => toF32 .rne (.fin n (m.scale (a.eB + signed (fget d Desc.EADJ) 8)))
          | v => toF32 .rne v
        Noted.op2 addR y (Noted.op2 mulR (Noted.op2 mulR (.of t) (.of sc.1)) (.of sc.2))
      else y
    let y := if fget d Desc.NAP != 0 then Noted.op2 addR y (.of (f32At s p (fget sd Side.NAP_ADDR * 64 + r * 2048) c)) else y
    let y := if fget d Desc.ASYM = 1 then
        Noted.fma (.of (bf16At s p (fget sd Side.ZP * 64) r)) (.of (f32At s p (fget sd Side.CORR * 64) c)) y
      else if fget d Desc.ASYM = 2 then
        Noted.fma (.of (bf16At s p (fget sd Side.ZP * 64) c)) (.of (f32At s p (fget sd Side.CORR * 64) r)) y
      else y
    let img := match tableSlot s p (fget d Desc.EPI_ID) with
      | some n => kget noTable (s.plank p).tables n
      | none => []
    let aux := Noted.of (bf16At s p (fget sd Side.AUX * 64 + r * 2 * passCols d) c)
    let y := if fget d Desc.EPI_MODE = 1 then tableEval img y
      else if fget d Desc.EPI_MODE = 2 then Noted.op2 mulR y (tableEval img aux)
      else if fget d Desc.EPI_MODE = 3 then Noted.op2 addR y aux
      else y
    ⟨f32 y.val, f32 y.val, x.2 || y0.brim, y.inv⟩

/-- The value of a strict output (R41, R43). The sum times 2^(E_A + E_B) is itself rounded to binary32 (assumption 108). -/
def strictY (s : State) (p : Nat) (a : Accum) (r c : Nat) : Val :=
  let cell := a.cell r c
  let sc := drainScales s p a.desc a.side r c
  match sigExp sc.1, sigExp sc.2 with
  | some _, some _ =>
    (match cell.ending with
     | .nan => .nan
     | .inf n => f32 (mulR (mulR (if n then 0xFF800000 else 0x7F800000) sc.1) sc.2)
     | _ =>
       let x := match f32 (BitVec.ofNat 32 (cell.acc.toNat % 2 ^ 32)) with
         | .fin n m => toF32 .rne (.fin n (m.scale (a.eA + a.eB)))
         | v => toF32 .rne v
       f32 (mulR (mulR x sc.1) sc.2))
  | _, _ => .nan

/-- A masked sequence's element of a token-indexed tensor (R168). -/
def tokenMasked (s : State) (p tid idx : Nat) : Bool :=
  bit (tensorClass s p tid) 2 &&
  bit (s.le (manField s p Man.LOSS + 16 * (Config.tokenSlot tid idx % 128)) 16) 65

/-- Logical index of an output in its tensor (R98). -/
def outIndex (a : Accum) (r c : Nat) : Nat :=
  (fget a.side Side.ORIGIN_ROW + r) * fget a.side Side.OUT_WIDTH + fget a.side Side.ORIGIN_COL + c

/-- An output of a masked sequence: padding, for which nothing is evaluated or counted (R168). -/
def outMasked (s : State) (p : Nat) (a : Accum) (r c : Nat) : Bool :=
  tokenMasked s p (fget a.desc Desc.OUT_TID) (outIndex a r c)

/-- One drained row: codes, block shifts, counts, and outputs counted brim (R97, R98). -/
structure RowOut where
  codes : List Nat
  shifts : List Nat
  rc : StatRec
  sunk : Nat
  inv : Bool
deriving DecidableEq, Repr

/-- Outputs counted brim that the final convert did not count itself (R97). -/
def preBrim (pre : List Bool) (t : List Bool) : Nat := ((pre.zip t).filter (fun x => x.1 && !x.2)).length

def drainRow (s : State) (p : Nat) (a : Accum) (r : Nat) : RowOut :=
  let d := a.desc
  let strict := fget d Desc.STRICT == 1
  let fmt := (Fmt.ofCode (fget d Desc.OUT_FMT)).getD .fp32
  let tid := fget d Desc.OUT_TID
  let cols := passCols d
  let ctx : CvtCtx := ⟨fmt, 1, 0, a.eOut, strict, Val.dy false 1 0, .zero⟩
  let els := (List.range cols).map (fun c =>
    let masked := outMasked s p a r c
    let y : DrainVal := if masked then ⟨.zero, .zero, false, false⟩
      else if strict then ⟨strictY s p a r c, strictY s p a r c, false, false⟩ else drainY s p a r c
    let m := elemRnd (fget d Desc.RND) (fget d Desc.SRB) (fget d Desc.DRAW) (manField s p Man.SEED) (plankStep s p) tid (outIndex a r c)
    ((⟨y.x, y.x', m, if masked then Part.pad else Part.plain⟩ : Elem), y.pre, y.inv))
  let inv := els.any (fun e => e.2.2)
  if fmt.blocked then
    let bs := (chunks 16 els).map (fun e => (convBlock ctx (e.map (·.1)), e))
    let t := bs.foldl (fun t b => t.add b.1.tally) Tally.zero
    let extra := bs.foldl (fun n b => n + preBrim (b.2.map (·.2.1))
      (b.2.map (fun e => (elemConv ctx b.1.shift e.1).1.brim))) 0
    ⟨bs.flatMap (·.1.codes), bs.map (·.1.shift), Tally.record { t with brimE := t.brimE + extra }, t.sunkE, inv⟩
  else
    let rs := els.map (fun e =>
      match e.1.part with
      | .pad => ((⟨0, false, false, false, .zero⟩ : ElemRes), padTally)
      | _ => let r := plainElem ctx e.1.rnd e.1.x'; ({ r with brim := r.brim || e.2.1 }, elemTally e.1.x { r with brim := r.brim || e.2.1 }))
    let t := rs.foldl (fun t r => t.add r.2) Tally.zero
    ⟨rs.map (·.1.code), [], t.record, t.sunkE, inv⟩

/-- Write a row's codes and shift nibbles (R98). -/
def writeRow (s : State) (p : Nat) (a : Accum) (r : Nat) (o : RowOut) : State :=
  let fmt := (Fmt.ofCode (fget a.desc Desc.OUT_FMT)).getD .fp32
  let s := s.store (storeBase p + fget a.desc Desc.DST * 64 + r * fget a.side Side.OUT_PITCH) (packCodes fmt.width o.codes)
  let line := storeBase p + fget a.side Side.OUT_SHF * 64 + r * fget a.side Side.OUT_SHF_PITCH
  (o.shifts.zipIdx).foldl (fun s e =>
    let n := fget a.side Side.OUT_SHF_FIRST + e.2
    s.store (line + n / 2) [putNibble (s.byte (line + n / 2)) n e.1]) s

/-- Column sums that the end of a sampled accumulation writes (R101). -/
def chkSums (s : State) (p : Nat) (a : Accum) : List (Nat × Nat) :=
  if a.sampled && a.tapsFit && s.rget (Reg.CHK_BUF_SIZE p) != 0 then
    [(s.rget (Reg.CHK_BUF_BASE p) * 4096 + 8 * a.taps, 8192)] else []

/-- Ranges that a drain reads or writes once, and those of row r (R91). -/
def drainFixed (s : State) (p : Nat) (a : Accum) : List (Nat × Nat) :=
  let d := a.desc
  let sd := a.side
  let rows := passRows d
  let cols := passCols d
  (if fget d Desc.SCL % 2 = 1 then [(fget sd Side.SCL_A * 64, 4 * rows)] else [])
  ++ (if fget d Desc.SCL / 2 = 1 then [(fget sd Side.SCL_B * 64, 4 * cols)] else [])
  ++ (if fget d Desc.ASYM = 1 then [(fget sd Side.ZP * 64, 2 * rows), (fget sd Side.CORR * 64, 4 * cols)] else [])
  ++ (if fget d Desc.ASYM = 2 then [(fget sd Side.ZP * 64, 2 * cols), (fget sd Side.CORR * 64, 4 * rows)] else [])
  ++ chkSums s p a

def drainRowRanges (a : Accum) (r : Nat) : List (Nat × Nat) :=
  let d := a.desc
  let sd := a.side
  let fmt := (Fmt.ofCode (fget d Desc.OUT_FMT)).getD .fp32
  let cols := passCols d
  [(fget d Desc.DST * 64 + r * fget sd Side.OUT_PITCH, cols * fmt.width / 8)]
  ++ (if fmt.blocked then
      [(fget sd Side.OUT_SHF * 64 + r * fget sd Side.OUT_SHF_PITCH + fget sd Side.OUT_SHF_FIRST / 2,
        (fget sd Side.OUT_SHF_FIRST + cols / 16 - 1) / 2 + 1 - fget sd Side.OUT_SHF_FIRST / 2)] else [])
  ++ (if fget d Desc.EPI_MODE = 2 || fget d Desc.EPI_MODE = 3 then [(fget sd Side.AUX * 64 + r * 2 * cols, 2 * cols)] else [])
  ++ (if fget d Desc.NAP != 0 then [(fget sd Side.NAP_ADDR * 64 + r * 2048, 4 * cols)] else [])

/-- Exact column sums of a tile, as signed 128-bit values (R101). -/
def colSums (a : Accum) : List Int :=
  (List.range 512).map (fun c => (List.range (passRows a.desc)).foldl (fun t r =>
    if c < passCols a.desc then t + accInt (a.cell r c).acc else t) 0)

/-- What excludes a sampled accumulation from comparison (R102). -/
def chkExcluded (s : State) (p : Nat) (a : Accum) : Bool :=
  decide (0 < a.lostlow) || fget a.desc Desc.STRICT == 1 || !a.tapsFit || s.rget (Reg.CHK_BUF_SIZE p) == 0 ||
  (List.range (passRows a.desc)).any (fun r => (List.range (passCols a.desc)).any (fun c => (a.cell r c).flagged))

/-- The end of a sampled accumulation (R101, R199): column sums after the taps, and the note in the checksum buffer. -/
def chkFinish (s : State) (p : Nat) (a : Accum) : State :=
  if !a.sampled then s else
  let ex := chkExcluded s p a
  let s := if a.tapsFit && s.rget (Reg.CHK_BUF_SIZE p) != 0 then
      s.store (storeBase p + s.rget (Reg.CHK_BUF_BASE p) * 4096 + 8 * a.taps)
        ((colSums a).flatMap (fun v => leBytes 16 (unsign v 128)))
    else s
  let s := if ex then s.rsat (Reg.CHK_COUNT_EXCLUDED p) 1 else s
  s.modPlank p (fun k => { k with chk := ⟨true, ex, fget a.desc Desc.PASS_TAG, true⟩ })

/-- Add counts to a tensor's partial record (R76). -/
def addStats (s : State) (p tid : Nat) (r : StatRec) : State :=
  s.modPlank p (fun k => { k with stats := kput noRec k.stats tid (statMerge (kget noRec k.stats tid) r) })

/-- A fill item completes (R149): TAIL advances and DONE_OBJ is signalled when enabled. -/
def fillComplete (s : State) (p : Nat) : State :=
  let e := fillOldest s p
  let s := fillDrop s p
  if fget e Fill.DONE_EN = 1 then plankSignal s p (chipNo s) (fget e Fill.DONE_OBJ) 1 false else s

/-- The accumulator of a finished drain or add-out: Free, or taken by a pass that already left the feed for it (R93). -/
def releaseAcc (s : State) (p sel : Nat) : State :=
  let s := freeAcc s p sel
  match (s.plank p).run with
  | some r => if fget r.desc Desc.SEL = sel then enterPass s p r else s
  | none => s

/-- The drain of an accumulator completes (R94 to R99, R101): rows written up to the first that meets a bank the cells do not
own or an uncorrectable word, statistics and the exception record when all were. `ecc` is what SECDED finds on what the drain reads
(R232); a word that it finds new lies in what is read before the first row. -/
def finishDrain (s : State) (p sel : Nat) (ecc : CoreEcc) : State :=
  let a := getAcc s p sel
  let d := a.desc
  let rows := passRows d
  let fixed := drainFixed s p a
  let rowBad (r : Nat) : Bool := (firstBad s p [ownCells] (drainRowRanges a r)).isSome || poisonSum s p ((drainRowRanges a r).drop
    (if ((Fmt.ofCode (fget d Desc.OUT_FMT)).getD .fp32).blocked then 2 else 1)) != 0
  let s := eccCounts s p ecc 0
  let fixedBad := (firstBad s p [ownCells] fixed).isSome || storeErrs s p ecc (fixed.filter (fun r => r.2 != 8192)) != 0
  let good := if fixedBad then 0 else (((List.range rows).find? rowBad).getD rows)
  let outs := (List.range good).map (drainRow s p a)
  let s1 := (outs.zipIdx).foldl (fun s o => writeRow s p a o.2 o.1) s
  let s1 := laneCycles (noteInvalid s1 p (outs.any (·.inv))) p good
  if good < rows then
    match firstBad s p [ownCells] (fixed ++ drainRowRanges a good) with
    | some b => bankFault s1 p b (fget d Desc.PASS_TAG)
    | none => feedFault s1 p (storeErrs s p ecc (fixed ++ drainRowRanges a good))
  else
    let rc := outs.foldl (fun (t : StatRec) o => statMerge t o.rc) statZero
    let tid := fget d Desc.OUT_TID
    let s1 := outs.foldl (fun s o => addStats s p tid o.rc) s1
    let s1 := addStats s1 p tid { statZero with lostlow := a.lostlow }
    let ivr := (List.range rows).foldl (fun (t : InvalidRep) r =>
      (List.range (passCols d)).foldl (fun t c => if outMasked s p a r c then t else t.see (a.cell r c) r c) t) InvalidRep.none
    let sunk := outs.foldl (fun n o => n + o.sunk) 0
    let s1 := if ivr.count != 0 || a.lostlow != 0 || rc.brimElems != 0 || rc.nonfinite != 0 then
        excRecord s1 p {
          tag := fget d Desc.PASS_TAG, tid := tid, kind := 1, sel := sel, invalid := ivr.count, invK := ivr.k,
          invRow := ivr.row, invCol := ivr.col, lostlow := a.lostlow, brim := rc.brimElems, nonfin := rc.nonfinite, sunk := sunk,
          fillTag := a.fill.getD 0 }
      else s1
    let s1 := chkFinish s1 p a
    let s1 := s1.radd (Reg.PASS_COUNT_DRAINS p) 1
    let item := a.fill.isSome && fget (fillOldest s1 p) Fill.PASSES == s1.rget (Reg.FILL_PTR_DONE p) && (s1.plank p).fillN != 0
    let s1 := releaseAcc s1 p sel
    let s1 := if item then fillComplete s1 p else s1
    refreshPlank s1 p

/-! ## Images (R143 to R145) -/

/-- An entry of an image in the plank store. -/
def imageEntry (s : State) (p image i : Nat) : Cell :=
  let o := storeBase p + image + 4096 + 12 * i
  Cell.read (BitVec.ofNat 64 (s.le o 8)) (BitVec.ofNat 32 (s.le (o + 8) 4))

/-- First-invalid K-block of the sum of an entry and an incoming cell (R144 step 3, R146): the entry's when it was invalid, by its bit
or by both infinities; else the lower of the incoming cell's and of that of an infinity opposite to the entry's. An entry that holds
an infinity and stays valid keeps that infinity's (assumption 111). -/
def mergeIndex (old new : Cell) (base : Nat) : Nat :=
  let hadInf := old.has CellBit.pinf || old.has CellBit.minf
  let own := fget new.stat CellBit.firstInv
  let met := match new.first with
    | some (neg, k) => if old.has (if neg then CellBit.pinf else CellBit.minf) then some k else none
    | none => none
  if old.invalidAtDrain then fget old.stat CellBit.firstInv
  else match met with
    | some k => base + (if new.invalidAtDrain then min k own else k)
    | none => if hadInf && !new.invalidAtDrain then fget old.stat CellBit.firstInv else base + own

/-- Sum of an image entry and an incoming cell (R144 steps 2 and 3). -/
def mergeCell (old new : Cell) (base : Nat) : Cell :=
  let r := satSum (accInt old.acc) (accInt new.acc)
  let flags := BitVec.ofNat 32 ((old.stat.toNat ||| new.stat.toNat) &&& 0xFF000000)
  let st := fset flags CellBit.firstInv (mergeIndex old new base)
  Cell.read (accBits r.1) (if r.2 then fset st CellBit.brim 1 else st)

def cellBytes (c : Cell) : List Byte := leBytes 8 c.acc.toNat ++ leBytes 4 c.stat.toNat

/-- The cells of an accumulator, row-major, as 12 B entries. -/
def accImage (a : Accum) : List Byte := (List.range 65536).flatMap (fun i => cellBytes (a.cell (i / 512) (i % 512)))

/-- Load 65,536 entries as cells over a zero rest. -/
def loadCells (s : State) (p off : Nat) : List (Nat × Cell) :=
  (List.range 65536).foldl (fun m i =>
    let o := storeBase p + off + 12 * i
    kput (fun _ => Cell.zero) m i (Cell.read (BitVec.ofNat 64 (s.le o 8)) (BitVec.ofNat 32 (s.le (o + 8) 4)))) []

def imageBytes : Nat := 790528

/-- Whether an issued pass names the accumulator (R144): one that runs or waits, or one of an accumulation that a spill record holds or
that reloads. -/
def accNamed (s : State) (p sel : Nat) : Bool :=
  (s.rbit (Reg.PLANK_STATUS_SPILL_VALID p) && bit (spillLive s p) sel) ||
  (match (s.plank p).run with
   | some r => fget r.desc Desc.SEL == sel
   | none => false) ||
  (match (s.plank p).wait with
   | some r => fget r.desc Desc.SEL == sel
   | none => false)

/-- Cases in which an add-out or a load-in is refused with code 0x0C (R144, R145). -/
def imageRefused (s : State) (p : Nat) (q : ImageReq) : Bool :=
  let h := s.recAt (storeBase p + q.image) 512
  let a := getAcc s p q.sel
  let st := fget h Img.STATE
  if q.load then accState s p q.sel != AccSt.free || st != 1
  else accState s p q.sel != AccSt.held || st == 2 || st == 3 || fget a.desc Desc.STRICT == 1 ||
    (st == 1 && (fget h Img.E_A != unsign a.eA 9 || fget h Img.E_B != unsign a.eB 9))

/-! ## Suspend and spill (R105 to R107) -/

/-- A fill pass that waits in the slot and has not begun is withdrawn: it stays its item's next pass (R149). After a suspend the core
issues it again from the list (R105). -/
def fillWithdraw (s : State) (p : Nat) : State :=
  match (s.plank p).wait with
  | some r =>
    if r.fill.isSome then
      fillDone (s.modPlank p (fun k => { k with wait := none, fillIssued := k.fillIssued - 1 })) p
    else s
  | none => s

/-- A suspend reaches the array (R105): no effect on a Faulted, masked, Suspending or Suspended plank. -/
def suspendArray (s : State) (p : Nat) : State :=
  if plankState s p = PlankSt.idle || plankState s p = PlankSt.running then setPlankState s p PlankSt.suspending else s

/-- The core stops at a quiesce point of code q (R207), and the array is suspended. -/
def coreStop (s : State) (p q : Nat) : State :=
  let s := endWait s p
  let s := setCore s p CoreSt.waiting |>.modPlank p (fun k => { k with held := none, quiesce := some q })
  suspendArray s p

/-- A suspend of the plank (R105, R207): SUSP_PEND of a core that runs, and the array. A core in Reset, Trapped or Quiesced
counts as at a quiesce point. -/
def suspendCore (s : State) (p : Nat) : State := if coreActive s p then s.rset (Reg.CORE_STATUS_SUSP_PEND p) 1 else s

/-- The array counts as Suspended for the quiesce of R207. -/
def arrayQuiet (s : State) (p : Nat) : Bool :=
  plankState s p == PlankSt.suspended || plankState s p == PlankSt.faulted || plankState s p == PlankSt.masked

def accLive (s : State) (p sel : Nat) : Bool :=
  accState s p sel == AccSt.accumulating || accState s p sel == AccSt.held

/-- The header of a spill record (Table 4-6), without VALID. -/
def spillHeader (s : State) (p : Nat) : BitVec 512 :=
  let x : BitVec 512 := 0
  let x := fset x (2, 1) (boolNat (accLive s p 0) + 2 * boolNat (accLive s p 1))
  let x := match (s.plank p).wait with
    | some r => fset (fset x (31, 16) (fget r.desc Desc.PASS_TAG)) (32, 32) 1
    | none => x
  fset x (127, 64) (plankStep s p)

/-- Position entry of one accumulator. -/
def spillPos (a : Accum) : BitVec 128 :=
  let x : BitVec 128 := 0
  let x := fset x (23, 0) a.passPos
  let x := fset x (41, 32) (unsign (a.eA + a.eB + 8) 10)
  let x := fset x (48, 48) (boolNat a.sampled)
  fset x (95, 64) a.lostlow

/-- The sedge header of an accumulator with sedge sums and the area that they are spilled to (R119, Table 5-2): those of its latest
pass with SEDGE 1. -/
def sedgeSpill (s : State) (p : Nat) (a : Accum) (sel : Nat) : List (Nat × Nat) :=
  match a.sedgeSide with
  | none => []
  | some sd =>
    let at0 := fget sd Side.SEDGE_LIST * 64
    let h := s.recAt (storeBase p + at0) 512
    [(at0, 64), (64 * fget h Sedge.SPILL + sel * 0x40000, 0x40000)]

/-- Plank-store offset of an accumulator's spilled sedge sums. -/
def sedgeArea (s : State) (p : Nat) (a : Accum) (sel : Nat) : Option Nat := ((sedgeSpill s p a sel).getLast?).map (·.1)

/-- What a spill of these accumulators writes, and the sedge headers that it reads. -/
def spillRanges (s : State) (p : Nat) : List (Nat × Nat) :=
  let b := spillOff s p
  let acc (sel : Nat) : List (Nat × Nat) :=
    if !accLive s p sel then [] else
    (b + 4096 + sel * 786432, 786432) :: sedgeSpill s p (getAcc s p sel) sel
  (b, 224) :: acc 0 ++ acc 1

/-- Write one live accumulator's part of the spill record and its sedge sums (R105, R119). -/
def spillAcc (s : State) (p sel : Nat) : State :=
  if !accLive s p sel then s else
  let a := getAcc s p sel
  let b := storeBase p + spillOff s p
  let s := s.storeRec (b + 64 + 32 * sel) a.desc
  let s := s.storeRec (b + 192 + 16 * sel) (spillPos a)
  let s := s.store (b + 4096 + sel * 786432) (accImage a)
  match sedgeArea s p a sel with
  | some o => s.store (storeBase p + o) ((List.range 65536).flatMap (fun i => leBytes 4 (kget noF32 a.sedge i).toNat))
  | none => s

/-- A live accumulator was Accumulating when it was spilled: its descriptor copy is a pass's that was not at its end. The copy of a
loaded-in accumulator names no pass: it was Held. -/
def spillAccumulating (s : State) (p sel : Nat) : Bool :=
  let d := spillDesc s p sel
  let pos := s.recAt (storeBase p + spillOff s p + 192 + 16 * sel) 128
  bit (spillLive s p) sel && fget d Desc.OPC == 1 && decide (fget pos (23, 0) < passBlocks d)

/-- Reload one live accumulator from the spill record (R107). -/
def reloadAcc (s : State) (p sel : Nat) : State :=
  if !bit (spillLive s p) sel then s else
  let b := spillOff s p
  let pos := s.recAt (storeBase p + b + 192 + 16 * sel) 128
  let a := getAcc s p sel
  let sums := match sedgeArea s p a sel with
    | some o => (List.range 65536).foldl (fun m i => kput noF32 m i (BitVec.ofNat 32 (s.le (storeBase p + o + 4 * i) 4))) []
    | none => []
  let s := setAcc s p sel { a with
    cells := loadCells s p (b + 4096 + sel * 786432), rest := .zero, sedge := sums, passPos := fget pos (23, 0),
    sampled := fget pos (48, 48) == 1, lostlow := fget pos (95, 64) }
  setAccState s p sel (if spillAccumulating s p sel then AccSt.accumulating else AccSt.held)

end Sys2Proof.Machine
end

