-- ==== Sys2Proof/Machine/Hbm.lean ====
section
/-!
DEFINITION. Where an HBM offset lies, who owns the slots of a pseudo-channel (R212 to R216, Tables 9-1 and 9-2), and the
accesses of the engines to which Table 9-2 gives no slots (assumption 90).
-/
namespace Sys2Proof.Machine

/-- Stack, pseudo-channel and bank of an HBM offset (Table 9-1). -/
def hbmStack (off : Nat) : Nat := bits off 36 4
def hbmPc (off : Nat) : Nat := bits off 6 6
def hbmBank (off : Nat) : Nat := bits off 16 6
def hbmRow (off : Nat) : Nat := bits off 22 14
def isHbm (off : Nat) : Bool := decide (off < 2 ^ 40)

/-- Entry i of a pseudo-channel's share table t (R216). -/
def shareEntry (s : State) (m c t i : Nat) : Nat := bits (s.word (shareOff m c t (i / 8))).toNat (8 * (i % 8)) 8

/-- A code that Table 9-2 assigns; others count as 0xFF. -/
def shareCode (n : Nat) : Nat := if n < 0xAC || n = 0xB0 || n = 0xB1 then n else 0xFF

/-- Owner of slot position i in the active table. A masked plank owns none (R12): its positions are idle. -/
def shareOwner (s : State) (m c i : Nat) : Nat :=
  let o := shareCode (shareEntry s m c (s.rget (Reg.PC_STATUS_ACTIVE m c)) i)
  if o < 160 && s.rbit (Reg.PLANK_STATUS_MASKED o) then 0xFF else o

/-- An owner holds a slot position of a pseudo-channel. -/
def ownsShare (s : State) (m c owner : Nat) : Bool := (List.range 200).any (fun i => shareOwner s m c i == owner)

/-- The sectors that a range of HBM touches, as offsets. -/
def sectors (off n : Nat) : List Nat :=
  if n = 0 then [] else (List.range ((off + n - 1) / 64 + 1 - off / 64)).map (fun i => (off / 64 + i) * 64)

/-- One sector on each pseudo-channel that a range of HBM touches, in ascending order: the first 64 sectors of the range in
each stack (Table 9-1). -/
def pcSectors (off n : Nat) : List Nat :=
  if n = 0 then [] else
  (List.range ((off + n - 1) / 2 ^ 36 + 1 - off / 2 ^ 36)).flatMap (fun i =>
    let lo := max off ((off / 2 ^ 36 + i) * 2 ^ 36)
    let hi := min (off + n) ((off / 2 ^ 36 + i + 1) * 2 ^ 36)
    sectors lo (min (hi - lo) 4096))

/-- The first sector of a range on whose pseudo-channel an owner holds no slot (R17, R205). -/
def badShare (s : State) (owner off n : Nat) : Option Nat :=
  (pcSectors off n).find? (fun a => !ownsShare s (hbmStack a) (hbmPc a) owner)

/-- Put a request at the tail of an owner's queue on its pseudo-channel (R217). -/
def enqueue (s : State) (owner : Nat) (q : HbmReq) : State :=
  let key := hbmStack q.off * 64 + hbmPc q.off
  let pc := kget pcReset s.pcs key
  let queue := kget (fun _ => []) pc.queues owner
  { s with pcs := kput pcReset s.pcs key { pc with queues := kput (fun _ => []) pc.queues owner (queue ++ [q]) } }

/-! ## Errors and rewrites of sectors (R219) -/

/-- An error that a controller's read meets (R219): the offset is recorded, the error counted and filed. -/
def eccBad (s : State) (m c off : Nat) : State :=
  let s := s.radd (Reg.ECC_UNCORR_COUNT m) 1
  let s := s.rset (Reg.ECC_LAST_ADDR m) (off % 2 ^ 36)
  fileError s 1 (m * 64 + c) 0 0 0 0

/-- An entry of the poison list that marks an HBM sector which a range touches. -/
def poisonIn (a n : Nat) (e : Nat × Bool) : Bool := e.2 && isHbm e.1 && decide (a < e.1 + 64) && decide (e.1 < a + n)

/-- An engine reads a range: each poisoned sector is met (R219). -/
def hbmNote (s : State) (a n : Nat) : State :=
  (s.poison.filter (poisonIn a n)).foldl (fun s e => eccBad s (hbmStack e.1) (hbmPc e.1) e.1) s

/-- An engine reads several ranges, each an offset and a length. -/
def hbmNotes (s : State) (rs : List (Nat × Nat)) : State := rs.foldl (fun s r => hbmNote s r.1 r.2) s

/-- Sectors of a range leave the rewrite queues: their data is written anew (R219, R235). -/
def dropRewrites (s : State) (a n : Nat) : State :=
  let stays (o : Nat) : Bool := !(decide (a < o + 64) && decide (o < a + n))
  let hit := s.pcs.filter (fun e => !e.2.rewrite.all stays)
  { s with pcs := hit.foldl (fun m e => kput pcReset m e.1 { e.2 with rewrite := e.2.rewrite.filter stays }) s.pcs }

/-- An engine writes bytes to HBM. The stacks take whole sectors (R213): the first and the last sector of the range are read
and written back where the bytes cover them in part, and stay poisoned if they were (R220). -/
def hbmStore (s : State) (a : Nat) (bs : List Byte) : State :=
  if !isHbm a || bs.isEmpty then s.store a bs
  else
    let z := a + bs.length
    let s := if a % 64 = 0 then s else hbmNote s (a / 64 * 64) 64
    let s := if z % 64 = 0 || a % 64 ≠ 0 && z / 64 = a / 64 then s else hbmNote s (z / 64 * 64) 64
    dropRewrites (s.store a bs) a bs.length

/-- Write a record of w bits, little-endian. -/
def hbmStoreRec {w : Nat} (s : State) (a : Nat) (x : BitVec w) : State := hbmStore s a (leBytes (w / 8) x.toNat)

end Sys2Proof.Machine
end

