-- ==== Sys2Proof/Machine/Energy.lean ====
section
/-!
DEFINITION. Energy intervals and the energy record (R340 to R342, Table 14-3).
-/
namespace Sys2Proof.Machine

/-- Total of an energy class less what it was. -/
def Energy.since (a b : Energy) : Energy :=
  ⟨a.input - b.input, a.planks - b.planks, a.hbm - b.hbm, a.links - b.links, a.hosts - b.hosts, a.mgmt - b.mgmt⟩

/-- Nanojoules as FP32 joules, RNE (R342). -/
def joules (n : Nat) : F32 := toF32 .rne (.fin false ⟨n, 10 ^ 9, 0⟩)

/-- Thermal clock of compute die d (Table 14-11). -/
def thermalMhz (s : State) (d : Nat) : Nat :=
  if d < 4 then bits (s.rget Reg.DIE_MHZ_LO_MHZ) (16 * d) 16 else bits (s.rget Reg.DIE_MHZ_HI_MHZ) (16 * (d - 4)) 16
def throttledNow (s : State) : Bool := (List.range 8).any (fun d => decide (thermalMhz s d < 2700))

/-- Streams of a job whose state is Suspending or Suspended. -/
def jobSuspended (s : State) (job : Nat) (stream : Option Nat) : Bool :=
  let held (n : Nat) : Bool := fget (s.strm n) Strm.STATE == St.suspending || fget (s.strm n) Strm.STATE == St.suspended
  match stream with
  | some n => held n
  | none =>
    match findJob s job with
    | some j => j.lists.streams.any (fun e => e.kind.val != 1 && held e.id.val)
    | none => false

/-- Array operations of the planks whose programs are of a job's streams (R342). -/
def jobOps (s : State) (job : Nat) : Nat :=
  (s.planks.filter (fun e => match e.2.stream with
    | some n => fget (s.strm n.val) Strm.JOB == job
    | none => false)).foldl (fun n e => n + e.2.ops) 0

def ivIs (job : Nat) (stream : Option Nat) (v : EnergyIv) : Bool := v.job == job && v.stream == stream
def findIv (s : State) (job : Nat) (stream : Option Nat) : Option EnergyIv := s.board.ivs.find? (ivIs job stream)

/-- Set flags of the running intervals (Table 14-3). -/
def markIvs (s : State) (f : EnergyIv → EnergyIv) : State :=
  { s with board := { s.board with ivs := s.board.ivs.map (fun v => if v.live then f v else v) } }

/-- A stream of a job suspends while an interval runs. -/
def markSuspended (s : State) (n : Nat) : State :=
  let job := fget (s.strm n) Strm.JOB
  markIvs s (fun v => if v.job == job && (v.stream == none || v.stream == some n) then { v with suspended := true } else v)

/-- An interval begins (R341): the input energy since the end of the one before is its E_GAP. -/
def energyBegin (s : State) (job : Nat) (stream : Option Nat) (step : Nat) : State :=
  let e := s.board.energy
  let v : EnergyIv := {
    job := job
    stream := stream
    live := true
    step := step
    h0 := s.hc
    e0 := e
    gap := match findIv s job stream with
      | some o => e.input - o.e0.input
      | none => 0
    ops0 := jobOps s job
    capped := s.rbit Reg.POWER_STATUS_CAPPING
    backstop := s.rbit Reg.POWER_STATUS_BACKSTOP
    throttled := throttledNow s
    hjReset := s.rget Reg.HJ_STATUS_STATE != 1
    suspended := jobSuspended s job stream }
  { s.tick with board := { s.board with ivs := v :: s.board.ivs.filter (fun o => !ivIs job stream o) } }

/-- The 64 B record of an interval that ends at count h. -/
def energyRec (s : State) (v : EnergyIv) (h : BitVec 64) (attempts verdict : Nat) : BitVec 512 :=
  let e := s.board.energy.since v.e0
  let five := e.planks + e.hbm + e.links + e.hosts + e.mgmt
  let x : BitVec 512 := 0
  let x := fset x (63, 0) v.step
  let x := fset x (127, 64) (h - v.h0).toNat
  let x := fset x (159, 128) (joules e.input).toNat
  let x := fset x (191, 160) (joules e.planks).toNat
  let x := fset x (223, 192) (joules e.hbm).toNat
  let x := fset x (255, 224) (joules e.links).toNat
  let x := fset x (287, 256) (joules e.hosts).toNat
  let x := fset x (319, 288) (joules e.mgmt).toNat
  let x := fset x (351, 320) (if five ≤ e.input then joules (e.input - five) else negF (joules (five - e.input))).toNat
  let x := fset x (383, 352) (joules v.gap).toNat
  let x := fset x (447, 384) (jobOps s v.job - v.ops0)
  let x := fset x (451, 448) attempts
  let x := fset x (454, 452) verdict
  let x := fset x (455, 455) (boolNat v.capped)
  let x := fset x (456, 456) (boolNat v.backstop)
  let x := fset x (457, 457) (boolNat v.throttled)
  let x := fset x (458, 458) (boolNat v.hjReset)
  fset x (459, 459) (boolNat v.suspended)

/-- Hjelper writes an energy record: to the job's ring, to ENERGY_LAST, and to the event log (R342). -/
def energyWrite (s : State) (off job : Nat) (x : BitVec 512) : State :=
  let s := hbmStoreRec s off x
  let s := (List.range 8).foldl (fun s w => s.setWord (energyLastOff w) (BitVec.ofNat 64 (fld x (64 * w + 63) (64 * w)))) s
  fileEvent s 0 0x0040 9 job (fget x (63, 0)) x

/-- An interval ends. While Hjelper is down its record waits for the restart (R333). -/
def energyEnd (s : State) (job : Nat) (stream : Option Nat) (attempts verdict : Nat) : State :=
  match findIv s job stream, findJob s job with
  | some v, some j =>
    if !v.live then s else
    let x := energyRec s v s.hc attempts verdict
    let pol := s.recAt (fget j.man Man.POLICY) 512
    let first := fget pol Policy.FIRST_LO + 2 ^ 32 * fget pol Policy.FIRST_HI
    let size := fget j.man Man.ENERGY_ENTRIES
    let off := fget j.man Man.ENERGY + 64 * (if size = 0 then 0 else (v.step + 2 ^ 64 - first) % 2 ^ 64 % size)
    let w : EnergyIv := { v with live := false, e0 := s.board.energy }
    let s : State := { s.tick with board := { s.board with ivs := w :: s.board.ivs.filter (fun o => !ivIs job stream o) } }
    if s.rget Reg.HJ_STATUS_STATE = 1 then energyWrite s off job x
    else { s with board := { s.board with ivDue := s.board.ivDue ++ [(off, job, x)] } }
  | _, _ => s

end Sys2Proof.Machine
end

