-- ==== Sys2Proof/Machine/Access.lean ====
section
/-!
DEFINITION. Who may reach a word of the management window, and what becomes of a write that is ignored (R439 to R446).
-/
namespace Sys2Proof.Machine

/-- Module states of Table 16-6. -/
def modState (s : State) : Nat := s.rget Reg.MODULE_STATE_STATE
def setModState (s : State) (v : Nat) : State := s.rset Reg.MODULE_STATE_STATE v

/-- The island of plank p has power: its compute die is calibrated and the module is not in Mire hold (R443). -/
def powered (s : State) (p : Nat) : Bool := s.board.calDone.getLsbD (p / 20) && modState s != 3

/-- Source code of a writer (Table 18-3). -/
def writerSrc : Writer → Nat
  | .plank q => q.val
  | .host _ d => 0xB0 + d.val

/-- Count an access that is ignored or faults (R446). -/
def winErr (s : State) (cause src off : Nat) : State :=
  let s := s.rsat Reg.WIN_ERR_COUNT 1
  let s := s.rset Reg.WIN_ERR_CAUSE cause
  let s := s.rset Reg.WIN_ERR_SRC src
  s.rset Reg.WIN_ERR_ADDR_OFFSET off

/-- Plank whose register block holds an offset. -/
def blockPlank (off : Nat) : Option Nat :=
  if plankBase 0 ≤ off && off < plankBase 160 then some ((off - plankBase 0) / 0x10000) else none

/-- Blocks that read 0 and ignore writes in Mire hold (R400, R443). -/
def mireExcluded (off : Nat) : Bool :=
  !(decide (identBase ≤ off) && decide (off < sensorBase + 0x10000) || decide (stackBase 0 ≤ off) && decide (off < stackBase 16)
    || decide (peatBase ≤ off) && decide (off < peatBase + 0x500000))

/-- WIN_ERR cause that keeps a write from a block: 2 unpowered, 3 a masked plank's block but for INTEG_CTL, 0 none (R443). -/
def blockCause (s : State) (off : Nat) : Nat :=
  if modState s == 3 && mireExcluded off then 2 else
  match blockPlank off with
  | some p =>
    if !powered s p then 2
    else if s.rbit (Reg.PLANK_STATUS_MASKED p) && off != (Reg.INTEG_CTL_RESTORE p).off then 3
    else 0
  | none => 0

/-- A write by w reaches the word at an offset unless its block ignores it. -/
def regCommand (s : State) (w : Writer) (off : Nat) (act : State → State) : State :=
  let c := blockCause s off
  if c ≠ 0 then winErr s c (writerSrc w) off else act s

/-- A write that Table 18-2 guards is ignored with cause 3 while its condition holds (R444). -/
def guardedCommand (s : State) (w : Writer) (off : Nat) (ignored : Bool) (act : State → State) : State :=
  regCommand s w off (fun s => if ignored then winErr s 3 (writerSrc w) off else act s)

end Sys2Proof.Machine
end

