-- ==== Sys2Proof/Machine/Integrity.lean ====
section
/-!
DEFINITION. The peat log, charges, escalation and masking (R312 to R323), and the handling of Hjelper's error queue.
-/
namespace Sys2Proof.Machine

/-! ## The peat log (R322, R323) -/

/-- One step of the CRC-32 of IEEE 802.3, reflected. -/
def crcBit (c : BitVec 32) (b : Bool) : BitVec 32 :=
  let x := c.getLsbD 0 != b
  if x then (c >>> 1) ^^^ 0xEDB88320#32 else c >>> 1

/-- CRC-32 of IEEE 802.3 over bytes, least significant bit first. -/
def crc32 (bs : List Byte) : BitVec 32 :=
  ~~~ (bs.foldl (fun c b => (List.range 8).foldl (fun c i => crcBit c (b.getLsbD i)) c) (~~~ 0#32))

-- Peat record (Table 13-6).
namespace Peat
def KIND : Fd := (7, 0)
def UNIT_CLASS : Fd := (15, 8)
def UNIT : Fd := (31, 16)
def CODE : Fd := (39, 32)
def CLASS : Fd := (41, 40)
def LEVEL : Fd := (45, 42)
def MASKED : Fd := (46, 46)
def STEP : Fd := (127, 64)
def HCOUNT : Fd := (191, 128)
def TICK : Fd := (255, 192)
def PASS_TAG : Fd := (271, 256)
def TID : Fd := (287, 272)
def COUNT : Fd := (319, 288)
def SEQ : Fd := (351, 320)
def CRC : Fd := (511, 480)
end Peat

def noPeat (_ : Nat) : BitVec 512 := 0

/-- A record of the ring that is intact; one whose CRC fails is skipped (R322). -/
def peatIntact (r : BitVec 512) : Bool :=
  fget r Peat.SEQ != 0 && fget r Peat.CRC == (crc32 (leBytes 60 (r.toNat % 2 ^ 480))).toNat

/-- The event kinds of a unit within its window: 1,000 ticks for a plank, 2^43 counts for another unit (R314, R323). -/
def peatCount (s : State) (kind cls unit : Nat) (h : BitVec 64) : Nat :=
  (s.peat.filter (fun e => fget e.2 Peat.KIND == kind && fget e.2 Peat.UNIT_CLASS == cls && fget e.2 Peat.UNIT == unit
    && (if cls = 0 then decide (s.rget Reg.STEP_TICK_TICK ≤ fget e.2 Peat.TICK + 1000)
        else decide ((h.toNat - fget e.2 Peat.HCOUNT) ≤ 2 ^ 43)))).length

/-- Class of a unit that is no plank, with the record now written among its events (R323). -/
def unitClassOf (s : State) (kind cls unit : Nat) (h : BitVec 64) : Nat :=
  let failed := (cls == 2 && s.rget (Reg.LINK_STATUS_STATE (unit / 4) (unit % 4)) == 6)
    || (cls == 1 && s.rget (Reg.STACK_STATUS_STATE (unit / 64)) == 3)
  let counted (k : Nat) := k == 3 || k == 10 || k == 11
  let n := (if counted kind then 1 else 0) + peatCount s 3 cls unit h + peatCount s 10 cls unit h + peatCount s 11 cls unit h
  if failed then 3 else min n 2

/-- What a peat record says beside its unit: the code, step, tag and tensor id. -/
structure PeatNote where
  code : Nat := 0
  step : Nat := 0
  tag : Nat := 0
  tid : Nat := 0

/-- A peat record for a unit as it stands now. -/
def peatWord (s : State) (kind cls unit seq : Nat) (n : PeatNote) : BitVec 512 :=
  let h := s.hc
  let plank := cls == 0
  let x : BitVec 512 := 0
  let x := fset x Peat.KIND kind
  let x := fset x Peat.UNIT_CLASS cls
  let x := fset x Peat.UNIT unit
  let x := fset x Peat.CODE n.code
  let x := fset x Peat.CLASS (if plank then s.rget (Reg.INTEG_STATE_CLASS unit) else unitClassOf s kind cls unit h)
  let x := fset x Peat.LEVEL (if plank then s.rget (Reg.INTEG_STATE_LEVEL unit) else 0)
  let x := fset x Peat.MASKED (if plank then s.rget (Reg.PLANK_STATUS_MASKED unit) else 0)
  let x := fset x Peat.STEP n.step
  let x := fset x Peat.HCOUNT h.toNat
  let x := fset x Peat.TICK (s.rget Reg.STEP_TICK_TICK)
  let x := fset x Peat.PASS_TAG n.tag
  let x := fset x Peat.TID n.tid
  let x := fset x Peat.COUNT (peatCount s kind cls unit h + 1)
  let x := fset x Peat.SEQ seq
  fset x Peat.CRC (crc32 (leBytes 60 (x.toNat % 2 ^ 480))).toNat

/-- Append one record at the head, without erasing. -/
def peatPut (s : State) (kind cls unit : Nat) (n : PeatNote) : State :=
  let head := s.rget Reg.PEAT_STATUS_HEAD
  let seq := s.rget Reg.PEAT_SEQ_SEQ + 1
  let x := peatWord s kind cls unit seq n
  let s := { s.tick with peat := kput noPeat s.peat head x }
  let s := s.rset Reg.PEAT_SEQ_SEQ seq
  let s := s.rset Reg.PEAT_STATUS_HEAD ((head + 1) % 65536)
  if head = 65535 then s.rset Reg.PEAT_STATUS_WRAPPED 1 else s

/-- Units whose latest record lies in sector k of the ring: class, unit. -/
def peatLatestIn (s : State) (k : Nat) : List (Nat × Nat) :=
  let inSector := s.peat.filter (fun e => e.1 / 1024 == k)
  (inSector.filter (fun e => !s.peat.any (fun f => fget f.2 Peat.UNIT_CLASS == fget e.2 Peat.UNIT_CLASS
    && fget f.2 Peat.UNIT == fget e.2 Peat.UNIT && decide (fget e.2 Peat.SEQ < fget f.2 Peat.SEQ)))).map
    (fun e => (fget e.2 Peat.UNIT_CLASS, fget e.2 Peat.UNIT))

/-- When the head enters a sector, the one after it is erased, after summaries (kind 13) of the units whose latest record
it holds (R322); one sector thus stays erased ahead of the head. -/
def peatErase (s : State) : State :=
  let head := s.rget Reg.PEAT_STATUS_HEAD
  let k := (head / 1024 + 1) % 64
  if head % 1024 ≠ 0 || !s.peat.any (fun e => e.1 / 1024 == k) then s
  else
    let s := (peatLatestIn s k).foldl (fun s u => peatPut s 13 u.1 u.2 {}) s
    let s := { s with peat := s.peat.filter (fun e => e.1 / 1024 != k) }
    s.rset Reg.PEAT_STATUS_OLDEST ((k + 1) % 64 * 1024)

/-- Append a peat record and log it as an event of kind 0x0100 + its kind (Table 14-7). -/
def peatAdd (s : State) (kind cls unit : Nat) (n : PeatNote) : State :=
  let s := peatErase (peatPut s kind cls unit n)
  fileEvent s 2 (0x0100 + kind) cls unit n.step 0

/-- Append a peat record. The first one after a start that could not read the log comes behind the record of UNIT_CLASS 7 that says so,
whose KIND the manual does not give: a free value (Table 16-11, assumption 123). -/
def peatRecord (s : State) (kind cls unit : Nat) (n : PeatNote) : State :=
  let s := if s.board.peatDue then
      peatAdd { s.drew with board := { s.board with peatDue := false } } (s.fresh.toNat % 256) 7 0 {} else s
  peatAdd s kind cls unit n

/-! ## Masking (R12, R316) -/

/-- A plank comes to own nothing (R12): its banks have no owner and no switch of them is armed, and its channel directions have
none. Its slots count as idle while it is masked (`shareOwner`). -/
def disown (s : State) (p : Nat) : State :=
  dropChans (((s.rset (Reg.BANK_OWN_LO_OWN p) 0).rset (Reg.BANK_OWN_HI_OWN p) 0).rset (Reg.BANK_SWITCH_ARMED p) 0) p

/-- The plank core is reset (R209): waits end, its engine's queues empty, it reads Reset; its objects become Orphaned with
CAUSE 0 (Table 11-4). -/
def resetCore (s : State) (p : Nat) : State :=
  let s := endWait s p
  let s := setCore s p CoreSt.reset
  let s := s.rset (Reg.CORE_STATUS_SUSP_PEND p) 0
  let s := s.modPlank p (fun k => { k with
    port2 := [], port3 := [], vecRun := 0, held := none, quiesce := none, ctxLost := false, waitOff := none, image := coreImage k.image })
  orphan (emptyFill s p) (ownedBy s p) 0

/-- A plank is masked while an attempt of its job's step runs: the plank contributes V_FAULT (R154, R159). -/
def maskFlag (s : State) (job : Nat) : State :=
  match findJob s job with
  | some j => if 1 ≤ j.phase && j.phase ≤ 5 && !j.final then jobFlag s job .vFault else s
  | none => s

/-- The masking of a plank takes effect (R316). Its queued HBM requests and its transfers under way stay where they are and are never
served: the manual does not say what becomes of them (assumption 119). -/
def maskPlank (s : State) (p : Nat) : State :=
  if s.rbit (Reg.PLANK_STATUS_MASKED p) then s
  else
    let step := plankStep s p
    let strm := (s.plank p).stream
    let sl := stepless s p
    let s := clearArray (feedStops s p) p
    let s := s.rset (Reg.PLANK_STATUS_SPILL_VALID p) 0
    let s := resetCore s p
    let s := disown s p
    let s := s.rset (Reg.PLANK_STATUS_MASKED p) 1
    let s := setPlankState s p PlankSt.masked
    let s := s.rset (Reg.INTEG_STATE_CLASS p) 3
    let s := s.modPlank p (fun k => { k with maskPending := false })
    let s := peatRecord s 8 0 p { step := step }
    match strm with
    | none => s
    | some n =>
      if sl then failStream s n.val 0xFF05
      else modJob (maskFlag s (fget (s.strm n.val) Strm.JOB)) (fget (s.strm n.val) Strm.JOB)
        (fun j => { j with maskSusp := j.maskSusp ++ [n.val] })

/-- The update blocks of a plank are complete: their bits of the bitmap are set (R176). -/
def blocksDone (s : State) (j : Job) (p : Nat) : Bool :=
  (j.lists.blocks.zipIdx).all (fun b => b.1.1.val != p || (s.byte (j.lists.bitmap + b.2 / 8)).getLsbD (b.2 % 8))

/-- Update blocks of a plank are still to come: stage U1 clears the bitmap, so before it every block is (R176). -/
def blocksDue (s : State) (j : Job) (p : Nat) : Bool :=
  if j.stage = 0 then j.lists.blocks.any (fun b => b.1.val == p) else decide (j.stage < 2) && !blocksDone s j p

/-- A masking is decided: during Update it waits for the plank's update blocks (R316, Table 7-12). -/
def decideMask (s : State) (p : Nat) : State :=
  match plankJob s p with
  | some j =>
    if j.phase = 6 && !stepless s p && blocksDue s j p then s.modPlank p (fun k => { k with maskPending := true })
    else maskPlank s p
  | none => maskPlank s p

/-! ## Charges (R314, R315, Table 13-4) -/

/-- Clock ceiling of a level, in MHz. -/
def levelCeil (n : Nat) : Nat := if n ≤ 4 then 2700 else 2700 - 135 * (n - 4)

/-- Charge a plank, with the peat kind of the fault. -/
def charge (s : State) (p kind : Nat) (n : PeatNote) : State :=
  if s.rbit (Reg.PLANK_STATUS_MASKED p) then peatRecord s kind 0 p n
  else
    let tick := s.rget Reg.STEP_TICK_TICK
    let within := s.rget (Reg.INTEG_STATE_CHARGES p) != 0 && decide (tick ≤ s.rget (Reg.INTEG_STATE_LAST_TICK p) + 1000)
    let level := s.rget (Reg.INTEG_STATE_LEVEL p) + boolNat within
    let s := s.rset (Reg.INTEG_STATE_LAST_TICK p) tick
    let s := s.rsat (Reg.INTEG_STATE_CHARGES p) 1
    let s := s.rset (Reg.INTEG_STATE_LEVEL p) level
    let s := s.rset (Reg.INTEG_STATE_CLASS p) (if level = 0 then 1 else 2)
    let s := peatRecord s kind 0 p n
    if !within then s
    else
      let s := peatRecord s 7 0 p n
      if 9 ≤ level then decideMask s p
      else (s.rset (Reg.PLANK_CLOCK_LDO_OFS p) (min level 4)).rset (Reg.CLOCK_CEIL_MHZ p) (levelCeil level)

-- Codes under which a sounding's outcome waits for Hjelper: a slice failed, and a retry passed.
namespace SoundCode
def failed : Nat := 0xF4
def passed : Nat := 0xF5
end SoundCode

/-- What a charge that waits for Hjelper becomes (R321, R327). -/
def applyCharge (s : State) (e : ErrEntry) : State :=
  let n : PeatNote := { code := if SoundCode.failed ≤ e.code then 0 else e.code, step := e.step, tag := e.tag, tid := e.tid }
  if e.code = SoundCode.failed then peatRecord s 4 0 e.unit n
  else charge s e.unit (if e.code = 0 then 1 else if e.code = SoundCode.passed then 5 else if e.code = 27 then 3 else 2) n

/-- Charge a plank now, or after Hjelper's restart (R321). -/
def chargeSoon (s : State) (p code tag tid : Nat) : State :=
  let e : ErrEntry := ⟨0, p, code, tag, tid, plankStep s p, s.hc, false⟩
  if s.rget Reg.HJ_STATUS_STATE = 1 then applyCharge s e
  else { s.tick with board := { s.board with charges := s.board.charges ++ [e] } }

/-- The charge or the record of an entry of the error queue (Table 13-3): planks are charged for abandonments and
uncorrectable core reads, and once for a second error; an ownership fault alone stands in the event log, a checksum mismatch alone is
charged by its replay; other units get a record. -/
def handleError (s : State) (e : ErrEntry) : State :=
  let n : PeatNote := { code := e.code, step := e.step, tag := e.tag, tid := e.tid }
  if e.unitClass = 0 then
    if (e.code = 3 || e.code = 0) && !e.linked then s
    else charge s e.unit (if e.code = 0 then 1 else if e.code = 27 then 3 else 2) n
  else peatRecord s (if e.unitClass = 1 then 10 else if e.unitClass = 2 then 11 else if e.unitClass = 6 then 15 else 3)
    e.unitClass e.unit n

/-- The entry of a checksum mismatch of a plank of a job stays open until its replay, or until the step or the batch ends without one
(R319, R448). -/
def awaitsReplay (s : State) (e : ErrEntry) : Bool := e.unitClass == 0 && e.code == 0 && (plankJob s e.unit).isSome

/-- Hjelper works off its queue: every open entry that no replay is due for gets its charge and its record and closes (R319,
assumption 20). -/
def workErrors (s : State) : State :=
  if s.rget Reg.HJ_STATUS_STATE ≠ 1 then s
  else
    let es := s.errq.filter (fun e => !awaitsReplay s e)
    let s := { s with errq := s.errq.filter (awaitsReplay s) }
    let s := if s.board.errDropped then
        peatRecord { s with board := { s.board with errDropped := false } } 14 6 0 {}
      else s
    es.foldl handleError s

/-- The step or the batch of these planks has ended: the entries of their mismatches close, one that a second error joined with its one
charge (R319). -/
def closeEntries (s : State) (ps : List Nat) : State :=
  let ends (e : ErrEntry) : Bool := awaitsReplay s e && ps.contains e.unit
  (s.errq.filter ends).foldl handleError { s with errq := s.errq.filter (fun e => !ends e) }

/-! ## Commands -/

/-- PLANK_MASK (R316). -/
def execPlankMask (p : PlankId) (s : State) : Out := .next (decideMask s p)

/-- ERROR_FILED (R319). -/
def execErrorFiled (cls : BitVec 8) (unit : BitVec 16) (code : BitVec 8) (s : State) : Out :=
  .next (
    let c := cls.toNat
    let u := unit.toNat
    if c = 0 && 160 ≤ u then s
    else fileError s c u code.toNat 0 0 (if c = 0 then plankStep s u else 0))

end Sys2Proof.Machine
end

