-- ==== Sys2Proof/Machine/Verdict.lean ====
section
/-!
DEFINITION. The check record and the step record, the verdict when it is final, and the state that the next step begins with
(R155 to R162, R178, R179, R183).
-/
namespace Sys2Proof.Machine

/-! ## Records -/

/-- The 64 B of a check record (Table 7-2). -/
def checkWord (c : CheckRec) : BitVec 512 :=
  let x : BitVec 512 := 0
  let x := fset x (63, 0) c.step
  let x := fset x (67, 64) c.attempt
  let x := fset x (68, 68) (boolNat c.vFault)
  let x := fset x (69, 69) (boolNat c.vRefusal)
  let x := fset x (70, 70) (boolNat c.vOwnership)
  let x := fset x (71, 71) (boolNat c.vOrphaned)
  let x := fset x (72, 72) (boolNat c.vCancelled)
  let x := fset x (73, 73) (boolNat c.vMismatch)
  let x := fset x (74, 74) (boolNat c.vSuspect)
  let x := fset x (75, 75) (boolNat c.vHost)
  let x := fset x (76, 76) (boolNat c.hHost)
  let x := fset x (77, 77) (boolNat c.hIntegrity)
  let x := fset x (78, 78) (boolNat c.hReplica)
  let x := fset x (111, 80) c.suspect
  let x := fset x (143, 112) c.gradNonfin
  let x := fset x (159, 144) c.seqMasked
  let x := fset x (207, 176) c.lossSum.toNat
  let x := fset x (239, 208) c.gradSq.toNat
  let x := fset x (271, 240) c.tokens
  let x := fset x (303, 272) c.tokensAll
  let x := fset x (335, 304) c.reblockTensors
  fset x (367, 336) c.triggers

-- Fields of the step record (Table 7-8).
namespace SR
def STEP : Fd := (63, 0)
def ATTEMPT : Fd := (67, 64)
def PHASE : Fd := (70, 68)
def VERDICT : Fd := (73, 71)
def FINAL : Fd := (74, 74)
def UPD_STAGE : Fd := (77, 75)
def SPIKE : Fd := (78, 78)
def RB_END : Fd := (79, 79)
def STEP_LR : Fd := (127, 96)
def LOSS : Fd := (159, 128)
def SCALE : Fd := (191, 160)
def UPD_NONFIN : Fd := (223, 192)
def UPD_COUNT : Fd := (319, 256)
def LOSS_MEAN : Fd := (351, 320)
def LOSS_VAR : Fd := (383, 352)
end SR

-- Verdict codes (Table 7-8).
namespace Vd
def clean : Nat := 1
def reblock : Nat := 2
def void : Nat := 3
def suspect : Nat := 4
def held : Nat := 5
end Vd

def stepRec (s : State) (j : Job) : BitVec 512 := s.recAt (fget j.man Man.STEPREC) 512
def policyOf (s : State) (j : Job) : BitVec 512 := s.recAt (fget j.man Man.POLICY) 512
def firstStep (s : State) (j : Job) : Nat := fget (policyOf s j) Policy.FIRST_LO + 2 ^ 32 * fget (policyOf s j) Policy.FIRST_HI

/-- The module's fields of a step record, from the job. STEP_LR, UPD_NONFIN, UPD_COUNT and the loss statistics keep their
values. -/
def stepWord (j : Job) (r : BitVec 512) : BitVec 512 :=
  let r := fset r SR.STEP j.step
  let r := fset r SR.ATTEMPT j.attempt
  let r := fset r SR.PHASE j.phase
  let r := fset r SR.VERDICT j.verdict
  let r := fset r SR.FINAL (boolNat j.final)
  let r := fset r SR.UPD_STAGE j.stage
  let r := fset r SR.SPIKE (boolNat j.spike)
  let r := fset r SR.RB_END (boolNat j.rbEnd)
  let r := fset r SR.LOSS j.loss.toNat
  fset r SR.SCALE j.scale.toNat

/-- Write a job's step record (R183). -/
def putStepRec (s : State) (id : Nat) : State :=
  match findJob s id with
  | some j => hbmStoreRec s (fget j.man Man.STEPREC) (stepWord j (stepRec s j))
  | none => s

/-- Change a job's step state and its step record with it. -/
def setStep (s : State) (id : Nat) (f : Job → Job) : State := putStepRec (modJob s id f) id

/-! ## Units of a job -/

/-- Tree map of a job's step stream. -/
def jobTree (j : Job) : Nat :=
  match j.lists.streams.find? (fun e => e.kind.val == 0) with
  | some e => e.tree.val
  | none => 0
def streamTree (j : Job) (n : Nat) : Nat :=
  match j.lists.streams.find? (fun e => e.id.val == n) with
  | some e => e.tree.val
  | none => 0

/-- The planks whose step programs are of a job (KIND 0 or 2 streams). -/
def jobPlanks (s : State) (id : Nat) : List Nat :=
  (s.planks.filter (fun e => match e.2.stream with
    | some n => fget (s.strm n.val) Strm.JOB == id && fget (s.strm n.val) Strm.KIND != 1
    | none => false)).map (·.1)

/-- The streams of a job that carry its steps. -/
def stepStreams (j : Job) : List Nat := (j.lists.streams.filter (fun e => e.kind.val != 1)).map (·.id.val)

def setTensorRec (s : State) (j : Job) (tid : Nat) (r : BitVec 512) : State := hbmStoreRec s (fget j.man Man.TENSORS + 320 * tid) r
def jobTensor (s : State) (j : Job) (tid : Nat) : BitVec 512 := s.recAt (fget j.man Man.TENSORS + 320 * tid) 512
def jobLadder (s : State) (j : Job) (tid : Nat) : BitVec 512 := s.recAt (fget j.man Man.LADDER + 64 * tid) 512
def setLadder (s : State) (j : Job) (tid : Nat) (r : BitVec 512) : State := hbmStoreRec s (fget j.man Man.LADDER + 64 * tid) r
/-- Reduced statistics record of a tensor, in the job's statistics table (R77). -/
def reducedStat (s : State) (j : Job) (tid : Nat) : StatRec := statOfWord (s.recAt (fget j.man Man.STATS + 64 * tid) 512)

-- Collective records (Table 12-1).
namespace Coll
def COLL_ID : Fd := (15, 0)
def KIND : Fd := (19, 16)
def ALG : Fd := (22, 20)
def DTYPE : Fd := (24, 23)
def TREE : Fd := (28, 25)
def RES0 : Fd := (31, 29)
def STREAM : Fd := (47, 32)
def EPOCH : Fd := (63, 48)
def MMASK : Fd := (95, 64)
def ROOT_CHIP : Fd := (109, 96)
def RES1 : Fd := (111, 110)
def CHUNK_TID : Fd := (127, 112)
def RES2 : Fd := (175, 172)
def RES3 : Fd := (223, 220)
def ELEMS : Fd := (287, 224)
def DONE_OBJ : Fd := (302, 288)
def RES4 : Fd := (511, 303)
end Coll

def collRec (s : State) (j : Job) (i : Nat) : BitVec 512 := s.recAt (fget j.man Man.COLLECTIVES + 64 * i) 512
/-- The chunk tensors of a job (R293): those of its collectives of DTYPE 0. -/
def chunkTids (s : State) (j : Job) : List Nat :=
  ((List.range j.lists.collectives).map (collRec s j)).filterMap (fun c =>
    if fget c Coll.DTYPE = 0 then some (fget c Coll.CHUNK_TID) else none)

/-- Ranges of the tensor, ladder and policy records that a change of step or attempt reads. -/
def recordRanges (j : Job) : List (Nat × Nat) :=
  [(fget j.man Man.POLICY, 64), (fget j.man Man.TENSORS, 320 * j.lists.tensors), (fget j.man Man.LADDER, 64 * j.lists.tensors),
   (fget j.man Man.COLLECTIVES, 64 * j.lists.collectives)]

/-! ## References, exponents and rungs of a step (R63, R64, R127, R178) -/

/-- The largest entry of a tensor's committed history, INIT_REF while it is empty (R64). -/
def historyRef (s : State) (j : Job) (tid : Nat) : F32 :=
  let r := jobTensor s j tid
  let n := fget r Ten.COUNT
  let h := fget r Ten.HLEN_M1 + 1
  if n = 0 then BitVec.ofNat 32 (fget r Ten.INIT_REF)
  else (List.range n).foldl (fun m i =>
    let e := (fget r Ten.HEAD + h - 1 - i % h) % h
    maxF m (BitVec.ofNat 32 (s.le (fget j.man Man.TENSORS + 320 * tid + 64 + 4 * e) 4))) 0

/-- Fix REF, and with it E, under the rung of the attempt (R63, R124). -/
def setRef (s : State) (j : Job) (tid : Nat) (ref : F32) : State :=
  let r := jobTensor s j tid
  let e := tensorExp ((heldFmt r (jobLadder s j tid)).getD .fp4) ref (fget r Ten.MARGIN)
  setTensorRec s j tid (fset (fset r Ten.REF ref.toNat) Ten.E (unsign e 9))

/-- PEND_RUNG takes RUNG and MARKED clears, for the first attempt of a step (R127). -/
def resetRung (s : State) (j : Job) (tid : Nat) : State :=
  let l := jobLadder s j tid
  if fget l Lad.LADDER_EN = 0 then s
  else setLadder s j tid (fset (fset l Lad.PEND_RUNG (fget l Lad.RUNG)) Lad.MARKED 0)

/-- References, exponents and rungs of the first attempt of a step. A chunk tensor takes no E here (R293). -/
def firstRefs (s : State) (j : Job) : State :=
  let cs := chunkTids s j
  (List.range j.lists.tensors).foldl (fun s t =>
    let s := resetRung s j t
    if cs.contains t then s else setRef s j t (historyRef s j t)) s

/-- Partial statistics records and pending maxima are cleared (R82, Table 7-1). -/
def clearStats (s : State) (id : Nat) : State :=
  (jobPlanks s id).foldl (fun s p => s.modPlank p (fun k => { k with stats := [] })) s

/-- Write the job's statistics table (R77). -/
def writeStatTable (s : State) (j : Job) (rs : List (Nat × StatRec)) : State :=
  rs.foldl (fun s r => hbmStoreRec s (fget j.man Man.STATS + 64 * r.1) (statWord r.2)) s

/-- The reduced statistics records are cleared: at a new attempt and at Void (Table 7-1). -/
def clearStatTable (s : State) (id : Nat) : State :=
  match findJob s id with
  | some j => writeStatTable s j ((List.range j.lists.tensors).map (fun t => (t, statZero)))
  | none => s

/-- The step that follows begins to form: U3 converts as its first attempt (R178, R179), so its number, references, rungs and
empty records hold from here. -/
def formNext (s : State) (id : Nat) : State :=
  match findJob s id with
  | none => s
  | some j =>
    let s := clearStats s id
    let s := (stepStreams j).foldl (fun s n => strmSet s n Strm.STEP ((j.step + 1) % 2 ^ 64)) s
    let s := firstRefs (hbmNotes s (recordRanges j)) j
    modJob s id (fun j => { j with flags := 0, suspect := 0 })

/-! ## The final verdict (R162) -/

/-- A verdict becomes final: the step record, one EVENT, the tick, the end of step-masks and of Hjelper's open errors. The
payload is the reduced check record with the verdict in bits [370:368] and the spike in [371] (assumption 34). -/
def finalVerdict (s : State) (id v : Nat) (c : CheckRec) : State :=
  let s := setStep s id (fun j => { j with verdict := v, final := true })
  match findJob s id with
  | none => s
  | some j =>
    let x := fset (fset (checkWord c) (370, 368) v) (371, 371) (boolNat j.spike)
    let s := fileEvent s 0 0x0051 9 id j.step x
    let s := s.radd Reg.STEP_TICK_TICK 1
    let s := (jobPlanks s id).foldl (fun s p => s.rset (Reg.INTEG_STATE_STEP_MASKED p) 0) s
    workErrors (closeEntries s (jobPlanks s id))

/-- A step ends Void (R157, R179): what it held is discarded, and U3 alone runs for the next step. PHASE is that of Check, whose
verdict it is, also where a cancel ends an earlier phase (assumption 101). -/
def voidStep (s : State) (id : Nat) (c : CheckRec) : State :=
  clearStatTable (formNext (finalVerdict (modJob s id (fun j => { j with phase := 5 })) id Vd.void c) id) id

/-- PHASE of the step of a plank's job: work of phase n, 2 to 4, has begun in the attempt (R19, R183). Phases overlap; PHASE is the
latest that has begun (assumption 101). -/
def phaseBegun (s : State) (p n : Nat) : State :=
  match plankJob s p with
  | some j => if stepless s p || j.phase = 0 || n ≤ j.phase then s else setStep s j.id.toNat (fun j => { j with phase := n })
  | none => s

/-- The check record of a member with nothing to report. -/
def emptyCheck (j : Job) : CheckRec := {
  step := j.step
  attempt := j.attempt
  vFault := j.flags.getLsbD 0
  vRefusal := j.flags.getLsbD 1
  vOwnership := j.flags.getLsbD 2
  vOrphaned := j.flags.getLsbD 3
  vCancelled := j.flags.getLsbD 4
  vMismatch := j.flags.getLsbD 5
  vSuspect := j.flags.getLsbD 6
  vHost := j.flags.getLsbD 7
  hHost := j.flags.getLsbD 8
  hIntegrity := j.flags.getLsbD 9
  hReplica := j.flags.getLsbD 10
  suspect := j.suspect
  gradNonfin := 0
  seqMasked := 0
  lossSum := 0
  gradSq := 0
  tokens := 0
  tokensAll := 0
  reblockTensors := 0
  triggers := 0 }

/-- A step whose verdict is not final yet is under way in phases 1 to 5. -/
def stepOpen (j : Job) : Bool := decide (1 ≤ j.phase) && decide (j.phase ≤ 5) && !j.final

/-- A wait of a job's step is released as orphaned or cancelled (R274, Table 7-12): the flag of the attempt. In Check the check record
that has formed carries it, and a reduced record that waits for its verdict gives Void. A step whose verdict is final takes no flag. -/
def releasedStep (s : State) (id : Nat) (f : StepFlag) : State :=
  match findJob s id with
  | none => s
  | some j =>
    if !stepOpen j then s
    else
      let s := jobFlag s id f
      match j.red with
      | some c => voidStep s id (withFlag c f)
      | none => s

/-- The streams of a job's step are cancelled before its verdict is final: the step is Void, with V_CANCELLED in its record (R299,
Table 7-12). -/
def cancelStep (s : State) (id : Nat) : State :=
  match findJob s id with
  | some j =>
    if j.attempt = 0 || !stepOpen j then s
    else voidStep s id (withFlag ((j.red.orElse (fun _ => j.own)).getD (emptyCheck j)) .vCancelled)
  | none => s

end Sys2Proof.Machine
end

