-- ==== Sys2Proof/Machine/Streams.lean ====
section
/-!
DEFINITION. What the states of a stream do to its objects and its plank cores (R234, R274 to R276, R374 to R379).
-/
namespace Sys2Proof.Machine

-- Bits of SUSP_SRC (Table 15-7).
namespace Susp
def host : Nat := 1
def hold : Nat := 2
def heat : Nat := 4
end Susp

def streamState (s : State) (n : Nat) : Nat := fget (s.strm n) Strm.STATE
def streamKind (s : State) (n : Nat) : Nat := fget (s.strm n) Strm.KIND

/-- The planks whose program is of a stream (R202, R373). -/
def streamPlanks (s : State) (n : Nat) : List Nat :=
  (s.planks.filter (fun e => (e.2.stream.map (·.val)) == some n)).map (·.1)

/-- Tree maps that carry the messages of a stream's owner: those of its objects (R276). -/
def streamTrees (s : State) (n : Nat) : List Nat := ((ownedByStream s n).map (fun o => fget (s.obj o) Obj.TREE)).eraseDups

/-- Move every object of a stream from one state to another (R275). -/
def objectsTo (s : State) (n src dst : Nat) : State :=
  { s with objs := s.objs.map (fun e =>
      if fget e.2 Obj.OWNER_STREAM == n && fget e.2 Obj.STATE == src then (e.1, fset e.2 Obj.STATE dst) else e) }

/-- Objects that name a chip's stream as partner hear that it is suspended, or runs again (R276). -/
def partnerFlag (s : State) (chip n : Nat) (on : Bool) : State :=
  { s with objs := s.objs.map (fun e =>
      if fget e.2 Obj.PARTNER_EN == 1 && fget e.2 Obj.PARTNER_CHIP == chip && fget e.2 Obj.PARTNER_STREAM == n then
        (e.1, fset e.2 Obj.PARTNER_SUSP (boolNat on)) else e) }

/-- A stall report (R282, Table 11-9): an EVENT of kind 0x0050, counted in STALLS. -/
def stallReport (s : State) (reason unit : Nat) (obj : Option Nat) (barrier target value arrived waited step : Nat) : State :=
  let h := s.hc
  let x : BitVec 512 := 0
  let x := fset x (1, 0) reason
  let x := fset x (9, 2) unit
  let x := fset x (23, 10) (chipNo s)
  let x := fset x (38, 24) (obj.getD 0)
  let x := fset x (48, 39) barrier
  let x := fset x (95, 64) target
  let x := fset x (127, 96) value
  let x := fset x (159, 128) arrived
  let x := fset x (191, 160) waited
  let x := fset x (255, 192) step
  let x := fset x (383, 256) (match obj with
    | some o => fld (s.obj o) 223 96
    | none => 0)
  let x := fset x (447, 384) h.toNat
  let s := s.rsat Reg.STALLS_COUNT 1
  fileEvent s.tick 1 0x0050 0 unit step x

/-- Planks that wait on an object now. -/
def waiters (s : State) (o : Nat) : List Nat :=
  (s.planks.map (·.1)).filter (fun p => s.rbit (Reg.WAIT_STATE_WAITING p) && s.rget (Reg.WAIT_STATE_OBJ p) == o)

/-- A message says that a partner stream is suspended (R276): the flag is set, and each waiter reports at once with REASON 1. -/
def partnerSuspended (s : State) (chip n : Nat) : State :=
  (partners s chip n).foldl (fun s o => (waiters s o).foldl (fun s p =>
    let s := stallReport s 1 p (some o) 0 (s.rget (Reg.WAIT_STATE_TARGET p)) (fget (s.obj o) Obj.VALUE) 0 (s.plank p).waited (plankStep s p)
    s.rsat (Reg.WAIT_STATE_REPORTS p) 1) s) (partnerFlag s chip n true)

/-- What a suspended (1) or resumed (2) message of a chip's stream does to this member's objects. -/
def partnerEvent (s : State) (chip n event : Nat) : State :=
  if event = 1 then partnerSuspended s chip n else if event = 2 then partnerFlag s chip n false else s

/-- Owner messages of an event of a stream, one per tree map (R276); the root of a map acts on its own objects. -/
def streamMessages (s : State) (n event : Nat) : State :=
  (streamTrees s n).foldl (fun s t =>
    let s := ownerMessage s n event 0 t
    if isRoot s t then partnerEvent s (chipNo s) n event else s) s

/-- A core starts from CORE_ENTRY: only from Reset (R209). -/
def coreStartOp (p : Nat) (s : State) : State :=
  if coreState s p ≠ CoreSt.reset then s
  else
    let s := s.setPc p (s.rget (Reg.CORE_ENTRY_ENTRY p))
    let s := s.modPlank p (fun k => { k with
      ended := false
      unstarted := false })
    setCore s p CoreSt.running

/-- The cores of a program that has not run since its job was loaded start with its stream (assumption 26). -/
def startCores (s : State) (n : Nat) : State :=
  ((streamPlanks s n).filter (fun p => (s.plank p).unstarted)).foldl (fun s p => coreStartOp p s) s

/-- A stream enters Running: after a suspension its objects are Active again and their partners hear it (R275, R276). -/
def streamRuns (s : State) (n : Nat) : State :=
  let resumed := streamState s n == St.suspended
  let s := streamTo s n St.running
  startCores (if resumed then streamMessages (objectsTo s n 2 1) n 2 else s) n

/-- A stream enters Suspending or Suspended: its objects are Owner-suspended and their partners hear it (Table 11-2, R276). -/
def streamStops (s : State) (n : Nat) : State := streamMessages (objectsTo s n 1 2) n 1

/-- A suspension source arrives (R377): a Queued stream is Suspended, a Running one Suspending with its cores' suspends
pending; in every other state the source alone is noted. -/
def suspendStreamOp (s : State) (n src : Nat) : State :=
  let r := s.strm n
  let s := strmSet s n Strm.SUSP_SRC (fget r Strm.SUSP_SRC ||| src)
  let st := fget r Strm.STATE
  if st = St.queued then streamStops (streamTo (markSuspended s n) n St.suspended) n
  else if st = St.running then
    let s := markSuspended s n
    let s := streamStops (streamTo s n St.suspending) n
    (streamPlanks s n).foldl suspendCore s
  else s

/-- A suspension source ends (R378): a Suspended stream with no source left runs again. -/
def resumeStreamOp (s : State) (n src : Nat) : State :=
  let r := s.strm n
  let left := fget r Strm.SUSP_SRC &&& (7 ^^^ src)
  let s := strmSet s n Strm.SUSP_SRC left
  if fget r Strm.STATE = St.suspended && left = 0 then streamRuns s n else s

/-- A core of a collective group stops for a suspend only at the strm.qp that closes a chunk (R298). -/
def qpOnly (s : State) (p : Nat) : Bool :=
  match (s.plank p).stream with
  | some n => streamKind s n == 2
  | none => false

/-- A pending suspend stops the core at a quiesce point that is no strm.qp (R207). -/
def stopDue (s : State) (p : Nat) : Bool := suspPend s p && !qpOnly s p

/-- A plank counts as at a quiesce point, or has ended its stream (R207). -/
def plankQuiet (s : State) (p : Nat) : Bool := !coreActive s p || (s.plank p).ended

/-- A stream ends Done (R274, Table 11-4): an object with waiters becomes Orphaned with CAUSE 3, one without is Retired. -/
def streamDone (s : State) (n outcome : Nat) : State :=
  let s := strmSet (streamTo s n St.done) n Strm.OUTCOME outcome
  let os := ownedByStream s n
  let held := os.filter (fun o => fget (s.obj o) Obj.WAITERS != 0)
  let s := orphan s held 3
  (os.filter (fun o => fget (s.obj o) Obj.STATE != 3)).foldl (fun s o =>
    s.setObj o (fset (fset (s.obj o) Obj.STATE 0) Obj.OWNER 0xFF)) s

/-- Discard the contexts and spills of a stream's planks. -/
def discardContexts (s : State) (n : Nat) : State :=
  (streamPlanks s n).foldl (fun s p =>
    let s := s.rset (Reg.CORE_STATUS_CTX_VALID p) 0
    let s := s.rset (Reg.PLANK_STATUS_SPILL_VALID p) 0
    if plankState s p = PlankSt.suspended then freeAcc (freeAcc (setPlankState s p PlankSt.idle) p 0) p 1 else s) s

/-- The context or the spill of a Suspended stream is discarded: it is Orphaned, its objects with CAUSE 1 (Tables 11-4,
15-11). -/
def contextLost (s : State) (p : Nat) : State :=
  match (s.plank p).stream with
  | none => s
  | some n =>
    if streamState s n ≠ St.suspended then s else orphan (streamTo s n.val St.orphaned) (ownedByStream s n.val) 1

/-- A data stream's host die has a message out, or a record of it under way to or from HBM. -/
def dataBusy (s : State) (n : Nat) : Bool :=
  match kget dataReset s.net.data n with
  | some d => d.busy || s.net.work.any (fun w => w.stream == n)
  | none => false

/-- Every unit of a Cancelling stream has ended (Table 15-11). -/
def cancelEnds (s : State) (n : Nat) : State :=
  if streamState s n = St.cancelling && !dataBusy s n && (streamPlanks s n).all (fun p => plankQuiet s p) then streamDone s n 1 else s

/-- A stream is cancelled (R379): its objects become Orphaned with CAUSE 2, a step's flag is set, and the step of a cancelled
step stream is Void (Table 7-12); the contexts of a Suspended stream are discarded. STREAM_QUIESCED then ends it. -/
def cancelNow (s : State) (n : Nat) : State :=
  let r := s.strm n
  let st := fget r Strm.STATE
  if !(st == St.queued || st == St.running || st == St.suspending || st == St.suspended) then s else
  let s := streamTo s n St.cancelling
  let s := orphan s (ownedByStream s n) 2
  let s := if fget r Strm.KIND = 0 || fget r Strm.KIND = 2 then cancelStep s (fget r Strm.JOB) else s
  if st = St.suspended then discardContexts s n else s

/-- A cancel waits while Update runs (R184). -/
def cancelOp (s : State) (n : Nat) : State :=
  match findJob s (fget (s.strm n) Strm.JOB) with
  | some j => if j.phase = 6 then modJob s j.id.toNat (fun j => { j with cancelDue := j.cancelDue ++ [n] }) else cancelNow s n
  | none => cancelNow s n

/-- Streams of a job, from its stream list. -/
def jobStreams (j : Job) : List Nat := j.lists.streams.map (fun e => e.id.val)

/-- The streams due at a step boundary suspend: those of masked planks, and under HOLD_N the running step streams (R316, R347). A mask
uses the host's bit of SUSP_SRC (assumption 21). -/
def boundarySuspends (s : State) (j : Job) : State :=
  let s := j.maskSusp.foldl (fun s n => suspendStreamOp s n Susp.host) s
  let s := modJob s j.id.toNat (fun j => { j with maskSusp := [] })
  if modState s = 6 then ((stepStreams j).filter (fun n => streamState s n == St.running)).foldl (fun s n => suspendStreamOp s n Susp.hold) s else s

end Sys2Proof.Machine
end

