-- ==== Sys2Proof/Machine/Plank.lean ====
section
/-!
DEFINITION. Commands of the array: passes, segments, drains, faults, suspend and spill, add-outs and load-ins (chapters
"The plank", "The backward pass in hardware").
-/
namespace Sys2Proof.Machine

/-- The waiting slot is full: a descriptor waits, or a continue-from-spill reloads (R93, R107). -/
def slotFull (s : State) (p : Nat) : Bool :=
  (s.plank p).wait.isSome || (s.plank p).reload.isSome || s.rbit (Reg.SOUND_STATUS_RUNNING p)

/-- Trap word of a custom-0 or custom-1 instruction. -/
def c0 (f3 f7 : Nat) (rd rs1 rs2 : Nat) : Nat := rWord custom0 f3 f7 rd rs1 rs2
def c1 (f3 f7 : Nat) (rd rs1 rs2 : Nat) : Nat := rWord custom1 f3 f7 rd rs1 rs2

/-- PASS_ISSUE (R86 to R89, R93, R203). -/
def execPassIssue (p : PlankId) (rd rs1 : XReg) (ecc : CoreEcc) (s : State) : Out :=
  let off := (s.xreg p rs1).toNat
  .next (
    if !coreReady s p then s
    else if stopDue s p then coreStop s p 2
    else if off % 32 ≠ 0 then coreTrap s p 24 2 (c0 0 0 rd rs1 0) off
    else if slotFull s p then coreHold s p (some 2)
    else
      let r := issuePass s p (off % 2 ^ 24) none ecc
      coreNext (r.2.setX p rd (BitVec.ofNat 64 r.1)) p)

/-- A pass may begin (R93). -/
def mayBegin (s : State) (p : Nat) (r : PassRun) : Bool :=
  let k := s.plank p
  let sel := fget r.desc Desc.SEL
  let st := accState s p sel
  let a := getAcc s p sel
  k.run.isNone && k.reload.isNone &&
  (plankState s p == PlankSt.idle || plankState s p == PlankSt.running) &&
  (match k.image with
   | some i => !(i.begun && i.sel == sel)
   | none => true) &&
  (if fget r.desc Desc.ACC = 0 then st == AccSt.free || st == AccSt.held || st == AccSt.draining
   else st == AccSt.held && a.eA == r.eA && a.eB == r.eB && fget a.desc Desc.STRICT == fget r.desc Desc.STRICT)

/-- The feed of a pass meets a bank that the cells do not own or a word that it cannot correct (R91, R108). -/
def feedCheck (s : State) (p : Nat) (r : PassRun) (sampled : Bool) : Option State :=
  let rs := feedRanges s p r sampled
  match firstBad s p [ownCells] rs with
  | some b => some (bankFault s p b (fget r.desc Desc.PASS_TAG))
  | none =>
    let n := poisonSum s p (rs.take (2 * (passRows r.desc + passCols r.desc)))
    if n ≠ 0 then some (feedFault s p n) else none

/-- PASS_BEGIN (R93). Errors that SECDED corrects in the feed are counted (R108), as corrected words of the plank store too (R232). -/
def execPassBegin (p : PlankId) (corrected : BitVec 32) (s : State) : Out :=
  .next (
    match (s.plank p).wait with
    | none => s
    | some r =>
      if !mayBegin s p r then s else
      let sel := fget r.desc Desc.SEL
      let s := s.modPlank p (fun k => { k with run := some r, wait := none })
      let s := (s.rsat (Reg.FEED_CORR_COUNT p) corrected.toNat).rsat (Reg.PS_ECC_CORR p) corrected.toNat
      let s := if accState s p sel == AccSt.draining then s else enterPass s p r
      refreshPlank s p)

/-- A pass ends (R92): every K-block reaches the cells, and its accumulator becomes Held, Drain-pending or Draining. -/
def endPass (s : State) (p : Nat) (r : PassRun) : State :=
  let sel := fget r.desc Desc.SEL
  match feedCheck s p r (getAcc s p sel).sampled with
  | some t => t
  | none =>
    let s := runBlocks s p r r.pos (passBlocks r.desc)
    let s := s.modPlank p (fun k => { k with
      run := none
      segs := k.segs.map (segEnd s p sel) })
    let s :=
      if fget r.desc Desc.DRAIN = 0 then
        let s := setAccState s p sel AccSt.held
        if r.fill.isSome then s.rset (Reg.FILL_PTR_ITEM_HELD p) 1 else s
      else
        setAccState s p sel (if drainBusy s p || segPending s p sel then AccSt.pending else AccSt.draining)
    refreshPlank s p

/-- PASS_END (R92, R94). -/
def execPassEnd (p : PlankId) (s : State) : Out :=
  .next (
    match (s.plank p).run with
    | none => s
    | some r => if accState s p (fget r.desc Desc.SEL) ≠ AccSt.accumulating then s else endPass s p r)

/-- What a segment reads: the head of the list and, in each row, its 16 entries (R118). -/
def segmentReads (s : State) (p : Nat) (j : SegJob) : List (Nat × Nat) :=
  let base := fget j.side Side.SEDGE_LIST * 64
  let h := s.recAt (storeBase p + base) 512
  let row (r : Nat) := (64 * fget h Sedge.LIST + (r * fget h Sedge.SEG_STRIDE + j.seg) * 16, 16)
  (base, 64) :: (List.range (passRows j.desc)).map row

/-- What the lists of segments meet: a bank that the cells do not own, or an uncorrectable word (R91, R108, R232). -/
def segFault (s : State) (p : Nat) (js : List SegJob) (ecc : CoreEcc) : Option State :=
  match js.findSome? (fun j => (firstBad s p [ownCells] (segmentReads s p j)).map (fun b => (j, b))) with
  | some (j, b) => some (bankFault s p b (fget j.desc Desc.PASS_TAG))
  | none =>
    let n := storeErrs s p ecc (js.flatMap (segmentReads s p))
    if n ≠ 0 then some (feedFault s p n) else none

/-- SEDGE_SEGMENT (R117, R118): the segment at the head of the sedge path's work, once the feed has read its K-blocks. Its
list lies in banks that the cells own. -/
def execSedgeSegment (p : PlankId) (ecc : CoreEcc) (s : State) : Out :=
  .next (
    match (s.plank p).segs with
    | [] => s
    | j :: js =>
      match segFault s p [j] ecc with
      | some t => t
      | none => (runSeg (eccCounts s p ecc 0) p j).modPlank p (fun k => { k with segs := js }))

/-- The accumulator whose drain may begin: Drain-pending, its outliers applied, the lower one first (R94, R118). -/
def drainNext (s : State) (p : Nat) : Option Nat :=
  [0, 1].find? (fun sel => accState s p sel == AccSt.pending && !segPending s p sel)

/-- DRAIN_BEGIN (R94). -/
def execDrainBegin (p : PlankId) (s : State) : Out :=
  .next (
    if drainBusy s p then s else
    match drainNext s p with
    | some sel => refreshPlank (setAccState s p sel AccSt.draining) p
    | none => s)

/-- DRAIN_COMPLETE (R95 to R99). -/
def execDrainComplete (p : PlankId) (ecc : CoreEcc) (s : State) : Out :=
  .next (
    if accState s p 0 == AccSt.draining then finishDrain s p 0 ecc
    else if accState s p 1 == AccSt.draining then finishDrain s p 1 ecc
    else s)

/-- PLANK_FAULT (R108, R109): a fault code of Table 4-8. Code 0x02 is an uncorrectable word that the feed read (R232). -/
def execPlankFault (p : PlankId) (code : BitVec 8) (s : State) : Out :=
  .next (
    if code = 2 then feedFault s p 1
    else if 1 ≤ code.toNat && code.toNat ≤ 5 then plankFaultOp s p code.toNat else s)

/-- PLANK_SUSPEND_CMD (R105, R207). -/
def execPlankSuspendCmd (p : PlankId) (w : Writer) (s : State) : Out :=
  .next (regCommand s w (Reg.PLANK_CTL_SUSPEND p).off (fun s => suspendArray (suspendCore s p) p))

/-- A Faulted plank returns to Idle (R109). -/
def faultAck (s : State) (p : Nat) : State :=
  if plankState s p = PlankSt.faulted then setPlankState s p PlankSt.idle else s

/-- PLANK_FAULT_ACK (R109). -/
def execPlankFaultAck (p : PlankId) (w : Writer) (s : State) : Out :=
  .next (regCommand s w (Reg.PLANK_CTL_FAULT_ACK p).off (fun s => faultAck s p))

/-- The spill record is discarded (R107): the sums are lost, a Suspended plank returns to Idle, and its
Suspended stream is Orphaned (Table 15-11). -/
def discardSpill (s : State) (p : Nat) : State :=
  if !s.rbit (Reg.PLANK_STATUS_SPILL_VALID p) then s
  else
    let s := s.rset (Reg.PLANK_STATUS_SPILL_VALID p) 0
    let s := s.modPlank p (fun k => { k with reload := none, waitOff := none })
    let s := if plankState s p = PlankSt.suspended then setPlankState s p PlankSt.idle else refreshPlank s p
    contextLost s p

/-- PLANK_DISCARD_SPILL (R107). -/
def execPlankDiscardSpill (p : PlankId) (w : Writer) (s : State) : Out :=
  .next (regCommand s w (Reg.PLANK_CTL_DISCARD_SPILL p).off (fun s => discardSpill s p))

/-- Outlier entries that a suspend at K-block `pos` of the running pass still applies (R119): those of the K-blocks that the feed
has completed. -/
def segsDone (js : List SegJob) (pos : Nat) : List SegJob :=
  (js.filter (fun j => !j.live || decide (j.lo < pos))).map (fun j => if j.live then { j with hi := min j.hi pos } else j)

/-- The feed stops at K-block `pos` of the running pass (R105 steps 3 and 4), and outliers of the K-blocks done are applied. From here
on the spill is under way. -/
def stopFeed (s : State) (p pos : Nat) : State :=
  let s := match (s.plank p).run with
    | none => s
    | some r => runBlocks s p r r.pos pos
  (segsDone (s.plank p).segs pos).foldl (fun s j => runSeg s p j) s |>.modPlank p (fun k => { k with segs := [], spilling := true })

/-- The spill writes its areas, or meets a bank that the cells do not own or an uncorrectable sedge header (R106, R232). A fill pass in
the slot is named in the header like any other and stays its item's next pass (R105). -/
def beginSpill (s : State) (p : Nat) (ecc : CoreEcc) : State :=
  let heads := (spillRanges s p).filter (fun r => r.2 == 64)
  match firstBad s p [ownCells] (spillRanges s p) with
  | some b => plankFaultOp (spillViolation s p b (faultTag s p)) p 4
  | none =>
    let bad := storeErrs s p (if heads.isEmpty then .clean else ecc) heads
    if bad ≠ 0 then feedFault s p bad else
    let hdr := spillHeader s p
    let waitOff := match (s.plank p).wait with
      | some r => if r.fill.isSome then none else some r.off
      | none => none
    let s := fillWithdraw s p
    let s := s.storeRec (storeBase p + spillOff s p) hdr
    let s := spillAcc (spillAcc s p 0) p 1
    s.modPlank p (fun k => { k with wait := none, spilling := true, waitOff := waitOff })

/-- SPILL_START (R105): `pos` is the K-block boundary at which the feed stops, `ecc` what SECDED finds on the outlier lists and sedge
headers read. -/
def execSpillStart (p : PlankId) (pos : BitVec 24) (ecc : CoreEcc) (s : State) : Out :=
  .next (
    let k := s.plank p
    let posOk := match k.run with
      | none => true
      | some r => accState s p (fget r.desc Desc.SEL) == AccSt.accumulating && decide (r.pos ≤ pos.toNat)
          && decide (pos.toNat < passBlocks r.desc)
    if plankState s p ≠ PlankSt.suspending || k.spilling || k.reload.isSome || drainBusy s p || !posOk
      || s.rbit (Reg.SOUND_STATUS_RUNNING p)
      || accState s p 0 == AccSt.pending || accState s p 1 == AccSt.pending then s
    else
      match (match k.run with
        | some r => feedCheck s p r (getAcc s p (fget r.desc Desc.SEL)).sampled
        | none => none) with
      | some t => t
      | none =>
        let js := segsDone k.segs pos.toNat
        match segFault s p js (if js.isEmpty then .clean else ecc) with
        | some t => t
        | none => beginSpill (stopFeed (eccCounts s p ecc 0) p pos.toNat) p ecc)

/-- One record of kind spilled or resumed for an accumulator (R103, Table 4-7). -/
def posRecord (s : State) (p sel kind : Nat) : State :=
  let a := getAcc s p sel
  excRecord s p
    { tag := fget a.desc Desc.PASS_TAG, tid := fget a.desc Desc.OUT_TID, kind := kind, sel := sel, pos := a.passPos,
      fillTag := a.fill.getD 0 }

/-- The spill record is complete: VALID last, one record for each live accumulator, both accumulators Free, Suspended (R105). -/
def spillDone (s : State) (p : Nat) : State :=
  let at0 := storeBase p + spillOff s p
  let live (sel : Nat) : Bool := accLive s p sel
  let l0 := live 0
  let l1 := live 1
  let s := s.store at0 [s.byte at0 ||| 1]
  let s := if l0 then posRecord s p 0 5 else s
  let s := if l1 then posRecord s p 1 5 else s
  let s := s.rset (Reg.PLANK_STATUS_SPILL_VALID p) 1
  let s := setAccState (setAccState s p 0 AccSt.free) p 1 AccSt.free
  let s := s.modPlank p (fun k => { k with run := none, spilling := false })
  setPlankState s p PlankSt.suspended

/-- SPILL_COMPLETE (R105, R106): VALID last, one record for each live accumulator, both accumulators Free, Suspended. The
module keeps what the record has no place for (checksum taps, the K-block count) until the resume. -/
def execSpillComplete (p : PlankId) (s : State) : Out :=
  .next (
    if !(s.plank p).spilling then s else
    spillDone s p)

/-- What a reload reads: the record, the cells of each live accumulator, and its sedge header and sums (R107, R119). -/
def reloadRanges (s : State) (p : Nat) : List (Nat × Nat) :=
  (spillOff s p, 224) ::
    ((List.range 2).filter (fun i => bit (spillLive s p) i)).flatMap (fun i =>
      (spillOff s p + 4096 + i * 786432, 786432) :: sedgeSpill s p (getAcc s p i) i)

/-- The reload is complete: the accumulators stand as recorded and the named pass goes on (R107); a descriptor that the context record names as waiting takes the slot (R208). -/
def reloadDone (s : State) (p : Nat) (r : PassRun) : State :=
  let sel := fget r.desc Desc.SEL
  let s := reloadAcc (reloadAcc s p 0) p 1
  let pos := (getAcc s p sel).passPos
  let s := s.modPlank p (fun k => { k with reload := none })
  let s := s.rset (Reg.PLANK_STATUS_SPILL_VALID p) 0
  let s := posRecord s p sel 6
  let a := getAcc s p sel
  let s := if fget r.desc Desc.OPC = 1 then
      setAcc s p sel { a with
        desc := r.desc, side := r.side, passes := a.passes.dropLast ++ [r.desc],
        sedgeSide := if fget r.desc Desc.SEDGE = 1 then some r.side else a.sedgeSide }
    else s
  let s := if accState s p sel == AccSt.accumulating then
      let r := { r with pos := pos, fill := (getAcc s p sel).fill }
      s.modPlank p (fun k => { k with run := some r, segs := k.segs ++ segJobs r })
    else s
  let s := refreshPlank s p
  match (s.plank p).waitOff with
  | some off => (issuePass (s.modPlank p (fun k => { k with waitOff := none })) p off none .clean).2
  | none => s

/-- SPILL_RELOAD_COMPLETE (R107): both live accumulators return to their recorded states, the named pass continues, and a
descriptor that the context record names as waiting takes the slot (R208). -/
def execSpillReloadComplete (p : PlankId) (ecc : CoreEcc) (s : State) : Out :=
  .next (
    match (s.plank p).reload with
    | none => s
    | some r =>
      match firstBad s p [ownCells] (reloadRanges s p) with
      | some b => plankFaultOp (spillViolation s p b (fget r.desc Desc.PASS_TAG)) p 4
      | none =>
        let n := storeErrs s p ecc (reloadRanges s p)
        if n ≠ 0 then feedFault (eccCounts s p ecc 0) p n else reloadDone (eccCounts s p ecc 0) p r)

/-! ## Add-outs and load-ins (R144, R145) -/

/-- A core requests an add-out or a load-in; SEL is bit [0] of rs2 (assumption 12). -/
def requestImage (s : State) (p : Nat) (load : Bool) (rd rs1 rs2 : XReg) : State :=
  let off := (s.xreg p rs1).toNat
  if !coreReady s p then s
  else if off % 4096 ≠ 0 then coreTrap s p 24 2 (c0 2 (boolNat load) rd rs1 rs2) off
  else if (s.plank p).image.isSome then coreHold s p none
  else
    let q : ImageReq := ⟨load, (s.xreg p rs2).toNat % 2, off % 2 ^ 24, rd, false, 0, false⟩
    coreHold (s.modPlank p (fun k => { k with image := some q })) p none

/-- ACC_ADDOUT (R144). -/
def execAccAddout (p : PlankId) (rd rs1 rs2 : XReg) (s : State) : Out := .next (requestImage s p false rd rs1 rs2)

/-- ACC_LOADIN (R145). -/
def execAccLoadin (p : PlankId) (rd rs1 rs2 : XReg) (s : State) : Out := .next (requestImage s p true rd rs1 rs2)

/-- The oldest fill item has run all its passes, is Held and ends in an add-out (R147, Table 6-4). -/
def fillAddout (s : State) (p : Nat) : Option ImageReq :=
  let e := fillOldest s p
  if s.rbit (Reg.FILL_PTR_ITEM_HELD p) && (s.plank p).fillN != 0 && fget e Fill.END == 1
    && s.rget (Reg.FILL_PTR_DONE p) == fget e Fill.PASSES && accState s p 1 == AccSt.held then
    some ⟨false, 1, fget e Fill.IMAGE * 4096, 0, false, 0, true⟩
  else none

/-- The add-out or load-in that waits to begin. -/
def imageWaiting (s : State) (p : Nat) : Option ImageReq :=
  match (s.plank p).image with
  | some q => if q.begun then none else some q
  | none => fillAddout s p

/-- A waiting add-out or load-in may be checked (R144). -/
def imageReady (s : State) (p : Nat) (q : ImageReq) : Bool :=
  !accNamed s p q.sel && accState s p q.sel != AccSt.pending && accState s p q.sel != AccSt.draining && !drainBusy s p
    && !segPending s p q.sel

/-- The core that requested the work gets its answer and goes on. -/
def imageAnswer (s : State) (p : Nat) (q : ImageReq) (code : Nat) : State :=
  if q.fill then s else coreNext (s.setX p q.rd (BitVec.ofNat 64 code)) p

/-- Set the STATE of an image. -/
def setImage (s : State) (p image st : Nat) : State :=
  s.storeRec (storeBase p + image) (fset (s.recAt (storeBase p + image) 512) Img.STATE st)

def imageRanges (image : Nat) : List (Nat × Nat) := [(image, 64), (image + 4096, 786432)]

/-- A fill item leaves the list while ACC1 holds its sums: no item holds them any more, and a refusal changes no accumulator (R89). -/
def fillLeaves (s : State) (p : Nat) : State :=
  (setAcc s p 1 { getAcc s p 1 with fill := none }).rset (Reg.FILL_PTR_ITEM_HELD p) 0

/-- An add-out or load-in is checked and, when not refused, begins. `ecc` is what SECDED finds on the image's header (R232). -/
def beginImage (s : State) (p : Nat) (q : ImageReq) (ecc : CoreEcc) : State :=
  match firstBad s p [ownCells] (imageRanges q.image) with
  | some b => imageAnswer (bankFault s p b (fget (getAcc s p q.sel).desc Desc.PASS_TAG)) p q 0
  | none =>
    let s := eccCounts s p ecc 0
    let bad := storeErrs s p ecc [(q.image, 64)]
    if bad ≠ 0 then imageAnswer (feedFault s p bad) p q 0 else
    if imageRefused s p q then
      let d := (getAcc s p q.sel).desc
      let s := refusePass s p 0x0C (fget d Desc.PASS_TAG) (fget d Desc.OUT_TID) q.sel (if q.fill then fget (fillOldest s p) Fill.FILL_TAG else 0)
      let s := s.modPlank p (fun k => { k with image := none })
      let s := if q.fill then fillDrop (fillLeaves s p) p else s
      imageAnswer s p q 0x0C
    else
      let old := fget (s.recAt (storeBase p + q.image) 512) Img.STATE
      let s := s.modPlank p (fun k => { k with image := some { q with begun := true, old := old } })
      let s := if q.load then s else setImage s p q.image 2
      refreshPlank (imageAnswer s p q 0) p

/-- ADDOUT_BEGIN (R144). -/
def execAddoutBegin (p : PlankId) (ecc : CoreEcc) (s : State) : Out :=
  .next (
    match imageWaiting s p with
    | none => s
    | some q => if q.load || !imageReady s p q then s else beginImage s p q ecc)

/-- Add an accumulator into an image (R144 steps 2 to 4): into an empty image it is copied. -/
def addImage (s : State) (p : Nat) (q : ImageReq) : State :=
  let a := getAcc s p q.sel
  let o := storeBase p + q.image
  let h := s.recAt o 512
  if q.old = 0 then
    let h := fset (fset h Img.E_A (unsign a.eA 9)) Img.E_B (unsign a.eB 9)
    let h := fset (fset (fset h Img.KBLOCKS a.kblocks) Img.LOSTLOW a.lostlow) Img.ADDS 1
    (s.store (o + 4096) (accImage a)).storeRec o h
  else
    let base := fget h Img.KBLOCKS
    let es := (List.range 65536).flatMap (fun i =>
      cellBytes (mergeCell (imageEntry s p q.image i) (a.cell (i / 512) (i % 512)) base))
    let h := fset h Img.KBLOCKS (base + a.kblocks)
    let h := fset h Img.LOSTLOW (satAdd 32 (fget h Img.LOSTLOW) a.lostlow)
    let h := fset h Img.ADDS (satInc 16 (fget h Img.ADDS))
    (s.storeKeep (o + 4096) es).storeRec o h

/-- The image holds the sum: column sums of a sampled accumulation first, STATE 1 last, the accumulator Free (R144). -/
def addoutDone (s : State) (p : Nat) (q : ImageReq) : State :=
  let s := chkFinish s p (getAcc s p q.sel)
  let s := setImage (addImage s p q) p q.image 1
  let s := s.modPlank p (fun k => { k with image := none })
  let s := releaseAcc s p q.sel
  let s := if q.fill then fillComplete s p else s
  refreshPlank s p

/-- ADDOUT_COMPLETE (R144). The sum of an entry with a poisoned word stays poisoned (R220); a word that SECDED finds uncorrectable is an
error of the drain path's read (R232). Column sums of a sampled accumulation first, STATE 1 last, the accumulator Free. -/
def execAddoutComplete (p : PlankId) (ecc : CoreEcc) (s : State) : Out :=
  .next (
    match (s.plank p).image with
    | none => s
    | some q =>
      if q.load || !q.begun then s else
      match firstBad s p [ownCells] (chkSums s p (getAcc s p q.sel) ++ imageRanges q.image) with
      | some b => bankFault s p b (fget (getAcc s p q.sel).desc Desc.PASS_TAG)
      | none =>
        let n := boolNat (ecc == .store)
        if n ≠ 0 then feedFault s p n else addoutDone (eccCounts s p ecc 0) p q)

/-- LOADIN_BEGIN (R145). -/
def execLoadinBegin (p : PlankId) (ecc : CoreEcc) (s : State) : Out :=
  .next (
    match imageWaiting s p with
    | none => s
    | some q => if !q.load || !imageReady s p q then s else beginImage s p q ecc)

/-- The accumulator holds the image: its entries, exponents, position and lost-low count, Held (R145). -/
def loadinDone (s : State) (p : Nat) (q : ImageReq) : State :=
  let h := s.recAt (storeBase p + q.image) 512
  let s := setAcc s p q.sel { Accum.empty with
    cells := loadCells s p (q.image + 4096), eA := signed (fget h Img.E_A) 9, eB := signed (fget h Img.E_B) 9,
    kblocks := fget h Img.KBLOCKS, lostlow := fget h Img.LOSTLOW, loaded := true }
  let s := setAccState s p q.sel AccSt.held
  refreshPlank (s.modPlank p (fun k => { k with image := none })) p

/-- LOADIN_COMPLETE (R145): the image's entries, exponents, position and lost-low count, Held; the image stays. -/
def execLoadinComplete (p : PlankId) (ecc : CoreEcc) (s : State) : Out :=
  .next (
    match (s.plank p).image with
    | none => s
    | some q =>
      if !q.load || !q.begun then s else
      let n := storeErrs s p ecc (imageRanges q.image)
      match firstBad s p [ownCells] (imageRanges q.image) with
      | some b => bankFault s p b 0
      | none =>
        if n ≠ 0 then feedFault (eccCounts s p ecc 0) p n else
        loadinDone (eccCounts s p ecc 0) p q)

/-! ## Fences and suspend from the core -/

/-- PASS_FENCE (R203). -/
def execPassFence (p : PlankId) (rd : XReg) (s : State) : Out :=
  .next (
    if !coreReady s p then s else
    let faulted := plankState s p == PlankSt.faulted
    let k := s.plank p
    let quiet (sel : Nat) : Bool := accState s p sel == AccSt.free || accState s p sel == AccSt.held
    if faulted || (k.run.isNone && !slotFull s p && quiet 0 && quiet 1) then
      coreNext (s.setX p rd (BitVec.ofNat 64 (s.rget (Reg.PASS_COUNT_DRAINS p) % 2 ^ 63 + (if faulted then 2 ^ 63 else 0)))) p
    else coreHold s p none)

/-- PLANK_SUSP (R105, R207): SUSP_PEND set, and the core quiesces at this instruction. -/
def execPlankSusp (p : PlankId) (s : State) : Out :=
  .next (if !coreReady s p then s else coreStop (s.rset (Reg.CORE_STATUS_SUSP_PEND p) 1) p 3)

end Sys2Proof.Machine
end

