-- ==== Sys2Proof/Machine/Sluice.lean ====
section
/-!
DEFINITION. How a Sluice verb is accepted and answered (R363, R364, R367 to R370, Table 15-2, Table 15-4), and how a session
ends (R368).
-/
namespace Sys2Proof.Machine

/-! ## Data streams and queue pairs -/

def State.qp (s : State) (q : Nat) : Qp := kget qpReset s.net.qps q
def State.setQp (s : State) (q : Nat) (x : Qp) : State := { s with net := { s.net with qps := kput qpReset s.net.qps q x } }
def State.data (s : State) (n : Nat) : Option DataStream := kget dataReset s.net.data n
def State.setData (s : State) (n : Nat) (x : Option DataStream) : State :=
  { s with net := { s.net with data := kput dataReset s.net.data n x } }
def State.modData (s : State) (n : Nat) (f : DataStream → DataStream) : State := s.setData n ((s.data n).map f)

/-- A data stream has nothing out: what its host die still reads for it is dropped. -/
def idleData (s : State) (n : Nat) : State :=
  let s : State := { s with net := { s.net with work := s.net.work.filter (fun w => w.stream != n || w.write) } }
  s.modData n (fun d => { d with busy := false })

/-! ## Sessions (R368) -/

/-- Sessions that are not spent. -/
def liveSessions (s : State) : List Session := s.net.sessions.filter Session.usable

/-- The streams that a session opened and that have not ended. -/
def sessionStreams (s : State) (n : Nat) : List Nat :=
  (s.net.data.filter (fun e => match e.2 with
    | some d => d.session == n
    | none => false)).map (·.1)

/-- A stream becomes Orphaned (Table 15-11): its objects with CAUSE 1. -/
def orphanStream (s : State) (n : Nat) : State :=
  let st := fget (s.strm n) Strm.STATE
  if st == St.idle || st == St.done || st == St.failed || st == St.orphaned then s
  else
    let s := idleData s n
    orphan (streamTo s n St.orphaned) (ownedByStream s n) 1

/-- An open update is abandoned; its slot stays half-written (R413). -/
def closeUpdate (s : State) : State :=
  let s := { s with board := { s.board with update := none } }
  (s.rset Reg.UPDATE_STATUS_OPEN 0).rset Reg.UPDATE_STATUS_BYTES 0

/-- A session ends (R368): its streams become Orphaned and its update is abandoned. -/
def endSession (s : State) (n : Nat) : State :=
  let s := { s with net := { s.net with
    sessions := s.net.sessions.filter (fun x => x.num != n)
    parts := s.net.parts.filter (fun x => x.session != n)
    ready := s.net.ready.filter (fun x => x.session != n) } }
  let s := (sessionStreams s n).foldl orphanStream s
  match s.board.update with
  | some u => if u.session = n then closeUpdate s else s
  | none => s

/-- Sessions whose SEQ has run out end. -/
def endSpent (s : State) : State :=
  ((s.net.sessions.filter (fun x => !x.usable)).map (·.num)).foldl endSession s

/-! ## Verbs -/

/-- A row of Table 15-4: the code, the states of its column, the operator role, and whether R370 allows it in Boot and in
Tripped and R401 to the enrolment role; `cached` verbs are answered without Hjelper (R333). -/
structure Verb where
  code : Nat
  inHold : Bool := false
  inMire : Bool := false
  inBoot : Bool := false
  inTrip : Bool := false
  operator : Bool := false
  enrol : Bool := false
  cached : Bool := false
deriving DecidableEq, Repr

/-- An answer: STATUS and payload. -/
structure Answer where
  status : Nat
  payload : List Byte
deriving DecidableEq, Repr

namespace Answer
def done (p : List Byte) : Answer := ⟨0, p⟩
/-- STATUS 1 with its detail code. -/
def refused (detail : Nat) : Answer := ⟨1, be 4 detail⟩
def busy : Answer := ⟨2, []⟩
def wrongState : Answer := ⟨3, []⟩
def notPermitted : Answer := ⟨4, []⟩
def malformed : Answer := ⟨5, []⟩
def notFound : Answer := ⟨7, []⟩
end Answer

def countReject (s : State) : State := s.rsat Reg.SLUICE_REJECT_COUNT 1

/-- The answer to a request: of KIND 2 without a session, else sealed. -/
def answerMsg (rq : Req) (code : Nat) (a : Answer) : Msg :=
  match rq.session with
  | some n => ⟨1, code + 0x8000, a.status, n, rq.reqId, a.payload⟩
  | none => ⟨2, code + 0x8000, a.status, 0, rq.reqId, a.payload⟩

/-- Keep a REQ_ID among the last 256 of a session, with its answer when it is short enough (R364). -/
def keep (s : State) (n : Nat) (reqId : BitVec 32) (m : Option Msg) : State :=
  modSession s n (fun x => { x with
    kept := (⟨reqId, m⟩ :: x.kept.filter (fun k => k.reqId != reqId)).take 256 })

/-- Answer a request and keep the answer (R364). -/
def respond (s : State) (rq : Req) (code : Nat) (a : Answer) : State :=
  let m := answerMsg rq code a
  let s := match rq.session with
    | some n => keep s n rq.reqId (if a.payload.length ≤ 8192 then some m else none)
    | none => s
  sendMsg s rq.port.val rq.peer m

/-- What a session keeps of a request with this REQ_ID (R364): a SYNC_DUMP is made again. -/
def keptOf (x : Session) (reqId : BitVec 32) (code : Nat) : Option Kept :=
  x.kept.find? (fun k => k.reqId == reqId && code != 0x40)

/-- A kept answer is sent again; one still to come, or too long to be kept, is not. -/
def sendKept (s : State) (rq : Req) (k : Kept) : State :=
  match k.answer with
  | some m => sendMsg s rq.port.val rq.peer m
  | none => s

/-- STATUS with which a verb is turned away, 0 for none (R367, R369, R370, R401). The role is looked at before the state. -/
def verbGate (s : State) (v : Verb) (role : Nat) : Nat :=
  let st := modState s
  let permitted := if role = 1 then true else if role = 2 then !v.operator else v.enrol
  let inState := if st = 2 then v.inBoot else if st = 3 then v.inMire else if st = 8 then v.inTrip
    else if st = 6 then v.inHold else decide (st = 4) || decide (st = 5)
  if !hjelperUp s && !v.cached then 2
  else if !permitted then 4
  else if inState then 0
  else if st = 6 then 2
  else 3

/-- A request is accepted: its port and its sender are the session's, and it no longer waits. -/
def acceptReq (s : State) (n : Nat) (rq : Req) : State :=
  let s := modSession s n (fun x => { x with
    port := rq.port.val
    peer := rq.peer })
  { s with net := { s.net with ready := s.net.ready.filter (fun m => !(m.session == n && m.reqId == rq.reqId)) } }

/-- Run a verb (R364, R369): a REQ_ID that is kept has its answer sent again; `act` gives the answer, or none when the answer
comes later. A request comes by a port that is up (R431). -/
def runVerb (s : State) (rq : Req) (v : Verb) (act : State → Option Answer × State) : State :=
  let s := endSpent s
  if modState s = 0 || modState s = 1 || !portIsUp s rq.port then s
  else
    match rq.session with
    | none =>
      if v.code ≠ 1 then countReject s
      else
        let g := verbGate s v 1
        if g ≠ 0 then respond s rq v.code ⟨g, []⟩
        else
          let r := act s
          match r.1 with
          | some a => respond r.2 rq v.code a
          | none => r.2
    | some n =>
      match findSession s n with
      | none => countReject s
      | some x =>
        if !x.opened then countReject s
        else
          let s := acceptReq s n rq
          match keptOf x rq.reqId v.code with
          | some k => sendKept s rq k
          | none =>
            let g := verbGate s v x.role
            if g ≠ 0 then respond s rq v.code ⟨g, []⟩
            else
              let r := act s
              match r.1 with
              | some a => respond r.2 rq v.code a
              | none => keep r.2 n rq.reqId none

/-- A verb that answers at once. -/
def answerVerb (s : State) (rq : Req) (v : Verb) (act : State → Answer × State) : State :=
  runVerb s rq v (fun s => let r := act s; (some r.1, r.2))

/-! ## Keys and measurements -/

/-- Every attestation report so far is stale (R381). -/
def makeStale (s : State) : State :=
  { s with net := { s.net with report := s.net.report.map (fun r => { r with stale := true }) } }

end Sys2Proof.Machine
end

