-- ==== Sys2Proof/Machine/Transfer.lean ====
section
/-!
DEFINITION. Transfers (R205, R206, R225 to R227, R231, R248 to R250): their checks, the lines they read and write, the
sector requests and packets they become, and their completion.
-/
namespace Sys2Proof.Machine

-- Transfer descriptor (Tables 8-9 and 9-3).
namespace Xd
def SRC_CHIP : Fd := (13, 0)
def SRC_OFS : Fd := (57, 14)
def MODE : Fd := (61, 58)
def DST_CHIP : Fd := (77, 64)
def DST_OFS : Fd := (121, 78)
def LENGTH : Fd := (159, 128)
def DONE_OBJ : Fd := (174, 160)
def DONE_EN : Fd := (175, 175)
def DONE_CHIP : Fd := (189, 176)
def STREAM : Fd := (207, 192)
def ELEM : Fd := (257, 256)
def TYPE : Fd := (257, 256)
def ROWS : Fd := (279, 264)
def COLS : Fd := (311, 280)
def SRC_PITCH : Fd := (351, 312)
def DST_PITCH : Fd := (391, 352)
def CHUNK : Fd := (383, 256)
def ARGS : Fd := (511, 256)
end Xd

/-! ## Regions -/

/-- What holds an offset range: HBM, a plank store with its plank and the offset in it, or nothing a transfer may use. -/
inductive Region where
  | hbm
  | store (q off : Nat)
  | none
deriving DecidableEq, Repr

def regionOf (off n : Nat) : Region :=
  if off + n ≤ 2 ^ 40 then .hbm
  else if storeBase 0 ≤ off && off + n ≤ storeBase 160 && off / 0x1000000 == (off + n - 1) / 0x1000000 then
    .store ((off - storeBase 0) / 0x1000000) (off % 0x1000000)
  else .none

/-- Compute die of an offset: the home die of its stack, or the die of its plank store (R252). -/
def computeDie (off : Nat) : Option Nat :=
  match regionOf off 1 with
  | .hbm => some (hbmStack off / 2)
  | .store q _ => some (q / 20)
  | .none => none

/-! ## Geometry of a transfer -/

/-- Element width in bits of a transposing transfer, and the side of its tiles (Table 9-4). -/
def elemBits (d : BitVec 512) : Nat := 4 * 2 ^ fget d Xd.ELEM
def tileSide (d : BitVec 512) : Nat := 512 / elemBits d

def transposes (d : BitVec 512) : Bool := fget d Xd.MODE == 1 || fget d Xd.MODE == 2

/-- Runs of bytes that a transfer reads at its source, in order (R225). -/
def srcRuns (d : BitVec 512) : List (Nat × Nat) :=
  let o := fget d Xd.SRC_OFS
  if transposes d then
    (List.range (fget d Xd.ROWS)).map (fun r => (o + r * fget d Xd.SRC_PITCH, fget d Xd.COLS * elemBits d / 8))
  else [(o, fget d Xd.LENGTH)]

/-- Runs of bytes that it writes at its destination. -/
def dstRuns (d : BitVec 512) : List (Nat × Nat) :=
  let o := fget d Xd.DST_OFS
  if transposes d then
    (List.range (fget d Xd.COLS)).map (fun k => (o + k * fget d Xd.DST_PITCH, (fget d Xd.ROWS * elemBits d + 7) / 8))
  else [(o, fget d Xd.LENGTH)]

/-- A run inside one stack. -/
def inStack (off n : Nat) : Bool := decide (off + n ≤ 2 ^ 40) && off / 2 ^ 36 == (off + n - 1) / 2 ^ 36

/-- Span from the first byte of the first run to the last of the last. -/
def runSpan (rs : List (Nat × Nat)) : Nat × Nat :=
  match rs.head?, rs.getLast? with
  | some a, some b => (a.1, b.1 + b.2 - a.1)
  | _, _ => (0, 0)

/-- Whether MODE_ARGS, LENGTH and the placement of a transposing transfer keep R225 to R227: mode 1 reads one stack or the own
plank store of this module, mode 2 writes one stack of this module; the other end may lie on a peer, where whole lines are
moved (assumption 18). -/
def transposeOk (s : State) (p : Nat) (d : BitVec 512) : Bool :=
  let side := tileSide d
  let rows := fget d Xd.ROWS
  let cols := fget d Xd.COLS
  let here := fget d Xd.SRC_CHIP == chipNo s
  let there := fget d Xd.DST_CHIP == chipNo s
  let (so, sn) := runSpan (srcRuns d)
  let (t, tn) := runSpan (dstRuns d)
  let eng := decide (rows % side = 0) && decide (cols % side = 0)
  fget d Xd.ELEM != 3 && decide (0 < rows) && decide (0 < cols)
    && fget d Xd.LENGTH * 8 == rows * cols * elemBits d
    && decide (fget d Xd.SRC_PITCH % 64 = 0) && decide (fget d Xd.DST_PITCH % 64 = 0)
    && (if fget d Xd.MODE = 1 then
          here && (inStack so sn && eng ||
          (decide (regionOf so sn = .store p (so % 0x1000000)) && decide (rows ≤ 128) && decide (cols % side = 0)))
        else there && inStack t tn && eng)
    && (there && regionOf t tn != .hbm || decide (rows % side = 0))

/-- Sub-code of cause 24 with which a transfer is not started for its own form (Table 8-11); `none` when it may start. One
end must be this module (assumption 18). -/
def xferForm (s : State) (p : Nat) (d : BitVec 512) : Option Nat :=
  let me := chipNo s
  let here := fget d Xd.SRC_CHIP == me
  let there := fget d Xd.DST_CHIP == me
  let mode := fget d Xd.MODE
  if decide (4 < mode) || fget d Xd.LENGTH % 64 != 0 || fget d Xd.SRC_OFS % 64 != 0 || fget d Xd.DST_OFS % 64 != 0 then some 5
  else if !here && !there then some 5
  else if transposes d && !transposeOk s p d then some 5
  else if mode = 3 && (fget d Xd.TYPE == 3 || fget d Xd.TYPE == 2 && fget d Xd.LENGTH % 192 != 0) then some 5
  else
    let bad := fun (rs : List (Nat × Nat)) (storeOnly : Bool) => rs.any (fun r =>
      match regionOf r.1 r.2 with
      | .hbm => storeOnly
      | .store _ _ => false
      | .none => true)
    if here && bad (srcRuns d) false || there && bad (dstRuns d) (mode == 3) then some 7 else none

/-- What a transfer uses without owning it (R205): a bank, a slot share, a die-to-die channel direction. -/
inductive XferBad where
  | bank (q b : Nat)
  | share (m c : Nat)
  | chan (n : Nat)
deriving DecidableEq, Repr

/-- Ownership of one run: slots of the plank in HBM; in a plank store, its own banks (code 3) or transfer banks (code 4), in
another plank's store transfer banks. -/
def runBad (s : State) (p : Nat) (r : Nat × Nat) : Option XferBad :=
  match regionOf r.1 r.2 with
  | .hbm => (badShare s p r.1 r.2).map (fun a => .share (hbmStack a) (hbmPc a))
  | .store q o => (badBank s q (if q = p then [ownCore, ownTransfer] else [ownTransfer]) o r.2).map (.bank q)
  | .none => none

def runsBad (s : State) (p : Nat) (rs : List (Nat × Nat)) : Option XferBad := rs.findSome? (runBad s p)

/-! ## Die-to-die channels of a transfer (R8, R10, R205, R252) -/

/-- Compute dies that hold runs of bytes. -/
def runDies (rs : List (Nat × Nat)) : List Nat :=
  (rs.flatMap (fun r =>
    match regionOf r.1 r.2 with
    | .hbm => (List.range ((r.1 + r.2 - 1) / 2 ^ 36 + 1 - r.1 / 2 ^ 36)).map (fun i => (r.1 / 2 ^ 36 + i) / 2)
    | .store q _ => [q / 20]
    | .none => [])).eraseDups

/-- Connections that a transfer of plank p uses: from the plank's die to the source and back with its data, and to the
destination with them (R10; the data pass the plank's die, assumption 109). -/
def xferHops (s : State) (p : Nat) (d : BitVec 512) : List (Nat × Nat) :=
  let a := p / 20
  let src := if fget d Xd.SRC_CHIP = chipNo s then runDies (srcRuns d) else []
  let dst := if fget d Xd.DST_CHIP = chipNo s then runDies (dstRuns d) else []
  (src.flatMap (fun b => dieHops a b ++ dieHops b a) ++ dst.flatMap (fun b => dieHops a b)).eraseDups

/-- A transfer that leaves the module by a link die: one end, or the object that it signals, lies on a peer. -/
def xferLeaves (s : State) (d : BitVec 512) : Bool :=
  fget d Xd.SRC_CHIP != chipNo s || fget d Xd.DST_CHIP != chipNo s
    || fget d Xd.DONE_EN == 1 && fget d Xd.DONE_CHIP != chipNo s

/-- The directions that a transfer uses, the lowest that the plank owns of each connection; or one that it lacks, named by
channel 0 of the connection. -/
def xferChans (s : State) (p : Nat) (d : BitVec 512) : List Nat ⊕ Nat :=
  let hops := xferHops s p d
  match hops.find? (fun h => (chanOwned s p h.1 h.2).isNone) with
  | some h => .inr (chanIndex h.1 h.2 0)
  | none =>
    let own := hops.filterMap (fun h => chanOwned s p h.1 h.2)
    if !xferLeaves s d then .inl own
    else match plankInject s p with
      | some k => .inl (own ++ [k.2])
      | none => .inr (chanIndex (p / 20) (dieOfLink (p / 20 % 4)) 0)

/-! ## Lines -/

/-- The 64 B lines of runs, as module offsets. -/
def lines64 (rs : List (Nat × Nat)) : List Nat := rs.flatMap (fun r => (List.range ((r.2 + 63) / 64)).map (fun i => r.1 + 64 * i))

/-- Poisoned words of a plank-store read count in PS_ECC.UNCORR (R232). -/
def countPoison (s : State) (off n : Nat) : State :=
  match regionOf off n with
  | .store q o => s.rsat (Reg.PS_ECC_UNCORR q) (poisonCount s q (o, n))
  | _ => s

/-- The same of a line, with a word that is newly uncorrectable. -/
def countLine (s : State) (off : Nat) (bad : Bool) : State :=
  match regionOf off 64 with
  | .store q _ => (countPoison s off 64).rsat (Reg.PS_ECC_UNCORR q) (boolNat bad)
  | _ => s

/-- A line as it stands in memory. -/
def lineAt (s : State) (off : Nat) : Line := ⟨s.bytes off 64, s.poisoned off 64⟩

/-- Write a line; poison follows the data (R220). -/
def putLine (s : State) (off : Nat) (l : Line) : State :=
  let s := s.store off l.data
  if l.poison then s.addPoison off l.data.length else s

/-! ## Accumulate-on-write (R231) -/

def chunk12 (bs : List Byte) : List (List Byte) := (List.range (bs.length / 12)).map (fun i => (bs.drop (12 * i)).take 12)

def cellOf (bs : List Byte) : Cell := Cell.read (BitVec.ofNat 64 (leNat (bs.take 8))) (BitVec.ofNat 32 (leNat ((bs.drop 8).take 4)))

/-- The bytes that stand after adding the whole elements of `new` to `old`, by the type of Table 9-7; a TYPE 2 entry takes the
incoming index unchanged unless it is invalid already. -/
def accumBytes (ty : Nat) (old new : List Byte) : List Byte :=
  let w := if ty = 0 then 8 else if ty = 1 then 4 else 12
  let n := new.length / w
  let part (bs : List Byte) (i : Nat) := (bs.drop (w * i)).take w
  let sums := (List.range n).flatMap (fun i =>
    let a := part old i
    let b := part new i
    if ty = 0 then leBytes 8 (accBits (satSum (accInt (BitVec.ofNat 64 (leNat a))) (accInt (BitVec.ofNat 64 (leNat b)))).1).toNat
    else if ty = 1 then leBytes 4 (addR (BitVec.ofNat 32 (leNat a)) (BitVec.ofNat 32 (leNat b))).toNat
    else cellBytes (mergeCell (cellOf a) (cellOf b) 0))
  sums ++ old.drop (w * n)

/-- Accumulate bytes into a plank store; a poisoned target stays poisoned, poisoned data poisons it (R220, R231). -/
def accumulate (s : State) (off ty : Nat) (bs : List Byte) (poison : List Nat) : State :=
  let s := s.storeKeep off (accumBytes ty (s.bytes off bs.length) bs)
  poison.foldl (fun s i => s.addPoison (off + 64 * i) 64) s

/-! ## The destination's lines -/

/-- Element (r, k) of the source of a transposing transfer, and whether its line is poisoned. -/
def sourceElem (d : BitVec 512) (lines : List (Nat × Line)) (r k : Nat) : Nat × Bool :=
  let w := elemBits d
  let perRow := fget d Xd.COLS * w / 512
  let bitNo := k * w
  let l := kget (fun _ => (⟨[], false⟩ : Line)) lines (r * perRow + bitNo / 512)
  let b := bitNo % 512
  (bits (leNat ((l.data.drop (b / 8)).take 2)) (b % 8) w, l.poison)

/-- Row k of a transposed result: its bytes, and the flags of poisoned elements (R220, R225). -/
def resultRow (d : BitVec 512) (lines : List (Nat × Line)) (k : Nat) : List Byte × List Bool :=
  let es := (List.range (fget d Xd.ROWS)).map (fun r => sourceElem d lines r k)
  (packCodes (elemBits d) (es.map (·.1)), es.map (·.2))

/-- What a transfer writes: runs of bytes, each with the flags of its poisoned bytes. -/
def output (d : BitVec 512) (lines : List (Nat × Line)) : List (Nat × List Byte × List Bool) :=
  if transposes d then
    (dstRuns d).zipIdx.map (fun (r, k) =>
      let row := resultRow d lines k
      (r.1, row.1, (List.range row.1.length).map (fun i =>
        (List.range ((8 + elemBits d - 1) / elemBits d)).any (fun j => row.2.getD (i * 8 / elemBits d + j) false))))
  else
    let ls := (List.range (fget d Xd.LENGTH / 64)).map (fun i => kget (fun _ => (⟨[], false⟩ : Line)) lines i)
    [(fget d Xd.DST_OFS, ls.flatMap (·.data), ls.flatMap (fun l => List.replicate 64 l.poison))]

/-- Write a run into a plank store, poisoning the granules of poisoned bytes. -/
def putRun (s : State) (o : Nat × List Byte × List Bool) : State :=
  let s := s.store o.1 o.2.1
  ((List.range ((o.2.1.length + 7) / 8)).filter (fun i => ((o.2.2.drop (8 * i)).take 8).any (·))).foldl
    (fun s i => s.addPoison (o.1 + 8 * i) 1) s

/-! ## Packets of a transfer (R248) -/

/-- Cut [off, off + n) at every 4 KiB boundary. -/
def cut4k : Nat → Nat → Nat → List (Nat × Nat)
  | 0, _, _ => []
  | fuel + 1, off, n =>
    if n = 0 then [] else
    let k := min n (4096 - off % 4096)
    (off, k) :: cut4k fuel (off + k) (n - k)

/-- Header of a packet of a transfer. -/
def xferHeader (s : State) (x : Xfer) (ty dst ofs flits : Nat) (last : Bool) : BitVec 512 :=
  let h : BitVec 512 := 0
  let h := fset h Pk.TYPE ty
  let h := fset h Pk.DST_CHIP dst
  let h := fset h Pk.SRC_CHIP (chipNo s)
  let h := fset h Pk.DST_OFS ofs
  let h := fset h Pk.FLITS flits
  let h := fset h Pk.PARTITION (fget (s.strm x.stream) Strm.PARTITION)
  let h := fset h Pk.STREAM x.stream
  let h := fset h Pk.XFER_ID x.id
  fset h Pk.LAST (boolNat last)

/-- The packets that carry a run of a transfer's data to a peer: WRITE, ACCUM or CHUNK (R249, R291). LAST stands in the last
packet of the final run. -/
def dataPackets (s : State) (x : Xfer) (final : Bool) (o : Nat × List Byte × List Bool) : List Packet :=
  let d := x.desc
  let mode := fget d Xd.MODE
  let parts := cut4k (o.2.1.length / 64 + 1) o.1 o.2.1.length
  parts.zipIdx.map (fun (r, i) =>
    let at0 := r.1 - o.1
    let h := xferHeader s x (if mode = 3 then 2 else if mode = 4 then 7 else 1) (fget d Xd.DST_CHIP) r.1 (r.2 / 64)
      (final && decide (i + 1 = parts.length))
    let h := if mode = 3 then fset h Pk.ATYPE (fget d Xd.TYPE) else h
    let h := if mode = 4 then fset h Pk.CHUNK (fget d Xd.CHUNK) else h
    { hdr := h, payload := (o.2.1.drop at0).take r.2,
      poison := (List.range (r.2 / 64)).filter (fun j => o.2.2.getD (at0 + 64 * j) false), badTail := false })

/-- The parts in which a transfer fetches from a peer: RET_OFS, bytes, source offset. A row of a transpose on write is asked for
in its order, at the RET_OFS that it would have in a copy (assumption 18). -/
def readParts (d : BitVec 512) : List (Nat × Nat × Nat) :=
  let runs := srcRuns d
  let place (i : Nat) : Nat := ((runs.take i).map (·.2)).sum
  runs.zipIdx.flatMap (fun r =>
    let o := fget d Xd.DST_OFS + place r.2
    (cut4k (r.1.2 / 64 + 1) o r.1.2).map (fun k => (k.1, k.2, r.1.1 + (k.1 - o))))

/-- The READ_REQ packets of a transfer that fetches from a peer, cut at the boundaries of RET_OFS (R248). -/
def readPackets (s : State) (x : Xfer) : List Packet :=
  let parts := readParts x.desc
  parts.zipIdx.map (fun (r, i) =>
    let h := xferHeader s x 3 (fget x.desc Xd.SRC_CHIP) r.2.2 (r.2.1 / 64) (decide (i + 1 = parts.length))
    { hdr := fset h Pk.RET_OFS r.1, payload := [], poison := [], badTail := false })

/-! ## A transfer's course -/

/-- A transfer from a peer whose data are gathered whole before they are written: a transpose on write, and an
accumulate-on-write, whose entries packets cut (R226, R231). -/
def gathers (d : BitVec 512) : Bool := fget d Xd.MODE == 2 || fget d Xd.MODE == 3

def modXfer (s : State) (num : Nat) (f : Xfer → Xfer) : State :=
  { s with fab := { s.fab with xfers := s.fab.xfers.map (fun x => if x.num = num then f x else x) } }
def findXfer (s : State) (num : Nat) : Option Xfer := s.fab.xfers.find? (fun x => x.num == num)

/-- A transfer of plank p refused under R17 at its own module: the record, the flag of the step, and the trap of a core that
runs. -/
def xferRefuse (s : State) (p insn : Nat) (b : XferBad) : State :=
  let (s, sub) := match b with
    | .bank q b => (violation s 1 q b p (chipNo s) 0 (plankStep s p), 1)
    | .share m c => (violation s 3 (m * 64 + c) 0 p (chipNo s) 0 (plankStep s p), 3)
    | .chan n => (violation s 2 n 0 p (chipNo s) 0 (plankStep s p), 2)
  let s := ownTrapFlag s p
  if coreActive s p then coreTrap s p 26 sub insn 0 else s

/-- The writes of a transfer whose source is read: sector requests into the plank's queues, lines of a plank store at once. -/
def xferPuts (s : State) (x : Xfer) (out : List (Nat × List Byte × List Bool)) : State :=
  let d := x.desc
  let reqs := out.flatMap (fun o =>
    match regionOf o.1 o.2.1.length with
    | .hbm => (List.range (o.2.1.length / 64)).map (fun i =>
        (o.1 + 64 * i, (⟨(o.2.1.drop (64 * i)).take 64, ((o.2.2.drop (64 * i)).take 64).any (·)⟩ : Line)))
    | _ => [])
  let s := modXfer s x.num (fun x => { x with writing := true, left := reqs.length, lines := [] })
  let s := out.foldl (fun s o =>
    match regionOf o.1 o.2.1.length with
    | .store _ _ =>
      if fget d Xd.MODE = 3 then
        accumulate s o.1 (fget d Xd.TYPE) o.2.1 ((List.range (o.2.1.length / 64)).filter (fun j => o.2.2.getD (64 * j) false))
      else putRun s o
    | _ => s) s
  reqs.foldl (fun s r => enqueue s x.plank ⟨true, r.1, r.2, .xfer x.num, 0⟩) s

/-- The source of a transfer is read: write its destination, by packets at a peer. Here the destination must still be the
plank's (R17): else nothing is written, and the transfer is at its end without its signal (R206). -/
def xferWrite (s : State) (x : Xfer) : State :=
  let d := x.desc
  let out := output d x.lines
  if fget d Xd.DST_CHIP != chipNo s then
    let ps := out.zipIdx.flatMap (fun o => dataPackets s x (decide (o.2 + 1 = out.length)) o.1)
    let s := modXfer s x.num (fun x => { x with writing := true, left := ps.length, lines := [] })
    ps.foldl (fun s k => emit s x.die k) s
  else
    match runsBad s x.plank (dstRuns d) with
    | some b => xferRefuse (modXfer s x.num (fun x => { x with
        writing := true
        left := 0
        lines := []
        refused := true })) x.plank x.insn b
    | none => xferPuts s x out

/-- Read the source of a transfer: plank-store lines at once, HBM lines by requests in the plank's queues. `bad` is a line of
a plank store in which a word is found uncorrectable (R232). -/
def xferRead (s : State) (x : Xfer) (bad : Option Nat) : State :=
  let ls := (lines64 (srcRuns x.desc)).zipIdx
  let near := ls.filter (fun l => !isHbm l.1)
  let far := ls.filter (fun l => isHbm l.1)
  let got := near.map (fun l =>
    let x := lineAt s l.1
    (l.2, (⟨x.data, x.poison || bad == some l.2⟩ : Line)))
  let s := near.foldl (fun s l => countLine s l.1 (bad == some l.2)) s
  let s := modXfer s x.num (fun x => { x with lines := got, left := far.length })
  let s := far.foldl (fun s l => enqueue s x.plank ⟨false, l.1, ⟨[], false⟩, .xfer x.num, l.2⟩) s
  if far.isEmpty then xferWrite s { x with lines := got } else s

/-- A sector of a transfer is read: the last one starts its writes. -/
def xferLine (s : State) (num place : Nat) (l : Line) : State :=
  match findXfer s num with
  | none => s
  | some x =>
    let x := { x with lines := kput (fun _ => (⟨[], false⟩ : Line)) x.lines place l, left := x.left - 1 }
    let s := modXfer s num (fun _ => x)
    if x.left = 0 then xferWrite s x else s

/-- One outstanding sector write or packet of a transfer is accounted for. -/
def xferDone (s : State) (num n status : Nat) : State :=
  modXfer s num (fun x => { x with
    left := x.left - n
    status := if x.status = 0 && status != 0 && status != 2 then status else x.status })

/-- Transfers that a link die has outstanding over the fabric (R248). -/
def outstanding (s : State) (d : Nat) : Nat := (s.fab.xfers.filter (fun x => x.remote && x.die == d)).length

/-- A transfer number of link die d (R248): the lowest that no transfer of the die or of stream n has, as a response names its transfer
by XFER_ID and STREAM alone (Table 10-4, assumption 8); when those are all in use, the lowest that the die has free. -/
def freeXferId (s : State) (d n : Nat) : Nat :=
  let free (busy : Xfer → Bool) : Option Nat := (List.range 4096).find? (fun i => !s.fab.xfers.any (fun x => x.remote && busy x && x.id == i))
  ((free (fun x => x.die == d || x.stream == n)).or (free (fun x => x.die == d))).getD 0

/-- Trap cause and sub-code of a response status (Table 10-6). -/
def statusTrap : Nat → Option (Nat × Nat)
  | 1 => some (26, 4)
  | 3 => some (24, 6)
  | 4 => some (24, 8)
  | 5 => some (24, 7)
  | 6 => some (24, 9)
  | _ => none

/-- The ranges of a transfer that lie in this chip (R250). -/
def xferRuns (s : State) (d : BitVec 512) : List (Nat × Nat) :=
  (if fget d Xd.SRC_CHIP == chipNo s then srcRuns d else []) ++ (if fget d Xd.DST_CHIP == chipNo s then dstRuns d else [])

/-- A transfer that may start: it holds while its die has no free number, and else is recorded and sends its reads. -/
def xferTakes (s : State) (p : Nat) (insn : Nat) (d : BitVec 512) (chans : List Nat) (bad : Option Nat) : State :=
  let me := chipNo s
  let here := fget d Xd.SRC_CHIP == me
  let there := fget d Xd.DST_CHIP == me
  let die := plankLinkDie s p
  let far := !(here && there)
  if far && outstanding s die == 4096 then coreHold s p none else
  let x : Xfer := {
    num := s.fab.nextId
    plank := p
    stream := fget d Xd.STREAM
    desc := d
    insn := insn
    remote := far
    die := die
    id := if far then freeXferId s die (fget d Xd.STREAM) else 0
    writing := false
    left := 0
    lines := []
    status := 0
    chans := chans
    refused := false }
  let s := { s with fab := { s.fab with xfers := s.fab.xfers ++ [x], nextId := s.fab.nextId + 1 } }
  let s := coreNext (if fget d Xd.MODE = 4 then phaseBegun s p 4 else s) p
  if here then xferRead s x bad
  else
    let ps := readPackets s x
    let s := modXfer s x.num (fun x => { x with writing := !gathers d, left := ps.length })
    ps.foldl (fun s k => emit s die k) s

/-- The line of a transfer's source that SECDED finds uncorrectable (R232). -/
def badLine : CoreEcc → Option Nat
  | .line i => some i
  | _ => none

/-- The checks of a transfer's form and of what it uses, banks and slots before channels (assumption 109); then it starts. -/
def xferStart (s : State) (p insn : Nat) (d : BitVec 512) (ecc : CoreEcc) : State :=
  match xferForm s p d with
  | some sub => coreTrap s p 24 sub insn 0
  | none =>
    match runsBad s p (xferRuns s d) with
    | some b => xferRefuse s p insn b
    | none =>
      match xferChans s p d with
      | .inr n => chanRefused s p n insn
      | .inl cs => xferTakes s p insn d cs (badLine ecc)

/-- XFER (R205): check the descriptor and start the transfer. The descriptor lies in banks of the plank core or of transfers, as the plank
core's transfers read it (R17, Table 9-6). -/
def execXfer (p : PlankId) (rs1 : XReg) (ecc : CoreEcc) (s : State) : Out :=
  .next (
    let insn := rWord custom1 4 0 0 rs1 0
    if !coreReady s p then s else
    let a := (s.xreg p rs1).toNat
    if a % 64 ≠ 0 || 0x1000000 < a + 64 then coreTrap s p 24 2 insn 0
    else
      match storeBad s p [ownCore, ownTransfer] (a, 64) with
      | some b => coreTrap (bankRefused s p b) p 26 1 insn 0
      | none =>
        let n := storeErrs s p ecc [(a, 64)]
        let s := eccCounts s p ecc n
        if n ≠ 0 then coreTrap s p 27 3 insn 0
        else xferStart (applyHandovers s) p insn (s.recAt (storeBase p + a) 512) ecc)

/-- A transfer ends: its signal is sent, but not after a write that was refused here, whose bytes can never be read (R17, R206). A status
that is an error traps the core. -/
def xferEnds (s : State) (t : Xfer) : State :=
  let d := t.desc
  let s := { s with fab := { s.fab with xfers := s.fab.xfers.filter (fun y => y.num != t.num) } }
  let src := if t.remote then 0xA0 + t.die else t.plank
  let s := if fget d Xd.DONE_EN = 1 && !t.refused then
      signalChip s t.die (fget d Xd.DONE_CHIP) t.stream ⟨fget d Xd.DONE_OBJ, false, 1, chipNo s, src, plankStep s t.plank⟩
    else s
  let s := applyHandovers s
  match statusTrap t.status with
  | some (c, sub) => if coreActive s t.plank then coreTrap s t.plank c sub t.insn 0 else s
  | none => s

/-- XFER_COMPLETE (R206, R250): every response is in and the last byte can be read; DONE_OBJ is signalled, then a status
that traps takes its trap (Table 10-6). -/
def execXferComplete (x : Nat) (s : State) : Out :=
  .next (
    match findXfer s x with
    | none => s
    | some t =>
      if !t.writing || t.left != 0 then s else
      xferEnds s t)

end Sys2Proof.Machine
end

