-- ==== Sys2Proof/Machine/Vector.lean ====
section
/-!
DEFINITION. The vector engine's registers, its ports, the checks at issue and the traps at execution, and the decoding and
conversion of whole streams (R185 to R201, R136, R57, R58).
-/
namespace Sys2Proof.Machine

/-! ## Registers, the mask and ports -/

def vreg (s : State) (p r : Nat) : List F32 := kgets noF32 (s.plank p).v (r * 512) 512

/-- Write 512 lanes to VD; with PRED, lanes whose VM bit is 0 keep their value (R189). -/
def setVreg (s : State) (p : Nat) (w : Word64) (outs : List F32) : State :=
  let vd := fget w Vec.VD
  let old := vreg s p vd
  let vm := (s.plank p).vm
  let new := (old.zip outs).zipIdx.map (fun e => if fget w Vec.PRED = 1 && !vm.getLsbD e.2 then e.1.1 else e.1.2)
  s.modPlank p (fun k => { k with v := kputs noF32 k.v (vd * 512) new })

/-- Lanes of VD that an error leaves as an undefined mix (R190): free values, where the instruction writes. -/
def mixVreg (s : State) (p : Nat) (w : Word64) : State :=
  (setVreg s p w ((List.range 512).map (Config.mixLane s.draws))).drew

/-- Bits of VM that an error leaves as an undefined mix (R190): free values. -/
def mixMask (s : State) (p : Nat) : State :=
  (s.modPlank p (fun k => { k with
    vm := BitVec.ofNat 512 (leNat ((List.range 64).map (Config.mixByte s.draws))) })).drew

/-- Bytes of a plank-store destination that an error leaves as an undefined mix (R190): free values, line by line in the banks that the
owner codes hold; any other bank has refused the write (R17). -/
def mixStore (s : State) (p : Nat) (codes : List Nat) (r : Nat × Nat) : State :=
  ((List.range ((r.1 + r.2 + 63) / 64 - r.1 / 64)).foldl (fun t i =>
    let lo := max r.1 (64 * (r.1 / 64 + i))
    let n := min (r.1 + r.2) (64 * (r.1 / 64 + i) + 64) - lo
    if (storeBad s p codes (lo, n)).isSome then t
    else t.store (storeBase p + lo) ((List.range n).map (fun k => Config.mixByte s.draws (lo - r.1 + k)))) s).drew

/-- A trap that a vector instruction causes when it executes (R190): bits [31:0] of its word in TRAP_INFO. A core that does
not run takes none. -/
def vecTrap (s : State) (p : Nat) (w : Word64) (cause sub : Nat) : State :=
  if coreActive s p then coreTrap s p cause sub (w.toNat % 2 ^ 32) 0 else s

/-- An opcode of the stream form (Table 8-3). -/
def isStream (o : Nat) : Bool :=
  (0x40 ≤ o && o ≤ 0x43) || o = 0x48 || o = 0x49 || (0x70 ≤ o && o ≤ 0x74) || (0x78 ≤ o && o ≤ 0x7C) || (0x7E ≤ o && o ≤ 0x80)
def isLoadStore (o : Nat) : Bool := 0x20 ≤ o && o ≤ 0x23
def isRegister (o : Nat) : Bool :=
  o ≤ 0x0C || (0x10 ≤ o && o ≤ 0x14) || o = 0x30 || o = 0x50 || o = 0x51 || o = 0x60 || o = 0x61 || o = 0x68

/-- The destination of a port-2 instruction after an uncorrectable read of a vector register (R190): the mask for cmp, the bytes
of the plank store that a store owns, VD for the others. -/
def mixDest (s : State) (p : Nat) (w : Word64) : State :=
  let o := fget w Vec.OPC
  let r := (fget w Vec.ADDR * 64, if o = 0x22 then 2048 else 1024)
  if o = 0x0B then mixMask s p
  else if isLoadStore o then mixStore s p [ownCore] r
  else mixVreg s p w

/-- Opcodes of port 2 that read a vector register. -/
def readsVreg (o : Nat) : Bool := !(o == 0 || o == 0x20 || o == 0x21 || o == 0x50 || o == 0x68)

/-- Run the instruction at the head of port 2 when its opcode is one of those given (R187). An uncorrectable vector register that it
reads traps (R190, Table 8-11). -/
def onPort2 (s : State) (p : Nat) (ops : List Nat) (ecc : CoreEcc) (act : State → VecSlot → State) : State :=
  match (s.plank p).port2 with
  | e :: es =>
    if !ops.contains (fget e.word Vec.OPC) then s
    else
      let s := s.modPlank p (fun k => { k with port2 := es })
      if ecc = .vreg && readsVreg (fget e.word Vec.OPC) then vecTrap (mixDest s p e.word) p e.word 27 4
      else act s e
  | [] => s

/-- Run the stream instruction at the head of port 3, once every register-form instruction issued before it is done (R188). -/
def onPort3 (s : State) (p : Nat) (ops : List Nat) (act : State → Word64 → State) : State :=
  match (s.plank p).port3 with
  | e :: es =>
    if ops.contains (fget e.word Vec.OPC) && (s.plank p).port2.all (fun x => decide (e.seq < x.seq)) then
      act (s.modPlank p (fun k => { k with port3 := es })) e.word
    else s
  | [] => s

/-! ## Stream descriptors and the data they name (R192) -/

/-- A stream instruction with its descriptor: `a i` is the byte offset of A_i. -/
structure StreamOp where
  w : Word64
  d : BitVec 512
deriving DecidableEq, Repr

namespace StreamOp
def opc (o : StreamOp) : Nat := fget o.w Vec.OPC
def fd (o : StreamOp) : Nat := fget o.w Vec.FMT_D
def fs (o : StreamOp) : Nat := fget o.w Vec.FMT_S
def a (o : StreamOp) (i : Nat) : Nat := fget o.d (SDesc.A i) * 64
def ch (o : StreamOp) : Nat := fget o.d SDesc.CHANNELS
def len (o : StreamOp) : Nat := fget o.d SDesc.CH_LEN
def tidS (o : StreamOp) : Nat := fget o.d SDesc.TID_S
def tidD (o : StreamOp) : Nat := fget o.d SDesc.TID_D
def pitch (o : StreamOp) : Nat := fget o.d SDesc.PITCH
/-- Logical index of element e of channel j (R192). -/
def index (o : StreamOp) (j e : Nat) : Nat := fget o.d SDesc.ORIGIN + j * fget o.d SDesc.CH_STRIDE + e
end StreamOp

def streamDescOff (w : Word64) : Nat := fget w Vec.DESC * 64
def streamOp (s : State) (p : Nat) (w : Word64) : StreamOp := ⟨w, s.recAt (storeBase p + streamDescOff w) 512⟩

def blocksOf (len : Nat) : Nat := (len + 15) / 16
def linesOf (len : Nat) : Nat := (blocksOf len + 63) / 64
def up64 (n : Nat) : Nat := (n + 63) / 64 * 64

/-- Words of an SW8 tensor, from the format it was split from (R33); 1 where its record names none. -/
def tensorWords (s : State) (p tid : Nat) : Nat :=
  match splitFmt (tensorRec s p tid) (ladderRec s p tid) with
  | some f => splitWords f
  | none => 1
def tensorSplit (s : State) (p tid : Nat) : Option Fmt := splitFmt (tensorRec s p tid) (ladderRec s p tid)

/-- Bytes of the codes of `ch` channels of `len` elements. -/
def codeBytes (f : Fmt) (words ch len : Nat) : Nat :=
  if f == .sw8 then (words - 1) * planeSize ch len + ch * blocksOf len * 16
  else if f.blocked then ch * blocksOf len * f.blockBytes
  else ch * len * (f.width / 8)
def shiftBytes (ch len : Nat) : Nat := ch * linesOf len * 32

/-- A range at address field i, of n bytes; an address 0 of an optional array names none. -/
def optRange (o : StreamOp) (i n : Nat) : List (Nat × Nat) := if o.a i = 0 then [] else [(o.a i, n)]

/-- Sedge header that A4 names. -/
def sedgeHead (s : State) (p : Nat) (o : StreamOp) : BitVec 512 := s.recAt (storeBase p + o.a 4) 512
def sedgeList (s : State) (p : Nat) (o : StreamOp) (ch segs : Nat) : Nat × Nat :=
  let h := sedgeHead s p o
  (64 * fget h Sedge.LIST, ((ch - 1) * fget h Sedge.SEG_STRIDE + segs) * 16)

def fmtOf (c : Nat) : Fmt := (Fmt.ofCode c).getD .fp32

/-- The source of a re-block convert carries an outlier list, whose header A4 names (R112, R116, R136). -/
def readsList (s : State) (p : Nat) (o : StreamOp) : Bool :=
  o.opc == 0x41 && hasOutliers (ladderRec s p o.tidS) && (o.fs == 0 || o.fs == 1)

/-- The target of a convert carries an outlier list, whose header A4 names (R112, R116, R193). -/
def writesList (s : State) (p : Nat) (o : StreamOp) : Bool :=
  o.opc == 0x40 && hasOutliers (ladderRec s p o.tidD) && (o.fd == 0 || o.fd == 1)

def segsOf (len : Nat) : Nat := (len + 511) / 512

/-- Plank-store ranges that a stream instruction reads, as its fields give them (Table 8-6). -/
def streamReads (s : State) (p : Nat) (o : StreamOp) : List (Nat × Nat) :=
  let f := fmtOf o.fs
  let blk (f : Fmt) (tid : Nat) : List (Nat × Nat) :=
    (o.a 0, codeBytes f (tensorWords s p tid) o.ch o.len) :: (if f.blocked then [(o.a 1, shiftBytes o.ch o.len)] else [])
  match o.opc with
  | 0x40 => blk f o.tidS ++ optRange o 2 (4 * o.ch) ++ optRange o 3 (2 * o.ch) ++ (if writesList s p o then [(o.a 4, 64)] else [])
  | 0x41 =>
    [(o.a 0, (tensorWords s p o.tidS - 1) * planeSize o.ch o.len + (o.ch - 1) * o.pitch + (o.len * f.width + 7) / 8),
     (o.a 1, shiftBytes o.len o.ch)] ++ optRange o 2 (4 * o.len) ++ optRange o 3 (2 * o.len) ++ (if readsList s p o then [(o.a 4, 64)] else [])
  | 0x42 => [(o.a 0, o.ch * ((o.len + 31) / 32) * 32 * f.width / 8), (o.a 1, o.ch * ((o.len + 31) / 32))]
  | 0x43 => [(o.a 0, o.ch * o.len * (f.width / 8))]
  | 0x48 => blk f o.tidS ++ optRange o 2 (4 * o.ch)
  | 0x49 => [(o.a 0, 64 * o.ch), (o.a 5, 64 * o.ch)]
  | 0x7E =>
    blk ((heldFmt (tensorRec s p o.tidS) (ladderRec s p o.tidS)).getD .fp4) o.tidS ++ optRange o 2 (4 * o.ch)
  | 0x7F => [(o.a 0, 32 * o.ch)]
  | 0x80 =>
    [(o.a 0, 2 * o.len), (o.a 1, o.len), (o.a 2, 4 * blocksOf o.len), (o.a 3, o.len), (o.a 4, 4 * blocksOf o.len),
     (o.a 5, o.len), (o.a 6, shiftBytes 1 o.len), (o.a 7, 64)]
  | _ => [(o.a 0, o.ch * o.len * (f.width / 8))]

/-- Ranges that a stream instruction writes. -/
def streamWrites (s : State) (p : Nat) (o : StreamOp) : List (Nat × Nat) :=
  let f := fmtOf o.fd
  let mode := fget (tensorRec s p o.tidD) Ten.CSMODE
  let scales : List (Nat × Nat) :=
    if mode = 2 then [(o.a 7, up64 (4 * o.ch) + 2 * o.ch)] else if mode = 1 then [(o.a 7, 4 * o.ch)] else optRange o 7 (4 * o.ch)
  let blk : List (Nat × Nat) :=
    (o.a 5, codeBytes f (tensorWords s p o.tidD) o.ch o.len) :: (if f.blocked then (o.a 6, shiftBytes o.ch o.len) :: scales else [])
  match o.opc with
  | 0x40 => blk
  | 0x41 => blk
  | 0x42 => [(o.a 5, codeBytes f 1 o.ch o.len), (o.a 6, shiftBytes o.ch o.len)] ++ optRange o 7 (4 * o.ch)
  | 0x43 => [(o.a 5, o.ch * ((o.len + 31) / 32) * 32 * f.width / 8), (o.a 6, o.ch * ((o.len + 31) / 32))]
  | 0x48 => [(o.a 5, 4 * o.ch), (o.a 6, 4)]
  | 0x49 => [(o.a 5, 64 * o.ch)]
  | 0x7E => [(o.a 5, 4 * o.ch)]
  | 0x7F => []
  | 0x80 => [(o.a 0, 2 * o.len), (o.a 1, o.len), (o.a 2, 4 * blocksOf o.len), (o.a 3, o.len), (o.a 4, 4 * blocksOf o.len)]
  | _ => [(o.a 5, o.ch * o.len * 4)]

/-! ## Checks at issue (R189 to R192, R71, R136, R195, R198; causes of Table 8-11) -/

/-- Address fields that an opcode uses (Table 8-6); the sedge header only where the target carries an outlier list. -/
def usedAddrs (s : State) (p : Nat) (o : StreamOp) : List Nat :=
  let plainD := !(fmtOf o.fd).blocked
  match o.opc with
  | 0x40 =>
    let f := fmtOf o.fs
    [0] ++ (if f.blocked then [1, 2, 3] else []) ++ (if plainD then [5] else [5, 6, 7]) ++
    (if writesList s p o then [4] else [])
  | 0x41 => [0, 1, 2, 3, 5, 6, 7] ++ (if readsList s p o then [4] else [])
  | 0x42 => [0, 1, 5, 6, 7]
  | 0x43 => [0, 5, 6]
  | 0x48 => [0, 1, 2, 5, 6]
  | 0x49 => [0, 5]
  | 0x7E => [0, 1, 2, 5]
  | 0x7F => [0]
  | 0x80 => [0, 1, 2, 3, 4, 5, 6, 7]
  | _ => [0, 5]

/-- Format of a transposing re-block pair (R136): source and target alike, the source held so, and one split format. -/
def rbPairOk (s : State) (p : Nat) (o : StreamOp) : Bool :=
  o.fs == o.fd && (o.fs == 0 || o.fs == 1 || o.fs == 2 || o.fs == 3 || o.fs == 8) &&
  heldFmt (tensorRec s p o.tidS) (ladderRec s p o.tidS) == Fmt.ofCode o.fs &&
  (o.fs != 8 || (tensorSplit s p o.tidS == tensorSplit s p o.tidD && (tensorSplit s p o.tidS).isSome))

/-- Formats and rounding that an opcode allows (R52, R33, R57, R58, R198): only converts round stochastically (R191). An MX import names
its format in FMT_S and FMT_D alike, and a split convert has in FMT_S the split format of its destination's record: R57 and R33 do not
say which field counts, and other words are refused (assumption 121). -/
def streamFmtOk (s : State) (p : Nat) (o : StreamOp) : Bool :=
  let rnd := decide (fget o.w Vec.RND ≤ (if 0x40 ≤ o.opc && o.opc ≤ 0x43 then 4 else 3)) && decide (fget o.w Vec.SRB ≤ 12)
  let split (t : Nat) : Bool := (tensorSplit s p t).isSome
  let mx (f : Nat) : Bool := f == 0 || f == 2 || f == 3 || f == 4
  rnd && (match o.opc with
  | 0x40 => decide (o.fs ≤ 8) && decide (o.fd ≤ 8) && (o.fs != 8 || split o.tidS) &&
      (o.fd != 8 || tensorSplit s p o.tidD == Fmt.ofCode o.fs)
  | 0x41 => (o.fs != 8 || split o.tidS) && (o.fd != 8 || split o.tidD)
  | 0x42 => mx o.fd && o.fs == o.fd
  | 0x43 => mx o.fd && (o.fs == 5 || o.fs == 7)
  | 0x48 => decide (o.fs ≤ 8) && (o.fs != 8 || split o.tidS)
  | 0x49 => true
  | 0x7E => true
  | 0x7F => true
  | 0x80 => true
  | _ => (o.fs == 5 || o.fs == 7) && o.fd == 7)

/-- Refusal of a stream instruction at issue: 0 or the sub-code of cause 25. A convert into a plain format and cvt.m measure no
channel, whatever CSMODE says, and are not refused for it (assumption 108). -/
def streamRefusal (s : State) (p : Nat) (w : Word64) : Nat :=
  let o := streamOp s p w
  let n := 8 * 2 ^ (o.opc % 8 + 1)
  if fget w Vec.PRED ≠ 0 || bits w.toNat 26 2 ≠ 0 then 1
  else if 0x1000000 < streamDescOff w + 64 then 3
  else if !streamFmtOk s p o then 2
  else if fget o.d SDesc.RES ≠ 0 || o.ch = 0 || o.len = 0 || (o.opc ≠ 0x41 && o.pitch ≠ 0)
    || (o.opc ≠ 0x80 && (fget o.d SDesc.TID_M1 ≠ 0 || fget o.d SDesc.TID_M2 ≠ 0))
    || (List.range 8).any (fun i => o.a i != 0 && !(usedAddrs s p o).contains i) then 3
  else if o.opc = 0x41 && (o.pitch = 0 || o.pitch % 64 ≠ 0 || o.pitch < (o.len * (fmtOf o.fs).width + 7) / 8) then 3
  else if o.opc = 0x7F && 255 < o.ch then 3
  else if o.opc = 0x80 && (o.ch ≠ 1 || 4096 < o.len) then 3
  else if (streamReads s p o ++ streamWrites s p o).any (fun r => decide (0x1000000 < r.1 + r.2)) then 3
  else if (o.opc = 0x40 || o.opc = 0x41) && (fmtOf o.fd).blocked && fget (tensorRec s p o.tidD) Ten.CSMODE ≠ 0 &&
      (o.len ≠ fget o.d SDesc.CH_STRIDE || fget o.d SDesc.ORIGIN % o.len ≠ 0) then 5
  else if 0x70 ≤ o.opc && o.opc ≤ 0x7C && o.len % n ≠ 0 then 6
  else if o.opc = 0x41 && !rbPairOk s p o then 7
  else 0

/-- Plank-store offset of table image k (R194). -/
def tableOff (s : State) (p k : Nat) : Nat := (s.rget (Reg.FTAB_BASE p) + (k - 1) * 65) * 64

/-- A table image may not be loaded (R195): a reserved value, or SCALE not positive and finite. -/
def tableBad (s : State) (p k : Nat) : Bool :=
  let h := s.recAt (storeBase p + tableOff s p k) 512
  let scale : F32 := BitVec.ofNat 32 (fld h 63 32)
  k == 0 || decide (0x1000000 < tableOff s p k + 4160) || fld h 65 64 == 3 || fld h 67 66 == 3 || fld h 95 68 != 0
    || fld h 511 160 != 0 || (match f32 scale with
      | .fin false m => m.isZero
      | _ => true)

/-- Refusal of a vector instruction at issue: 0 or the sub-code of cause 25 (R190). -/
def vecRefusal (s : State) (p : Nat) (w : Word64) : Nat :=
  let o := fget w Vec.OPC
  if isStream o then streamRefusal s p w
  else if isLoadStore o then
    (if bits w.toNat 13 15 ≠ 0 || bits w.toNat 46 18 ≠ 0 then 1
     else if 0x1000000 < fget w Vec.ADDR * 64 + (if o % 2 = 0 then 2048 else 1024) then 3 else 0)
  else if !isRegister o then 1
  else if o = 0x30 then
    (if fget w Vec.CVT_RES ≠ 0 then 1
     else if 5 ≤ fget w Vec.FMT_D && fget w Vec.FMT_D ≤ 7 && 5 ≤ fget w Vec.FMT_S && fget w Vec.FMT_S ≤ 7
       && fget w Vec.RND ≤ 4 && fget w Vec.SRB ≤ 12 then 0 else 2)
  else if 3 < fget w Vec.RND then 2
  else if (o = 0x0B || o = 0x68) && 3 < fget w Vec.FMT_D then 1
  else if o = 0x50 && tableBad s p (bits (fget w Vec.IMM) 2 6) then 8
  else 0

/-- Put an instruction into its port's queue. -/
def vecEnqueue (s : State) (p : Nat) (w : Word64) : State :=
  s.modPlank p (fun k =>
    let e : VecSlot := ⟨k.vecSeq, w, s.word (Reg.XI_XI p).off⟩
    if isStream (fget w Vec.OPC) then { k with port3 := k.port3 ++ [e], vecSeq := k.vecSeq + 1 }
    else { k with port2 := k.port2 ++ [e], vecSeq := k.vecSeq + 1 })

/-- Port 3 takes no further stream instruction (R187). -/
def portFull (s : State) (p : Nat) (w : Word64) : Bool :=
  isStream (fget w Vec.OPC) && decide (8 ≤ (s.plank p).port3.length)

/-! ## Execution of a stream instruction -/

/-- An uncorrectable error destroys the buffer of an update block (R177): the update stream becomes Failed, which sends its EVENT. -/
def updateLost (s : State) (p : Nat) : State :=
  match plankJob s p, (s.plank p).stream with
  | some j, some n => if j.phase = 6 then failStream s n.val 0xFF04 else s
  | _, _ => s

/-- The guards of R190 and R232 for a stream instruction: banks of the vector engine, and no uncorrectable read. -/
def streamGuard (s : State) (p : Nat) (w : Word64) (ecc : CoreEcc) (reads writes : List (Nat × Nat)) (act : State → State) : State :=
  let mix (s : State) : State := writes.foldl (fun s r => mixStore s p [ownVector] r) s
  match firstBad s p [ownVector] ((streamDescOff w, 64) :: reads ++ writes) with
  | some b => vecTrap (mix (bankRefused s p b)) p w 26 1
  | none =>
    let n := storeErrs s p ecc ((streamDescOff w, 64) :: reads)
    let s := eccCounts s p ecc n
    if n = 0 then act s
    else
      let s := vecTrap (mix s) p w 27 3
      if fget w Vec.OPC = 0x80 then updateLost s p else s

/-- The value of one element from its planes, divided by 2^(E − s) (R28, R34, R59). -/
def elemValue (f : Fmt) (planes : List Nat) : Val :=
  if f == .sw8 then
    (match sw8Digit (planes.headD 0) 0 with
     | .fin n m =>
       (planes.drop 1).zipIdx.foldl (fun v e =>
         match sw8Digit e.1 (e.2 + 1) with
         | .fin n2 d => Val.add .rne v (.fin n2 (d.scale (-4 * ((e.2 : Int) + 1))))
         | w => w) (.fin n m)
     | v => v)
  else match f.decode (planes.headD 0) with
    | .fin n m => .fin n (m.scale (-f.off))
    | v => v

/-- Scale an element's value to 2^(E − s) and apply its channel's scale and zero point, where it has one (R59): without one a zero
keeps its sign (R46). -/
def elemReal (v : Val) (e : Int) (sh : Nat) (c : Val) (z : Option Val) : Val :=
  let v := match v with
    | .fin n m => Val.fin n (m.scale (e - sh))
    | v => v
  match z with
  | some z => Val.add .rne (Val.mul c v) z
  | none => Val.mul c v

/-- Scale and zero point of source channel j from the arrays at A2 and A3; 1.0 and no zero point where none is named (R61). -/
def srcScale (s : State) (p : Nat) (o : StreamOp) (j : Nat) : Val × Option Val :=
  (if o.a 2 = 0 then Val.dy false 1 0 else f32 (f32At s p (o.a 2) j),
   if o.a 3 = 0 then none else some (f32 (bf16At s p (o.a 3) j)))

/-- The elements of channel j of a stream's source, exactly (R50 step 1). -/
def srcChannel (s : State) (p : Nat) (o : StreamOp) (f : Fmt) (scaled : Bool) (j : Nat) : List Val :=
  if !f.blocked then
    (List.range o.len).map (fun i =>
      f.decode (s.le (storeBase p + o.a 0 + (j * o.len + i) * (f.width / 8)) (f.width / 8)))
  else
    let nb := blocksOf o.len
    let words := if f == .sw8 then tensorWords s p o.tidS else 1
    let e := tensorE (tensorRec s p o.tidS)
    let cz := if scaled then srcScale s p o j else (Val.dy false 1 0, none)
    (List.range o.len).map (fun i =>
      let planes := (List.range words).map (fun w =>
        codeAt s p f (o.a 0 + w * planeSize o.ch o.len + (j * nb + i / 16) * f.blockBytes) (i % 16))
      elemReal (elemValue f planes) e (shiftAt s p (o.a 1 + j * linesOf o.len * 32) (i / 16)) cz.1 cz.2)

/-- A valid entry for an element in a source's outlier list (R116). -/
def outlierAt (s : State) (p : Nat) (o : StreamOp) (j i : Nat) : Option Nat :=
  if !readsList s p o then none else
  let h := sedgeHead s p o
  let base := storeBase p + 64 * fget h Sedge.LIST + (j * fget h Sedge.SEG_STRIDE + i / 512) * 16
  ((List.range 4).map (fun q => s.le (base + 4 * q) 4)).findSome? (fun e =>
    if bit e 15 && bits e 0 9 == i % 512 then some (e / 65536) else none)

/-- Row j of the transposed source of a re-block convert (R136 step 1): element i belongs to source channel i, at K
position j. -/
def rbRow (s : State) (p : Nat) (o : StreamOp) (f : Fmt) (j : Nat) : List Val :=
  let words := if f == .sw8 then tensorWords s p o.tidS else 1
  let e := tensorE (tensorRec s p o.tidS)
  (List.range o.len).map (fun i =>
    let cz := srcScale s p o i
    match outlierAt s p o i j with
    | some w => elemReal (f32 (bf16F w)) 0 0 cz.1 cz.2
    | none =>
      let planes := (List.range words).map (fun w => codeAt s p f (o.a 0 + w * planeSize o.ch o.len + j * o.pitch) i)
      elemReal (elemValue f planes) e (shiftAt s p (o.a 1 + i * linesOf o.ch * 32) (j / 16)) cz.1 cz.2)

/-- What a stream writes for one channel: codes by plane, shifts, scale and zero point, list entries, counts. -/
structure ChanOut where
  codes : List Nat
  shifts : List Nat
  c : F32
  z : Nat
  entries : List Nat
  tally : Tally
deriving DecidableEq, Repr

/-- Mark the elements of a channel that belong to masked sequences (R168). -/
def elemPart (s : State) (p tid idx : Nat) : Part := if tokenMasked s p tid idx then .pad else .plain

/-- The flat-channel count of one channel. -/
def flatTally (b : Bool) : Tally := { Tally.zero with flat := if b then 1 else 0 }

/-- Convert one channel into the target of a stream convert (R50, R63, R68 to R75, R112 to R116). -/
def convChannel (s : State) (p : Nat) (o : StreamOp) (outl : Bool) (j : Nat) (xs : List Val) : ChanOut :=
  let f := fmtOf o.fd
  let ten := tensorRec s p o.tidD
  let e := tensorE ten
  let strict := fget o.w Vec.STRICT == 1
  let rnd (i : Nat) := elemRnd (fget o.w Vec.RND) (fget o.w Vec.SRB) (fget o.w Vec.DRAW) (manField s p Man.SEED) (plankStep s p)
    o.tidD (o.index j i)
  if !f.blocked then
    let k : CvtCtx := ⟨f, 1, 0, e, strict, Val.dy false 1 0, .zero⟩
    let rs := xs.zipIdx.map (fun x =>
      if elemPart s p o.tidD (o.index j x.2) == .pad then (0, padTally)
      else let r := plainElem k (rnd x.2) x.1; (r.code, elemTally x.1 r))
    ⟨rs.map (·.1), [], one32, 0, [], rs.foldl (fun t r => t.add r.2) Tally.zero⟩
  else
    let split := tensorSplit s p o.tidD
    let words := if f == .sw8 then tensorWords s p o.tidD else 1
    let sig := match split with
      | some g => splitSig g
      | none => 24
    let mode := fget ten Ten.CSMODE
    let live := xs.zipIdx.map (fun x => (x.1, elemPart s p o.tidD (o.index j x.2)))
    let cs := chanScale f e mode ((live.filter (fun x => x.2 != .pad)).map (·.1))
    let k : CvtCtx := ⟨f, words, sig, e, strict, f32 cs.c, Fmt.bf16.decode cs.z⟩
    let els : List Elem := live.zipIdx.map (fun x => ⟨x.1.1, scaledIn k x.1.1, rnd x.2, x.1.2⟩)
    match cs.flat with
    | some const =>
      let bs := (chunks 16 els).map (flatBlock k mode const)
      ⟨bs.flatMap (·.codes), bs.map (·.shift), cs.c, cs.z, List.replicate (4 * segsOf o.len) 0,
       bs.foldl (fun t b => t.add b.tally) (flatTally true)⟩
    | none =>
      let thr : F32 := BitVec.ofNat 32 (fget (ladderRec s p o.tidD) Lad.SEDGE_THR)
      let segs := (chunks 512 els).map (fun g => if outl then markOutliers thr g else g)
      let bs := (segs.flatMap id |> chunks 16).map (convBlock k)
      ⟨bs.flatMap (·.codes), bs.map (·.shift), cs.c, cs.z, segs.flatMap outlierEntries,
       bs.foldl (fun t b => t.add b.tally) Tally.zero⟩

/-- Write the codes, the shift lines and, where they are written, the scale and zero point of channel j of a blocked tensor at module
offsets (R26, R33, R61). In HBM whole sectors are written (R213, R235). -/
def putChannel (s : State) (f : Fmt) (words ch len mode : Nat) (named : Bool) (codes shifts scales j : Nat) (r : ChanOut) : State :=
  let nb := blocksOf len
  let s := (List.range words).foldl (fun s w =>
    hbmStore s (codes + w * planeSize ch len + j * nb * f.blockBytes)
      ((packCodes f.width ((r.codes.map (fun c => if f == .sw8 then bits c (8 * w) 8 else c))
        ++ List.replicate (16 * nb - r.codes.length) 0)))) s
  let s := hbmStore s (shifts + j * linesOf len * 32)
    (packCodes 4 (r.shifts ++ List.replicate (64 * linesOf len - r.shifts.length) 0))
  let s := if mode ≠ 0 || named then hbmStore s (scales + 4 * j) (leBytes 4 r.c.toNat) else s
  if mode = 2 then hbmStore s (scales + up64 (4 * ch) + 2 * j) (leBytes 2 r.z) else s

/-- Write a channel's results (R26, R33, R61, R116). -/
def writeChannel (s : State) (p : Nat) (o : StreamOp) (outl : Bool) (j : Nat) (r : ChanOut) : State :=
  let f := fmtOf o.fd
  if !f.blocked then
    s.store (storeBase p + o.a 5 + j * o.len * (f.width / 8)) (packCodes f.width r.codes)
  else
    let words := if f == .sw8 then tensorWords s p o.tidD else 1
    let s := putChannel s f words o.ch o.len (fget (tensorRec s p o.tidD) Ten.CSMODE) (o.a 7 ≠ 0) (storeBase p + o.a 5)
      (storeBase p + o.a 6) (storeBase p + o.a 7) j r
    if outl then
      let h := sedgeHead s p o
      s.store (storeBase p + 64 * fget h Sedge.LIST + j * fget h Sedge.SEG_STRIDE * 16) (r.entries.flatMap (leBytes 4))
    else s

/-- A signalling NaN among the first n scales and zero points of a source (R48). -/
def scaleSnan (s : State) (p : Nat) (o : StreamOp) (n : Nat) : Bool :=
  (List.range n).any (fun j => (o.a 2 != 0 && isSnan32 (f32At s p (o.a 2) j)) || (o.a 3 != 0 && isSnan32 (bf16At s p (o.a 3) j)))

/-- A signalling NaN in the source of a stream (R48): plain codes, or E5M2 elements, scales or zero points of a blocked source. -/
def srcSnan (s : State) (p : Nat) (o : StreamOp) (f : Fmt) : Bool :=
  if f.blocked then
    scaleSnan s p o o.ch || f == .e5m2 && (List.range o.ch).any (fun j => (List.range o.len).any (fun i =>
      snanCode f (codeAt s p f (o.a 0 + (j * blocksOf o.len + i / 16) * f.blockBytes) (i % 16))))
  else (List.range (o.ch * o.len)).any (fun i =>
    snanCode f (s.le (storeBase p + o.a 0 + i * (f.width / 8)) (f.width / 8)))

/-- A signalling NaN in the transposed source of a re-block convert: its elements, its outlier entries, its scales or zero points. -/
def rbSnan (s : State) (p : Nat) (o : StreamOp) (f : Fmt) : Bool :=
  scaleSnan s p o o.len ||
  (readsList s p o && (List.range o.ch).any (fun j => (List.range o.len).any (fun i => match outlierAt s p o i j with
    | some w => isSnan32 (bf16F w)
    | none => false))) ||
  f == .e5m2 && (List.range o.ch).any (fun j => (List.range o.len).any (fun i => snanCode f (codeAt s p f (o.a 0 + j * o.pitch) i)))

/-- A stream convert, over the channels that `src` delivers (R193, R136, R76). -/
def streamConvert (s : State) (p : Nat) (o : StreamOp) (outl : Bool) (src : Nat → List Val) : State :=
  let outs := (List.range o.ch).map (fun j => convChannel s p o outl j (src j))
  let t := outs.foldl (fun t r => t.add r.tally) Tally.zero
  let s := outs.zipIdx.foldl (fun s r => writeChannel s p o outl r.2 r.1) s
  addStats s p o.tidD t.record

/-- Lane cycles of a convert: one per 512 elements for each read of its source (R193). -/
def readsOfSource (s : State) (p : Nat) (o : StreamOp) : Nat :=
  if (fmtOf o.fd).blocked && fget (tensorRec s p o.tidD) Ten.CSMODE ≠ 0 then 2 else 1
def per512 (o : StreamOp) : Nat := (o.ch * o.len + 511) / 512

end Sys2Proof.Machine
end

