-- ==== Sys2Proof/Machine/VectorReg.lean ====
section
/-!
DEFINITION. Commands of port 2: issue of vector instructions, and the register-form and load-and-store-form instructions
(R189 to R191, R195 to R197, R201, R203).
-/
namespace Sys2Proof.Machine

/-! ## Issue -/

/-- VEC_ISSUE (R187, R190). -/
def execVecIssue (p : PlankId) (rs1 : XReg) (s : State) : Out :=
  .next (
    if !coreReady s p then s else
    let w := s.xreg p rs1
    let sub := vecRefusal s p w
    if sub ≠ 0 then coreTrap s p 25 sub (w.toNat % 2 ^ 32) 0
    else if portFull s p w then coreHold s p none
    else coreNext (vecEnqueue s p w) p)

/-- Core addresses of the instruction and data memories (R202). -/
def imemBase : Nat := 0x100000000000
def dmemBase : Nat := 0x100000010000

/-- Word i of a run that begins at a data-memory address. -/
def runWord (s : State) (p addr i : Nat) : Word64 :=
  BitVec.ofNat 64 (leNat (kgets noByte (s.plank p).dmem (addr - dmemBase + 8 * i) 8))

/-- Issue words i to n − 1 of a run: on a full port the core holds and keeps its place; a refused word or one beyond the data
memory ends the run in a trap. -/
def vecRunLoop (p addr n insn : Nat) (ecc : CoreEcc) : Nat → Nat → State → State
  | 0, i, s => coreHold (s.modPlank p (fun k => { k with vecRun := i })) p none
  | f + 1, i, s =>
    if n ≤ i then coreNext (s.modPlank p (fun k => { k with vecRun := 0 })) p
    else if addr < dmemBase || dmemBase + 0x10000 < addr + 8 * i + 8 then
      coreTrap (s.modPlank p (fun k => { k with vecRun := 0 })) p 5 0 insn (addr + 8 * i)
    else if ecc = .dmem then coreTrap (s.modPlank p (fun k => { k with vecRun := 0 })) p 27 2 insn 0
    else
      let w := runWord s p addr i
      let sub := vecRefusal s p w
      if sub ≠ 0 then coreTrap (s.modPlank p (fun k => { k with vecRun := 0 })) p 25 sub (w.toNat % 2 ^ 32) 0
      else if portFull s p w then coreHold (s.modPlank p (fun k => { k with vecRun := i })) p none
      else vecRunLoop p addr n insn ecc f (i + 1) (vecEnqueue s p w)

/-- VEC_RUN (R203). -/
def execVecRun (p : PlankId) (rs1 rs2 : XReg) (ecc : CoreEcc) (s : State) : Out :=
  .next (
    let addr := (s.xreg p rs1).toNat
    let insn := c0 4 1 0 rs1 rs2
    if !coreReady s p then s
    else if addr % 8 ≠ 0 then coreTrap s p 24 2 insn addr
    else vecRunLoop p addr (s.xreg p rs2).toNat insn ecc 8194 (s.plank p).vecRun s)

/-- VEC_FENCE (R188). -/
def execVecFence (p : PlankId) (s : State) : Out :=
  .next (
    if !coreReady s p then s
    else if (s.plank p).port2.isEmpty && (s.plank p).port3.isEmpty then coreNext s p else coreHold s p none)

/-- VEC_XI (R201). Instructions issued earlier keep the XI of their issue (assumption 13). -/
def execVecXi (p : PlankId) (rs1 : XReg) (s : State) : Out :=
  .next (if !coreReady s p then s else coreNext (s.setWord (Reg.XI_XI p).off (s.xreg p rs1)) p)

/-- VEC_MVX (R203): the vector register is bits [4:0] of rs2's value (assumption 12). -/
def execVecMvx (p : PlankId) (rd rs2 : XReg) (ecc : CoreEcc) (s : State) : Out :=
  .next (
    if !coreReady s p then s
    else if !(s.plank p).port2.isEmpty then coreHold s p none
    else if ecc = .vreg then coreTrap s p 27 4 (c0 4 4 rd 0 rs2) 0
    else coreNext (s.setX p rd ((kget noF32 (s.plank p).v ((s.xreg p rs2).toNat % 32 * 512)).setWidth 64)) p)

/-! ## Lane by lane -/

/-- A register-form operation on one, two or three registers, rounded by RND (R189, R191). Every lane raises the invalid flag, also
one that PRED leaves out (assumption 108). -/
def laneOp1 (s : State) (p : Nat) (e : VecSlot) (cyc : Nat) (f : Rnd → F32 → F32) : State :=
  let m := Rnd.ofCode (fget e.word Vec.RND) 0 0
  let a := vreg s p (fget e.word Vec.VA)
  let outs := a.map (f m)
  laneCycles (noteInvalid (setVreg s p e.word outs) p ((a.zip outs).any (fun x => badOp [x.1] x.2))) p cyc

def laneOp2 (s : State) (p : Nat) (e : VecSlot) (cyc : Nat) (f : Rnd → F32 → F32 → F32) : State :=
  let m := Rnd.ofCode (fget e.word Vec.RND) 0 0
  let ab := (vreg s p (fget e.word Vec.VA)).zip (vreg s p (fget e.word Vec.VB))
  let outs := ab.map (fun x => f m x.1 x.2)
  laneCycles (noteInvalid (setVreg s p e.word outs) p ((ab.zip outs).any (fun x => badOp [x.1.1, x.1.2] x.2))) p cyc

/-- A bitwise operation: no number is read, so none is invalid. -/
def laneBits (s : State) (p : Nat) (e : VecSlot) (f : F32 → F32 → F32) : State :=
  let ab := (vreg s p (fget e.word Vec.VA)).zip (vreg s p (fget e.word Vec.VB))
  laneCycles (setVreg s p e.word (ab.map (fun x => f x.1 x.2))) p 1

/-- VNOP (Table 8-3). -/
def execVnop (p : PlankId) (s : State) : Out := .next (onPort2 s p [0x00] .clean (fun s _ => laneCycles s p 1))
/-- ADD_F32. -/
def execAddF32 (p : PlankId) (ecc : CoreEcc) (s : State) : Out := .next (onPort2 s p [0x01] ecc (fun s e => laneOp2 s p e 1 addF))
/-- SUB_F32. -/
def execSubF32 (p : PlankId) (ecc : CoreEcc) (s : State) : Out := .next (onPort2 s p [0x02] ecc (fun s e => laneOp2 s p e 1 subF))
/-- MUL_F32. -/
def execMulF32 (p : PlankId) (ecc : CoreEcc) (s : State) : Out := .next (onPort2 s p [0x03] ecc (fun s e => laneOp2 s p e 1 mulF))

/-- VD = VA × VB + VC with one rounding. -/
def laneFma (s : State) (p : Nat) (e : VecSlot) : State :=
  let m := Rnd.ofCode (fget e.word Vec.RND) 0 0
  let abc := ((vreg s p (fget e.word Vec.VA)).zip (vreg s p (fget e.word Vec.VB))).zip (vreg s p (fget e.word Vec.VC))
  let outs := abc.map (fun x => fmaF m x.1.1 x.1.2 x.2)
  laneCycles (noteInvalid (setVreg s p e.word outs) p
    ((abc.zip outs).any (fun x => badOp [x.1.1.1, x.1.1.2, x.1.2] x.2))) p 1

/-- FMA_F32. -/
def execFmaF32 (p : PlankId) (ecc : CoreEcc) (s : State) : Out := .next (onPort2 s p [0x04] ecc (fun s e => laneFma s p e))
/-- MIN_F32 (R47). -/
def execMinF32 (p : PlankId) (ecc : CoreEcc) (s : State) : Out := .next (onPort2 s p [0x05] ecc (fun s e => laneOp2 s p e 1 (fun _ => minF)))
/-- MAX_F32 (R47). -/
def execMaxF32 (p : PlankId) (ecc : CoreEcc) (s : State) : Out := .next (onPort2 s p [0x06] ecc (fun s e => laneOp2 s p e 1 (fun _ => maxF)))
/-- ABS_F32; a NaN gives the canonical NaN (R48). -/
def execAbsF32 (p : PlankId) (ecc : CoreEcc) (s : State) : Out :=
  .next (onPort2 s p [0x07] ecc (fun s e => laneOp1 s p e 1 (fun _ x => canon (absF x))))
/-- NEG_F32; a NaN gives the canonical NaN (R48). -/
def execNegF32 (p : PlankId) (ecc : CoreEcc) (s : State) : Out :=
  .next (onPort2 s p [0x08] ecc (fun s e => laneOp1 s p e 1 (fun _ x => canon (negF x))))
/-- DIV_F32. -/
def execDivF32 (p : PlankId) (ecc : CoreEcc) (s : State) : Out := .next (onPort2 s p [0x09] ecc (fun s e => laneOp2 s p e 4 divF))
/-- SQRT_F32. -/
def execSqrtF32 (p : PlankId) (ecc : CoreEcc) (s : State) : Out := .next (onPort2 s p [0x0A] ecc (fun s e => laneOp1 s p e 4 sqrtF))

/-- A mask from a predicate on lanes. -/
def maskOf (bs : List Bool) : BitVec 512 := BitVec.ofNat 512 (bs.zipIdx.foldl (fun n b => if b.1 then n + 2 ^ b.2 else n) 0)

/-- VM = comparison of VA with VB (R46). -/
def laneCmp (s : State) (p : Nat) (e : VecSlot) : State :=
  let ab := (vreg s p (fget e.word Vec.VA)).zip (vreg s p (fget e.word Vec.VB))
  let vm := maskOf (ab.map (fun x => cmpF (fget e.word Vec.FMT_D) x.1 x.2))
  laneCycles (noteInvalid (s.modPlank p (fun k => { k with vm := vm })) p (ab.any (fun x => isSnan32 x.1 || isSnan32 x.2))) p 1

/-- CMP. -/
def execCmp (p : PlankId) (ecc : CoreEcc) (s : State) : Out := .next (onPort2 s p [0x0B] ecc (fun s e => laneCmp s p e))

/-- VD = VA where VM is 1, VB elsewhere. -/
def laneSel (s : State) (p : Nat) (e : VecSlot) : State :=
  let vm := (s.plank p).vm
  let ab := (vreg s p (fget e.word Vec.VA)).zip (vreg s p (fget e.word Vec.VB))
  laneCycles (setVreg s p e.word (ab.zipIdx.map (fun x => if vm.getLsbD x.2 then x.1.1 else x.1.2))) p 1

/-- SEL. -/
def execSel (p : PlankId) (ecc : CoreEcc) (s : State) : Out := .next (onPort2 s p [0x0C] ecc (fun s e => laneSel s p e))
/-- AND_B32. -/
def execAndB32 (p : PlankId) (ecc : CoreEcc) (s : State) : Out := .next (onPort2 s p [0x10] ecc (fun s e => laneBits s p e (fun a b => a &&& b)))
/-- OR_B32. -/
def execOrB32 (p : PlankId) (ecc : CoreEcc) (s : State) : Out := .next (onPort2 s p [0x11] ecc (fun s e => laneBits s p e (fun a b => a ||| b)))
/-- XOR_B32. -/
def execXorB32 (p : PlankId) (ecc : CoreEcc) (s : State) : Out := .next (onPort2 s p [0x12] ecc (fun s e => laneBits s p e (fun a b => a ^^^ b)))
/-- SHL_B32, by IMM16[4:0]. -/
def execShlB32 (p : PlankId) (ecc : CoreEcc) (s : State) : Out :=
  .next (onPort2 s p [0x13] ecc (fun s e => laneBits s p e (fun a _ => a <<< (fget e.word Vec.IMM % 32))))
/-- SHR_B32, by IMM16[4:0]. -/
def execShrB32 (p : PlankId) (ecc : CoreEcc) (s : State) : Out :=
  .next (onPort2 s p [0x14] ecc (fun s e => laneBits s p e (fun a _ => a >>> (fget e.word Vec.IMM % 32))))

/-! ## Loads and stores (R187, R190, R232) -/

/-- Cycles of a load or store of n bytes at an offset: 64 B in each bank of its span per cycle (R228). -/
def lsCycles (s : State) (p off n : Nat) : Nat :=
  let g := 64 * (spanOf s p (off / 0x200000)).banks
  (n + g - 1) / g

/-- Load n-byte words into VD. -/
def laneLoad (s : State) (p : Nat) (ecc : CoreEcc) (e : VecSlot) (n : Nat) : State :=
  let off := fget e.word Vec.ADDR * 64
  match storeBad s p [ownCore] (off, 512 * n) with
  | some b => vecTrap (mixVreg (bankRefused s p b) p e.word) p e.word 26 1
  | none =>
    let bad := storeErrs s p ecc [(off, 512 * n)]
    let s := eccCounts s p ecc bad
    if bad ≠ 0 then vecTrap (mixVreg s p e.word) p e.word 27 3
    else
      let outs := (List.range 512).map (fun l => (BitVec.ofNat 32 (s.le (storeBase p + off + n * l) n)))
      laneCycles (s.modPlank p (fun k => { k with v := kputs noF32 k.v (fget e.word Vec.VD * 512) outs })) p
        (lsCycles s p off (512 * n))

/-- Store the low n bytes of each lane of VD. -/
def laneStore (s : State) (p : Nat) (e : VecSlot) (n : Nat) : State :=
  let off := fget e.word Vec.ADDR * 64
  match storeBad s p [ownCore] (off, 512 * n) with
  | some b => vecTrap (mixStore (bankRefused s p b) p [ownCore] (off, 512 * n)) p e.word 26 1
  | none =>
    laneCycles (s.store (storeBase p + off) ((vreg s p (fget e.word Vec.VD)).flatMap (fun x => leBytes n x.toNat))) p
      (lsCycles s p off (512 * n))

/-- LD_W. -/
def execLdW (p : PlankId) (ecc : CoreEcc) (s : State) : Out := .next (onPort2 s p [0x20] ecc (fun s e => laneLoad s p ecc e 4))
/-- LD_H: bits [31:16] are zero. -/
def execLdH (p : PlankId) (ecc : CoreEcc) (s : State) : Out := .next (onPort2 s p [0x21] ecc (fun s e => laneLoad s p ecc e 2))
/-- ST_W. -/
def execStW (p : PlankId) (ecc : CoreEcc) (s : State) : Out := .next (onPort2 s p [0x22] ecc (fun s e => laneStore s p e 4))
/-- ST_H. -/
def execStH (p : PlankId) (ecc : CoreEcc) (s : State) : Out := .next (onPort2 s p [0x23] ecc (fun s e => laneStore s p e 2))

/-! ## Converts of registers (R191) -/

/-- One lane of a register-form convert: its code and its counts; a lane that PRED leaves out counts nothing. -/
def cvtLane (s : State) (p : Nat) (e : VecSlot) (l : Nat) (x : F32) : Nat × Tally :=
  let w := e.word
  let fd := fmtOf (fget w Vec.FMT_D)
  let fs := fmtOf (fget w Vec.FMT_S)
  let tid := fget w Vec.IMM
  let idx := (e.xi.toNat + l) % 2 ^ 64
  let v := fs.decode (x.toNat % 2 ^ fs.width)
  let k : CvtCtx := ⟨fd, 1, 0, 0, fget w Vec.STRICT == 1, Val.dy false 1 0, .zero⟩
  let m := elemRnd (fget w Vec.RND) (fget w Vec.SRB) (fget w Vec.DRAW) (manField s p Man.SEED) (plankStep s p) tid idx
  if fget w Vec.PRED = 1 && !(s.plank p).vm.getLsbD l then (0, padTally)
  else if elemPart s p tid idx == .pad then (0, padTally)
  else let r := plainElem k m v; (r.code, elemTally v r)

def laneCvt (s : State) (p : Nat) (e : VecSlot) : State :=
  let w := e.word
  let fs := fmtOf (fget w Vec.FMT_S)
  let a := vreg s p (fget w Vec.VA)
  let rs := a.zipIdx.map (fun x => cvtLane s p e x.2 x.1)
  let s' := setVreg s p w (rs.map (fun r => BitVec.ofNat 32 r.1))
  let s' := if fget w Vec.STAT = 1 then
      addStats s' p (fget w Vec.IMM) (Tally.record (rs.foldl (fun t r => t.add r.2) Tally.zero)) else s'
  laneCycles (noteInvalid s' p (a.any (fun x => snanCode fs (x.toNat % 2 ^ fs.width)))) p 1

/-- CVT_REGISTER. -/
def execCvtRegister (p : PlankId) (ecc : CoreEcc) (s : State) : Out := .next (onPort2 s p [0x30] ecc (fun s e => laneCvt s p e))

/-! ## Function tables (R195, R196) -/

def slotF (p i : Nat) : RegF :=
  match i with
  | 0 => Reg.TAB_SLOTS_SLOT0 p
  | 1 => Reg.TAB_SLOTS_SLOT1 p
  | 2 => Reg.TAB_SLOTS_SLOT2 p
  | _ => Reg.TAB_SLOTS_SLOT3 p

/-- A pass that names image k has been issued and its drain is still to come (R195), also one that a suspend has spilled. -/
def imageNamed (s : State) (p k : Nat) : Bool :=
  let n := s.plank p
  let names (d : BitVec 256) : Bool :=
    fget d Desc.DRAIN == 1 && (fget d Desc.EPI_MODE == 1 || fget d Desc.EPI_MODE == 2) && fget d Desc.EPI_ID == k
  let opt (o : Option PassRun) : Bool := match o with
    | some r => names r.desc
    | none => false
  let spilled (sel : Nat) : Bool := s.rbit (Reg.PLANK_STATUS_SPILL_VALID p) && bit (spillLive s p) sel
  let acc (sel : Nat) : Bool := (accState s p sel != AccSt.free || spilled sel) && names (getAcc s p sel).desc
  let later := match n.waitOff with
    | some off => names (s.recAt (storeBase p + off) 256)
    | none => false
  k != 0 && (opt n.run || opt n.wait || opt n.reload || acc 0 || acc 1 || later)

/-- Load an image into a slot. -/
def loadTable (s : State) (p slot k : Nat) : State :=
  let img := s.bytes (storeBase p + tableOff s p k) 4160
  (s.rset (slotF p slot) k).modPlank p (fun n => { n with tables := kput noTable n.tables slot img })

/-- The slot of a tab.ld that an error stops holds an undefined mix of the old and the new image (R190): free bytes, and the number of
one of them. -/
def mixTable (s : State) (p slot k : Nat) : State :=
  let img := (List.range 4160).map (Config.mixByte s.draws)
  let s := if s.fresh.getLsbD 0 then s.rset (slotF p slot) k else s
  (s.modPlank p (fun n => { n with tables := kput noTable n.tables slot img })).drew

/-- A table is read into its slot. -/
def laneTabLd (s : State) (p : Nat) (ecc : CoreEcc) (e : VecSlot) : State :=
  let slot := fget e.word Vec.IMM % 4
  let k := bits (fget e.word Vec.IMM) 2 6
  match storeBad s p [ownCore] (tableOff s p k, 4160) with
  | some b => vecTrap (mixTable (bankRefused s p b) p slot k) p e.word 26 1
  | none =>
    let bad := storeErrs s p ecc [(tableOff s p k, 4160)]
    let s := eccCounts s p ecc bad
    if bad ≠ 0 then vecTrap (mixTable s p slot k) p e.word 27 3
    else laneCycles (loadTable s p slot k) p 65

/-- TAB_LD: waits at the head of port 2 while an issued pass names the slot's image. The image lies in banks of the plank
core, whose port this is (assumption 14). -/
def execTabLd (p : PlankId) (ecc : CoreEcc) (s : State) : Out :=
  .next (
    match (s.plank p).port2.head? with
    | none => s
    | some h =>
      if imageNamed s p (s.rget (slotF p (fget h.word Vec.IMM % 4))) then s else
      onPort2 s p [0x50] ecc (fun s e =>
        laneTabLd s p ecc e))

/-- Every lane is evaluated by the slot's table; a slot with no table traps. -/
def laneTabF (s : State) (p : Nat) (e : VecSlot) : State :=
  let slot := fget e.word Vec.IMM % 4
  if s.rget (slotF p slot) = 0 then vecTrap (mixVreg s p e.word) p e.word 25 4
  else
    let img := kget noTable (s.plank p).tables slot
    let a := vreg s p (fget e.word Vec.VA)
    let ys := a.map (fun x => tableEval img (.of x))
    laneCycles (noteInvalid (setVreg s p e.word (ys.map (·.val))) p (ys.any (·.inv))) p 1

/-- TAB_F; an empty slot is found at execution (R190). -/
def execTabF (p : PlankId) (ecc : CoreEcc) (s : State) : Out :=
  .next (onPort2 s p [0x51] ecc (fun s e =>
    laneTabF s p e))

/-! ## Reductions over lanes and the lane generator (R197, R201) -/

/-- A tree over the lanes of VA, whose result every lane of VD takes. A signalling NaN in a lane and any operation of the tree may raise
the invalid flag (R48). -/
def laneFoldOp (s : State) (p : Nat) (e : VecSlot) (f : F32 → F32 → F32) (g : F32 → F32) : State :=
  let a := vreg s p (fget e.word Vec.VA)
  let r := treeFold (Noted.op2 f) (.of 0) (a.map (fun x => .of (g x)))
  laneCycles (noteInvalid (setVreg s p e.word (List.replicate 512 r.val)) p (r.inv || a.any isSnan32)) p 9

/-- RED_ADD. -/
def execRedAdd (p : PlankId) (ecc : CoreEcc) (s : State) : Out := .next (onPort2 s p [0x60] ecc (fun s e => laneFoldOp s p e addR (fun x => x)))

/-- AMAX_V. -/
def execAmaxV (p : PlankId) (ecc : CoreEcc) (s : State) : Out := .next (onPort2 s p [0x61] ecc (fun s e => laneFoldOp s p e maxF absF))

/-- Every lane takes its word of the counter generator. -/
def laneRng (s : State) (p : Nat) (e : VecSlot) : State :=
  let outs := (List.range 512).map (fun l =>
    let g := laneGen (manField s p Man.SEED) (plankStep s p) (fget e.word Vec.IMM) ((e.xi.toNat + l) % 2 ^ 64)
    BitVec.ofNat 32 (bits g.toNat (32 * (fget e.word Vec.FMT_D % 4)) 32))
  laneCycles (setVreg s p e.word outs) p 2

/-- RNG_V: word FMT_D[1:0] of the lane generator at XI + l. -/
def execRngV (p : PlankId) (s : State) : Out :=
  .next (onPort2 s p [0x68] .clean (fun s e =>
    laneRng s p e))

end Sys2Proof.Machine
end

