-- ==== Sys2Proof/Machine/VectorStream.lean ====
section
/-!
DEFINITION. Commands of port 3: the stream-form instructions (R136, R57, R58, R193, R197 to R200).
-/
namespace Sys2Proof.Machine

/-- Run the stream instruction at the head of port 3 under the guards of R190. -/
def runStream (s : State) (p : Nat) (ops : List Nat) (ecc : CoreEcc) (extra : State → StreamOp → List (Nat × Nat) × List (Nat × Nat))
    (act : State → StreamOp → State) : State :=
  onPort3 s p ops (fun s w =>
    let o := streamOp s p w
    let x := extra s o
    streamGuard s p w ecc (streamReads s p o ++ x.1) (streamWrites s p o ++ x.2) (fun s => act s o))

def noRanges (_ : State) (_ : StreamOp) : List (Nat × Nat) × List (Nat × Nat) := ([], [])

/-! ## Converts (R193, R136) -/

/-- The outlier list that a conversion writes. -/
def cvtWrites (s : State) (p : Nat) (o : StreamOp) : List (Nat × Nat) × List (Nat × Nat) :=
  ([], if writesList s p o then [sedgeList s p o o.ch (segsOf o.len)] else [])

/-- The conversion of a stream. -/
def cvtStreamOp (s : State) (p : Nat) (o : StreamOp) : State :=
  let f := fmtOf o.fs
  let bad := srcSnan s p o f
  let s' := streamConvert s p o (writesList s p o) (srcChannel s p o f true)
  laneCycles (noteInvalid s' p bad) p (per512 o * readsOfSource s p o)

/-- CVT_STREAM. -/
def execCvtStream (p : PlankId) (ecc : CoreEcc) (s : State) : Out :=
  .next (runStream s p [0x40] ecc
    (fun s o => cvtWrites s p o) (fun s o => cvtStreamOp s p o))

/-- The outlier list that a row conversion reads. -/
def cvtRbReads (s : State) (p : Nat) (o : StreamOp) : List (Nat × Nat) × List (Nat × Nat) :=
  (if !readsList s p o then [] else [sedgeList s p o o.len (segsOf o.ch)], [])

/-- The conversion by rows. -/
def cvtRbOp (s : State) (p : Nat) (o : StreamOp) : State :=
  let f := fmtOf o.fs
  laneCycles (noteInvalid (streamConvert s p o false (rbRow s p o f)) p (rbSnan s p o f)) p (per512 o * readsOfSource s p o)

/-- CVT_RB: the source's outlier list lies in the source's own layout, CH_LEN channels of CHANNELS elements. -/
def execCvtRb (p : PlankId) (ecc : CoreEcc) (s : State) : Out :=
  .next (runStream s p [0x41] ecc
    (fun s o => cvtRbReads s p o) (fun s o => cvtRbOp s p o))

/-! ## OCP Microscaling (R56 to R58) -/

/-- Offset of the MX exponent from the module's tensor exponent (Table 2-10): E = X_max − this. -/
def mxBias : Fmt → Int
  | .fp4 => 128 | .e4m3 => 122 | .e5m2 => 115 | _ => 129
/-- Largest exponent of an MX element format (Table 2-10). -/
def mxEmax : Fmt → Int
  | .fp4 => 2 | .e4m3 => 8 | .e5m2 => 15 | _ => 0
/-- Value of an MX element code; MXINT8 counts 2^-6 (R56, Table 2-10). -/
def mxValue (f : Fmt) (code : Nat) : Val :=
  match f.decode code with
  | .fin n m => .fin n (if f == .int8 then m.scale (-6) else m)
  | v => v
/-- 32-element blocks of a channel, and elements that they hold, padding included. -/
def mxBlocks (len : Nat) : Nat := (len + 31) / 32

/-- Scale bytes of an MX source, channel by channel. A channel whose length is no multiple of 32 is padded to whole MX blocks,
codes and scale bytes (assumption 108). -/
def mxScale (s : State) (p : Nat) (o : StreamOp) (j b : Nat) : Nat := (s.byte (storeBase p + o.a 1 + j * mxBlocks o.len + b)).toNat

/-- Largest finite scale byte of the source. -/
def mxMax (s : State) (p : Nat) (o : StreamOp) : Option Nat :=
  ((List.range (o.ch * mxBlocks o.len)).map (fun i => (s.byte (storeBase p + o.a 1 + i)).toNat)).foldl
    (fun m x => if x = 255 then m else some (match m with
      | some y => max x y
      | none => x)) none

/-- Code of MX element i of channel j. -/
def mxCode (s : State) (p : Nat) (o : StreamOp) (f : Fmt) (j i : Nat) : Nat :=
  codeAt s p f (o.a 0 + j * mxBlocks o.len * 32 * f.width / 8) i

/-- One imported element (R57): code and counts. A masked one takes the zero code and counts nothing (R168). -/
def mxElem (s : State) (p : Nat) (o : StreamOp) (f : Fmt) (xmax : Nat) (e : Int) (j i : Nat) : Nat × Tally :=
  let x := mxScale s p o j (i / 32)
  let code := mxCode s p o f j i
  if elemPart s p o.tidD (o.index j i) == .pad then (0, padTally)
  else if x = 255 then (f.nanCode, { Tally.zero with elems := 1, nonfin := 1, err := [0], inp := [0] })
  else
    let v := match mxValue f code with
      | .fin n m => Val.fin n (m.scale ((x : Int) - 127))
      | w => w
    let far := decide (15 < xmax - x)
    let m := elemRnd (fget o.w Vec.RND) (fget o.w Vec.SRB) (fget o.w Vec.DRAW) (manField s p Man.SEED) (plankStep s p) o.tidD
      (o.index j i)
    let r : ElemRes :=
      if far then
        let k : CvtCtx := ⟨f, 1, 0, e, false, Val.dy false 1 0, .zero⟩
        blockElem k m 15 v
      else ⟨code, false, false, (match v with
        | .fin _ _ => false
        | _ => true), v⟩
    (r.code, elemTally v r)

/-- Module shift of block b of 16 elements of a channel; 15 for one of scale 0xFF (assumption 108). -/
def mxShift (s : State) (p : Nat) (o : StreamOp) (xmax j b : Nat) : Nat :=
  let x := mxScale s p o j (b / 2)
  if x = 255 then 15 else min 15 (xmax - x)

/-- BLOCKS and SUNK_BLOCKS of block b of 16 elements (R69, R75): masked elements alone do not count, and a block that holds a
finite element that is not 0 and takes zero codes alone is all sunk. -/
def mxBlockTally (s : State) (p : Nat) (o : StreamOp) (f : Fmt) (j b : Nat) (codes : List Nat) : Tally :=
  let is := (List.range 16).map (fun k => 16 * b + k) |>.filter (fun i => decide (i < o.len)
    && elemPart s p o.tidD (o.index j i) != .pad)
  let live := is.any (fun i => mxScale s p o j (i / 32) != 255 && finNonzero (mxValue f (mxCode s p o f j i)))
  let zero := is.all (fun i => zeroCode f 1 (codes.getD i 0))
  { Tally.zero with blocks := if is.isEmpty then 0 else 1, sunkB := if live && zero then 1 else 0 }

/-- A signalling NaN among the E5M2 elements of an MX source (R48). -/
def mxSnan (s : State) (p : Nat) (o : StreamOp) (f : Fmt) : Bool :=
  f == .e5m2 && (List.range o.ch).any (fun j => (List.range o.len).any (fun i => snanCode f (mxCode s p o f j i)))

/-- Set field E of a tensor's scaling record. -/
def setTensorE (s : State) (p tid : Nat) (e : Int) : State :=
  hbmStoreRec s (manField s p Man.TENSORS + 320 * tid) (fset (tensorRec s p tid) Ten.E (unsign e 9))

/-- CVT_M (R57). A source without a finite scale has no X_max: a free value (assumption 5). -/
def mxImport (s : State) (p : Nat) (o : StreamOp) : State :=
  let f := fmtOf o.fd
  let known := mxMax s p o
  let xmax := known.getD (s.fresh.toNat % 255)
  let s := if known.isNone then s.drew else s
  let e : Int := (xmax : Int) - mxBias f
  let nb := blocksOf o.len
  let chans := (List.range o.ch).map (fun j => (List.range o.len).map (mxElem s p o f xmax e j))
  let t := chans.foldl (fun t c => c.foldl (fun t r => t.add r.2) t) Tally.zero
  let t := chans.zipIdx.foldl (fun t c => (List.range nb).foldl (fun t b =>
    t.add (mxBlockTally s p o f c.2 b (c.1.map (·.1)))) t) t
  let bad := mxSnan s p o f
  let s' := chans.zipIdx.foldl (fun (s' : State) c =>
    let j := c.2
    let s' := s'.store (storeBase p + o.a 5 + j * nb * f.blockBytes)
      (packCodes f.width (c.1.map (·.1) ++ List.replicate (16 * nb - o.len) 0))
    let sh := (List.range nb).map (mxShift s p o xmax j)
    let s' := s'.store (storeBase p + o.a 6 + j * linesOf o.len * 32)
      (packCodes 4 (sh ++ List.replicate (64 * linesOf o.len - nb) 0))
    if o.a 7 = 0 then s' else s'.store (storeBase p + o.a 7 + 4 * j) (leBytes 4 one32.toNat)) s
  let s' := setTensorE s' p o.tidD e
  laneCycles (noteInvalid (addStats s' p o.tidD t.record) p bad) p (per512 o)

/-- CVT_M. -/
def execCvtM (p : PlankId) (ecc : CoreEcc) (s : State) : Out := .next (runStream s p [0x42] ecc noRanges (fun s o => mxImport s p o))

/-- One exported block (R58): scale byte, codes and counts. BLOCKS and SUNK_BLOCKS count nothing: Table 3-6 names only targets with
block shifts of the module's own, and gives none for an MX target (assumption 121). Masked elements take zero codes and count nothing (R168). Every other
element of a non-finite block is counted under R44; a finite one has no rebuilt value there, so its error counts as 0
(assumption 108). -/
def mxBlock (f : Fmt) (els : List (Val × Rnd × Part)) : Nat × List Nat × Tally :=
  let xs := (els.filter (fun e => e.2.2 != .pad)).map (·.1)
  let a := maxMagOf xs
  let each (g : Val × Rnd → Nat × Tally) : List (Nat × Tally) :=
    els.map (fun e => if e.2.2 == .pad then (0, padTally) else g (e.1, e.2.1))
  let sum (rs : List (Nat × Tally)) : List Nat × Tally := (rs.map (·.1), rs.foldl (fun t r => t.add r.2) Tally.zero)
  if xs.any (fun v => match v with
    | .fin _ _ => false
    | _ => true) then
    (255, sum (each (fun e => (0, { elemTally e.1 ⟨0, false, false, true, e.1⟩ with err := [0] }))))
  else if a.isZero then (0, sum (each (fun e => (0, elemTally e.1 ⟨0, false, false, false, .zero⟩))))
  else
    let x : Int := max 0 (min 254 (a.log2 - mxEmax f + 127))
    let sc : Int := 127 - x + (if f == .int8 then 6 else 0)
    (x.toNat, sum (each (fun e =>
      let y := match e.1 with
        | .fin n m => Val.fin n (m.scale sc)
        | v => v
      let r := convert f false e.2 y
      let back := match f.decode r.code with
        | .fin n m => Val.fin n (m.scale (-sc))
        | v => v
      let r : ElemRes := ⟨r.code, r.brim, r.sunk, r.nonfin, back⟩
      (r.code, elemTally e.1 r))))

/-- CVT_MX_EXPORT (R58). -/
def mxExport (s : State) (p : Nat) (o : StreamOp) : State :=
  let f := fmtOf o.fd
  let src := fmtOf o.fs
  let nb := mxBlocks o.len
  let rnd (j i : Nat) := elemRnd (fget o.w Vec.RND) (fget o.w Vec.SRB) (fget o.w Vec.DRAW) (manField s p Man.SEED)
    (plankStep s p) o.tidD (o.index j i)
  let chans := (List.range o.ch).map (fun j =>
    (chunks 32 ((srcChannel s p o src false j).zipIdx.map (fun v =>
      (v.1, rnd j v.2, elemPart s p o.tidD (o.index j v.2))))).map (mxBlock f))
  let t := chans.foldl (fun t c => c.foldl (fun t b => t.add b.2.2) t) Tally.zero
  let bad := srcSnan s p o src
  let s := chans.zipIdx.foldl (fun s c =>
    let codes := c.1.flatMap (·.2.1)
    let s := s.store (storeBase p + o.a 5 + c.2 * nb * 32 * f.width / 8)
      (packCodes f.width (codes ++ List.replicate (32 * nb - codes.length) 0))
    s.store (storeBase p + o.a 6 + c.2 * nb) (c.1.map (fun b => BitVec.ofNat 8 b.1))) s
  laneCycles (noteInvalid (addStats s p o.tidD t.record) p bad) p (2 * per512 o)

/-- CVT_MX_EXPORT. -/
def execCvtMxExport (p : PlankId) (ecc : CoreEcc) (s : State) : Out := .next (runStream s p [0x43] ecc noRanges (fun s o => mxExport s p o))

/-! ## Amax and statistics (R197) -/

/-- amax of decoded elements as FP32. -/
def amaxOf (vs : List Val) : F32 := vs.foldl (fun m v => maxF m (absF (toF32 .rne v))) 0

/-- The largest magnitude of each channel, and of all. -/
def amaxTile (s : State) (p : Nat) (o : StreamOp) : State :=
  let f := fmtOf o.fs
  let rows := (List.range o.ch).map (fun j => amaxOf (srcChannel s p o f true j))
  let bad := srcSnan s p o f
  let s := s.store (storeBase p + o.a 5) (rows.flatMap (fun x => leBytes 4 x.toNat))
  let s := s.store (storeBase p + o.a 6) (leBytes 4 (rows.foldl maxF 0).toNat)
  laneCycles (noteInvalid s p bad) p (per512 o)

/-- AMAX_TILE. -/
def execAmaxTile (p : PlankId) (ecc : CoreEcc) (s : State) : Out :=
  .next (runStream s p [0x48] ecc noRanges (fun s o =>
    amaxTile s p o))

/-- A merge of two records raises the invalid flag in one of its binary32 fields (R48). -/
def statInvalid (a b : StatRec) : Bool :=
  badOp [a.err2, b.err2] (addR a.err2 b.err2) || badOp [a.in2, b.in2] (addR a.in2 b.in2) || isSnan32 a.pmax || isSnan32 b.pmax

/-- Record i at A5 becomes its merge with record i at A0. -/
def statFold (s : State) (p : Nat) (o : StreamOp) : State :=
  let s := (List.range o.ch).foldl (fun s i =>
    let a := statOfWord (s.recAt (storeBase p + o.a 5 + 64 * i) 512)
    let b := statOfWord (s.recAt (storeBase p + o.a 0 + 64 * i) 512)
    (noteInvalid s p (statInvalid a b)).storeRec (storeBase p + o.a 5 + 64 * i) (statWord (statMerge a b))) s
  laneCycles s p o.ch

/-- STAT_FOLD: record i at A5 becomes its merge with record i at A0. -/
def execStatFold (p : PlankId) (ecc : CoreEcc) (s : State) : Out :=
  .next (runStream s p [0x49] ecc noRanges (fun s o =>
    statFold s p o))

/-! ## Carding (R78, R79, R137, R198) -/

/-- One butterfly stage at distance h (Sylvester order). -/
def butterfly (h : Nat) (v : List Noted) : List Noted :=
  v.zipIdx.map (fun x =>
    let i := x.2
    if i / h % 2 = 0 then Noted.op2 addR x.1 (v.getD (i + h) (.of 0)) else Noted.op2 subR (v.getD (i - h) (.of 0)) x.1)

/-- log2(n) stages, from distance 1 up by doubling: R78 fixes an order of the stages and does not give it (assumption 121). -/
def hadamard (lg : Nat) (v : List Noted) : List Noted := (List.range lg).foldl (fun v k => butterfly (2 ^ k) v) v

/-- The sign of K position k is −1 (R79). -/
def cardNeg (s : State) (p card k : Nat) : Bool := (laneGen (manField s p Man.SEED) (plankStep s p) card k).getLsbD 127

/-- Card or uncard one group whose first element lies at K position k0. -/
def cardGroup (s : State) (p card k0 lg : Nat) (uncard : Bool) (v : List Noted) : List Noted :=
  let sign (v : List Noted) := v.zipIdx.map (fun x => if cardNeg s p card (k0 + x.2) then { x.1 with val := canon (negF x.1.val) } else x.1)
  if uncard then
    (sign (hadamard lg v)).map (fun x => Noted.op2 mulR x (.of (BitVec.ofNat 32 ((127 - lg) * 2 ^ 23))))
  else hadamard lg (sign v)

/-- A stream carding of every group of every channel (R198). -/
def cardStream (s : State) (p : Nat) (o : StreamOp) (uncard : Bool) : State :=
  let lg := o.opc % 8 + 4
  let f := fmtOf o.fs
  let bad := srcSnan s p o f
  let out := (List.range o.ch).flatMap (fun j =>
    let xs : List Noted := (List.range o.len).map (fun i =>
      let c := s.le (storeBase p + o.a 0 + (j * o.len + i) * (f.width / 8)) (f.width / 8)
      .of (if f == .bf16 then bf16F c else BitVec.ofNat 32 c))
    (chunks (2 ^ lg) xs).zipIdx.flatMap (fun g =>
      cardGroup s p (fget o.w Vec.IMM) (fget o.d SDesc.ORIGIN + g.2 * 2 ^ lg) lg uncard g.1))
  let s := s.store (storeBase p + o.a 5) (out.flatMap (fun x => leBytes 4 x.val.toNat))
  laneCycles (noteInvalid s p (bad || out.any (·.inv))) p (lg * per512 o)

/-- CARD. -/
def execCard (p : PlankId) (ecc : CoreEcc) (s : State) : Out :=
  .next (runStream s p [0x70, 0x71, 0x72, 0x73, 0x74] ecc noRanges (fun s o => cardStream s p o false))
/-- UNCARD. -/
def execUncard (p : PlankId) (ecc : CoreEcc) (s : State) : Out :=
  .next (runStream s p [0x78, 0x79, 0x7A, 0x7B, 0x7C] ecc noRanges (fun s o => cardStream s p o true))

/-! ## Correction vectors and checksum comparison (R73, R102, R199) -/

/-- Exact sum of values; a NaN or an infinity follows IEEE 754. -/
def exactSum (vs : List Val) : Val := vs.foldl (Val.add .rne) .zero

/-- The exact sum of each channel, rounded once, times its scale. -/
def corrSum (s : State) (p : Nat) (o : StreamOp) : State :=
  let f := (heldFmt (tensorRec s p o.tidS) (ladderRec s p o.tidS)).getD .fp4
  let out := (List.range o.ch).map (fun j =>
    let vs := srcChannel s p o f false j
    let sum := toF32 .rne (exactSum vs)
    let x : Noted := ⟨sum, isNan32 sum && !vs.contains .nan⟩
    if o.a 2 = 0 then x else Noted.op2 mulR x (.of (f32At s p (o.a 2) j)))
  let bad := srcSnan s p o f || out.any (·.inv)
  let s := s.store (storeBase p + o.a 5) (out.flatMap (fun x => leBytes 4 x.val.toNat))
  laneCycles (noteInvalid s p bad) p (per512 o)

/-- CORR_SUM: the exact sum of a channel's v × 2^(E − s − o_f), rounded once, times its scale. -/
def execCorrSum (p : PlankId) (ecc : CoreEcc) (s : State) : Out :=
  .next (runStream s p [0x7E] ecc noRanges (fun s o =>
    corrSum s p o))

/-- Descriptor i of the accumulation that chk.cmp names, and its side record. -/
def chkDesc (s : State) (p : Nat) (o : StreamOp) (i : Nat) : BitVec 256 := s.recAt (storeBase p + o.a 0 + 32 * i) 256
def chkSide (s : State) (p : Nat) (d : BitVec 256) : BitVec 512 := s.recAt (storeBase p + fget d Desc.SIDE * 64) 512

/-- The descriptors that chk.cmp names, in order. -/
def chkDescs (s : State) (p : Nat) (o : StreamOp) : List (BitVec 256) := (List.range o.ch).map (chkDesc s p o)

/-- K-steps of the passes named. -/
def chkSteps (ds : List (BitVec 256)) : Nat := ds.foldl (fun n d => n + 16 * passBlocks d) 0

/-- The buffer holds a sampled accumulation whose column sums are there, not excluded, whose last PASS_TAG is that of the last
descriptor (R199). -/
def chkLive (s : State) (p : Nat) (o : StreamOp) : Bool :=
  let c := (s.plank p).chk
  c.sampled && c.ready && !c.excluded && c.tag == fget (chkDesc s p o (o.ch - 1)) Desc.PASS_TAG

/-- Ranges that the comparison reads beside the descriptors. -/
def chkRanges (s : State) (p : Nat) (o : StreamOp) : List (Nat × Nat) :=
  if !chkLive s p o then [] else
  (s.rget (Reg.CHK_BUF_BASE p) * 4096, 8 * chkSteps (chkDescs s p o) + 8192) ::
  (List.range o.ch).flatMap (fun i =>
    let d := chkDesc s p o i
    let sd := chkSide s p d
    let b := colOpnd d sd
    let n := passBlocks d
    (fget d Desc.SIDE * 64, 64) :: (List.range (passCols d)).flatMap (fun j =>
      [(b.src + j * b.stride * b.fmt.blockBytes, n * b.fmt.blockBytes),
       (b.shf + j * b.lines * 32 + b.first / 2, (b.first + n - 1) / 2 + 1 - b.first / 2)]))

/-- Signed tap of a K-step, in the checksum buffer. -/
def tapAt (s : State) (p k : Nat) : Int := signed (s.le (storeBase p + s.rget (Reg.CHK_BUF_BASE p) * 4096 + 8 * k) 8) 64
/-- Column sum c of the accumulation, after its taps. -/
def colSumAt (s : State) (p steps c : Nat) : Int :=
  signed (s.le (storeBase p + s.rget (Reg.CHK_BUF_BASE p) * 4096 + 8 * steps + 16 * c) 16) 128

/-- Σ_k tap_k × B[k, c] / 2^(E_B − 47) over one pass whose taps begin at step k0 (R102). -/
def passCheck (s : State) (p : Nat) (d : BitVec 256) (k0 c : Nat) : Int :=
  let o := colOpnd d (chkSide s p d)
  (List.range (passBlocks d)).foldl (fun t kb =>
    (opndBlock s p o c kb).zipIdx.foldl (fun t v => match v.1 with
      | .fin n m =>
        let k := m.exp + 47 - 4 * o.word
        let x : Nat := if 0 ≤ k then shl m.num k else m.num / shl 1 (-k)
        let y := tapAt s p (k0 + 16 * kb + v.2) * x
        if n then t - y else t + y
      | _ => t) t) 0

/-- Columns that mismatch (R102). A pass feeds zero codes at and beyond its COLS (R88), which add nothing. -/
def chkBad (s : State) (p : Nat) (ds : List (BitVec 256)) : List Nat :=
  let steps := chkSteps ds
  let cols := passCols (ds.getLastD 0)
  (List.range cols).filter (fun c =>
    let sum := (ds.foldl (fun (x : Int × Nat) d =>
      (x.1 + (if c < passCols d then passCheck s p d x.2 c else 0), x.2 + 16 * passBlocks d)) (0, 0)).1
    sum != colSumAt s p steps c * 2 ^ 58)

/-- A suspect accumulation is an error of its plank, open until its replay (R319), and is counted in its member's check record (R159,
Table 13-1); a stepless program's is kept for its evaluation point (R448). -/
def countSuspect (s : State) (p tag tid : Nat) : State :=
  let s := filePlank s p 0 tag tid
  if stepless s p then s.modPlank p (fun k => { k with mism := k.mism ++ [tag] }) else
  match plankJob s p with
  | some j => modJob s j.id.toNat (fun j => { j with suspect := satInc 32 j.suspect })
  | none => s

/-- A comparison counts, and where columns `bad` mismatch a record of kind checksum says so (R102, R305); d is the last descriptor. -/
def chkRecord (s : State) (p : Nat) (d : BitVec 256) (bad : List Nat) : State :=
  let s := s.rsat (Reg.SAMPLE_COUNT_COMPARED p) 1
  if bad.isEmpty then s else
  excRecord (s.rsat (Reg.CHK_COUNT_MISMATCH p) 1) p {
    tag := fget d Desc.PASS_TAG, tid := fget d Desc.OUT_TID, kind := 2, sel := fget d Desc.SEL, chkCols := bad.length,
    chkFirst := bad.headD 0 }

/-- The comparison (R102, R199, R305). -/
def chkCompare (s : State) (p : Nat) (o : StreamOp) : State :=
  if !chkLive s p o then laneCycles s p 16 else
  let bad := chkBad s p (chkDescs s p o)
  let d := chkDesc s p o (o.ch - 1)
  let cyc := chkSteps (chkDescs s p o) + 16
  let s := chkRecord s p d bad
  let s := if bad.isEmpty then s else countSuspect s p (fget d Desc.PASS_TAG) (fget d Desc.OUT_TID)
  laneCycles s p cyc

/-- CHK_CMP. -/
def execChkCmp (p : PlankId) (ecc : CoreEcc) (s : State) : Out :=
  .next (runStream s p [0x7F] ecc (fun s o => (chkRanges s p o, [])) (fun s o => chkCompare s p o))

/-! ## The optimizer (R174 to R176, R180, R181, R200) -/

/-- An element's stored state and its update. -/
structure AdamElem where
  master : Nat
  m : F32
  v : F32
  w2 : F32
  g2 : F32
  kept : Bool
  invalid : Bool
deriving DecidableEq, Repr

/-- The parameters of one block: the optimizer record, SCALE and STEP_LR. -/
structure AdamParam where
  lrMul : F32
  b1 : F32
  b2 : F32
  eps : F32
  wd : F32
  p1 : F32
  p2 : F32
  scale : F32
  lr : F32
deriving DecidableEq, Repr

def fin32 (x : F32) : Bool :=
  match f32 x with
  | .fin _ _ => true
  | _ => false

/-- R174 for one element: gradient value, stored moments and BF16 master. -/
def adamOne (k : AdamParam) (grad m1 m2 : Noted) (master : Nat) : AdamElem :=
  let add := Noted.op2 addR
  let sub := Noted.op2 subR
  let mul := Noted.op2 mulR
  let div := Noted.op2 divR
  let sqrt (x : Noted) : Noted := let r := sqrtF .rne x.val; ⟨r, x.inv || badOp [x.val] r⟩
  let neg (x : Noted) : Noted := { x with val := negF x.val }
  let one : Noted := .of one32
  let b1 : Noted := .of k.b1
  let b2 : Noted := .of k.b2
  let g := mul grad (.of k.scale)
  let m := add (mul b1 m1) (mul (sub one b1) g)
  let v := add (mul b2 m2) (mul (sub one b2) (mul g g))
  let mh := div m (sub one (.of k.p1))
  let vh := div v (sub one (.of k.p2))
  let w : Noted := .of (bf16F master)
  let d := mul (neg (mul (.of k.lr) (.of k.lrMul))) (add (div mh (add (sqrt vh) (.of k.eps))) (mul (.of k.wd) w))
  let w2 := add w d
  let ok := fin32 w2.val && fin32 m.val && fin32 v.val
  { master := master, m := if ok then m.val else m1.val, v := if ok then v.val else m2.val, w2 := w2.val, g2 := grad.val,
    kept := !ok, invalid := w2.inv || m.inv || v.inv }

/-- The scale and codes of one moment block (R175): tensor id and logical index of its first element give the draws. -/
def momentBlock (s : State) (p tid idx : Nat) (vs : List F32) : F32 × List Nat :=
  let amax := vs.foldl (fun m v => maxF m (absF v)) 0
  match f32 amax with
  | .fin _ a =>
    if a.isZero then (0x00800000, vs.map (fun _ => 0)) else
    let c := ruF32 (a.div (Mag.dy 448 0))
    (c, vs.zipIdx.map (fun v =>
      (convert .e4m3 false (elemRnd 4 6 0 (manField s p Man.SEED) (plankStep s p) tid (idx + v.2)) (Val.div (f32 v.1) (f32 c))).code))
  | _ => (amax, vs.map (fun _ => Fmt.e4m3.nanCode))

/-- Stored moment i: code times its block's scale, rounded once (R174). -/
def momentAt (s : State) (p codes scales i : Nat) : Noted :=
  let c := Fmt.e4m3.decode (s.byte (storeBase p + codes + i)).toNat
  let x := f32At s p scales (i / 16)
  let r := toF32 .rne (Val.mul c (f32 x))
  ⟨r, isSnan32 x || (isNan32 r && c != .nan && !isNan32 x)⟩

/-- Tensor exponent under which a block's gradient is decoded (R294): that of the head of the final chunk that holds its codes, else
that of TID_S, which the program writes for a chunk tensor (R293, assumption 114). -/
def gradExp (s : State) (p : Nat) (o : StreamOp) : Int :=
  let at0 := storeBase p + o.a 5
  let heads := match plankJob s p with
    | some j => j.lists.chunks
    | none => []
  match heads.find? (fun c => decide (c.off + 64 ≤ at0) && decide (at0 + o.len ≤ c.off + 64 + c.elems)
      && fld (s.recAt c.off 128) 74 73 == 0) with
  | some c => signed (fld (s.recAt c.off 128) 72 64) 9
  | none => tensorE (tensorRec s p o.tidS)

/-- Gradient i of a block as FP32. -/
def gradAt (s : State) (p : Nat) (o : StreamOp) (e : Int) (i : Nat) : Noted :=
  let c := (s.byte (storeBase p + o.a 5 + i)).toNat
  ⟨toF32 .rne (elemReal (elemValue .e5m2 [c]) e (shiftAt s p (o.a 6) (i / 16)) (Val.dy false 1 0) none), snanCode .e5m2 c⟩

/-- New telemetry entry: sums and fingerprint words after a block (R180, R181). -/
def telemAdd (s : State) (p tid idx : Nat) (old : BitVec 256) (new : List (Nat × Nat × F32 × Bool)) : BitVec 256 :=
  let f (hi lo : Nat) : F32 := BitVec.ofNat 32 (fld old hi lo)
  let w2 := addSquares (f 31 0) (new.map (fun x => bf16F x.2.1))
  let g2 := addSquares (f 63 32) (new.map (fun x => x.2.2.1))
  let d2 := addSquares (f 95 64) (new.map (fun x => if x.2.2.2 then 0 else subR (bf16F x.2.1) (bf16F x.1)))
  let x := setFld (setFld (setFld old 31 0 w2.toNat) 63 32 g2.toNat) 95 64 d2.toNat
  (List.range 4).foldl (fun x j =>
    let add := new.zipIdx.foldl (fun n e =>
      n + (bits (laneGen (manField s p Man.SEED) 0 tid (idx + e.2)).toNat (32 * j) 32 ||| 1) * e.1.2.1) 0
    setFld x (159 + 32 * j) (128 + 32 * j) (fld x (159 + 32 * j) (128 + 32 * j) + add)) x

/-- Count elements left unchanged in the member's step record, and one event per tensor and step (R175, Table 7-8). -/
def updNonfin (s : State) (p tid n : Nat) : State :=
  if n = 0 then s else
  match plankJob s p with
  | none => s
  | some j =>
    let off := fget j.man Man.STEPREC
    let r := s.recAt off 512
    let s := hbmStoreRec s off (fset r (223, 192) (satAdd 32 (fget r (223, 192)) n))
    modJob s j.id.toNat (fun j => { j with updNonfin := kput noCount j.updNonfin tid (kget noCount j.updNonfin tid + n) })

/-- Set bit bitNo of the update bitmap's byte at byteOff (R176): a read and a write of its sector in the slots of plank p. -/
def setMaskBit (s : State) (p byteOff bitNo : Nat) : State :=
  let a := byteOff / 64 * 64
  enqueue (enqueue s p ⟨false, a, ⟨[], false⟩, .mask byteOff bitNo, 0⟩) p ⟨true, a, ⟨[], false⟩, .mask byteOff bitNo, 0⟩

/-- One update block (R200): masters, moments, the running telemetry entry, then the bitmap bit. -/
def adamBlock (s : State) (p : Nat) (o : StreamOp) : State :=
  let len := o.len
  let pb := s.recAt (storeBase p + o.a 7) 512
  let w32 (lo : Nat) : F32 := BitVec.ofNat 32 (fld pb (lo + 31) lo)
  let k : AdamParam := ⟨w32 0, w32 32, w32 64, w32 96, w32 128, w32 160, w32 192, w32 256, w32 288⟩
  let bitNo := fld pb 383 320
  let bitmap := fld pb 447 384
  let telem := fld pb 511 448
  let eg := gradExp s p o
  let idx (i : Nat) := o.index 0 i
  let els := (List.range len).map (fun i =>
    adamOne k (gradAt s p o eg i) (momentAt s p (o.a 1) (o.a 2) i) (momentAt s p (o.a 3) (o.a 4) i) (s.le (storeBase p + o.a 0 + 2 * i) 2))
  let b := fget (s.recAt (manField s p Man.POLICY) 512) Policy.MASTER_SRB
  let masters := els.zipIdx.map (fun e =>
    if e.1.kept then e.1.master
    else (convert .bf16 false (elemRnd 4 b 0 (manField s p Man.SEED) (plankStep s p) o.tidD (idx e.2)) (f32 e.1.w2)).code)
  let blocks (tid : Nat) (vs : List F32) := (chunks 16 vs).zipIdx.map (fun c => momentBlock s p tid (idx (16 * c.2)) c.1)
  let m1 := blocks (fget o.d SDesc.TID_M1) (els.map (·.m))
  let m2 := blocks (fget o.d SDesc.TID_M2) (els.map (·.v))
  let entry := telemAdd s p o.tidD (idx 0) (s.recAt (storeBase p + telem) 256)
    (els.zip masters |>.map (fun x => (x.1.master, x.2, x.1.g2, x.1.kept)))
  let s := s.store (storeBase p + o.a 0) (masters.flatMap (leBytes 2))
  let s := s.store (storeBase p + o.a 1) (m1.flatMap (fun b => b.2.map (BitVec.ofNat 8)))
  let s := s.store (storeBase p + o.a 2) (m1.flatMap (fun b => leBytes 4 b.1.toNat))
  let s := s.store (storeBase p + o.a 3) (m2.flatMap (fun b => b.2.map (BitVec.ofNat 8)))
  let s := s.store (storeBase p + o.a 4) (m2.flatMap (fun b => leBytes 4 b.1.toNat))
  let s := s.storeRec (storeBase p + telem) entry
  let s := updNonfin s p o.tidD (els.filter (·.kept)).length
  let s := noteInvalid s p (els.any (·.invalid))
  let byteOff := bitmap + bitNo / 8
  let s := laneCycles s p (24 * per512 o)
  match badShare s p byteOff 1 with
  | some a => vecTrap (ownTrapFlag (violation s 3 (hbmStack a * 64 + hbmPc a) 0 p (chipNo s) 0 (plankStep s p)) p) p o.w 26 3
  | none =>
    let home := hbmStack byteOff / 2
    match (dieHops (p / 20) home ++ dieHops home (p / 20)).find? (fun h => (chanOwned s p h.1 h.2).isNone) with
    | some h => vecTrap (ownTrapFlag (violation s 2 (chanIndex h.1 h.2 0) 0 p (chipNo s) 0 (plankStep s p)) p) p o.w 26 2
    | none => setMaskBit s p byteOff (bitNo % 8)

/-- The loss-sum word that an optimizer block reads and writes. -/
def adamWord (s : State) (p : Nat) (o : StreamOp) : List (Nat × Nat) × List (Nat × Nat) :=
  let r := (fld (s.recAt (storeBase p + o.a 7) 512) 511 448, 32)
  ([r], [r])

/-- OPT_ADAMW. The running telemetry entry lies in a bank of the vector engine too. -/
def execOptAdamw (p : PlankId) (ecc : CoreEcc) (s : State) : Out :=
  .next (runStream s p [0x80] ecc
    (fun s o => adamWord s p o)
    (fun s o => adamBlock s p o))

end Sys2Proof.Machine
end

