-- ==== Sys2Proof/Machine/Memory.lean ====
section
/-!
DEFINITION. The HBM controllers and the plank stores (R215 to R236): slots, refresh, error correction, calibration, heat,
share and bank switches, span maps.
-/
namespace Sys2Proof.Machine

/-! ## Pseudo-channels -/

def getPc (s : State) (m c : Nat) : Pc := kget pcReset s.pcs (m * 64 + c)
def setPcState (s : State) (m c : Nat) (x : Pc) : State := { s with pcs := kput pcReset s.pcs (m * 64 + c) x }

/-- The frame of a slot within the cycle, and whether it is the pseudo-channel's calibration slice (R215). -/
def pcFrame (x : Pc) : Nat := x.slot / 200
def inSlice (x : Pc) (c : Nat) : Bool := pcFrame x == 3 * c % 200

/-- A stack serves its owners (R236). -/
def stackServes (s : State) (m : Nat) : Bool := s.rget (Reg.STACK_STATUS_STATE m) == 2


/-- A corrected sector is counted, and queued for rewrite while the queue has room (R219). -/
def eccFixed (s : State) (m c off : Nat) : State :=
  let s := (s.radd (Reg.PC_CORR_COUNT m c) 1).radd (Reg.ECC_CORR_COUNT m) 1
  let x := getPc s m c
  if x.rewrite.length < 16 && !x.rewrite.contains off then setPcState s m c { x with rewrite := x.rewrite ++ [off] } else s

/-- A sector as the controller returns it (R219, R220): one that is uncorrectable or poisoned comes back poisoned. -/
def readSector (s : State) (m c off : Nat) (e : Ecc) : Line × State :=
  if s.poisoned off 64 || e == .uncorrectable then (⟨s.bytes off 64, true⟩, eccBad s m c off)
  else if e == .corrected then (⟨s.bytes off 64, false⟩, eccFixed s m c off)
  else (⟨s.bytes off 64, false⟩, s)

/-! ## Packets that wait for sectors (R249) -/

def response (s : State) (pkt : Packet) (ty status flits : Nat) : BitVec 512 :=
  let q := pkt.hdr
  let h : BitVec 512 := 0
  let h := fset h Pk.TYPE ty
  let h := fset h Pk.DST_CHIP (fget q Pk.SRC_CHIP)
  let h := fset h Pk.SRC_CHIP (chipNo s)
  let h := fset h Pk.FLITS flits
  let h := fset h Pk.PARTITION (fget q Pk.PARTITION)
  let h := fset h Pk.KEY_SLOT (fget q Pk.KEY_SLOT)
  let h := fset h Pk.STREAM (fget q Pk.STREAM)
  let h := fset h Pk.XFER_ID (fget q Pk.XFER_ID)
  let h := fset h Pk.LAST (fget q Pk.LAST)
  fset h Pk.STATUS status

/-- Answer a READ_REQ: data only when the status is 0 (Table 10-5). -/
def sendReadData (s : State) (die : Nat) (pkt : Packet) (status : Nat) (data : List Byte) : State :=
  let data := if status = 0 then data else []
  let h := response s pkt 4 status (data.length / 64)
  let h := fset h Pk.DST_OFS (fget pkt.hdr Pk.RET_OFS)
  emit s die { hdr := fset h Pk.RET_OFS (fget pkt.hdr Pk.RET_OFS), payload := data, poison := [], badTail := false }

/-- Answer packets with DONE. -/
def sendDone (s : State) (r : DoneRec) : State :=
  let h : BitVec 512 := 0
  let h := fset h Pk.TYPE 5
  let h := fset h Pk.DST_CHIP r.chip
  let h := fset h Pk.SRC_CHIP (chipNo s)
  let h := fset h Pk.PARTITION r.partition
  let h := fset h Pk.KEY_SLOT r.slot
  let h := fset h Pk.STREAM r.stream
  let h := fset h Pk.XFER_ID r.xid
  let h := fset h Pk.COUNT r.count
  emit s r.die { hdr := fset h Pk.STATUS r.status, payload := [], poison := [], badTail := false }

def setDones (s : State) (ds : List DoneRec) : State := { s with fab := { s.fab with dones := ds } }

/-- Count a packet in the completion record of its source, transfer and status (R249): a record of 64 goes out, a nonzero
status goes out alone, and with 256 records of the die in use the oldest goes out first. -/
def countDone (s : State) (die : Nat) (pkt : Packet) (status : Nat) : State :=
  let r : DoneRec := {
    die := die
    chip := fget pkt.hdr Pk.SRC_CHIP
    xid := fget pkt.hdr Pk.XFER_ID
    status := status
    stream := fget pkt.hdr Pk.STREAM
    partition := fget pkt.hdr Pk.PARTITION
    slot := fget pkt.hdr Pk.KEY_SLOT
    count := 1 }
  if status ≠ 0 then sendDone s r
  else
    let same (x : DoneRec) : Bool := x.die == die && x.chip == r.chip && x.xid == r.xid && x.status == 0
    match s.fab.dones.find? same with
    | some x =>
      if 64 ≤ x.count + 1 then sendDone (setDones s (s.fab.dones.filter (fun y => !same y))) { x with count := x.count + 1 }
      else setDones s (s.fab.dones.map (fun y => if same y then { y with count := y.count + 1 } else y))
    | none =>
      let mine := s.fab.dones.filter (fun x => x.die == die)
      match mine.head? with
      | some old =>
        if 256 ≤ mine.length then sendDone (setDones s (s.fab.dones.erase old ++ [r])) old else setDones s (s.fab.dones ++ [r])
      | none => setDones s (s.fab.dones ++ [r])

def modServe (s : State) (num : Nat) (f : Serve → Serve) : State :=
  { s with fab := { s.fab with serves := s.fab.serves.map (fun x => if x.num = num then f x else x) } }

/-- A sector of a served packet is done; the last one answers the packet (R249). -/
def servePart (s : State) (num place : Nat) (l : Option Line) : State :=
  match s.fab.serves.find? (fun x => x.num == num) with
  | none => s
  | some x =>
    let x := { x with
      left := x.left - 1
      lines := match l with
        | some l => kput (fun _ => (⟨[], false⟩ : Line)) x.lines place l
        | none => x.lines }
    if x.left ≠ 0 then modServe s num (fun _ => x)
    else
      let s := { s with fab := { s.fab with serves := s.fab.serves.filter (fun y => y.num != num) } }
      if fget x.pkt.hdr Pk.TYPE = 3 then
        sendReadData s x.die x.pkt (if x.lines.any (fun e => e.2.poison) then 2 else 0) (x.lines.flatMap (fun e => e.2.data))
      else countDone s x.die x.pkt (if x.pkt.poison.isEmpty then 0 else 2)

/-! ## Slots (R217) -/

/-- Time passes by one slot on a pseudo-channel. -/
def slotPasses (x : Pc) : Pc :=
  { x with
    slot := (x.slot + 1) % 40000
    sinceAct := min 3 (x.sinceAct + 1)
    refresh := (x.refresh.map (fun e => (e.1, e.2 - 1))).filter (fun e => e.2 != 0) }

/-- BANK_REFRESH (R218): the bank closes and is under refresh for the slots given. -/
def execBankRefresh (m : StackId) (c : PcId) (bank : Fin 64) (slots : Nat) (s : State) : Out :=
  .next (
    if !stackServes s m then s else
    let x := getPc s m c
    setPcState s m c { x with
      rows := x.rows.filter (fun e => e.1 != bank.val)
      refresh := if slots = 0 then x.refresh else (bank.val, slots) :: x.refresh.filter (fun e => e.1 != bank.val) })

/-! ## Calibration slices (R221 to R224) -/

/-- Temperature of a stack in 1/16 °C, two's complement. -/
def stackTemp (s : State) (m : Nat) : Int := signed (s.rget (Reg.STACK_TEMP_TEMP m)) 16

/-- Points of a retrain: 65 DQ and 17 VREF (R223). -/
def retrainPoints : Nat := 82

/-- A retrain starts; one that runs goes on (R222). `train` holds one more than the points left. -/
def startRetrain (s : State) (m c : Nat) : State :=
  let x := getPc s m c
  if x.train ≠ 0 then s
  else (setPcState s m c { x with train := retrainPoints + 1, trainTemp := stackTemp s m }).rset (Reg.PC_STATUS_CAL_BUSY m c) 1

def retrainAll (s : State) (m : Nat) : State := (List.range 64).foldl (fun s c => startRetrain s m c) s

/-- Scrub 32 sectors in ascending order (R221): what each meets is given in order, and one poisoned is met again. -/
def scrub (s : State) (m c : Nat) (es : List Ecc) : State :=
  let first := (getPc s m c).scrub
  let s := (List.range 32).foldl (fun s i =>
    let n := (first + i) % 2 ^ 24
    let off := m * 2 ^ 36 + n / 16 * 2 ^ 16 + n % 16 * 2 ^ 12 + c * 64
    let r := readSector s m c off (es.getD i .clean)
    if r.1.poison then r.2.addPoison off 1 else r.2) s
  let x := getPc s m c
  setPcState s m c { x with scrub := (first + 32) % 2 ^ 24, rewrite := x.rewrite.filter (fun o => !(List.range 32).any (fun i =>
    let n := (first + i) % 2 ^ 24
    o == m * 2 ^ 36 + n / 16 * 2 ^ 16 + n % 16 * 2 ^ 12 + c * 64)) }

/-- The operating mode of a pseudo-channel outside service has no slots: a margin point needs no slice (R224). -/
def marginPoint (x : Pc) (laneBits : BitVec 32) : Pc := { x with points := x.points.drop 1, passes := x.passes ++ [laneBits] }

/-- Lane bits of one margin point over the pseudo-channels of the command: a lane passes when it passes in each. -/
def marginLanes (s : State) (q : MarginReq) (i : Nat) : BitVec 32 :=
  q.pcs.foldl (fun b c => b &&& (getPc s q.stack c).passes.getD i 0) (BitVec.ofNat 32 (2 ^ 32 - 1))

/-- MARGIN is answered once every pseudo-channel has run its points (R224, Table 15-4). -/
def marginAnswer (s : State) : State :=
  match s.net.margin with
  | none => s
  | some q =>
    if !q.pcs.all (fun c => (getPc s q.stack c).points.isEmpty) then s
    else
      let p := (List.range q.points).flatMap (fun i => be 4 (marginLanes s q i).toNat)
      let s := q.pcs.foldl (fun s c => setPcState s q.stack c { getPc s q.stack c with passes := [] }) s
      respond { s with net := { s.net with margin := none } } q.req 0x0060 (.done p)

/-- CAL_BUSY falls with the last margin point; with the last point of the last pseudo-channel MARGIN is answered. -/
def marginEnd (s : State) (m c : Nat) : State :=
  let x := getPc s m c
  let s := if x.points.isEmpty && x.train = 0 then s.rset (Reg.PC_STATUS_CAL_BUSY m c) 0 else s
  marginAnswer s

/-- The calibration slice of a stack in service: training goes on, else a margin point is taken or a sector scrubbed. -/
def calSlice (s : State) (m c : Nat) (ecc : List Ecc) (laneBits : BitVec 32) : State :=
  let x := getPc s m c
  let x := { x with rewrite := [], slot := (pcFrame x + 1) % 200 * 200, sinceAct := 3, refresh := [] }
  if 1 < x.train then setPcState s m c { x with train := x.train - 1 }
  else if x.train = 0 && !x.points.isEmpty then marginEnd (setPcState s m c (marginPoint x laneBits)) m c
  else
    let s := setPcState s m c x
    if x.train = 0 && s.rbit (Reg.SCRUB_EN m) then scrub s m c ecc else s

/-- CALIBRATION_SLICE (R219, R221 to R224): rewrites, then one retrain point, else one margin point, else scrubbing; the
slice takes the frame. A stack that is not in service runs margin points alone. -/
def execCalibrationSlice (m : StackId) (c : PcId) (ecc : List Ecc) (laneBits : BitVec 32) (s : State) : Out :=
  .next (
    let x := getPc s m c
    if !stackServes s m then
      (if x.points.isEmpty then s else marginEnd (setPcState s m c (marginPoint x laneBits)) m c)
    else if !inSlice x c then s
    else
      calSlice s m c ecc laneBits)

/-- CAL_PERIOD_EXPIRY (R222). -/
def execCalPeriodExpiry (m : StackId) (s : State) : Out :=
  .next (if !stackServes s m || s.rget (Reg.CAL_CTL_CAL_PERIOD m) = 0 then s else retrainAll s m)

/-- CAL_RETRAIN (R222): a write of CAL_CTL.RETRAIN. -/
def execCalRetrain (m : StackId) (w : Writer) (s : State) : Out :=
  .next (regCommand s w (Reg.CAL_CTL_RETRAIN m).off (fun s => if stackServes s m then retrainAll s m else s))

/-- A point lies at least 4 steps inside each edge (R222); steps are in two's complement. -/
def insideEye (lo hi x : BitVec 7) : Bool := decide (lo.toInt + 4 ≤ x.toInt) && decide (x.toInt + 4 ≤ hi.toInt)

/-- What a sweep measured: the eye is written; one below 16 is reported and keeps the old centres, and so does a point that is not 4 steps
inside the edges (R222, R223). -/
def eyeMeasured (s : State) (m c : Nat) (dqLo dqHi vrefLo vrefHi dq vref : BitVec 7) : State :=
  let eye := (dqHi.toInt - dqLo.toInt).toNat % 128
  let s := s.rset (Reg.PC_TRAIN_EYE m c) eye
  if eye < 16 then fileEvent (s.rset (Reg.PC_STATUS_MARGIN_LOW m c) 1) 2 0x0100 1 (m * 64 + c) 0 0
  else if !insideEye dqLo dqHi dq || !insideEye vrefLo vrefHi vref then s
  else (s.rset (Reg.PC_TRAIN_DQ_CENTRE m c) dq.toNat).rset (Reg.PC_TRAIN_VREF_CENTRE m c) vref.toNat

/-- The last point of a retrain. -/
def retrainDone (s : State) (m c : Nat) (dqLo dqHi vrefLo vrefHi dq vref : BitVec 7) : State :=
  let x := getPc s m c
  let s := setPcState s m c { x with train := 0, trainTemp := stackTemp s m }
  let s := if x.points.isEmpty then s.rset (Reg.PC_STATUS_CAL_BUSY m c) 0 else s
  eyeMeasured s m c dqLo dqHi vrefLo vrefHi dq vref

/-- RETRAIN_COMPLETE (R222, R223): after its last point a retrain moves the centres, or, with an eye narrower than 16 steps,
keeps them, sets MARGIN_LOW and sends an EVENT message (assumption 22 gives its kind). -/
def execRetrainComplete (m : StackId) (c : PcId) (dqLo dqHi vrefLo vrefHi dq vref : BitVec 7) (s : State) : Out :=
  .next (
    let x := getPc s m c
    if x.train ≠ 1 then s
    else
      retrainDone s m c dqLo dqHi vrefLo vrefHi dq vref)

/-! ## Heat (R233, R234) -/

/-- HEAT after a reading of t sixteenths of a degree (Table 9-8): up at a threshold, down below a release. -/
def heatNext (h : Nat) (t : Int) : Nat :=
  let up := if 105 * 16 ≤ t then 3 else if 95 * 16 ≤ t then 2 else if 85 * 16 ≤ t then 1 else 0
  let hold := if h = 3 && decide (95 * 16 ≤ t) then 3 else if 2 ≤ h && decide (92 * 16 ≤ t) then 2
    else if 1 ≤ h && decide (82 * 16 ≤ t) then 1 else 0
  max up hold

/-- Streams of the member that hold a slot share on a stack (R234). -/
def heatStreams (s : State) (m : Nat) : List Nat :=
  ((s.planks.filter (fun e => e.2.stream.isSome && (List.range 64).any (fun c => ownsShare s m c e.1))).filterMap
    (fun e => e.2.stream.map (·.val))).eraseDups

/-- Hjelper marks the streams that hold a share on stack m as heat-suspended (R234). -/
def heatMark (s : State) (m : Nat) : State :=
  let ns := heatStreams s m
  let s : State := { s with board := { s.board with heat := s.board.heat ++ ns.map (fun n => (m, n)) } }
  ns.foldl (fun s n => suspendStreamOp s n Susp.heat) s

/-- The marks of stack m go: streams that no other stack holds resume (R234). -/
def heatRelease (s : State) (m : Nat) : State :=
  let left := s.board.heat.filter (fun e => e.1 != m)
  let mine := (s.board.heat.filter (fun e => e.1 == m)).map (·.2)
  let s : State := { s with board := { s.board with heat := left } }
  (mine.filter (fun n => !left.any (fun e => e.2 == n))).foldl (fun s n => resumeStreamOp s n Susp.heat) s

/-- What a reading of a stack's sensor brings about: the peak, the heat level and what it suspends or resumes, and the retrains that a change of 5 °C asks for. -/
def stackTempOp (s : State) (m : Nat) (temp : BitVec 16) : State :=
  let t := temp.toInt
  let s := s.rset (Reg.STACK_TEMP_TEMP m) temp.toNat
  let s := if signed (s.rget (Reg.STACK_TEMP_PEAK m)) 16 < t then s.rset (Reg.STACK_TEMP_PEAK m) temp.toNat else s
  let h := s.rget (Reg.STACK_STATUS_HEAT m)
  let n := heatNext h t
  let s := s.rset (Reg.STACK_STATUS_HEAT m) n
  let s := if n = 2 && h ≠ 2 then s.rsat (Reg.HEAT_COUNT_THROTTLES m) 1 else s
  let s := if n = 3 && h ≠ 3 then
      heatMark (s.rsat (Reg.HEAT_COUNT_SUSPENDS m) 1) m
    else s
  let s := if h = 3 && n ≠ 3 then
      heatRelease s m
    else s
  if !stackServes s m then s
  else (List.range 64).foldl (fun s c =>
    if 80 ≤ (t - (getPc s m c).trainTemp).natAbs then startRetrain s m c else s) s

/-- STACK_TEMP_READ (R222, R233, R234). -/
def execStackTempRead (m : StackId) (temp : BitVec 16) (s : State) : Out :=
  .next (
    stackTempOp s m temp)

/-! ## Switches (R16, R216, R229, R230) -/

/-- PC_SWITCH_ARM (R216): a write of PC_SWITCH. An armed switch stands: the write is ignored (R444). -/
def execPcSwitchArm (m : StackId) (c : PcId) (w : Writer) (v : Word64) (s : State) : Out :=
  .next (pcSwitchWrite m c v w s)
where
  pcSwitchWrite (m c : Nat) (v : Word64) (w : Writer) (s : State) : State :=
    let f := Reg.PC_SWITCH_ARM m c
    guardedCommand s w f.off (v.getLsbD 48 && s.rbit (Reg.PC_STATUS_ARMED m c)) (fun s =>
      let s := s.rset (Reg.PC_SWITCH_OBJ m c) (fld v 14 0)
      let s := s.rset (Reg.PC_SWITCH_TARGET m c) (fld v 47 16)
      if v.getLsbD 48 then s.rset (Reg.PC_STATUS_ARMED m c) 1 else s)

/-- Owner in a table's entry. -/
def tableOwner (s : State) (m c t i : Nat) : Nat := shareCode (shareEntry s m c t i)

/-- SHARE_SWITCH_APPLY (R216): at a slot boundary outside the calibration slice, once the gating object is reached and no
request of an outgoing owner of a changing entry is in progress, the inactive table becomes active. Requests of a masked plank, which
owns no slot and is never served (assumption 119), hold nothing up. -/
def execShareSwitchApply (m : StackId) (c : PcId) (s : State) : Out :=
  .next (
    let x := getPc s m c
    let a := s.rget (Reg.PC_STATUS_ACTIVE m c)
    let outgoing := ((List.range 200).filter (fun i => tableOwner s m c a i != tableOwner s m c (1 - a) i)).map (tableOwner s m c a)
    if !s.rbit (Reg.PC_STATUS_ARMED m c) || inSlice x c
      || !objReached s (s.rget (Reg.PC_SWITCH_OBJ m c)) (s.rget (Reg.PC_SWITCH_TARGET m c))
      || outgoing.any (fun o => !ownsNothing s o && !(kget (fun _ => []) x.queues o).isEmpty) then s
    else (s.rset (Reg.PC_STATUS_ACTIVE m c) (1 - a)).rset (Reg.PC_STATUS_ARMED m c) 0)

/-- BANK_SWITCH_ARM (R230): a write of BANK_SWITCH. -/
def execBankSwitchArm (p : PlankId) (w : Writer) (v : Word64) (s : State) : Out :=
  .next (bankSwitchWrite p v w s)
where
  bankSwitchWrite (p : Nat) (v : Word64) (w : Writer) (s : State) : State :=
    guardedCommand s w (Reg.BANK_SWITCH_ARM p).off (v.getLsbD 48 && s.rbit (Reg.BANK_SWITCH_ARMED p)) (fun s =>
      let s := s.rset (Reg.BANK_SWITCH_OBJ p) (fld v 14 0)
      let s := s.rset (Reg.BANK_SWITCH_TARGET p) (fld v 47 16)
      if v.getLsbD 48 then s.rset (Reg.BANK_SWITCH_ARMED p) 1 else s)

/-- Next owner code of a bank; codes 5 to 15 read as 0 (Table 9-6). -/
def bankNext (s : State) (p b : Nat) : Nat :=
  let w := if b < 16 then s.word (Reg.BANK_NEXT_LO_NEXT p).off else s.word (Reg.BANK_NEXT_HI_NEXT p).off
  let c := bits w.toNat (b % 16 * 4) 4
  if c < 5 then c else 0

/-- Plank-store ranges of plank q that transfers in progress read or write, by this plank's own or others' transfers. -/
def xferRanges (s : State) (q : Nat) (mine : Bool) : List (Nat × Nat) :=
  s.fab.xfers.flatMap (fun x =>
    if (x.plank == q) != mine then [] else
    ((if fget x.desc Xd.SRC_CHIP = chipNo s then srcRuns x.desc else []) ++
      (if fget x.desc Xd.DST_CHIP = chipNo s then dstRuns x.desc else [])).filterMap (fun r =>
      match regionOf r.1 r.2 with
      | .store k o => if k = q then some (o, r.2) else none
      | _ => none))

/-- Ranges that a queued stream instruction reads or writes: its descriptor, the ranges of Table 8-6, and what its fields name beside
them (R116, R199, R200). -/
def queuedStream (s : State) (p : Nat) (w : Word64) : List (Nat × Nat) :=
  let o := streamOp s p w
  let x := match o.opc with
    | 0x40 => cvtWrites s p o
    | 0x41 => cvtRbReads s p o
    | 0x7F => (chkRanges s p o, [])
    | 0x80 => adamWord s p o
    | _ => ([], [])
  (streamDescOff w, 64) :: streamReads s p o ++ x.1 ++ streamWrites s p o ++ x.2

/-- Range of the plank store that a queued instruction of port 2 reads or writes: a load, a store, a table image (R187, R195). -/
def queuedRange (s : State) (p : Nat) (w : Word64) : List (Nat × Nat) :=
  let o := fget w Vec.OPC
  if isLoadStore o then [(fget w Vec.ADDR * 64, if o % 2 = 0 then 2048 else 1024)]
  else if o = 0x50 then [(tableOff s p (bits (fget w Vec.IMM) 2 6), 4160)]
  else []

/-- Bytes that came for a TYPE 2 accumulate-on-write of the plank and wait to be added (R231, assumption 19). -/
def accumRanges (s : State) (p : Nat) : List (Nat × Nat) :=
  s.fab.accums.flatMap (fun a => a.parts.filterMap (fun e =>
    if storeBase p ≤ e.1 && e.1 < storeBase (p + 1) then some (e.1 - storeBase p, e.2.length) else none))

/-- Banks in which a unit of the plank has a request in progress: the array's running pass, outlier segments, drains, image work,
a spill, a reload or a context write under way, instructions of port 2 and port 3 queued, transfers (R16, R230). -/
def busyBanks (s : State) (p : Nat) : List Nat :=
  let k := s.plank p
  let feed := match k.run with
    | some r => feedRanges s p r (getAcc s p (fget r.desc Desc.SEL)).sampled
    | none => []
  let drains := [0, 1].flatMap (fun sel =>
    if accState s p sel = AccSt.draining || accState s p sel = AccSt.pending then
      drainFixed s p (getAcc s p sel)
        ++ (List.range (passRows (getAcc s p sel).desc)).flatMap (drainRowRanges (getAcc s p sel)) else [])
  let images := match k.image with
    | some q => (q.image, imageBytes) :: (if q.load then [] else chkSums s p (getAcc s p q.sel))
    | none => []
  let context := (if k.spilling then spillRanges s p else []) ++ (if k.reload.isSome then reloadRanges s p else [])
    ++ (if k.quiesce.isSome then [(s.rget (Reg.CTX_BASE_BASE p) * 4096, 135168)] else [])
  let cells := (feed ++ k.segs.flatMap (segmentReads s p) ++ drains ++ images ++ context).flatMap (fun r => rangeBanks s p r.1 r.2)
  let vec := (k.port3.flatMap (fun v => queuedStream s p v.word) ++ k.port2.flatMap (fun v => queuedRange s p v.word)).flatMap
    (fun r => rangeBanks s p r.1 r.2)
  let mv := (xferRanges s p true ++ xferRanges s p false ++ accumRanges s p).flatMap (fun r => rangeBanks s p r.1 r.2)
  cells ++ vec ++ mv

/-- Banks that a valid spill or context area holds, with the areas that sedge sums are spilled to (R106, R119, R207). -/
def heldBanks (s : State) (p : Nat) : List Nat :=
  let sedge (sel : Nat) : List (Nat × Nat) := if bit (spillLive s p) sel then sedgeSpill s p (getAcc s p sel) sel else []
  (if s.rbit (Reg.PLANK_STATUS_SPILL_VALID p) then
    rangeBanks s p (spillOff s p) 1576960 ++ (sedge 0 ++ sedge 1).flatMap (fun r => rangeBanks s p r.1 r.2) else []) ++
  (if s.rbit (Reg.CORE_STATUS_CTX_VALID p) then rangeBanks s p (s.rget (Reg.CTX_BASE_BASE p) * 4096) 135168 else [])

/-- Every bank of the plank takes its next owner. -/
def bankSwitch (s : State) (p : Nat) : State :=
  let codes (lo : Nat) : Nat := (List.range 16).foldl (fun n i => n + bankNext s p (lo + i) * 16 ^ i) 0
  let s1 := (s.rset (Reg.BANK_OWN_LO_OWN p) (codes 0)).rset (Reg.BANK_OWN_HI_OWN p) (codes 16)
  s1.rset (Reg.BANK_SWITCH_ARMED p) 0

/-- BANK_SWITCH_APPLY (R230, R106): once the gate is reached, no changing bank holds a valid spill or context area and none
has a request in progress, every bank takes its next owner. A masked plank owns none (R12). -/
def execBankSwitchApply (p : PlankId) (s : State) : Out :=
  .next (
    let change := (List.range 32).filter (fun b => bankNext s p b != bankOwner s p b)
    let stuck := heldBanks s p ++ busyBanks s p
    if !s.rbit (Reg.BANK_SWITCH_ARMED p) || s.rbit (Reg.PLANK_STATUS_MASKED p)
      || !objReached s (s.rget (Reg.BANK_SWITCH_OBJ p)) (s.rget (Reg.BANK_SWITCH_TARGET p))
      || change.any (fun b => stuck.contains b) then s
    else
      bankSwitch s p)

/-- Bank and line of a plank-store offset, as one number: the bank's 512 KiB, line by line (R228). -/
def storePlace (s : State) (p off : Nat) : Nat :=
  let sp := spanOf s p (off / 0x200000)
  let l := (off - sp.base) / 64
  (sp.first + l % sp.banks) * 0x80000 + l / sp.banks * 64 + off % 64
/-- The plank-store offset of a place. -/
def storeOffset (s : State) (p place : Nat) : Nat :=
  let b := place / 0x80000
  let sp := spanOf s p (b / 4)
  sp.base + (place % 0x80000 / 64 * sp.banks + (b - sp.first)) * 64 + place % 64

/-- Entries of a plank store under the mapping of a new state: data stay in their bank and line, and each offset then reads
what the new mapping gives (R229). Memory is kept by offset, so an entry whose place has another offset now moves there. -/
def remapped {α : Type} [DecidableEq α] (dflt : Nat → α) (old new : State) (p : Nat) (m : List (Nat × α)) : List (Nat × α) :=
  let key (a : Nat) : Nat :=
    if storeBase p ≤ a && a < storeBase (p + 1) then storeBase p + storeOffset new p (storePlace old p (a - storeBase p)) else a
  (m.filter (fun e => key e.1 != e.1)).foldl (fun l e => kput dflt l (key e.1) e.2) (m.filter (fun e => key e.1 == e.1))

/-- The plank store under a new value of PS_MAP. -/
def setSpans (s : State) (p map : Nat) : State :=
  if map = s.rget (Reg.PS_MAP_SPAN p) then s
  else
    let t := s.rset (Reg.PS_MAP_SPAN p) map
    { t with
      mem := remapped noByte s t p s.mem
      poison := remapped noFlag s t p s.poison }

/-- A write of PS_MAP (R229): the field of a quad changes when the plank core owns its four banks; otherwise the field stays,
the write counts in WIN_ERR with cause 3 (Table 18-2), and the plank core traps with cause 26, sub-code 1. The second answer says
that a field stayed. -/
def psMapWrite (s : State) (p : Nat) (v : Word64) (insn src : Nat) : State × Bool :=
  let quads := (List.range 8).filter (fun q => bits v.toNat (2 * q) 2 != spanCode s p q)
  let ok (q : Nat) : Bool := (List.range 4).all (fun i => bankOwner s p (4 * q + i) == ownCore)
  let map := (List.range 8).foldl (fun n q => n + (if quads.contains q && ok q then bits v.toNat (2 * q) 2 else spanCode s p q) * 4 ^ q) 0
  let s := setSpans s p map
  if quads.all ok then (s, false)
  else
    let s := winErr s 3 src (Reg.PS_MAP_SPAN p).off
    (if coreActive s p then coreTrap s p 26 1 insn 0 else s, true)

/-- PS_MAP_WRITE (R229). The instruction word that TRAP_INFO takes is no operand of the command: a free value. -/
def execPsMapWrite (p : PlankId) (w : Writer) (v : Word64) (s : State) : Out :=
  .next (regCommand s w (Reg.PS_MAP_SPAN p).off (fun s => (psMapWrite s.drew p v (s.fresh.toNat % 2 ^ 32) (writerSrc w)).1))

end Sys2Proof.Machine
end

