-- ==== Sys2Proof/Machine/Link.lean ====
section
/-!
DEFINITION. Fabric links (R238 to R244, R260 to R264): states, frames, credits, retry, sealing, test patterns.
-/
namespace Sys2Proof.Machine

def getLink (s : State) (l : Nat) : Link := kget linkReset s.fab.links l
def setLink (s : State) (l : Nat) (x : Link) : State := { s with fab := { s.fab with links := kput linkReset s.fab.links l x } }
def modLink (s : State) (l : Nat) (f : Link → Link) : State := setLink s l (f (getLink s l))

-- Link states (Table 10-2).
namespace LinkSt
def down : Nat := 0
def training : Nat := 1
def identify : Nat := 2
def active : Nat := 3
def test : Nat := 4
def miswired : Nat := 5
def failed : Nat := 6
def disabled : Nat := 7
end LinkSt

def linkState (s : State) (l : Nat) : Nat := s.rget (Reg.LINK_STATUS_STATE (l / 4) (l % 4))
def setLinkState (s : State) (l st : Nat) : State := s.rset (Reg.LINK_STATUS_STATE (l / 4) (l % 4)) st

/-! ## The routing-table image (Table 10-7) -/

/-- Bits of the image from byte `off`: n bytes, little-endian. -/
def tbl (s : State) (off n : Nat) : Nat := leNat ((s.fab.table.drop off).take n)
def portEntry (s : State) (p : Nat) : BitVec 128 := BitVec.ofNat 128 (tbl s (64 + 16 * p) 16)
def humEntry (s : State) (h : Nat) : BitVec 64 := BitVec.ofNat 64 (tbl s (832 + 8 * h) 8)
def memEntry (s : State) (m : Nat) : BitVec 64 := BitVec.ofNat 64 (tbl s (4928 + 8 * m) 8)
def portValid (s : State) (p : Nat) : Bool := fld (portEntry s p) 63 63 == 1
def portPeer (s : State) (p : Nat) : Nat := fld (portEntry s p) 61 48
def portGlobal (s : State) (p : Nat) : Bool := fld (portEntry s p) 62 62 == 1
def portHas (s : State) (p l : Nat) : Bool := portValid s p && bit (fld (portEntry s p) 47 0) l

/-- The logical port of a link. -/
def portOf (s : State) (l : Nat) : Option Nat := (List.range 48).find? (fun p => portHas s p l)

/-- Links of a port, ascending. -/
def portLinks (s : State) (p : Nat) : List Nat := (List.range 48).filter (fun l => portHas s p l)

/-- Peer link number that the image gives for link l of port p: the entry of its place among the port's links. -/
def peerLink (s : State) (p l : Nat) : Nat :=
  let k := ((portLinks s p).filter (· < l)).length
  fld (portEntry s p) (6 * k + 69) (6 * k + 64)

/-! ## Flits, frames and the CRC (R240) -/

/-- A flit of 64 bytes, most significant byte first, and its bytes. -/
def flitOf (bs : List Byte) : BitVec 512 := BitVec.ofNat 512 (bs.foldl (fun n b => n * 256 + b.toNat) 0)
def flitBytes (f : BitVec 512) : List Byte := (List.range 64).map (fun i => BitVec.ofNat 8 (fld f (511 - 8 * i) (504 - 8 * i)))

/-- One bit of the CRC-16 of ITU-T V.41. -/
def crc16Bit (c : BitVec 16) (b : Bool) : BitVec 16 :=
  if c.getLsbD 15 != b then (c <<< 1) ^^^ 0x1021#16 else c <<< 1
def crc16 (bs : List Byte) : BitVec 16 :=
  bs.foldl (fun c b => (List.range 8).foldl (fun c i => crc16Bit c (b.getLsbD (7 - i))) c) 0xFFFF#16

-- Control word fields (Table 10-1).
namespace Ctl
def SEQ : Fd := (63, 55)
def ACK : Fd := (54, 46)
def NAK : Fd := (45, 45)
def MK : Fd := (44, 43)
def CVC : Fd := (42, 40)
def CRED : Fd := (39, 35)
def CRC : Fd := (15, 0)
end Ctl
/-- Lane code of slot i; 7 is an empty slot. -/
def slotLane (ctl : BitVec 64) (i : Nat) : Nat := fld ctl (3 * i + 25) (3 * i + 23)

/-- CRC that a frame must carry: over its slots and control bits [63:16]. -/
def frameCrc (f : Frame) : BitVec 16 :=
  crc16 (f.slots.flatMap flitBytes ++ (List.range 6).map (fun i => BitVec.ofNat 8 (fld f.ctl (63 - 8 * i) (56 - 8 * i))))

/-! ## Credits (R241) -/

/-- Flits of a pool. -/
def poolSize (c : Nat) : Nat := if c < 4 then 128 else if c < 7 then 72 else 0
/-- Credits that the sender holds for a pool, kept as the deficit from the full pool. -/
def credit (x : Link) (c : Nat) : Nat := kget poolSize x.credits c

/-- Flits of a packet leave the input pool that held them. -/
def freePool (s : State) (h : Head) (n : Nat) : State :=
  if h.inp < 4 && h.pool < 7 then
    modLink s (4 * h.die + h.inp) (fun x => { x with freed := kput noCount x.freed h.pool (kget noCount x.freed h.pool + n) })
  else s

/-- Flits of a packet on a link: header, payload, and the tail of a sealed one (R247, R261). -/
def packetFlits (h : BitVec 512) : Nat :=
  let ty := fget h Pk.TYPE
  1 + (if ty = 3 || ty = 5 || ty = 6 then 0 else fget h Pk.FLITS) + (if fget h Pk.PARTITION = 0 then 0 else 1)

/-! ## Sealing on a link (R260 to R263) -/

/-- "EXM-T40 FABRIC". -/
def fabricLabel : List Byte := [0x45, 0x58, 0x4D, 0x2D, 0x54, 0x34, 0x30, 0x20, 0x46, 0x41, 0x42, 0x52, 0x49, 0x43]

/-- Key of a link direction. -/
def linkKey (k : SealKey) (partition sChip sLink rChip rLink : Nat) : List Byte :=
  Config.kmac256 k.key (be 2 partition ++ be 2 sChip ++ be 1 sLink ++ be 2 rChip ++ be 1 rLink ++ be 4 k.epoch) 256 fabricLabel

/-- Context of a partition on a link die, and the key of a slot. -/
def ctxOf (s : State) (die partition : Nat) : Option SealCtx :=
  ((List.range 16).map (fun i => kget ctxReset s.fab.ctxs (16 * die + i))).find? (fun c =>
    c.partition == partition && (c.slot0.isSome || c.slot1.isSome))
def SealCtx.key (c : SealCtx) (slot : Nat) : Option SealKey := if slot = 0 then c.slot0 else c.slot1

def sealIv (ctr : Nat) : List Byte := be 4 0 ++ be 8 ctr

/-- The flits that carry a packet over a link, with their poison marks: in clear without a partition; sealed under the
context's current slot; none when the die holds no key for the partition (R262). -/
def wireOf (s : State) (l : Nat) (pkt : Packet) : Option (List (BitVec 512 × Bool) × State) :=
  let body (bs : List Byte) := (List.range (bs.length / 64)).map (fun i => (flitOf ((bs.drop (64 * i)).take 64), pkt.poison.contains i))
  let part := fget pkt.hdr Pk.PARTITION
  if part = 0 then some ((pkt.hdr, false) :: body pkt.payload, s)
  else
    match ctxOf s (l / 4) part with
    | none => none
    | some c =>
      match c.key c.send with
      | none => none
      | some k =>
        let idx := (l * 65536 + part) * 2 + c.send
        let ctr := kget noCount s.fab.ctrs idx
        let h := fset (fset pkt.hdr Pk.KEY_SLOT c.send) Pk.SEAL_CTR ctr
        let j := s.rget (Reg.LINK_STATUS_PEER_LINK (l / 4) (l % 4))
        let key := linkKey k part (chipNo s) l (s.rget (Reg.LINK_STATUS_PEER_CHIP (l / 4) (l % 4))) j
        let r := Config.gcmSeal key (sealIv ctr) (flitBytes h) pkt.payload
        let tail := flitOf ((r.2 ++ List.replicate 64 0).take 64)
        some ((h, false) :: body r.1 ++ [(tail, pkt.badTail)],
          { s with fab := { s.fab with ctrs := kput noCount s.fab.ctrs idx (ctr + 1) } })

/-- A packet as a receiver takes it from its flits: opened under the slot that its header names, a bad tag marking its tail
and counting (R262). HOPS rises by 1, and the lane changes when the link is global (R255, R256). A mismatch is logged against the link (Table 13-3). -/
def packetFrom (s : State) (l : Nat) (fs : List (BitVec 512 × Bool)) : Packet × State :=
  let h0 := (fs.headD (0, false)).1
  let part := fget h0 Pk.PARTITION
  let data := if part = 0 then fs.drop 1 else (fs.drop 1).dropLast
  let bytes := data.flatMap (fun f => flitBytes f.1)
  let marks := (data.zipIdx.filter (fun f => f.1.2)).map (·.2)
  let lane := fget h0 Pk.LANE
  let glob := match portOf s l with
    | some p => portGlobal s p
    | none => false
  let h := fset h0 Pk.HOPS (fget h0 Pk.HOPS + 1)
  let h := if glob && (lane == 0 || lane == 2) then fset h Pk.LANE (lane + 1) else h
  if part = 0 then (⟨h, bytes, marks, false⟩, s)
  else
    let tail := fs.getLastD (0, false)
    if tail.2 then (⟨h, bytes, marks, true⟩, s)
    else
      let opened := match ctxOf s (l / 4) part with
        | none => none
        | some c =>
          match c.key (fget h0 Pk.KEY_SLOT) with
          | none => none
          | some k =>
            let key := linkKey k part (s.rget (Reg.LINK_STATUS_PEER_CHIP (l / 4) (l % 4)))
              (s.rget (Reg.LINK_STATUS_PEER_LINK (l / 4) (l % 4))) (chipNo s) l
            Config.gcmOpen key (sealIv (fget h0 Pk.SEAL_CTR)) (flitBytes h0) bytes ((flitBytes tail.1).take 16)
      match opened with
      | some plain => (⟨h, plain, marks, false⟩, s)
      | none =>
        let s := s.radd (Reg.SEAL_FAIL_COUNT (l / 4)) 1
        (⟨h, bytes, marks, true⟩, fileError (fileEvent s 1 0x0203 2 l 0 0) 2 l 4 0 0 0)

/-- The old slots of a die's contexts are cleared when every Active link has the echo of a marker sent after the switch (R263). -/
def clearOldKeys (s : State) (die : Nat) : State :=
  let links := (List.range 4).filter (fun j => linkState s (4 * die + j) == LinkSt.active)
  (List.range 16).foldl (fun s i =>
    let c := kget ctxReset s.fab.ctxs (16 * die + i)
    if c.clearing.isEmpty || links.any (fun j => decide ((getLink s (4 * die + j)).echoes < c.clearing.getD j 0)) then s else
    let c := if c.send = 0 then { c with slot1 := none, clearing := [] } else { c with slot0 := none, clearing := [] }
    let s := { s with fab := { s.fab with ctxs := kput ctxReset s.fab.ctxs (16 * die + i) c } }
    s.rset (if c.send = 0 then Reg.SEAL_KEYS_SLOT1 die else Reg.SEAL_KEYS_SLOT0 die)
      ((List.range 16).foldl (fun n k => n + (if ((kget ctxReset s.fab.ctxs (16 * die + k)).key (1 - c.send)).isSome then 2 ^ k else 0)) 0)) s

/-! ## States (R243, R244) -/

/-- A link enters Training, or Test when TEST is set in Down. -/
def enterTraining (s : State) (l : Nat) : State :=
  (setLinkState s l LinkSt.training).rsat (Reg.LINK_RETRY_TRAINS (l / 4) (l % 4)) 1
def enterDown (s : State) (l : Nat) : State :=
  if s.rbit (Reg.LINK_CTL_TEST (l / 4) (l % 4)) then setLinkState s l LinkSt.test else enterTraining s l

/-- Packets granted on a link of which no flit has gone out are free to be routed anew (R265). -/
def unbegun (s : State) (l : Nat) : State :=
  { s with fab := { s.fab with heads := s.fab.heads.map (fun h =>
      if h.die == l / 4 && h.out == some (l % 4) && !h.begun then { h with granted := false, wire := [], out := none, link := none }
      else h) } }

/-- A link leaves Active: its 10 ms begin (R244). -/
def leaveActive (s : State) (l : Nat) : State :=
  if linkState s l = LinkSt.active then unbegun (modLink s l (fun x => { x with lost := true, failed := 0 })) l else s

/-- The link dies run their firmware: from bring-up on (Table 16-7), not in Mire hold and not after a trip (R345, R400). -/
def fabricRuns (s : State) : Bool := s.board.booted && (modState s == 2 || modState s == 4 || modState s == 5 || modState s == 6)

/-- A link in Training whose link die runs. -/
def isTraining (s : State) (l : Nat) : Bool := fabricRuns s && linkState s l == LinkSt.training

/-- The link dies begin to run: a link in Down trains at once, unless TEST is set (Table 10-2, Table 16-7 row 6). -/
def linksTrain (s : State) : State :=
  (List.range 48).foldl (fun s l => if linkState s l = LinkSt.down then enterDown s l else s) s

/-- LINK_TRAINING_DONE (R243): in Identify the link sends its chip and link number. -/
def execLinkTrainingDone (l : LinkId) (s : State) : Out :=
  .next (
    if !isTraining s l then s
    else
      let s := modLink (setLinkState s l LinkSt.identify) l (fun x => { x with failed := 0 })
      { s with out := .identity l (chipNo s) l :: s.out })

/-- LINK_TRAINING_TIMEOUT (R243): one failure; the third in a row is Failed and filed. -/
def execLinkTrainingTimeout (l : LinkId) (s : State) : Out :=
  .next (
    if !isTraining s l then s
    else
      let n := (getLink s l).failed + 1
      let s := modLink s l (fun x => { x with failed := n })
      if 3 ≤ n then
        let s := setLinkState s l LinkSt.failed
        let s := s.rsat (Reg.LINK_RETRY_FAILS (l.val / 4) (l.val % 4)) 1
        fileError s 2 l 0 0 0 0
      else enterDown s l)

/-- A link that becomes Active without its old state starts afresh (R241). Markers whose echo is lost with it stand for one that is
sent anew (assumption 60). -/
def freshLink (x : Link) : Link :=
  let out := x.marks != x.echoes
  let n := if x.markDue || !out then x.marks else x.marks - 1
  { linkReset 0 with
    markDue := x.markDue || out
    marks := n
    echoes := n
    drainMark := x.drainMark }

/-- A marker is due on a link, and a drain waits for its echo (R258). -/
def drainLink (x : Link) : Link :=
  { x with
    markDue := true
    drainMark := x.marks + 1 }

/-- A link that has read its peer: Active when chip and link are those of the image, else Miswired. One that was Active within 10 ms sends
its retry buffer anew, whose frames count their retransmissions from here (R242, R244). -/
def identified (s : State) (l : Nat) (chip : BitVec 14) (peer : BitVec 6) : State :=
  let d := l / 4
  let j := l % 4
  let s := (s.rset (Reg.LINK_STATUS_PEER_CHIP d j) chip.toNat).rset (Reg.LINK_STATUS_PEER_LINK d j) peer.toNat
  let ok := match portOf s l with
    | some p => portPeer s p == chip.toNat && peerLink s p l == peer.toNat
    | none => false
  if !ok then setLinkState (s.rset (Reg.LINK_STATUS_MISWIRED d j) 1) l LinkSt.miswired
  else
    let s := setLinkState (s.rset (Reg.LINK_STATUS_MISWIRED d j) 0) l LinkSt.active
    modLink s l (fun x =>
      if x.lost then { x with
        lost := false
        retry := x.retry.map (fun r => { r with times := 0 })
        resend := if x.retry.isEmpty then none else some 0 }
      else if s.rget (Reg.FAB_STATUS_MODE d) = 1 then drainLink (freshLink x) else freshLink x)

/-- LINK_IDENTIFY (R243, R244): Active when chip and link are those of the image; the retry buffer of a link that was Active
within 10 ms is resent. A link that comes up while the member drains sends its marker too. -/
def execLinkIdentify (l : LinkId) (chip : BitVec 14) (peer : BitVec 6) (s : State) : Out :=
  .next (
    if linkState s l ≠ LinkSt.identify then s
    else
      identified s l chip peer)

/-- CODEWORD_LOCK_LOST (R243). -/
def execCodewordLockLost (l : LinkId) (s : State) : Out :=
  .next (if linkState s l ≠ LinkSt.active then s else enterTraining (leaveActive s l) l)

/-- A request that a router cannot deliver is answered with a status; a response, SIGNAL or TREE packet is only counted
(R255). -/
def answerLost (s : State) (die : Nat) (h : BitVec 512) (status : Nat) : State :=
  let pkt : Packet := ⟨h, [], [], false⟩
  let ty := fget h Pk.TYPE
  if ty = 3 then sendReadData s die pkt status []
  else if ty = 1 || ty = 2 || ty = 7 then
    sendDone s { die := die, chip := fget h Pk.SRC_CHIP, xid := fget h Pk.XFER_ID, status := status, stream := fget h Pk.STREAM,
                 partition := fget h Pk.PARTITION, slot := fget h Pk.KEY_SLOT, count := 1 }
  else s

/-- Take a head out of its router. -/
def dropHead (s : State) (id : Nat) : State :=
  { s with fab := { s.fab with heads := s.fab.heads.filter (fun h => h.id != id) } }

/-- A packet whole at the input of link l joins the router of its die. -/
def addHead (s : State) (die inp pool : Nat) (pkt : Packet) : State :=
  let h : Head := ⟨s.fab.nextId, die, inp, pool, pkt, none, none, false, [], false⟩
  { s with fab := { s.fab with heads := s.fab.heads ++ [h], nextId := s.fab.nextId + 1 } }

/-- Half-received packets are completed with flits marked poisoned, and go on (R244). -/
def poisonTails (s : State) (l : Nat) : State :=
  let x := getLink s l
  let s := modLink s l (fun x => { x with rx := [] })
  x.rx.foldl (fun s e =>
    match e.2 with
    | [] => s
    | (h, m) :: fs =>
      let need := packetFlits h
      let have' := (h, m) :: fs
      let full := have' ++ List.replicate (need - have'.length) ((0 : BitVec 512), true)
      let sealed := fget h Pk.PARTITION != 0
      let r := if sealed then packetFrom s l (full.dropLast ++ [((0 : BitVec 512), true)]) else packetFrom s l full
      addHead r.2 (l / 4) (l % 4) e.1 r.1) s

/-- What had begun on a lost link and not completed is truncated at both ends, and the link logged (R244, Table 13-3). -/
def linkLost (s : State) (l : Nat) : State :=
  let x := getLink s l
  let d := l / 4
  let s := poisonTails s l
  let cut := s.fab.heads.filter (fun h => h.die == d && h.begun && h.out == some (l % 4))
  let s := cut.foldl (fun s h => answerLost (freePool (dropHead s h.id) h (packetFlits h.pkt.hdr)) d h.pkt.hdr 6) s
  let s := x.inFlight.foldl (fun s p => answerLost s d p.2 6) s
  let s := s.rsat (Reg.ROUTER_DROP_LOST d) (cut.length + x.inFlight.length)
  let s := fileError s 2 l 6 0 0 0
  setLink s l { freshLink x with failed := x.failed }

/-- LINK_LOSS_TIMEOUT (R244): what had begun on the link and not completed is truncated at both ends. -/
def execLinkLossTimeout (l : LinkId) (s : State) : Out :=
  .next (
    let x := getLink s l
    if !x.lost || linkState s l = LinkSt.active then s
    else
      linkLost s l)

/-- A write of LINK_CTL: a bit of it. -/
def linkCtl (s : State) (w : Writer) (l : Nat) (act : State → State) : State :=
  regCommand s w (Reg.LINK_CTL_DISABLE (l / 4) (l % 4)).off act

def linkDisableOp (l : Nat) (on : Bool) (s : State) : State :=
  let s := s.rset (Reg.LINK_CTL_DISABLE (l / 4) (l % 4)) (boolNat on)
  if on then (if linkState s l = LinkSt.disabled then s else setLinkState (leaveActive s l) l LinkSt.disabled)
  else if linkState s l = LinkSt.disabled then enterDown s l else s

/-- RETRAIN sends a link to Training; a disabled or tested link stays (Table 10-2). -/
def linkRetrainOp (l : Nat) (s : State) : State :=
  let st := linkState s l
  if st = LinkSt.disabled || st = LinkSt.test then s
  else enterTraining (modLink (leaveActive s l) l (fun x => { x with failed := 0 })) l

def linkTestOp (l : Nat) (on : Bool) (s : State) : State :=
  let s := s.rset (Reg.LINK_CTL_TEST (l / 4) (l % 4)) (boolNat on)
  if on then (if linkState s l = LinkSt.down then setLinkState s l LinkSt.test else s)
  else if linkState s l = LinkSt.test then enterDown s l else s

/-- LINK_DISABLE (R243). -/
def execLinkDisable (l : LinkId) (w : Writer) (on : Bool) (s : State) : Out := .next (linkCtl s w l (linkDisableOp l on))
/-- LINK_RETRAIN (R243). -/
def execLinkRetrain (l : LinkId) (w : Writer) (s : State) : Out := .next (linkCtl s w l (linkRetrainOp l))
/-- LINK_TEST (R243, R264). -/
def execLinkTest (l : LinkId) (w : Writer) (on : Bool) (s : State) : Out := .next (linkCtl s w l (linkTestOp l on))

/-! ## Test patterns (R264, Table 10-10) -/

/-- How many bits back the terms of a PRBS stand: the next bit is their sum. -/
def prbsTaps : Nat → List Nat
  | 1 => [7, 6]
  | 2 => [9, 5]
  | 3 => [13, 12, 2, 1]
  | 4 => [15, 14]
  | 5 => [23, 18]
  | 6 => [31, 28]
  | _ => []

/-- Bits that a pattern's next bit depends on. -/
def patternSpan (code : Nat) : Nat := if code = 7 then 64 else (prbsTaps code).headD 0

/-- The bit of a pattern after the bits of a window, the latest in bit 0. -/
def patternNext (code : Nat) (w : BitVec 64) : Bool :=
  if code = 7 then w.getLsbD 63 else (prbsTaps code).foldl (fun b t => b ^^ w.getLsbD (t - 1)) false

/-- A window of bits lies in the pattern: a rotation of PAT_USER, or no run of zeros as long as the PRBS register. -/
def inPattern (code : Nat) (user w : BitVec 64) : Bool :=
  if code = 7 then (List.range 64).any (fun i => user.rotateLeft i == w) else w.toNat % 2 ^ patternSpan code != 0

def pushBit (w : BitVec 64) (b : Bool) : BitVec 64 := (w <<< 1) ||| BitVec.ofNat 64 (boolNat b)

/-- A checker takes one bit. Unlocked it compares with what the bits before ask for, and locks after 1,024 correct ones in a row;
locked it counts the bit, and its error, against its own pattern. -/
def checkBit (chk : Nat) (user : BitVec 64) (x : LaneTest) (b : Bool) : LaneTest :=
  let want := patternNext chk x.seen
  if x.lock then { x with
    seen := pushBit x.seen want
    errors := x.errors + boolNat (b != want)
    bits := x.bits + 1 }
  else
    let ok := decide (patternSpan chk ≤ x.seenLen) && inPattern chk user x.seen && b == want
    { x with
      seen := pushBit x.seen b
      seenLen := min 64 (x.seenLen + 1)
      run := if ok then x.run + 1 else 0
      lock := ok && decide (1024 ≤ x.run + 1) }

/-- The pattern state of a fabric lane. -/
def fabricLane (s : State) (l i : Nat) : LaneTest := kget laneReset s.net.tests (laneKey 0 l i)
def setFabricLane (s : State) (l i : Nat) (x : LaneTest) : State :=
  { s with net := { s.net with tests := kput laneReset s.net.tests (laneKey 0 l i) x } }

/-- PATTERN_CHECKER_LOCK (R264): bits reach the checker of a lane whose link is in Test; it locks on them, and counts what it
compares from then on. -/
def execPatternCheckerLock (l : LinkId) (lane : Fin 2) (bits : List Bool) (s : State) : Out :=
  .next (
    let d := l.val / 4
    let j := l.val % 4
    let chk := s.rget (Reg.PAT_CTL_CHK d j lane)
    if linkState s l ≠ LinkSt.test || chk = 0 then s
    else
      let x : LaneTest := { fabricLane s l lane with
        lock := s.rbit (Reg.PAT_ERR_LOCK d j lane)
        errors := 0
        bits := 0 }
      let x := bits.foldl (checkBit chk (s.word (Reg.PAT_USER_USER d j lane).off)) x
      let s := ((s.rset (Reg.PAT_ERR_LOCK d j lane) (boolNat x.lock)).radd (Reg.PAT_ERR_ERRORS d j lane) x.errors).radd
        (Reg.PAT_BITS_BITS d j lane) x.bits
      setFabricLane s l lane { x with
        lock := false
        errors := 0
        bits := 0 })

/-- The next 64 bits of a pattern after a window, the first in bit 63. -/
def patternBits (code : Nat) (w : BitVec 64) : BitVec 64 := (List.range 64).foldl (fun w _ => pushBit w (patternNext code w)) w

/-- The generator of a fabric lane sends 64 bits of its pattern (Table 10-10). Where a PRBS begins is a free value
(assumption 29); PAT_USER begins with its bit 63. -/
def sendPattern (s : State) (l i : Nat) : State :=
  let code := s.rget (Reg.PAT_CTL_GEN (l / 4) (l % 4) i)
  if code = 0 then s else
  let x := fabricLane s l i
  let first : BitVec 64 × State := if x.taken then (x.sent, s)
    else if code = 7 then (s.word (Reg.PAT_USER_USER (l / 4) (l % 4) i).off, s)
    else (BitVec.ofNat 64 (s.fresh.toNat % (2 ^ patternSpan code - 1) + 1), s.drew)
  let w := patternBits code first.1
  let s := setFabricLane first.2 l i { x with
    taken := true
    sent := w }
  { s with out := .pattern l i w :: s.out }

/-! ## Receiving a frame (R240 to R242, R258) -/

/-- The distance from a to b modulo 512. -/
def seqDist (a b : Nat) : Nat := (b + 512 - a % 512) % 512

/-- Frames and packets that an ACK covers leave the sender's keeping. -/
def takeAck (x : Link) (ack : Nat) : Link :=
  let covered (seq : Nat) : Bool := decide (seqDist seq ack < 256)
  let keep := x.retry.filter (fun r => !covered (fget r.frame.ctl Ctl.SEQ))
  let gone := x.retry.length - keep.length
  { x with
    retry := keep
    inFlight := x.inFlight.filter (fun p => !covered p.1)
    resend := match x.resend with
      | some i => if keep.isEmpty then none else some (i - gone)
      | none => none }

/-- Credits freed by the peer, as the difference from the last CRED of the pool (R241). -/
def takeCredit (x : Link) (cvc cred : Nat) : Link :=
  if 7 ≤ cvc then x else
  let last := kget noCount x.lastCred cvc
  let n := (cred + 32 - last) % 32
  { x with
    lastCred := kput noCount x.lastCred cvc cred
    credits := kput poolSize x.credits cvc (min (poolSize cvc) (credit x cvc + n)) }

/-- One flit arrives in a pool; the last flit of a packet hands it to the router. -/
def takeFlit (s : State) (l c : Nat) (f : BitVec 512 × Bool) : State :=
  let s := s.radd (Reg.LINK_RX_FLITS (l / 4) (l % 4)) 1
  let x := getLink s l
  let fs := kget (fun _ => []) x.rx c ++ [f]
  if fs.length < packetFlits (fs.headD (0, false)).1 then setLink s l { x with rx := kput (fun _ => []) x.rx c fs }
  else
    let x := { x with
      rx := kput (fun _ => []) x.rx c []
      echoWait := x.echoWait.map (fun e => if e.pools.contains c then ⟨e.pools.filter (· != c), s.fab.nextId :: e.heads⟩ else e) }
    let r := packetFrom (setLink s l x) l fs
    addHead r.2 (l / 4) (l % 4) c r.1

/-- A marker arrives: its echo is due when the flits received before it have left (R258). -/
def takeMarker (s : State) (l : Nat) : State :=
  let ids := (s.fab.heads.filter (fun h => h.die == l / 4 && h.inp == l % 4)).map (·.id)
  modLink s l (fun x => { x with echoWait := x.echoWait ++ [⟨(x.rx.filter (fun e => !e.2.isEmpty)).map (·.1), ids⟩] })

/-- The echo that a drain waits for is back. -/
def markBack (x : Link) : Bool := decide (x.drainMark ≤ x.echoes)

/-- Enough echoes: FAB_STATUS.ECHOES of the die. -/
def noteEchoes (s : State) (d : Nat) : State :=
  let act := (List.range 4).filter (fun j => linkState s (4 * d + j) == LinkSt.active)
  s.rset (Reg.FAB_STATUS_ECHOES d) (boolNat (act.all (fun j => markBack (getLink s (4 * d + j)))))

/-- A new packet for a drained member makes it drain again, with new markers (R258). -/
def drainAgain (s : State) : State :=
  if s.rget (Reg.FAB_STATUS_MODE 0) < 2 then s
  else startDrain s
where
  startDrain (s : State) : State :=
    let s := (List.range 12).foldl (fun s d => (s.rset (Reg.FAB_STATUS_MODE d) 1).rset (Reg.FAB_STATUS_ECHOES d) 0) s
    (List.range 48).foldl (fun s l =>
      if linkState s l = LinkSt.active then modLink s l drainLink else s) s

/-- A frame in sequence: its acknowledgement, credits, flits and markers are taken. -/
def frameTaken (s : State) (l : Nat) (f : Frame) (idle : Bool) : State :=
  let d := l / 4
  let seq := fget f.ctl Ctl.SEQ
  let x := getLink s l
  let x := takeAck x (fget f.ctl Ctl.ACK)
  let x := takeCredit x (fget f.ctl Ctl.CVC) (fget f.ctl Ctl.CRED)
  let x := if fget f.ctl Ctl.NAK = 1 && x.resend.isNone && !x.retry.isEmpty then { x with resend := some 0 } else x
  let x := if idle then x else { x with rxSeq := seq, nak := false, discard := false }
  let s := setLink s l x
  let s := if idle then s else drainAgain s
  let s := if idle then s else (List.range 4).foldl (fun s i =>
    let c := slotLane f.ctl i
    if c = 7 then s else takeFlit s l c (f.slots.getD i 0, f.poison.getLsbD i)) s
  let mk := fget f.ctl Ctl.MK
  let s := if mk = 1 || mk = 3 then takeMarker s l else s
  if mk = 2 || mk = 3 then
    clearOldKeys (noteEchoes (modLink s l (fun x => { x with echoes := min x.marks (x.echoes + 1) })) d) d
  else s

/-- FRAME_RECEIVE (R240 to R242, R258): a frame is taken whole or discarded. `corrected` codewords of it had errors that the FEC
corrected. -/
def execFrameReceive (l : LinkId) (f : Frame) (fecOk : Bool) (corrected : BitVec 32) (s : State) : Out :=
  .next (
    if linkState s l ≠ LinkSt.active then s
    else
      let d := l.val / 4
      let j := l.val % 4
      let s := s.radd (Reg.LINK_FEC_CORR d j) corrected.toNat
      let bad := fun (s : State) => modLink s l (fun x => { x with nak := true, discard := true })
      if !fecOk then bad (s.radd (Reg.LINK_FEC_UNCORR d j) 1)
      else if fget f.ctl Ctl.CRC ≠ (frameCrc f).toNat then bad s
      else
        let x := getLink s l
        let seq := fget f.ctl Ctl.SEQ
        let idle := (List.range 4).all (fun i => slotLane f.ctl i == 7)
        if seq ≠ (if idle then x.rxSeq else (x.rxSeq + 1) % 512) then bad s
        else
          frameTaken s l f idle)

/-- MARKER_ECHO (R258): every flit received before the marker has left the input buffers. -/
def execMarkerEcho (l : LinkId) (s : State) : Out :=
  .next (
    let x := getLink s l
    match x.echoWait with
    | [] => s
    | e :: es =>
      if !e.pools.isEmpty || s.fab.heads.any (fun h => e.heads.contains h.id) then s
      else setLink s l { x with echoWait := es, echoDue := x.echoDue + 1 })

end Sys2Proof.Machine
end

