-- ==== Sys2Proof/Machine/Image.lean ====
section
/-!
DEFINITION. The flash device and what it holds: images, their components and signatures, the configuration record, and the
checks of a routing-table image (R254, R391 to R406).
-/
namespace Sys2Proof.Machine

/-- Bytes of an ASCII text. -/
def ascii (t : String) : List Byte := t.toList.map (fun c => BitVec.ofNat 8 c.toNat)

/-! ## The flash (R391, R392) -/

/-- Offset of the recovery area (Table 16-1). -/
def recoveryBase : Nat := 0x0C400000
/-- The flash as delivered: erased bytes read 0xFF (assumption 27), the recovery area as manufacture wrote it. -/
def delivered (off : Nat) : Byte := if off < recoveryBase then 0xFF else Config.recoveryArea (off - recoveryBase)
def flashBytes (s : State) (off n : Nat) : List Byte := kgets delivered s.board.flash off n
/-- Program bytes; a page program only follows an erase here, so it sets the bytes. A write-protected recovery area keeps its own (R392). -/
def flashWrite (s : State) (off : Nat) (bs : List Byte) : State :=
  let bs := if s.board.recoveryWp then bs.take (recoveryBase - off) else bs
  { s with board := { s.board with flash := kputs delivered s.board.flash off bs } }
/-- Erase a 64 KiB sector; one of a write-protected recovery area stays (R392). -/
def flashErase (s : State) (off : Nat) : State :=
  let a := off / 65536
  if s.board.recoveryWp && decide (recoveryBase ≤ off) then s else
  { s with board := { s.board with flash := s.board.flash.filter (fun e => e.1 / 65536 != a) } }

/-- Offset of slot A (0), of slot B (1) or of the recovery area (2) (Table 16-1). -/
def slotBase (slot : Nat) : Nat := if slot = 0 then 0 else if slot = 1 then 0x06000000 else recoveryBase
/-- Slot offset of the trailer (R395). -/
def trailerOff : Nat := 0x05FF0000
/-- Offset of the trailer in a slot, or in the recovery area (R395). -/
def trailerAt (slot : Nat) : Nat := if slot = 2 then 0x03BF0000 else trailerOff

/-! ## Image headers (R393 to R396) -/

/-- A component entry. -/
structure Comp where
  type : Nat
  off : Nat
  len : Nat
  digest : List Byte
  raw : List Byte
deriving DecidableEq, Repr

def imgMagic : Nat := 0x494D5845
def imgSeq (h : List Byte) : Nat := leAt h 8 8
def imgFwRb (h : List Byte) : Nat := leAt h 16 8
def imgCfgRb (h : List Byte) : Nat := leAt h 24 8
def imgCount (h : List Byte) : Nat := leAt h 32 4
def comp (h : List Byte) (i : Nat) : Comp :=
  let r := slice h (64 + 80 * i) 80
  ⟨leAt r 0 2, leAt r 4 4, leAt r 8 4, slice r 16 64, r⟩
def comps (h : List Byte) : List Comp := (List.range (min 32 (imgCount h))).map (comp h)
def findComp (h : List Byte) (type : Nat) : Option Comp := (comps h).find? (fun c => c.type == type)

def slotHeader (s : State) (slot : Nat) : List Byte := flashBytes s (slotBase slot) 16384
def slotTrailer (s : State) (slot : Nat) : List Byte := flashBytes s (slotBase slot + trailerAt slot) 128
def compBytes (s : State) (slot : Nat) (c : Comp) : List Byte := flashBytes s (slotBase slot + c.off) c.len
/-- Bytes of a slot's component of a type; none of it when absent. -/
def slotComp (s : State) (slot type : Nat) : List Byte :=
  match findComp (slotHeader s slot) type with
  | some c => compBytes s slot c
  | none => []
def slotDigest (s : State) (slot type : Nat) : List Byte :=
  match findComp (slotHeader s slot) type with
  | some c => c.digest
  | none => []

/-- The trailer that completes an image (R395). -/
def trailerOf (h : List Byte) : List Byte :=
  leBytes 8 imgMagic ++ leBytes 8 (imgSeq h) ++ List.replicate 48 0 ++ (Config.sha3_512 h).take 64

/-- A slot holds a complete image (R395). -/
def slotComplete (s : State) (slot : Nat) : Bool :=
  let h := slotHeader s slot
  let t := slotTrailer s slot
  leAt h 0 4 == imgMagic && leAt t 0 4 == imgMagic && leAt t 8 8 == imgSeq h && slice t 64 64 == Config.sha3_512 h

/-- Component types of a slot image and the length of each, by its bounds (Table 16-3). -/
def compRow (type : Nat) : Option (Bool × Nat × Nat) :=
  let any : Nat := 0x05FF0000
  if type = 0x0001 || type = 0x0002 then some (true, 2592, 2592)
  else if type = 0x0010 then some (true, 0, 524288)
  else if type = 0x0011 || type = 0x0012 || type = 0x0013 then some (true, 0, any)
  else if type = 0x0020 then some (true, 1024, 1024)
  else if type = 0x0021 then some (true, 5184, 5184)
  else if type = 0x0022 || type = 0x0023 then some (false, 0, any)
  else none

/-- Components that an image of a kind must hold (Table 16-3): 1 a slot image, 2 the recovery image. -/
def compsNeeded (kind : Nat) : List Nat :=
  if kind = 1 then [0x0001, 0x0002, 0x0010, 0x0011, 0x0012, 0x0013, 0x0020, 0x0021] else [0x0001, 0x0010, 0x0011]

/-- Layout of an image: kind, component table, and places below its trailer (R393, Tables 16-2 and 16-3). -/
def layoutOk (kind trailer : Nat) (h : List Byte) : Bool :=
  let cs := comps h
  let n := imgCount h
  leAt h 4 2 == 1 && leAt h 6 2 == kind && imgSeq h != 0 && decide (1 ≤ n) && decide (n ≤ 32)
  && allZero (slice h 36 28) && allZero (slice h 11878 4506) && allZero (slice h (64 + 80 * n) (80 * (32 - n)))
  && cs.all (fun c => match compRow c.type with
      | some r => decide (r.2.1 ≤ c.len) && decide (c.len ≤ r.2.2)
      | none => false)
  && cs.all (fun c => c.off % 4096 == 0 && decide (16384 ≤ c.off) && decide (c.off + c.len ≤ trailer)
      && allZero (slice c.raw 2 2) && allZero (slice c.raw 12 4))
  && (cs.zipIdx).all (fun a => (cs.zipIdx).all (fun b =>
      a.2 == b.2 || decide (a.1.off + a.1.len ≤ b.1.off) || decide (b.1.off + b.1.len ≤ a.1.off)))
  && (compsNeeded kind).all (fun t => (findComp h t).isSome)

/-- Every component's digest matches its entry (R396). -/
def digestsOk (s : State) (slot : Nat) : Bool :=
  (comps (slotHeader s slot)).all (fun c => Config.sha3_512 (compBytes s slot c) == c.digest)

/-- FW_SIG verifies under the release key, whose digest the boot ROM holds (R394). -/
def fwSigOk (s : State) (slot : Nat) : Bool :=
  let h := slotHeader s slot
  let key := slotComp s slot 0x0001
  let entries := (comps h).filter (fun c => c.type == 1 || (decide (0x10 ≤ c.type) && decide (c.type ≤ 0x1F)))
  let m := Config.sha3_512 (ascii "EXM-T40 FW" ++ h.take 64 ++ entries.flatMap (·.raw))
  Config.sha3_512 key == Config.releaseDigest && Config.dsaVerify key m (slice h 2624 4627)

/-- CFG_SIG verifies under the owner key; while none is enrolled, under the image's own (R394, R398). -/
def cfgSigOk (s : State) (slot : Nat) : Bool :=
  let h := slotHeader s slot
  let key := slotComp s slot 0x0002
  let m := Config.sha3_512 (ascii "EXM-T40 CFG" ++ h.take 2624)
  (match s.board.owner with
    | some d => Config.sha3_512 key == d
    | none => true) && Config.dsaVerify key m (slice h 7251 4627)

def rollbackOk (s : State) (slot : Nat) : Bool :=
  let h := slotHeader s slot
  decide (s.board.rbs.getD 0 0 ≤ imgFwRb h) && decide (s.board.rbs.getD 1 0 ≤ imgCfgRb h)

/-! ## Routing-table images (R253, R254) -/

/-- The checks of R254, for a member of a hummock. -/
def routingOk (img : List Byte) (hummock member : Nat) : Bool :=
  let port (p : Nat) : BitVec 128 := BitVec.ofNat 128 (leAt img (64 + 16 * p) 16)
  let valid (p : Nat) : Bool := decide (p < 48) && fld (port p) 63 63 == 1
  let links (p : Nat) : List Nat := (List.range 48).filter (fun l => bit (fld (port p) 47 0) l)
  let peer (p : Nat) : Nat := fld (port p) 61 48
  let ports := (List.range 48).filter valid
  let hum (h : Nat) : BitVec 64 := BitVec.ofNat 64 (leAt img (832 + 8 * h) 8)
  let mem (m : Nat) : BitVec 64 := BitVec.ofNat 64 (leAt img (4928 + 8 * m) 8)
  let hdr : BitVec 512 := BitVec.ofNat 512 (leAt img 0 64)
  img.length == 5184 && fld hdr 40 32 == hummock && fld hdr 511 41 == 0
  && (List.range 48).all (fun p => fld (port p) 127 112 == 0)
  && ports.all (fun p => decide (1 ≤ (links p).length) && decide ((links p).length ≤ 8)
      && peer p != hummock * 32 + member && (fld (port p) 62 62 == 1) == (peer p / 32 != hummock))
  && (List.range 48).all (fun l => decide ((ports.filter (fun p => (links p).contains l)).length ≤ 1))
  && (List.range 512).all (fun h =>
      let e := hum h
      fld e 63 23 == 0 && fld e 15 15 == 0 && fld e 7 7 == 0 &&
      (h == hummock ||
        ((fld e 6 6 == 0 || (valid (fld e 5 0) && fld e 22 22 == 1)) && (fld e 14 14 == 0 || valid (fld e 13 8))
          && (fld e 22 22 == 0 || (valid (fld e 21 16) && (peer (fld e 21 16) / 32 == hummock || peer (fld e 21 16) / 32 == h))))))
  && (List.range 32).all (fun m =>
      let e := mem m
      fld e 63 7 == 0 && (m == member || fld e 6 6 == 0 || valid (fld e 5 0)))

/-! ## Checks of the configuration record (R404) -/

/-- The checks of R404 on the record itself. -/
def configOk (c : List Byte) : Bool :=
  c.length == 1024
  && allZero (slice c 7 1) && allZero (slice c 845 1) && allZero (slice c 859 5) && allZero (slice c 928 96)
  && (List.range 8).all (fun e => allZero (slice (Cfg.port c e) 12 4) && decide (leAt (Cfg.port c e) 6 2 < 4096))
  && (List.range 8).all (fun i => let h := slice c (264 + 72 * i) 72; allZero (slice h 65 7) && decide (leAt h 64 1 ≤ 2))
  && decide (Cfg.hummock c ≤ 511) && decide (1152 ≤ Cfg.fragMax c) && decide (Cfg.fragMax c ≤ 8192)
  && decide (Cfg.autoload c ≤ 2) && decide (4 ≤ Cfg.rate c) && decide (Cfg.rate c ≤ 10)
  && decide (Cfg.thr c 0 ≤ 95) && decide (Cfg.thr c 1 ≤ 100) && decide (Cfg.thr c 2 ≤ 97)
  && (Cfg.hosts c).any (fun h => h.2 == 1)

/-- Entries of a job load list: component offset, length, HBM offset; and the manifest's offset (R406). -/
def loadEntries (l : List Byte) : List (Nat × Nat × Nat) :=
  (List.range ((l.length - 8) / 16)).map (fun i => (leAt l (16 * i) 4, leAt l (16 * i + 4) 4, leAt l (16 * i + 8) 8))
def loadManifest (l : List Byte) : Nat := leAt l (l.length - 8) 8

/-- Every load-list entry lies inside the load data (R404). -/
def loadListOk (s : State) (slot : Nat) : Bool :=
  let d := match findComp (slotHeader s slot) 0x0023 with
    | some c => c.len
    | none => 0
  (loadEntries (slotComp s slot 0x0022)).all (fun e => decide (e.1 + e.2.1 ≤ d))

/-- Configuration, routing image and load list of a slot pass R404, for a member number. -/
def slotConfigOk (s : State) (slot member : Nat) : Bool :=
  let c := slotComp s slot 0x0020
  configOk c && routingOk (slotComp s slot 0x0021) (Cfg.hummock c) member && loadListOk s slot

/-- Class of a slot (R396, Table 16-12): 0 valid, 1 bad, 2 half-written. -/
def slotClass (s : State) (slot member : Nat) : Nat :=
  if !slotComplete s slot then 2
  else if layoutOk 1 trailerOff (slotHeader s slot) && fwSigOk s slot && cfgSigOk s slot && digestsOk s slot && rollbackOk s slot
    && slotConfigOk s slot member then 0
  else 1

/-- Anti-rollback counter 3: the FW_RB of the recovery image as manufacture wrote it (R397). -/
def recoveryCounter : Nat := leNat ((List.range 8).map (fun i => Config.recoveryArea (16 + i)))

/-- The recovery image is valid (R396); its CFG_SIG and CFG_RB are not examined. -/
def recoveryValid (s : State) : Bool :=
  slotComplete s 2 && layoutOk 2 (trailerAt 2) (slotHeader s 2) && fwSigOk s 2 && digestsOk s 2
  && decide (recoveryCounter ≤ imgFwRb (slotHeader s 2))

/-- Slot that Table 16-4 selects for two classes: the higher SEQ of two valid ones, A when their headers are identical; with
equal SEQ and different headers none. -/
def chooseSlot (ca cb : Nat) (ha hb : List Byte) : Option Nat :=
  if ca = 0 && cb = 0 then
    if imgSeq ha < imgSeq hb then some 1
    else if imgSeq hb < imgSeq ha then some 0
    else if ha = hb then some 0 else none
  else if ca = 0 then some 0
  else if cb = 0 then some 1
  else none

/-- MIRE_REASON when none is selected (Table 16-12). -/
def mireReason (s : State) (ca cb : Nat) : Nat :=
  if ca = 0 && cb = 0 then 3
  else if s.board.owner.isNone && s.board.config.isNone then 4
  else if ca = 2 && cb = 2 then 2
  else 1

end Sys2Proof.Machine
end

