-- ==== Sys2Proof/Machine/Power.lean ====
section
/-!
DEFINITION. Power capping, the backstop, island clocks, energy, temperatures and rails (R334 to R345).
-/
namespace Sys2Proof.Machine

/-- The always-on domain is powered (R331). -/
def alwaysOn (s : State) : Bool := modState s != 0
/-- Hjelper's firmware runs (R332). -/
def hjRuns (s : State) : Bool := s.rget Reg.HJ_STATUS_STATE == 1

/-! ## Input power and the cap (R336 to R339) -/

/-- The input rail as sampled, and the running average of its power. -/
def inputSampled (s : State) (mv cur : BitVec 16) : State :=
  let v := mv.toNat
  let s := s.rset Reg.VIN_MV v
  let s := if v < s.rget Reg.VIN_MIN then s.rset Reg.VIN_MIN v else s
  let s := s.rmax Reg.VIN_MAX v
  let s := (s.rset Reg.IIN_CUR cur.toNat).rmax Reg.IIN_PEAK cur.toNat
  let xs := (v * cur.toNat / 100 :: s.board.samples).take 100
  let s : State := { s with board := { s.board with samples := xs } }
  let avg := xs.foldl (· + ·) 0 / xs.length
  let s := (s.rset Reg.INPUT_PWR_AVG_MW avg).rmax Reg.INPUT_PWR_PEAK_MW avg
  if avg < s.rget Reg.POWER_CAP_CAP_W * 1000 then s.rset Reg.POWER_STATUS_UNMET 0 else s

/-- INPUT_SAMPLE (R336): VIN in mV, IIN in units of 10 mA. UNMET clears when the mean falls below the cap (R338). -/
def execInputSample (mv cur : BitVec 16) (s : State) : Out :=
  .next (
    if !alwaysOn s then s else
    inputSampled s mv cur)

/-- Set the cap clock; CAPPING follows it, and its changes are logged (R337). -/
def setCapClock (s : State) (mhz : Nat) : State :=
  let was := s.rbit Reg.POWER_STATUS_CAPPING
  let on := decide (mhz < 2700)
  let s := (s.rset Reg.POWER_STATUS_CAP_MHZ mhz).rset Reg.POWER_STATUS_CAPPING (boolNat on)
  if on && !was then markIvs (fileEvent s 0 0x0020 6 0 0 0) (fun v => { v with capped := true })
  else if was && !on then fileEvent s 0 0x0021 6 0 0 0
  else s

/-- CAP_COMPARE (R337). -/
def execCapCompare (s : State) : Out :=
  .next (
    if !hjRuns s then s else
    let mhz := s.rget Reg.POWER_STATUS_CAP_MHZ
    let avg := s.rget Reg.INPUT_PWR_AVG_MW
    let cap := s.rget Reg.POWER_CAP_CAP_W
    let up := setCapClock s (min 2700 (mhz + 27))
    if s.rbit Reg.POWER_CAP_EN then
      if cap * 1000 < avg then setCapClock s (max 1350 (mhz - 27))
      else if avg * 100 < cap * 1000 * (100 - s.rget Reg.POWER_CAP_HYST_PCT) then up
      else s
    else up)

/-- CAP_UNMET (R338). -/
def execCapUnmet (s : State) : Out :=
  .next (
    if hjRuns s && s.rbit Reg.POWER_CAP_EN && s.rget Reg.POWER_STATUS_CAP_MHZ = 1350 && !s.rbit Reg.POWER_STATUS_UNMET
        && decide (s.rget Reg.POWER_CAP_CAP_W * 1000 < s.rget Reg.INPUT_PWR_AVG_MW) then
      fileEvent (alert (s.rset Reg.POWER_STATUS_UNMET 1) 4) 1 0x0022 6 0 0 0
    else s)

/-- IIN_LIMIT in units of 10 mA: min(100 A, 1.05 × CAP_W / 32 V), 100 A while EN is 0 (R339). -/
def setIinLimit (s : State) : State :=
  s.rset Reg.IIN_LIMIT_LIMIT (if s.rbit Reg.POWER_CAP_EN then min 10000 (s.rget Reg.POWER_CAP_CAP_W * 105 / 32) else 10000)

/-- With EN 0 and the cap clock below its top, Hjelper releases an engaged backstop (R337); only Hjelper does (R339). -/
def uncapRelease (s : State) : State :=
  if !s.rbit Reg.POWER_CAP_EN && decide (s.rget Reg.POWER_STATUS_CAP_MHZ < 2700) then s.rset Reg.POWER_STATUS_BACKSTOP 0 else s

/-- A write of POWER_CAP (R337, R338): CAP_W within its limits, EN and HYST_PCT as written (R5). -/
def powerCapOp (s : State) (v : Word64) : State :=
  let s := s.rset Reg.POWER_CAP_CAP_W (max 1200 (min 3000 (bits v.toNat 0 16)))
  let s := s.rset Reg.POWER_CAP_HYST_PCT (bits v.toNat 24 8)
  let en := v.getLsbD 16
  let s := s.rset Reg.POWER_CAP_EN (boolNat en)
  let s := if en then s else s.rset Reg.POWER_STATUS_UNMET 0
  if hjRuns s then uncapRelease (setIinLimit s) else s

/-- POWER_CAP_WRITE. -/
def execPowerCapWrite (w : Writer) (v : Word64) (s : State) : Out :=
  .next (regCommand s w Reg.POWER_CAP_CAP_W.off (fun s => powerCapOp s v))

/-- BACKSTOP_ENGAGE (R339): hardware, with or without Hjelper. -/
def execBackstopEngage (s : State) : Out :=
  .next (
    if alwaysOn s && !s.rbit Reg.POWER_STATUS_BACKSTOP && decide (s.rget Reg.IIN_LIMIT_LIMIT < s.rget Reg.IIN_CUR) then
      let s := alert (s.rset Reg.POWER_STATUS_BACKSTOP 1) 5
      markIvs (fileEvent s 1 0x0023 6 0 0 0) (fun v => { v with backstop := true })
    else s)

/-- BACKSTOP_RELEASE (R339). -/
def execBackstopRelease (s : State) : Out :=
  .next (
    if hjRuns s && s.rbit Reg.POWER_STATUS_BACKSTOP && decide (s.rget Reg.INPUT_PWR_AVG_MW < s.rget Reg.POWER_CAP_CAP_W * 1000)
    then s.rset Reg.POWER_STATUS_BACKSTOP 0 else s)

/-! ## Island clocks (R334, R335) -/

/-- The service clock of R334. -/
def serviceMhz (s : State) : Nat := if s.rget Reg.MODULE_STATE_SERVICE = 2 then 2700 else 1350

/-- The clock that a plank island glides to: the least term of R334. -/
def targetMhz (s : State) (p : Nat) : Nat :=
  let t := min (s.rget (Reg.CLOCK_CEIL_MHZ p)) (min (s.rget Reg.POWER_STATUS_CAP_MHZ) (min (thermalMhz s (p / 20)) (serviceMhz s)))
  if s.rbit Reg.POWER_STATUS_BACKSTOP then min t 1350 else t

/-- Target voltage at a clock, in millivolts: VF(clock) + LDO_OFS × 12.5 mV (R335). -/
def targetMv (s : State) (p mhz : Nat) : Nat :=
  Config.vf (p / 20) ((mhz - 1350) / 27) + 25 * s.rget (Reg.PLANK_CLOCK_LDO_OFS p) / 2

/-- CLOCK_GLIDE_STEP (R335): the clock moves by at most 27 MHz toward its target; going up, the voltage settles first, going down
it follows. -/
def execClockGlideStep (p : PlankId) (s : State) : Out :=
  .next (
    if !powered s p then s else
    let cur := s.rget (Reg.PLANK_CLOCK_MHZ p)
    let t := targetMhz s p
    let new := if cur < t then min t (cur + 27) else max t (cur - 27)
    let s := s.rset (Reg.VMON_TARGET p) (targetMv s p new)
    s.rset (Reg.PLANK_CLOCK_MHZ p) new)

/-! ## Energy (R340) -/

/-- The energy counters take a reading. -/
def energyAdded (s : State) (nj : EnergyReading) : State :=
  let e := s.board.energy
  let e : Energy := ⟨e.input + nj.input, e.planks + nj.planks, e.hbm + nj.hbm, e.links + nj.links, e.hosts + nj.hosts,
    e.mgmt + nj.mgmt⟩
  let s : State := { s with board := { s.board with energy := e } }
  let s := s.rset Reg.ENERGY_IN_UJ (e.input / 1000)
  let s := s.rset Reg.ENERGY_PLANK_UJ (e.planks / 1000)
  let s := s.rset Reg.ENERGY_HBM_UJ (e.hbm / 1000)
  let s := s.rset Reg.ENERGY_LINK_UJ (e.links / 1000)
  let s := s.rset Reg.ENERGY_HOST_UJ (e.hosts / 1000)
  let s := s.rset Reg.ENERGY_MGMT_UJ (e.mgmt / 1000)
  workErrors s

/-- ENERGY_READ: the totals in microjoules, and Hjelper's error queue (assumption 20). -/
def execEnergyRead (nj : EnergyReading) (s : State) : Out :=
  .next (
    if !hjRuns s then s else
    energyAdded s nj)

/-! ## Temperatures and rails (R343, R344, Table 14-4) -/

/-- Warning, throttle and critical limits of a sensor, in °C; a sensor without a throttle limit has none. -/
def sensorLimits (s : State) (n : Nat) : Nat × Option Nat × Nat :=
  if n < 160 then (s.rget Reg.THR_COMPUTE_WARN, some (s.rget Reg.THR_COMPUTE_THROTTLE), 110)
  else if n < 176 then (85, some 95, 110)
  else if n < 192 then (100, none, 115)
  else (110, none, 125)

/-- LEVEL of a sensor at a temperature in 1/16 °C. -/
def tempLevel (s : State) (n : Nat) (t : Int) : Nat :=
  let l := sensorLimits s n
  let at' (c : Nat) : Bool := decide ((16 * c : Int) ≤ t)
  if at' l.2.2 then 3
  else if (match l.2.1 with
    | some c => at' c
    | none => false) then 2
  else if at' l.1 then 1 else 0

def sensorTemp (s : State) (n : Nat) : Int := signed (s.rget (Reg.SENSOR_TEMP_TEMP n)) 16

/-- UNIT_CLASS and UNIT under which a sensor's event is logged: the island that it measures (Table 13-6), or the board. -/
def sensorUnit (n : Nat) : Nat × Nat :=
  if n < 160 then (0, n) else if n < 176 then (1, (n - 160) * 64) else if n < 188 then (2, (n - 176) * 4)
  else if n = 190 then (6, 0) else (8, n)

/-- A reading of a die sensor: its peak, its level, and what a level that rises reports. -/
def sensorRead (s : State) (sensor : Fin 200) (temp : BitVec 16) : State :=
  let n := sensor.val
  let old := s.rget (Reg.SENSOR_TEMP_LEVEL n)
  let t := signed temp.toNat 16
  let new := tempLevel s n t
  let s := s.rset (Reg.SENSOR_TEMP_TEMP n) temp.toNat
  let s := if signed (s.rget (Reg.SENSOR_TEMP_PEAK n)) 16 < t then s.rset (Reg.SENSOR_TEMP_PEAK n) temp.toNat else s
  let s := s.rset (Reg.SENSOR_TEMP_LEVEL n) new
  let u := sensorUnit n
  let s := if old = 0 && new != 0 then fileEvent (alert s 0) 1 0x0030 u.1 u.2 0 0 else s
  if (sensorLimits s n).2.1.isSome && old < 2 && 2 ≤ new then fileEvent (alert s 1) 1 0x0031 u.1 u.2 0 0 else s

/-- TEMP_SENSOR_READ (R343). -/
def execTempSensorRead (sensor : Fin 200) (temp : BitVec 16) (s : State) : Out :=
  .next (
    if !alwaysOn s then s else
    sensorRead s sensor temp)

def setThermal (s : State) (d mhz : Nat) : State :=
  let f : RegF := if d < 4 then ⟨Reg.DIE_MHZ_LO_MHZ.off, 16 * d + 15, 16 * d⟩
    else ⟨Reg.DIE_MHZ_HI_MHZ.off, 16 * (d - 4) + 15, 16 * (d - 4)⟩
  s.rset f mhz

/-- THERMAL_CLOCK_STEP (R343). -/
def execThermalClockStep (c : DieId) (s : State) : Out :=
  .next (
    if !hjRuns s then s else
    let temps := (List.range 20).map (fun i => sensorTemp s (20 * c.val + i))
    let mhz := thermalMhz s c.val
    if temps.any (fun t => decide ((16 * s.rget Reg.THR_COMPUTE_THROTTLE : Int) ≤ t)) then
      let s := setThermal s c.val (max 1350 (mhz - 27))
      markIvs s (fun v => { v with throttled := true })
    else if temps.all (fun t => decide (t < (16 * s.rget Reg.THR_COMPUTE_RELEASE : Int))) then setThermal s c.val (min 2700 (mhz + 27))
    else s)

/-- A measured output of a supply: VMON takes its value and its extremes (Table 14-11). -/
def railTaken (s : State) (n v : Nat) : State :=
  let s := s.rset (Reg.VMON_MV n) v
  let s := if v < s.rget (Reg.VMON_MIN n) then s.rset (Reg.VMON_MIN n) v else s
  s.rmax (Reg.VMON_MAX n) v

/-- RAIL_OUT_OF_RANGE (R344). A rail that has left regulation drives PG_OUT low (R349, assumption 122). -/
def execRailOutOfRange (rail : Rail) (s : State) : Out :=
  .next (
    if !alwaysOn s then s else
    match rail with
    | .vin =>
      let v := s.rget Reg.VIN_MV
      if 32000 ≤ v && v ≤ 40000 then s else fileEvent (alert s 3) 1 0x0033 8 0 0 0
    | .island i mv =>
      let v := mv.toNat
      let n := i.val
      let t := s.rget (Reg.VMON_TARGET n)
      let s := railTaken s n v
      let off := if v < t then t - v else v - t
      let u := sensorUnit n
      if 20 * off ≤ t then s
      else fileEvent { s with board := { s.board with pgOut := false } } 1 0x0034 u.1 u.2 0 0)

/-- A write of THR_COMPUTE: a field that it would raise above its reset value keeps its value (R343). -/
def thrComputeOp (s : State) (v : Word64) : State :=
  let put (s : State) (f : RegF) (top : Nat) : State :=
    let x := fld v f.hi f.lo
    if x ≤ top then s.rset f x else s
  put (put (put s Reg.THR_COMPUTE_WARN 95) Reg.THR_COMPUTE_THROTTLE 100) Reg.THR_COMPUTE_RELEASE 97

/-- THR_COMPUTE_WRITE. -/
def execThrComputeWrite (w : Writer) (v : Word64) (s : State) : Out :=
  .next (regCommand s w Reg.THR_COMPUTE_WARN.off (fun s => thrComputeOp s v))

end Sys2Proof.Machine
end

