-- ==== Sys2Proof/Machine/Status.lean ====
section
/-!
DEFINITION. What the module tells of itself: its state with the Quiesced overlay, the IDENT payload and the status record (R333,
R369, R371, R407).
-/
namespace Sys2Proof.Machine

/-- A stream is in one of the states given. -/
def anyStream (s : State) (sts : List Nat) : Bool := s.streams.any (fun e => sts.contains (fget e.2 Strm.STATE))

/-- The state that MODULE_STATE, STATUS and IDENT show: Quiesced in Shallows or Service while no stream is Running, Suspending
or Cancelling and at least one is Suspended (Table 16-6). -/
def shownState (s : State) : Nat :=
  let st := modState s
  if (st = 4 || st = 5) && !anyStream s [St.running, St.suspending, St.cancelling] && anyStream s [St.suspended] then 7 else st

/-- Planks in service: those of ready dies that are not masked. -/
def servingPlanks (s : State) : Nat :=
  ((List.range 160).filter (fun p => bit (s.rget Reg.READY_DIES) (p / 20) && !s.rbit (Reg.PLANK_STATUS_MASKED p))).length

def openSessions (s : State) : Nat := (s.net.sessions.filter (fun x => x.opened && x.usable)).length

/-- Bit e: port Ee up. -/
def portMask (s : State) : Nat := (List.range 8).foldl (fun n e => n + (if portIsUp s e then 2 ^ e else 0)) 0

/-- ALERT_N is driven low (R349, R402). -/
def alertNLow (s : State) : Bool :=
  modState s != 0 && (s.rget Reg.ALERT_STATUS_ALERTS &&& s.rget Reg.ALERT_MASK_MASK != 0 || s.board.recoveryFailed)

/-- The payload of IDENT (Table 15-4). -/
def identPayload (s : State) : List Byte :=
  [0x45, 0x58, 0x4D, 0x2D, 0x54, 0x34, 0x30, 0x00]
  ++ be 16 Config.serial.toNat ++ be 2 (chipNo s) ++ be 1 (shownState s) ++ be 4 (s.rget Reg.HJ_VERSION_FW_VERSION)
  ++ Config.identityKey

/-- Entry of a job in the status record. -/
def jobStatus (j : Job) : List Byte := be 2 j.id.toNat ++ be 1 j.phase ++ be 1 j.verdict ++ be 4 0 ++ be 8 j.step
def noJobStatus : List Byte := be 2 0xFFFF ++ be 14 0

/-- The status record (Table 15-5) at a count. -/
def statusPayload (s : State) (h : BitVec 64) : List Byte :=
  be 1 (shownState s) ++ be 1 (s.rget Reg.MODULE_STATE_SERVICE) ++ be 2 (servingPlanks s) ++ be 2 (s.rget Reg.READY_STACKS)
  ++ be 1 (s.rget Reg.READY_DIES) ++ be 1 (portMask s) ++ be 2 (chipNo s) ++ be 1 (openSessions s)
  ++ be 1 (s.rget Reg.HJ_STATUS_STATE) ++ be 4 (s.rget Reg.ALERT_STATUS_ALERTS) ++ be 4 (s.rget Reg.INPUT_PWR_AVG_MW) ++ be 4 0
  ++ be 8 h.toNat
  ++ (List.range 4).flatMap (fun i => match s.jobs[i]? with
      | some j => jobStatus j
      | none => noJobStatus)

/-- The host dies keep the IDENT and STATUS payloads as Hjelper goes down (R333). -/
def takeCache (s : State) : State :=
  { s.tick with net := { s.net with cache := (identPayload s, statusPayload s s.hc) } }

end Sys2Proof.Machine
end

