-- ==== Sys2Proof/Machine/Island.lean ====
section
/-!
DEFINITION. What becomes of the state when islands lose their power: the trip, Reset, power-down and power-on (R345, R347, R383,
R407, R423, R424, R445).
-/
namespace Sys2Proof.Machine

/-! ## Register words -/

/-- The words that `hit` names return to their Reset values, but for their ST bits (R445). -/
def resetWords (hit : Nat → Bool) (win : List (Nat × Word64)) : List (Nat × Word64) :=
  win.filterMap (fun e =>
    if !hit e.1 then some e
    else
      let v := (winReset e.1 &&& ~~~(winSticky e.1)) ||| (e.2 &&& winSticky e.1)
      if v = winReset e.1 then none else some (e.1, v))

/-- Words of the plank, stack and link-die blocks. -/
def islandWord (off : Nat) : Bool := decide (plankBase 0 ≤ off) && decide (off < linkBase 12)
/-- Words that Reset returns to their Reset value as it begins: all but those of the always-on domain's event log and input filters (R331). -/
def resetWord (off : Nat) : Bool := off != Reg.EVLOG_STATUS_SEQ.off && off != Reg.BOARD_IN_LEVEL.off
/-- Bits [5:0] of SOUND_STATUS: NEXT survives power cycles (R325). -/
def nextKept (win : List (Nat × Word64)) : List (Nat × Word64) :=
  win.filterMap (fun e =>
    if decide (plankBase 0 ≤ e.1) && decide (e.1 < plankBase 160) && e.1 % 0x10000 == 0x160 && e.2.toNat % 64 != 0 then
      some (e.1, BitVec.ofNat 64 (e.2.toNat % 64)) else none)

/-- A masked plank reads Masked. -/
def remask (s : State) : State :=
  (List.range 160).foldl (fun s p =>
    if s.rbit (Reg.PLANK_STATUS_MASKED p) then setPlankState s p PlankSt.masked else s) s

/-! ## Power lost -/

/-- What a plank keeps when its island is unpowered: its program's stream, for as long as the job stays loaded, and which
sticky errors Hjelper has not filed. -/
def darkPlank (keep : Bool) (k : Plank) : Plank :=
  { Plank.reset with
    stream := if keep then k.stream else none
    trapUnlogged := k.trapUnlogged
    faultUnlogged := k.faultUnlogged }

/-- Planks, stacks and link dies lose their power: their contents go, every link is Down, every key is gone (R345, R383). -/
def computeLost (s : State) (keep : Bool) : State :=
  { s with
    mem := []
    poison := []
    planks := s.planks.foldl (fun m e => kput plankReset m e.1 (darkPlank keep e.2)) []
    pcs := []
    fab := { Fabric.reset with
      table := s.fab.table
      nextId := s.fab.nextId }
    net := { s.net with
      keys := []
      qps := []
      work := []
      margin := none
      tests := [] }
    board := { s.board with
      heat := []
      calDone := 0
      calNext := 0 } }

/-- Every island but the always-on domain loses its power (R347, R424). -/
def allLost (s : State) : State :=
  let s := computeLost s false
  { s with
    objs := []
    latch := []
    streams := []
    errq := []
    jobs := []
    wall := 0
    wallAt := 0
    net := { Net.reset with
      nextSession := s.net.nextSession
      reports := s.net.reports }
    board := { s.board with
      errDropped := false
      charges := []
      energy := .zero
      ivs := []
      ivDue := []
      samples := []
      wdogAt := 0
      booted := false
      peatDue := false
      recoveryFailed := false
      hjUp := false
      bankA := []
      bankB := []
      hjData := []
      update := none
      activation := none } }

/-! ## The trip path (R345) -/

/-- A MARGIN under way is refused. -/
def failMargin (s : State) : State :=
  match s.net.margin with
  | some q => respond { s with net := { s.net with margin := none } } q.req 0x0060 (.refused 0)
  | none => s

/-- The trip path acts: streams fail, islands stop, Tripped; Hjelper, sessions, jobs and an open update stay. -/
def tripNow (s : State) : State :=
  let s := (s.streams.map (·.1)).foldl (fun s n => failStream s n 0xFF06) s
  let s := failMargin s
  let s := computeLost s true
  let s := remask { s with win := resetWords islandWord s.win }
  let s := s.setWord Reg.READY_DIES.off 0
  let s := (setModState s 8).rset Reg.MODULE_STATE_SERVICE 0
  fileEvent (alert s 2) 3 0x0032 5 (chipNo s) 0 0

/-- Level that the module acts on: the last stable one while the input chatters (R346); before the first level is accepted,
powered, mated and none of the low-active inputs active. -/
def pinActs (s : State) (i : Nat) : Bool :=
  let x := kget pinReset s.board.pins i
  if !x.known then i != 4
  else if x.chatter then x.stable else x.level

/-- BOARD_IN shows the accepted levels and the inputs that chatter (Table 14-10). -/
def showPins (s : State) : State :=
  let bits (f : Pin → Bool) : Nat := (List.range 5).foldl (fun n i => n + (if f (kget pinReset s.board.pins i) then 2 ^ i else 0)) 0
  (s.rset Reg.BOARD_IN_LEVEL (bits (fun x => x.known && x.level))).rset Reg.BOARD_IN_CHATTER (bits (·.chatter))

-- The inputs of J4, as bits of BOARD_IN.LEVEL.
namespace PinNo
def resetN : Nat := 0
def holdN : Nat := 1
def pwrEn : Nat := 2
def thermTripN : Nat := 3
def presentN : Nat := 4
end PinNo

/-- A cause of R345 as it stands; a VIN of 0 was not measured yet. -/
def causeHolds (s : State) : TripCause → Bool
  | .sensor n => s.rget (Reg.SENSOR_TEMP_LEVEL n.val) == 3
  | .pin => !pinActs s PinNo.thermTripN
  | .vin => s.rget Reg.VIN_MV != 0 && (decide (s.rget Reg.VIN_MV < 30000) || decide (42000 < s.rget Reg.VIN_MV))

/-- Some cause of R345 holds at the end of Boot (R408). -/
def tripCauseHolds (s : State) : Bool :=
  !pinActs s PinNo.thermTripN || (List.range 200).any (fun n => s.rget (Reg.SENSOR_TEMP_LEVEL n) == 3)
    || causeHolds s .vin

/-- TRIP (R345): in any state but Off and Reset. -/
def execTrip (cause : TripCause) (s : State) : Out :=
  .next (if modState s = 0 || modState s = 1 || modState s = 8 || !causeHolds s cause then s else tripNow s)

/-! ## Reset, power-down and power-on (R347, R407, R423, R424) -/

/-- RESET_N acts: Reset. Every field but the ST fields and the always-on domain's goes to its Reset value with its island. -/
def enterReset (s : State) : State :=
  let s := allLost s
  setModState { s with win := resetWords resetWord s.win } 1

/-- Boot begins: its times count from here (R412), and the trust die protects the recovery area (R392). -/
def bootBegins (s : State) : State := { s.tick with board := { s.board with bootAt := s.hc, recoveryWp := true } }

/-- RESET_N is released: every field but the ST fields is at its Reset value (R445), and the module is in Boot. -/
def leaveReset (s : State) : State := bootBegins (remask { s with win := resetWords (fun _ => true) s.win })

/-- Power-down: PG_OUT low, every island loses its rail. -/
def powerDown (s : State) : State :=
  let s := allLost s
  let s := setModState { s with win := resetWords resetWord s.win } 0
  { s with board := { s.board with pgOut := false } }

/-- The always-on domain turns off and the input path opens: the event log, its FIFO and the count of R14 are lost. The levels of the inputs
stay known. -/
def pathOpens (s : State) : State :=
  let pins := s.board.pins.map (fun e => (e.1, { e.2 with
    level := if e.2.known then pinActs s e.1 else e.2.level
    stable := if e.2.known then pinActs s e.1 else e.2.stable
    chatter := false
    edges := [] }))
  let s : State := { s with
    win := nextKept s.win
    evlog := []
    fifo := []
    count := 0
    planks := []
    board := { s.board with
      inputClosed := false
      logSeq := 0
      recoveryWp := false
      eccUnlogged := 0
      linkUnlogged := 0
      pins := pins } }
  setModState s 0

/-- The power-on sequence (Table 17-3) ends in Reset while RESET_N is low, else in Boot. -/
def powerOn (s : State) : State :=
  let s : State := { s with
    win := nextKept s.win
    board := { s.board with
      inputClosed := true
      pgOut := false } }
  let s := showPins s
  if pinActs s PinNo.resetN then bootBegins s else enterReset s

/-- Level of an input while the module is Off: the path's controller senses it. -/
def offLevel (s : State) (i : Nat) : Bool :=
  let x := kget pinReset s.board.pins i
  if x.known then x.stable else i != 4

/-- Off, with the path open, VIN present and both enables active: power-on. -/
def tryPowerOn (s : State) : State :=
  if modState s = 0 && !s.board.inputClosed && s.board.vinOk && offLevel s PinNo.pwrEn && !offLevel s PinNo.presentN then powerOn s
  else s

/-- POWER_DOWN_COMPLETE (R424); enables that became active again power the module on. -/
def execPowerDownComplete (s : State) : Out :=
  .next (if modState s = 0 && s.board.inputClosed then tryPowerOn (pathOpens s) else s)

/-- INPUT_PATH_CHANGE (R421, Table 17-2): a path that is open closes only at 30.5 V and above, one that is closed opens below 28 V. -/
def execInputPathChange (mv : BitVec 16) (s : State) : Out :=
  .next (
    let v := mv.toNat
    if 30500 ≤ v then tryPowerOn { s with board := { s.board with vinOk := true } }
    else
      let s : State := { s with board := { s.board with vinOk := false } }
      if v < 28000 && s.board.inputClosed then pathOpens (if modState s = 0 then s else powerDown s) else s)

/-! ## Hold (R347, R348, R408) -/

/-- Every compute die is ready. -/
def allReady (s : State) : Bool := s.rget Reg.READY_DIES == 0xFF

/-- HOLD_N acts: streams at a step boundary, and those of a Held step, suspend now; the others at their next boundary or
evaluation point. -/
def enterHold (s : State) : State :=
  let s := setModState s 6
  s.jobs.foldl (fun s j =>
    if j.phase = 0 then boundarySuspends s j
    else if j.phase = 5 && j.verdict = Vd.held && !j.final then
      ((stepStreams j).filter (fun n => streamState s n == St.running)).foldl (fun s n => suspendStreamOp s n Susp.hold) s
    else s) s

/-- HOLD_N is released: Shallows or Service, and the streams that it suspended resume. -/
def leaveHold (s : State) : State :=
  let s := setModState s (if allReady s then 5 else 4)
  ((s.streams.filter (fun e => fget e.2 Strm.SUSP_SRC &&& Susp.hold != 0)).map (·.1)).foldl (fun s n => resumeStreamOp s n Susp.hold) s

end Sys2Proof.Machine
end

