-- ==== Sys2Proof/Machine/QueuePair.lean ====
section
/-!
DEFINITION. Queue pairs and the data streams that use them (R360, R361, R374, R387).
-/
namespace Sys2Proof.Machine

/-- A stream that has not ended. -/
def streamLive (s : State) (n : Nat) : Bool :=
  let st := fget (s.strm n) Strm.STATE
  st == St.queued || st == St.running || st == St.suspending || st == St.suspended || st == St.cancelling

/-- The data streams that use a queue pair now. -/
def qpUsers (s : State) (q : Nat) : List Nat :=
  (s.net.data.filter (fun e => match e.2 with
    | some d => d.qp == q && streamLive s e.1
    | none => false)).map (·.1)

/-- The data streams that name a queue pair, as QP or ALT_QP. -/
def qpNamed (s : State) (q : Nat) : Bool :=
  s.net.data.any (fun e => match e.2 with
    | some d => d.qp == q || d.alt == some q
    | none => false)

def qpUsable (s : State) (q : Nat) : Bool := (s.qp q).connected && !(s.qp q).error

/-- The QPN under which a peer addresses QP q (R360). -/
def localQpn (q : Nat) : Nat := 0x1000 + q

/-- The record that the host die has read whole for an egress or a checkpoint stream; the host's answer to it is still to come. -/
def readRecord (s : State) (n : Nat) : Option HostWork :=
  s.net.work.find? (fun w => w.stream == n && !w.write && w.left == 0)

/-- A stream goes on over its ALT_QP from its next RSEQ, which an EVENT names; without a usable one it fails (R387). A record that is read
for a WRITE is kept and sent again as it is, so that its key seals its RSEQ once (R384, assumption
67). -/
def qpMove (s : State) (n : Nat) : State :=
  match s.data n with
  | none => s
  | some d =>
    match d.alt with
    | some a =>
      if qpUsable s a then
        let again := d.busy && fget (s.strm n) Strm.KIND != 7
        let s := (if again then s else idleData s n).setData n (some { d with
          qp := a
          alt := some d.qp
          busy := again
          moved := again && (readRecord s n).isSome })
        let s := strmSet s n Strm.QP a
        let x : BitVec 512 := fset (fset (0 : BitVec 512) (15, 0) n) (127, 64) d.next
        fileEvent s 1 0x0204 9 (fget (s.strm n) Strm.JOB) (fget (s.strm n) Strm.STEP) x
      else failStream (idleData s n) n 0xFF02
    | none => failStream (idleData s n) n 0xFF02

/-- A queue pair enters the error state (R387). -/
def qpError (s : State) (q : Nat) : State :=
  if !qpUsable s q then s
  else
    let s := s.setQp q { s.qp q with error := true }
    (qpUsers s q).foldl qpMove s

/-- The ports of a network go down with its queue pairs (R361, R415, R431): the pairs whose port is e. -/
def portQps (s : State) (e : Nat) : List Nat := (s.net.qps.filter (fun x => x.2.connected && x.2.port == e)).map (·.1)

/-- Queue pairs of a host die. -/
def dieQps (s : State) (h : Nat) : List Nat := (s.net.qps.filter (fun x => x.2.connected && x.1 / 2048 == h)).map (·.1)

end Sys2Proof.Machine
end

