-- ==== Sys2Proof/Machine/Activate.lean ====
section
/-!
DEFINITION. Live activation of firmware and configuration, and its answer (R351, R352, R403, R414 to R416, Table 16-10).
-/
namespace Sys2Proof.Machine

/-! ## The fields marked Live (Table 16-5) -/

/-- Write the Live fields of a configuration record to their registers, limited as R338, R337 and R343 give. -/
def applyLive (s : State) (c : List Byte) : State :=
  let s := s.rset Reg.POWER_CAP_CAP_W (max 1200 (min 3000 (Cfg.capW c)))
  let s := s.rset Reg.POWER_CAP_HYST_PCT (Cfg.hyst c)
  let s := s.rset Reg.EVT_MASK_CLASSES (Cfg.evtMask c)
  let s := (List.range 160).foldl (fun s p => s.rset (Reg.SAMPLE_CTL_RATE_LOG2 p) (Cfg.rate c)) s
  let s := (List.range 16).foldl (fun s m => s.rset (Reg.CAL_CTL_CAL_PERIOD m) (Cfg.calPeriod c)) s
  let s := s.rset Reg.SOUND_PERIOD_PERIOD (Cfg.soundPeriod c)
  let s := (s.rset Reg.THR_COMPUTE_WARN (Cfg.thr c 0)).rset Reg.THR_COMPUTE_THROTTLE (Cfg.thr c 1)
  let s := s.rset Reg.THR_COMPUTE_RELEASE (Cfg.thr c 2)
  if hjRuns s then setIinLimit s else s

/-! ## The components -/

/-- The slot that a live activation reads: the selected one. -/
def activeSlot (s : State) : Nat := s.rget Reg.BOOT_INFO_SELECTED

/-- The firmware in one of Hjelper's banks (R331): 0 bank A, 1 bank B. -/
def bankCode (s : State) (bank : Nat) : List Byte := if bank = 0 then s.board.bankA else s.board.bankB
def loadBank (s : State) (bank : Nat) (code : List Byte) : State :=
  if bank = 0 then { s with board := { s.board with bankA := code } } else { s with board := { s.board with bankB := code } }
/-- The bank that Hjelper does not run from. -/
def idleBank (s : State) : Nat := 1 - s.rget Reg.HJ_VERSION_BANK

/-- The handover record as Hjelper writes it (R351). The reset leaves the fields that it repeats as they are, so the firmware that
reads it finds them there. -/
def handoverOf (s : State) : HjRecord :=
  { cap := s.word Reg.POWER_CAP_CAP_W.off
    power := s.word Reg.POWER_STATUS_CAP_MHZ.off
    levels := (List.range 160).map (fun p => s.word (Reg.INTEG_STATE_LEVEL p).off)
    tick := s.word Reg.STEP_TICK_TICK.off
    ivs := s.board.ivs.filter (·.live) }

/-- Hjelper goes into its other bank (R351, steps 1 to 3): the bank holds the selected slot's firmware, its error queue is empty,
and digest and counter agree. -/
def activateHj (s : State) (rq : Req) (todo done : Nat) : Option State :=
  let s := workErrors s
  let slot := activeSlot s
  let bank := idleBank s
  let s := loadBank s bank (slotComp s slot 0x0010)
  let ok := s.errq.isEmpty && Config.sha3_512 (bankCode s bank) == slotDigest s slot 0x0010
    && decide (s.board.rbs.getD 0 0 ≤ imgFwRb (slotHeader s slot))
  if !ok then none
  else
    let s := takeCache s
    let a : Activation := {
      req := rq
      todo := todo
      done := done
      oldBank := s.rget Reg.HJ_VERSION_BANK
      oldVersion := s.rget Reg.HJ_VERSION_FW_VERSION
      oldHj := s.board.mHj
      handover := handoverOf s }
    let s := markIvs s (fun v => { v with hjReset := true })
    let s := (s.rset Reg.HJ_VERSION_BANK bank).rset Reg.HJ_VERSION_FW_VERSION (Config.firmwareVersion (bankCode s bank)).toNat
    let s := s.rset Reg.HJ_STATUS_STATE 2
    some { s with board := { s.board with
      activation := some a
      hjData := []
      mHj := slotDigest s slot 0x0010 } }

/-- Host-die firmware: each die reloads while the other network has a port up; its queue pairs end in error, and its ports train
again. -/
def activateHosts (s : State) : Option State :=
  if (networkPorts 0).any (portIsUp s) && (networkPorts 1).any (portIsUp s) then
    some ((dieQps s 0 ++ dieQps s 1).foldl qpError s)
  else none

/-- Link-die firmware: the links retrain while the fabric is drained. -/
def activateLinks (s : State) : Option State :=
  if s.rget (Reg.FAB_STATUS_MODE 0) = 2 then some ((List.range 48).foldl (fun s l => linkRetrainOp l s) s) else none

/-- The Live fields of the selected slot's configuration; its HOSTS hold for new sessions. -/
def activateLive (s : State) : State :=
  let slot := activeSlot s
  let c := slotComp s slot 0x0020
  applyLive { s with board := { s.board with
    config := some c
    mConfig := slotDigest s slot 0x0020 } } c

/-- One component after the other in ascending bit order, from bit b on; stops at the first whose condition is not met. Answers
the mask of those done, or none when Hjelper restarts first. -/
def activateFrom (rq : Req) (mask : Nat) : Nat → Nat → State → Option Nat × State
  | 0, done, s => (some done, s)
  | n + 1, done, s =>
    let b := 3 - n
    if !bit mask b then activateFrom rq mask n done s
    else if b = 0 then
      match activateHj s rq (mask - 1) done with
      | some t => (none, makeStale t)
      | none => (some done, s)
    else
      let r := if b = 1 then activateHosts s else if b = 2 then activateLinks s else some (activateLive s)
      match r with
      | some t => activateFrom rq mask n (done + 2 ^ b) (makeStale t)
      | none => (some done, s)

/-- The answer to UPDATE_ACTIVATE: the mask done, or a refusal when none was done. -/
def activateAnswer (mask done : Nat) : Answer := if done = 0 && mask != 0 then .refused 0x0B else .done (be 4 done)

/-- Note a refusal in UPDATE_STATUS. -/
def noteRefusal (s : State) (a : Answer) : State :=
  if a.status = 1 then s.rset Reg.UPDATE_STATUS_LAST_REFUSAL (beNat a.payload) else s

/-- Step 4 of R351: the new firmware runs; the components that follow are activated, and the verb is answered. -/
def activationEnds (s : State) (a : Activation) : State :=
  let s := (s.rsat Reg.HJ_STATUS_ACTIVATIONS 1).rset Reg.HJ_STATUS_REVERTED 0
  let s := fileEvent { s with board := { s.board with activation := none } } 0 0x0003 6 0 0 0
  let r := activateFrom a.req a.todo 3 (a.done + 1) s
  match r.1 with
  | some done => respond r.2 a.req 0x0053 (.done (be 4 done))
  | none => r.2

/-- The old bank comes back (R352): REVERTED, kind 0x0004, and the verb refused. -/
def activationReverts (s : State) (a : Activation) : State :=
  let s := (s.rset Reg.HJ_VERSION_BANK a.oldBank).rset Reg.HJ_VERSION_FW_VERSION a.oldVersion
  let s := (s.rset Reg.HJ_STATUS_REVERTED 1).rset Reg.HJ_STATUS_STATE 0
  let s : State := { s with board := { s.board with
    activation := none
    mHj := a.oldHj } }
  let s := fileEvent (alert s 8) 2 0x0004 6 0 0 0
  let x : Answer := .refused 0x0B
  respond (noteRefusal (makeStale s) x) a.req 0x0053 x

end Sys2Proof.Machine
end

