-- ==== Sys2Proof/Machine/Phases.lean ====
section
/-!
DEFINITION. Check of a step (R77, R81, R126, R159 to R171, R318) and the beginning of an attempt (R155, R156, R167).
-/
namespace Sys2Proof.Machine

/-! ## Per-sequence loss records (R168, Table 7-5) -/

-- Fields of a loss record.
namespace Loss
def LOSS : Fd := (31, 0)
def TOKENS : Fd := (63, 32)
def VALID : Fd := (64, 64)
def MASKED : Fd := (65, 65)
def NONFIN : Fd := (66, 66)
end Loss

def lossOff (j : Job) (slot : Nat) : Nat := fget j.man Man.LOSS + 16 * slot
def lossRec (s : State) (j : Job) (slot : Nat) : BitVec 128 := s.recAt (lossOff j slot) 128
def lossFinite (r : BitVec 128) : Bool :=
  match f32 (BitVec.ofNat 32 (fget r Loss.LOSS)) with
  | .fin _ _ => true
  | _ => false

/-- A sequence whose loss is not finite: NONFIN, and MASKED under SEQ_POLICY 0. -/
def seqNonfinite (s : State) (j : Job) (slot : Nat) : State :=
  let r := lossRec s j slot
  if fget r Loss.VALID = 0 || lossFinite r then s else
  let r := fset r Loss.NONFIN 1
  let r := if fget (policyOf s j) Policy.SEQ_POLICY = 0 then fset r Loss.MASKED 1 else r
  hbmStoreRec s (lossOff j slot) r

/-- SEQ_LOSS_NONFINITE (R168): acts while the attempt runs. -/
def execSeqLossNonfinite (job : BitVec 16) (slot : Fin 128) (s : State) : Out :=
  .next (match findJob s job.toNat with
    | some j => if j.phase = 0 || 5 ≤ j.phase then s else seqNonfinite s j slot.val
    | none => s)

/-! ## The member's check record (R159, R170) -/

/-- Contribution of the loss records, in ascending slot: LOSS_SUM, TOKENS, TOKENS_ALL and SEQ_MASKED. A sequence counts as
masked under R168 when its record has NONFIN: the bit that the module alone sets (assumption 24). -/
def lossPart (s : State) (j : Job) (c : CheckRec) : CheckRec :=
  (List.range 128).foldl (fun (c : CheckRec) i =>
    let r := lossRec s j i
    if fget r Loss.VALID = 0 then c else
    let t := fget r Loss.TOKENS
    let c := { c with tokensAll := satAdd 32 c.tokensAll t }
    let c := if fget r Loss.NONFIN = 1 then { c with seqMasked := satAdd 16 c.seqMasked 1 } else c
    if fget r Loss.MASKED = 1 then c
    else { c with tokens := satAdd 32 c.tokens t, lossSum := addR c.lossSum (BitVec.ofNat 32 (fget r Loss.LOSS)) }) c

/-- The decoded elements of a final gradient chunk (R291, R294): E5M2 codes under the E of the head, then one channel of shift
lines; or FP32 values. -/
def chunkElems (s : State) (c : FinalChunk) : List F32 :=
  let h := s.recAt c.off 128
  let e := signed (fld h 72 64) 9
  let at0 := c.off + 64
  if fld h 74 73 = 0 then
    (List.range c.elems).map (fun i =>
      let b := (s.byte (at0 + c.elems + i / 32)).toNat
      let sh := if i / 16 % 2 = 0 then b % 16 else b / 16
      toF32 .rne (elemReal (elemValue .e5m2 [(s.byte (at0 + i)).toNat]) e sh (Val.dy false 1 0) none))
  else (List.range c.elems).map (fun i => BitVec.ofNat 32 (s.le (at0 + 4 * i) 4))

/-- GRAD_SQ of one plank: the squares of the elements of its primary chunks, in the chunks' order, over the vector engine's lanes
(DEDUCED as in R180, log 101). -/
def plankSquares (s : State) (cs : List FinalChunk) : F32 := cs.foldl (fun x c => addSquares x (chunkElems s c)) 0

/-- Contribution of the final gradient chunks: GRAD_NONFIN and GRAD_SQ, the planks' sums in ascending plank number (R159, R170). -/
def gradPart (s : State) (j : Job) (c : CheckRec) : CheckRec :=
  { c with
    gradNonfin := j.lists.chunks.foldl (fun n k => satAdd 32 n (fld (s.recAt k.off 128) 127 96)) 0
    gradSq :=
      let cs := j.lists.chunks.filter (·.primary)
      let ps := (List.range 160).filter (fun p => cs.any (fun c => c.plank.val == p))
      (ps.map (fun p => plankSquares s (cs.filter (fun c => c.plank.val == p)))).foldl addR 0 }

/-- What a member's replicas show for one tensor (R318). -/
inductive ReplicaEnd where
  | equal | differ | minority
deriving DecidableEq, Repr

/-- Compare a fingerprint with those of the other replicas: all equal, no majority, or a majority that this member is not of. -/
def replicaEnd (mine : BitVec 128) (others : List (BitVec 128)) : ReplicaEnd :=
  let all := mine :: others
  if others.all (· == mine) then .equal
  else
    match all.find? (fun v => decide (all.length < 2 * (all.filter (· == v)).length)) with
    | some v => if all.length = 2 then .differ else if v = mine then .equal else .minority
    | none => .differ

/-- FPRINT of a tensor in the member's telemetry table (R181). -/
def ownPrint (s : State) (j : Job) (tid : Nat) : BitVec 128 :=
  BitVec.ofNat 128 (fld (s.recAt (fget j.man Man.TELEM + 32 * tid) 256) 255 128)

/-- A committed-state region of the job holds a poisoned sector (Table 13-3). -/
def regionPoisoned (s : State) (j : Job) : Bool := j.lists.regions.any (fun r => s.poisoned r.1 r.2)

/-- The fingerprints and the committed state of the member (R182, R318, Table 13-3): H_REPLICA and H_INTEGRITY of the record, and
whether the next commit re-fetches. -/
def replicaCheck (s : State) (j : Job) (views : List ReplicaView) (c : CheckRec) : CheckRec × Bool :=
  let ends := views.map (fun v => replicaEnd (ownPrint s j v.tid.toNat) (v.others.map (·.2)))
  let bad := regionPoisoned s j
  ({ c with
     hReplica := c.hReplica || ends.contains .differ
     hIntegrity := c.hIntegrity || (bad && !j.lists.replicas) },
   ends.contains .minority || (bad && j.lists.replicas))

/-- Ranges that the check reads: the policy, the loss records, the final gradient chunks and the fingerprints it compares. -/
def checkRanges (j : Job) (views : List ReplicaView) : List (Nat × Nat) :=
  [(fget j.man Man.POLICY, 64), (lossOff j 0, 2048)] ++ j.lists.chunks.map (fun c => (c.off, 64 + c.elems + (c.elems + 31) / 32)) ++
  views.map (fun v => (fget j.man Man.TELEM + 32 * v.tid.toNat, 32))

/-- The check begins: non-finite sequences are marked, and the member's own record is formed from its gradient, loss and replica parts. -/
def checkBegins (s : State) (j : Job) (views : List ReplicaView) : State :=
  let s := (List.range 128).foldl (fun s i => seqNonfinite s j i) (hbmNotes s (checkRanges j views))
  let c := gradPart s j (lossPart s j (emptyCheck j))
  let c := { c with hHost := c.hHost || j.holds.contains j.step }
  let r := replicaCheck s j views c
  setStep s j.id.toNat (fun j => { j with
    phase := 5
    own := some r.1
    red := none
    refetch := r.2
    replayed := 0
    waited := 0
    decided := none
    flags2 := 0 })

/-- A plank's part of phases 1 to 4 has ended (R19, R159): the plank is masked or step-masked or its core has trapped, or no transfer
of it is out and its array and vector engine have nothing left to do (assumption 115). -/
def partEnded (s : State) (p : Nat) : Bool :=
  let k := s.plank p
  let still (sel : Nat) : Bool := accState s p sel == AccSt.free || accState s p sel == AccSt.held
  maskedPlank s p || s.rbit (Reg.INTEG_STATE_STEP_MASKED p) || coreState s p == CoreSt.trapped ||
  (!s.fab.xfers.any (fun x => x.plank == p) && k.run.isNone && k.wait.isNone && k.reload.isNone && k.image.isNone &&
    k.segs.isEmpty && k.port2.isEmpty && k.port3.isEmpty && still 0 && still 1)

/-- CHECK_BEGIN (R19, R159): every plank's part of Reduce is complete; sequences with a non-finite loss are marked first. -/
def checkBeginOp (s : State) (id : Nat) (views : List ReplicaView) : State :=
  match findJob s id with
  | none => s
  | some j =>
    if j.phase = 0 || 5 ≤ j.phase || j.final || !(jobPlanks s id).all (partEnded s) then s else
    checkBegins s j views

/-- CHECK_BEGIN. -/
def execCheckBegin (job : BitVec 16) (replicas : List ReplicaView) (s : State) : Out :=
  .next (checkBeginOp s job.toNat replicas)

/-! ## The reduction (R77, R160) -/

/-- The Merge column of Table 7-2; records that differ in STEP or ATTEMPT set V_MISMATCH. -/
def mergeCheck (a b : CheckRec) : CheckRec := {
  step := a.step
  attempt := a.attempt
  vFault := a.vFault || b.vFault
  vRefusal := a.vRefusal || b.vRefusal
  vOwnership := a.vOwnership || b.vOwnership
  vOrphaned := a.vOrphaned || b.vOrphaned
  vCancelled := a.vCancelled || b.vCancelled
  vMismatch := a.vMismatch || b.vMismatch || a.step != b.step || a.attempt != b.attempt
  vSuspect := a.vSuspect || b.vSuspect
  vHost := a.vHost || b.vHost
  hHost := a.hHost || b.hHost
  hIntegrity := a.hIntegrity || b.hIntegrity
  hReplica := a.hReplica || b.hReplica
  suspect := satAdd 32 a.suspect b.suspect
  gradNonfin := satAdd 32 a.gradNonfin b.gradNonfin
  seqMasked := satAdd 16 a.seqMasked b.seqMasked
  lossSum := addR a.lossSum b.lossSum
  gradSq := addR a.gradSq b.gradSq
  tokens := satAdd 32 a.tokens b.tokens
  tokensAll := satAdd 32 a.tokensAll b.tokensAll
  reblockTensors := satAdd 32 a.reblockTensors b.reblockTensors
  triggers := satAdd 32 a.triggers b.triggers }

/-- Fold a list from its first element on, ((c0 + c1) + c2) + … -/
def foldFirst {α : Type} (f : α → α → α) (d : α) : List α → α
  | [] => d
  | x :: xs => xs.foldl f x

/-- Fold members' values up the tree (R160): members in ascending chip number within a hummock, then hummocks ascending. -/
def treeFoldUp {α : Type} (f : α → α → α) (d : α) (xs : List (Nat × α)) : α :=
  let sorted := xs.mergeSort (fun a b => decide (a.1 ≤ b.1))
  let hums := (sorted.map (fun x => x.1 / 32)).eraseDups
  foldFirst f d (hums.map (fun h => foldFirst f d ((sorted.filter (fun x => x.1 / 32 == h)).map (·.2))))

/-- Merged partial statistics records of a member's planks, ascending (R77). -/
def memberStats (s : State) (planks : List Nat) : List (Nat × StatRec) :=
  planks.foldl (fun m p => (s.plank p).stats.foldl (fun m e => kput noRec m e.1 (statMerge (kget noRec m e.1) e.2)) m) []

/-- Chips of the group of a tree map, ascending. -/
def treeGroup (s : State) (t : Nat) : List Nat := (treeHums s t).flatMap (treeMembers s t)

/-- Every member that the tree map counts has contributed, once (R160). -/
def allContributed (s : State) (t : Nat) (others : List Nat) : Bool :=
  let cs := (chipNo s :: others).mergeSort (fun a b => decide (a ≤ b))
  cs == treeGroup s t

/-- Reduced statistics of every tensor; one that nobody holds is zero. -/
def reduceStats (n : Nat) (parts : List (Nat × List (Nat × StatRec))) : List (Nat × StatRec) :=
  (List.range n).map (fun t => (t, treeFoldUp statMerge statZero (parts.map (fun x => (x.1, kget noRec x.2 t)))))

/-! ## Tests and triggers (R81, R126) -/

/-- Exact comparison x × 2^k > y of FP32 values; none holds with a NaN. -/
def exceeds (x : F32) (k : Nat) (y : F32) : Bool :=
  match f32 x, f32 y with
  | .fin false a, .fin false b => b.lt (a.scale k)
  | .inf false, .fin _ _ => true
  | .fin _ _, .inf true => true
  | .fin false a, .fin true _ => !a.isZero
  | _, _ => false

/-- A tensor crosses an enabled test of Table 3-7. -/
def crossesTest (r : BitVec 512) (c : StatRec) : Bool :=
  (fget r Ten.BRIM_EN == 1 && decide (c.elems < c.brimElems * 2 ^ fget r Ten.BRIM_K)) ||
  (fget r Ten.SUNK_EN == 1 && decide (c.blocks < c.sunkBlocks * 2 ^ fget r Ten.SUNK_K)) ||
  (fget r Ten.RMSE_EN == 1 && exceeds c.err2 (fget r Ten.RMSE_K) c.in2)

/-- A laddered tensor on rung 2 or 3 overflows its outlier list too often (R126). -/
def sedgeTrigger (l : BitVec 512) (c : StatRec) : Bool :=
  fget l Lad.LADDER_EN == 1 && (fget l Lad.PEND_RUNG == 2 || fget l Lad.PEND_RUNG == 3) &&
  decide (c.elems < c.sedgeOvf * 2 ^ fget l Lad.OVF_K)

/-- Tensors that cross their tests, chunk tensors apart (R81, R293). -/
def crossedTids (s : State) (j : Job) (rs : List (Nat × StatRec)) : List Nat :=
  let cs := chunkTids s j
  (rs.filter (fun r => !cs.contains r.1 && crossesTest (jobTensor s j r.1) r.2)).map (·.1)

/-- Laddered tensors with a trigger (R126). -/
def triggeredTids (s : State) (j : Job) (replay : Bool) (crossed : List Nat) (rs : List (Nat × StatRec)) : List Nat :=
  (rs.filter (fun r =>
    let l := jobLadder s j r.1
    sedgeTrigger l r.2 || (fget l Lad.LADDER_EN == 1 && replay && crossed.contains r.1))).map (·.1)

/-- A trigger sets MARKED and raises PEND_RUNG below MAX_RUNG (R126). -/
def raisePending (s : State) (j : Job) (tid : Nat) : State :=
  let l := fset (jobLadder s j tid) Lad.MARKED 1
  let up := decide (fget l Lad.PEND_RUNG < fget l Lad.MAX_RUNG)
  setLadder s j tid (if up then fset l Lad.PEND_RUNG (fget l Lad.PEND_RUNG + 1) else l)

/-! ## The verdict (R161, R171, R174) -/

/-- L of R171. -/
def stepLoss (c : CheckRec) : F32 := divR c.lossSum (natF32 c.tokens)

/-- The loss-spike test (R171). -/
def lossSpike (s : State) (j : Job) (c : CheckRec) : Bool :=
  let pol := policyOf s j
  let r := stepRec s j
  let mu : F32 := BitVec.ofNat 32 (fget r SR.LOSS_MEAN)
  let var : F32 := BitVec.ofNat 32 (fget r SR.LOSS_VAR)
  let m := natF32 (fget pol Policy.SPIKE_M)
  let d := subR (stepLoss c) mu
  fget pol Policy.SPIKE_EN == 1 && decide (fget pol Policy.SPIKE_WARM ≤ fget r SR.UPD_COUNT) && cmpF 2 0 d
    && cmpF 2 (mulR (mulR m m) var) (mulR d d)

/-- SCALE of R174. -/
def stepScale (s : State) (j : Job) (c : CheckRec) : F32 :=
  let pol := policyOf s j
  let ratio := toF32 .rne (.fin false ⟨c.tokensAll, c.tokens, 0⟩)
  let clip := if fget pol Policy.CLIP_EN = 0 then one32
    else minF one32 (divR (BitVec.ofNat 32 (fget pol Policy.CLIP_NORM)) (sqrtF .rne (mulR c.gradSq (mulR ratio ratio))))
  if c.tokens = 0 then one32 else mulR ratio clip

/-- Any V flag, and any H flag, of a record. -/
def checkV (c : CheckRec) : Bool :=
  c.vFault || c.vRefusal || c.vOwnership || c.vOrphaned || c.vCancelled || c.vMismatch || c.vSuspect || c.vHost
def checkH (c : CheckRec) : Bool := c.hHost || c.hIntegrity || c.hReplica

/-- Class byte of a tensor of a job (Table 15-6). -/
def jobClass (s : State) (j : Job) (tid : Nat) : Nat := (s.byte (fget j.man Man.CLASSES + tid)).toNat

/-- The verdict of Table 7-3, and whether REBLOCK_END gave it. `first` says that this is the first round. -/
def deriveVerdict (s : State) (j : Job) (c : CheckRec) (spike first : Bool) : Nat × Bool :=
  let pol := policyOf s j
  let gradBad := (List.range j.lists.tensors).any (fun t =>
    bit (jobClass s j t) 1 && decide (0 < (reducedStat s j t).nonfinite))
  if checkV c || decide (0 < c.gradNonfin) || gradBad || c.tokens == 0 ||
      (fget pol Policy.SEQ_POLICY == 1 && decide (0 < c.seqMasked)) || (spike && fget pol Policy.SPIKE_VOID == 1) then
    (Vd.void, false)
  else if 0 < c.suspect && first then (Vd.suspect, false)
  else if checkH c then (Vd.held, false)
  else if 0 < c.reblockTensors then
    if c.attempt ≤ fget pol Policy.REBLOCK_MAX then (Vd.reblock, false)
    else ((if fget pol Policy.REBLOCK_END = 0 then Vd.clean else if fget pol Policy.REBLOCK_END = 1 then Vd.void else Vd.held), true)
  else (Vd.clean, false)

/-! ## Stage U1 staged by Check (R66, R128, R129, R171 to R173) -/

/-- New header and history entry of a tensor that was converted in the committed attempt (R66). -/
def stagedTensor (s : State) (j : Job) (tid : Nat) : List (Nat × List Byte) :=
  let c := reducedStat s j tid
  if c.elems = 0 then [] else
  let off := fget j.man Man.TENSORS + 320 * tid
  let r := jobTensor s j tid
  let h := fget r Ten.HLEN_M1 + 1
  let head := fget r Ten.HEAD
  let r := fset (fset r Ten.HEAD ((head + 1) % h)) Ten.COUNT (min h (fget r Ten.COUNT + 1))
  [(off + 64 + 4 * head, leBytes 4 c.pmax.toNat), (off, leBytes 8 (r.toNat % 2 ^ 64))]

/-- Ladder record of a laddered tensor after a commit (R128, R129). -/
def stagedLadder (j : Job) (l : BitVec 512) (tid : Nat) : BitVec 512 :=
  let rung := fget l Lad.RUNG
  if fget l Lad.PEND_RUNG ≠ rung then
    fset (fset (fset l Lad.RUNG (fget l Lad.PEND_RUNG)) Lad.CLEAN_RUN 0) Lad.LAST_CHANGE j.step
  else if fget l Lad.MARKED = 1 then
    let l := fset l Lad.CLEAN_RUN 0
    if rung = fget l Lad.MAX_RUNG then fset l Lad.TRIGGERS (satInc 32 (fget l Lad.TRIGGERS)) else l
  else if j.crossed.contains tid then fset l Lad.CLEAN_RUN 0
  else
    let n := satInc 16 (fget l Lad.CLEAN_RUN)
    if fget l Lad.DOWN_AFTER != 0 && decide (fget l Lad.DOWN_AFTER ≤ n) && decide (1 < rung) then
      fset (fset (fset l Lad.RUNG (rung - 1)) Lad.CLEAN_RUN 0) Lad.LAST_CHANGE j.step
    else fset l Lad.CLEAN_RUN n

/-- Loss statistics after a commit (R171): LOSS_MEAN and LOSS_VAR. -/
def stagedLoss (s : State) (j : Job) : F32 × F32 :=
  let r := stepRec s j
  if fget r SR.UPD_COUNT = 0 then (j.loss, 0) else
  let alpha : F32 := BitVec.ofNat 32 ((127 - fget (policyOf s j) Policy.SPIKE_K) * 2 ^ 23)
  let mu : F32 := BitVec.ofNat 32 (fget r SR.LOSS_MEAN)
  let var : F32 := BitVec.ofNat 32 (fget r SR.LOSS_VAR)
  let d := subR j.loss mu
  (addR mu (mulR alpha d), mulR (subR one32 alpha) (addR var (mulR alpha (mulR d d))))

/-- P1 and P2 of an optimizer record after a commit (R173, Table 7-10). -/
def stagedOpt (s : State) (j : Job) (tid : Nat) : Nat × List Byte :=
  let off := fget j.man Man.OPT + 32 * tid
  let r := s.recAt off 256
  let w (hi lo : Nat) : F32 := BitVec.ofNat 32 (fld r hi lo)
  (off + 20, leBytes 4 (mulR (w 191 160) (w 63 32)).toNat ++ leBytes 4 (mulR (w 223 192) (w 95 64)).toNat)

/-- Tensor ids that the member's optimizer updates. -/
def updatedTids (j : Job) : List Nat := (j.lists.blocks.map (fun b => b.2.toNat)).eraseDups

/-- The staged copies of every record that stage U1 changes (R172). -/
def stagedAll (s : State) (j : Job) : List (Nat × List Byte) :=
  let cs := chunkTids s j
  let tids := List.range j.lists.tensors
  let loss := stagedLoss s j
  let sr := fget j.man Man.STEPREC
  (tids.filter (fun t => !cs.contains t)).flatMap (stagedTensor s j)
  ++ (tids.filter (fun t => fget (jobLadder s j t) Lad.LADDER_EN == 1)).map (fun t =>
      (fget j.man Man.LADDER + 64 * t, leBytes 64 (stagedLadder j (jobLadder s j t) t).toNat))
  ++ [(sr + 32, leBytes 8 (fget (stepRec s j) SR.UPD_COUNT + 1) ++ leBytes 4 loss.1.toNat ++ leBytes 4 loss.2.toNat)]
  ++ (updatedTids j).map (stagedOpt s j)

/-- Weights whose tensor enters rung 3 at this commit: their factors take four iterations (R122, R129). -/
def enteringRung3 (s : State) (j : Job) : List Nat :=
  ((List.range j.lists.tensors).filter (fun t =>
    let l := jobLadder s j t
    fget l Lad.LADDER_EN == 1 && fget l Lad.RUNG != 3 && fget (stagedLadder j l t) Lad.RUNG == 3)).map
    (fun t => fget (jobLadder s j t) Lad.NAP_TID)

/-- Where the staged copies lie in the job's staging area: one after the other, in the order in which they are staged
(assumption 101). -/
def stagedAt (base : Nat) : List Nat → List Nat
  | [] => []
  | n :: ns => base :: stagedAt (base + n) ns

/-- Write the staged copies into the staging area (R172). -/
def writeStaged (s : State) (j : Job) (st : List (Nat × List Byte)) : State :=
  ((stagedAt (fget j.man Man.STAGING) (st.map (fun w => w.2.length))).zip st).foldl
    (fun s w => hbmStore (hbmNote s w.2.1 w.2.2.length) w.1 w.2.2) s

/-- A step commits (R172): Check writes the staged copies, and Update begins, with the gradient scale of its check record (R174). -/
def commitStep (s : State) (id : Nat) : State :=
  match findJob s id with
  | none => s
  | some j =>
    let st := stagedAll s j
    let nap := enteringRung3 s j
    let scale := match j.red with
      | some c => stepScale s j c
      | none => j.scale
    setStep (writeStaged (hbmNotes s ((updatedTids j).map (fun t => (fget j.man Man.OPT + 32 * t, 32)))) j st) id (fun j => { j with
      phase := 6
      scale := scale
      stage := 0
      staged := st.map (fun w => (w.1, w.2.length))
      napDue := nap })

/-- Act on a derived verdict (R162): Suspect and Held wait, the others are final. -/
def actVerdict (s : State) (id v : Nat) (c : CheckRec) : State :=
  if v = Vd.suspect || v = Vd.held then setStep s id (fun j => { j with verdict := v, waited := 0 })
  else if v = Vd.void then voidStep s id c
  else if v = Vd.reblock then finalVerdict s id v c
  else commitStep (finalVerdict s id v c) id

/-- The members' records and statistics are folded, the ladders act on them and the verdict is derived. -/
def checkFolds (s : State) (j : Job) (mine : CheckRec) (others : List MemberPart) : State :=
  let c := treeFoldUp mergeCheck mine ((chipNo s, mine) :: others.map (fun o => (o.chip.toNat, o.check)))
  let rs := reduceStats j.lists.tensors
    ((chipNo s, memberStats s (jobPlanks s j.id.toNat)) :: others.map (fun o => (o.chip.toNat, o.stats)))
  let s := writeStatTable (hbmNotes s ((fget j.man Man.STEPREC, 64) :: (fget j.man Man.CLASSES, j.lists.tensors) :: recordRanges j)) j rs
  let crossed := crossedTids s j rs
  let trig := triggeredTids s j j.replay crossed rs
  let s := trig.foldl (fun s t => raisePending s j t) s
  let c := { c with reblockTensors := satAdd 32 c.reblockTensors crossed.length, triggers := satAdd 32 c.triggers trig.length }
  let spike := c.tokens != 0 && lossSpike s j c
  let d := deriveVerdict s j c spike true
  let s := setStep s j.id.toNat (fun j => { j with
    red := some c
    marked := crossed
    crossed := (j.crossed ++ crossed ++ trig).eraseDups
    spike := spike
    rbEnd := d.2
    loss := if c.tokens = 0 then 0 else stepLoss c })
  actVerdict s j.id.toNat d.1 c

/-- A Held step is resolved by the members' decisions: 1 commit, 2 Void, 3 replay, Void when they differ (R165). -/
def resolveHeld (s : State) (j : Job) (c : CheckRec) (decision : Nat) (others : List (BitVec 14 × BitVec 8)) : State :=
  let id := j.id.toNat
  if others.any (fun d => d.2.toNat != decision) then voidStep s id { c with vHost := true }
  else if decision = 1 then commitStep (finalVerdict s id Vd.clean c) id
  else if decision = 2 || j.attempt = 15 then voidStep s id c
  else finalVerdict s id Vd.held c

/-- The reductions that CHECK_REDUCTION_COMPLETE ends (R160, R161, R165), once every member of the group has contributed: that of the
check records, and that of the decisions on a Held step for which this member's own has come. -/
def checkReduced (s : State) (id : Nat) (others : List MemberPart) : State :=
  match findJob s id with
  | none => s
  | some j =>
    match j.own with
    | none => s
    | some mine =>
      if j.phase ≠ 5 || j.final || !allContributed s (jobTree j) (others.map (·.chip.toNat)) then s else
      match j.red with
      | none => checkFolds s j mine others
      | some c =>
        match j.decided with
        | some d => if j.verdict = Vd.held then resolveHeld s j c d (others.map (fun o => (o.chip, o.decision))) else s
        | none => s

/-- CHECK_REDUCTION_COMPLETE. -/
def execCheckReductionComplete (job : BitVec 16) (others : List MemberPart) (s : State) : Out :=
  .next (checkReduced s job.toNat others)

/-! ## A new attempt (R155, R156, R167) -/

/-- Attempt state of a plank ends (Table 7-1, R151, R304). -/
def resetAttemptPlank (s : State) (p : Nat) : State :=
  let held := accState s p 1 == AccSt.held && (getAcc s p 1).fill.isSome
  let s := if held then freeAcc s p 1 else s
  let s := (emptyFill s p).rset (Reg.FILL_PTR_ITEM_HELD p) 0
  s.modPlank p (fun k => { k with accSeq := 0, ilvPos := 0 })

/-- The loss records and the sequence mask clear (Table 7-1). -/
def clearLosses (s : State) (j : Job) : State := hbmStore s (fget j.man Man.LOSS) (List.replicate 2048 0)

/-- Begin phase 1 of an attempt: the attempt state of Table 7-1 is cleared. -/
def beginAttempt (s : State) (id attempt : Nat) (replay : Bool) : State :=
  match findJob s id with
  | none => s
  | some j =>
    let s := clearStatTable (clearLosses ((jobPlanks s id).foldl resetAttemptPlank s) j) id
    setStep s id (fun j => { j with
      attempt := attempt
      phase := 1
      verdict := 0
      final := false
      stage := 0
      spike := false
      rbEnd := false
      replay := replay
      own := none
      red := none
      replayed := 0
      waited := 0
      decided := none
      flags2 := 0 })

/-- A replay of the step (R82, R127): marked tensors take PMAX of the discarded attempt as REF, the rungs stay pending, and
partial records, flags and counts start anew. -/
def replayAttempt (s : State) (j : Job) : State :=
  let id := j.id.toNat
  let s := clearStats s id
  let s := (List.range j.lists.tensors).foldl (fun s t =>
    let l := jobLadder s j t
    let s := if fget l Lad.LADDER_EN = 1 then setLadder s j t (fset l Lad.MARKED 0) else s
    if j.marked.contains t then setRef s j t (reducedStat s j t).pmax
    else if fget l Lad.LADDER_EN = 1 then setRef s j t (BitVec.ofNat 32 (fget (jobTensor s j t) Ten.REF))
    else s) s
  let s := modJob s id (fun j => { j with flags := 0, suspect := 0 })
  beginAttempt s id (j.attempt + 1) (j.verdict == Vd.reblock)

/-- The attempt's state is lost: the core of a plank of the step, not masked, stands in Reset (R183). -/
def attemptLost (s : State) (id : Nat) : Bool :=
  (jobPlanks s id).any (fun p => !maskedPlank s p && coreState s p == CoreSt.reset)

/-- The step restarts with its next attempt after the state of one was lost (R156, R183): references, exponents and rungs of the
attempt are kept, its statistics, flags and counts start anew. -/
def restartAttempt (s : State) (j : Job) : State :=
  let id := j.id.toNat
  let s := modJob (clearStats s id) id (fun j => { j with
    flags := 0
    suspect := 0
    marked := [] })
  beginAttempt s id (j.attempt + 1) j.replay

/-- The first attempt of a step. -/
def firstAttempt (s : State) (j : Job) : State :=
  let id := j.id.toNat
  let s := (stepStreams j).foldl (fun s n => strmSet s n Strm.STEP j.step) s
  let s := firstRefs (hbmNotes s (recordRanges j)) j
  let r := stepRec s j
  let s := hbmStoreRec s (fget j.man Man.STEPREC) (fset r SR.UPD_NONFIN 0)
  let s := modJob s id (fun j => { j with crossed := [], marked := [], updNonfin := [] })
  energyBegin (beginAttempt s id 1 false) id none j.step

/-- ATTEMPT_BEGIN: a replay after Reblock or after Held resolved to replay, a restart while FINAL is clear and the attempt's state
is lost, or the first attempt of the next step while no step runs and a step stream of the job does. -/
def attemptBegin (s : State) (id : Nat) : State :=
  match findJob s id with
  | none => s
  | some j =>
    let running := (stepStreams j).any (fun n => streamKind s n == 0 && streamState s n == St.running)
    if j.phase = 5 && j.final && (j.verdict == Vd.reblock || j.verdict == Vd.held) then
      if j.attempt < 15 then replayAttempt s j else s
    else if 1 ≤ j.phase && j.phase ≤ 5 && !j.final && running && attemptLost s id then
      if j.attempt < 15 then restartAttempt s j else s
    else if j.phase = 0 && running then firstAttempt s j
    else s

/-- ATTEMPT_BEGIN. -/
def execAttemptBegin (job : BitVec 16) (s : State) : Out := .next (attemptBegin s job.toNat)

end Sys2Proof.Machine
end

