-- ==== Sys2Proof/Machine/Replay.lean ====
section
/-!
DEFINITION. Replay capsules and their replay (R163, R307 to R311, R448), and the second round of Check.
-/
namespace Sys2Proof.Machine

-- Head of a replay capsule (Table 13-2) and a region entry.
namespace Cap
def VALID : Fd := (0, 0)
def END : Fd := (1, 1)
def PASSES : Fd := (9, 2)
def PLANK : Fd := (17, 10)
def ATTEMPT : Fd := (21, 18)
def ACC_SEQ : Fd := (45, 22)
def REGIONS : Fd := (51, 46)
def STEP : Fd := (127, 64)
def OFF : Fd := (23, 0)
def LEN : Fd := (47, 24)
def DATA : Fd := (127, 64)
end Cap

def capsuleOff (j : Job) (slot : Nat) : Nat := fget j.man Man.STASH + slot * 17825792
def capsuleHead (s : State) (j : Job) (slot : Nat) : BitVec 512 := s.recAt (capsuleOff j slot) 512

/-- Capsules of the attempt, in slot order from slot 0 (R307). -/
def capsules (s : State) (j : Job) : List Nat :=
  (List.range (fget j.man Man.REPLAY_SLOTS)).takeWhile (fun i =>
    let h := capsuleHead s j i
    fget h Cap.VALID == 1 && fget h Cap.STEP == j.step && fget h Cap.ATTEMPT == j.attempt)

/-- The plank on which a capsule of plank n replays (R309). -/
def replayPlank (s : State) (n : Nat) : Option Nat :=
  ((List.range 7).map (fun j => (n + 20 * (j + 1)) % 160)).find? (fun p => !maskedPlank s p)

/-- Outcome of a replay (R311). -/
inductive ReplayEnd where
  | same | differs | mismatch | cannot
deriving DecidableEq, Repr

/-- Copy bytes in lines of 64 B; a poisoned line stays poisoned. -/
def copyLines (s : State) (src dst n : Nat) : State :=
  (List.range (n / 64)).foldl (fun s i =>
    let s' := (if isHbm src then hbmNote s (src + 64 * i) 64 else s).store (dst + 64 * i) (s.bytes (src + 64 * i) 64)
    if s.poisoned (src + 64 * i) 64 then s'.addPoison (dst + 64 * i) 64 else s') s

/-- Load every region of a capsule to its recorded offset in plank r's store. -/
def loadRegions (s : State) (cap r : Nat) : State :=
  let h := s.recAt cap 512
  (List.range (fget h Cap.REGIONS)).foldl (fun s i =>
    let e := s.recAt (cap + 8224 + 16 * i) 128
    copyLines s (cap + fget e Cap.DATA) (storeBase r + fget e Cap.OFF) (fget e Cap.LEN)) s

/-- The recorded descriptors, with CHK forced to 1. -/
def capsuleDescs (s : State) (cap : Nat) : List (BitVec 256) :=
  (List.range (fget (s.recAt cap 512) Cap.PASSES)).map (fun i => fset (s.recAt (cap + 64 + 32 * i) 256) Desc.CHK 1)

/-- Function-table images that the descriptors name go into their slots: the slot that holds one on the original plank, else
slot 0. -/
def loadImages (s : State) (orig r : Nat) (ds : List (BitVec 256)) : State :=
  ds.foldl (fun s d =>
    let k := fget d Desc.EPI_ID
    if fget d Desc.DRAIN = 0 || k = 0 || !(fget d Desc.EPI_MODE == 1 || fget d Desc.EPI_MODE == 2) then s else
    let slot := (tableSlot s orig k).getD 0
    let img := s.bytes (storeBase r + tableOff s orig k) 4160
    (s.rset (slotF r slot) k).modPlank r (fun n => { n with tables := kput noTable n.tables slot img })) s

/-- One pass of a replay, from its issue to its end; none when it is refused or abandoned. -/
def replayPass (s : State) (r : Nat) (d : BitVec 256) : Option State × State :=
  let x := issueDesc s r d 0 none .clean
  match (x.2.plank r).wait with
  | none => (none, x.2)
  | some q =>
    if x.1 ≠ 0 || !mayBegin x.2 r q then (none, x.2) else
    let s := enterPass (x.2.modPlank r (fun k => { k with run := some q, wait := none })) r q
    let s := endPass s r q
    if plankState s r = PlankSt.faulted then (none, s) else
    let js := (s.plank r).segs
    let s := (js.foldl (fun s j => runSeg s r j) s).modPlank r (fun k => { k with segs := [] })
    if fget d Desc.DRAIN = 0 then (some s, s) else
    let s := finishDrain (setAccState s r (fget d Desc.SEL) AccSt.draining) r (fget d Desc.SEL) .clean
    if plankState s r = PlankSt.faulted then (none, s) else (some s, s)

/-- All passes; the flag says that every one ran. -/
def replayPasses (r : Nat) : List (BitVec 256) → State → Bool × State
  | [], s => (true, s)
  | d :: ds, s =>
    match replayPass s r d with
    | (some t, _) => replayPasses r ds t
    | (none, t) => (false, t)

/-- Ranges of the output codes and shift bytes of a drain. -/
def outRanges (s : State) (r : Nat) (d : BitVec 256) : List (Nat × Nat) :=
  let sd := s.recAt (storeBase r + fget d Desc.SIDE * 64) 512
  let a : Accum := { Accum.empty with desc := d, side := sd }
  let fmt := (Fmt.ofCode (fget d Desc.OUT_FMT)).getD .fp32
  (List.range (passRows d)).flatMap (fun row => (drainRowRanges a row).take (if fmt.blocked then 2 else 1))

def bytesOf (s : State) (r : Nat) (rs : List (Nat × Nat)) : List Byte := rs.flatMap (fun x => s.bytes (storeBase r + x.1) x.2)

/-- Replay the capsule at `cap` on plank r (R309). While it runs the plank works under the original's stream and under the step
of the capsule, its cells own every bank, and its statistics, the job, streams and objects stay as they were. It ends
with chk.cmp, which counts and records as any (R305); that a replay mismatches is its outcome and makes no further suspect. Slices armed
on the plank wait for its next window (R328). -/
def replayOn (s0 : State) (cap orig r : Nat) : ReplayEnd × State :=
  let h := s0.recAt cap 512
  let ds := capsuleDescs s0 cap
  let last := ds.getLastD 0
  let k0 := s0.plank r
  let stream := (s0.plank orig).stream
  let s := s0.modPlank r (fun k => { k with
    stream := stream
    replaying := true })
  let s := match stream with
    | some n => strmSet s n.val Strm.STEP (fget h Cap.STEP)
    | none => s
  let s := (s.rset (Reg.BANK_OWN_LO_OWN r) 0x1111111111111111).rset (Reg.BANK_OWN_HI_OWN r) 0x1111111111111111
  let s := freeAcc (freeAcc (loadRegions s cap r) r 0) r 1
  let s := loadImages s orig r ds
  let outs := if fget h Cap.END = 0 then outRanges s r last else []
  let steps := chkSteps ds
  let size := 8 * steps + 8192
  let out0 := bytesOf s r outs
  let chk0 := s.bytes (storeBase r + s.rget (Reg.CHK_BUF_BASE orig) * 4096) size
  let x := replayPasses r ds s
  let sel := fget last Desc.SEL
  let s := if x.1 && fget h Cap.END = 1 then chkFinish x.2 r (getAcc x.2 r sel) else x.2
  let note := (s.plank r).chk
  let chk1 := s.bytes (storeBase r + s.rget (Reg.CHK_BUF_BASE r) * 4096) size
  let live := x.1 && note.sampled && !note.excluded
  let bad := if live then chkBad s r ds else []
  let outcome : ReplayEnd :=
    if !live then .cannot
    else if !bad.isEmpty then .mismatch
    else if chk0 = chk1 && out0 = bytesOf s r outs then .same else .differs
  let s := laneCycles (if live then chkRecord s r last bad else s) r (16 + (if live then steps else 0))
  let s := freeAcc (freeAcc s r 0) r 1
  let s := (s.setWord (Reg.BANK_OWN_LO_OWN r).off (s0.word (Reg.BANK_OWN_LO_OWN r).off)).setWord (Reg.BANK_OWN_HI_OWN r).off
    (s0.word (Reg.BANK_OWN_HI_OWN r).off)
  let s := s.modPlank r (fun k => { k with
    stream := k0.stream
    stats := k0.stats
    chk := k0.chk
    run := none
    wait := none
    replaying := false
    windowOver := k.windowOver || s.rbit (Reg.SOUND_WIN_REMAIN r) })
  (outcome, { refreshPlank s r with jobs := s0.jobs, streams := s0.streams, objs := s0.objs })

/-- The plank on which a capsule replays runs no sounding slice: a replay waits for the slice under way as a pass does (R325). -/
def replayReady (s : State) (cap : Nat) : Bool :=
  match replayPlank s (fget (s.recAt cap 512) Cap.PLANK) with
  | some r => !s.rbit (Reg.SOUND_STATUS_RUNNING r)
  | none => true

/-- A replay of plank r's queue of capsules is due: Suspect stands, and a capsule not yet replayed replays there (R328). -/
def replayDue (s : State) (r : Nat) : Bool :=
  s.jobs.any (fun j => j.phase == 5 && !j.final && j.verdict == Vd.suspect
    && ((capsules s j).drop j.replayed).any (fun i => replayPlank s (fget (capsuleHead s j i) Cap.PLANK) == some r))

/-- The mismatch of a plank has had its replay: its entry of Hjelper's queue closes (R319). One that a second error joined has its one
charge when the step or the batch ends. -/
def closeMismatch (s : State) (p : Nat) : State :=
  { s with errq := s.errq.filter (fun e => !(e.unitClass == 0 && e.unit == p && e.code == 0) || e.linked) }

/-- The one charge of a plank with a second error is not that of a replay: it comes when its entry closes, or has been made (R319). -/
def chargedOnce (s : State) (p : Nat) : Bool :=
  match s.errq.find? (fun e => e.unitClass == 0 && e.unit == p && e.code == 0) with
  | some e => e.linked
  | none => s.rbit (Reg.INTEG_STATE_STEP_MASKED p)

/-- Replay a capsule where R309 says; the replay plank is none when every candidate is masked. -/
def replayCapsule (s : State) (cap : Nat) : ReplayEnd × Option Nat × State :=
  let orig := fget (s.recAt cap 512) Cap.PLANK
  match replayPlank s orig with
  | none => (.cannot, none, s)
  | some r => let x := replayOn s cap orig r; (x.1, some r, x.2)

/-- Tag and output tensor of a capsule's last pass. -/
def capsuleTag (s : State) (cap : Nat) : Nat × Nat :=
  let d := (capsuleDescs s cap).getLastD 0
  (fget d Desc.PASS_TAG, fget d Desc.OUT_TID)

/-- What an outcome does to planks: the original is charged, or both are logged (Table 13-3, Table 13-11), and the entry of the
mismatch closes. -/
def replayBlame (s : State) (cap : Nat) (e : ReplayEnd) (r : Option Nat) : State :=
  let h := s.recAt cap 512
  let orig := fget h Cap.PLANK
  let t := capsuleTag s cap
  let n : PeatNote := { step := fget h Cap.STEP, tag := t.1, tid := t.2 }
  let s' := closeMismatch s orig
  match e with
  | .differs => if chargedOnce s orig then s' else chargeSoon s' orig 0 t.1 t.2
  | .mismatch => peatRecord (peatRecord s' 6 0 orig n) 6 0 (r.getD orig) n
  | _ => s'

/-- One capsule is replayed and what it shows joins the verdict. -/
def suspectOnce (s : State) (j : Job) (slot : Nat) : State :=
  let cap := capsuleOff j slot
  let x := replayCapsule s cap
  let s := replayBlame x.2.2 cap x.1 x.2.1
  let f : BitVec 2 := match x.1 with
    | .same => 0
    | .mismatch => 2
    | _ => 1
  modJob s j.id.toNat (fun j => { j with replayed := j.replayed + 1, flags2 := j.flags2 ||| f })

/-- SUSPECT_REPLAY (R163, R309): the next capsule of the attempt, while the verdict is Suspect. -/
def execSuspectReplay (job : BitVec 16) (slot : Nat) (s : State) : Out :=
  .next (match findJob s job.toNat with
    | none => s
    | some j =>
      if j.phase ≠ 5 || j.final || j.verdict ≠ Vd.suspect || slot ≠ j.replayed || !(capsules s j).contains slot
          || !replayReady s (capsuleOff j slot) then s else
      suspectOnce s j slot)

/-- The second round: the members' replay flags are folded and the verdict is derived again. -/
def secondRound (s : State) (j : Job) (c : CheckRec) (others : List FlagPart) : State :=
  let caps := (capsules s j).length
  let c := { c with
    vSuspect := c.vSuspect || j.flags2.getLsbD 0 || decide (caps < j.suspect) || others.any (·.vSuspect)
    hIntegrity := c.hIntegrity || j.flags2.getLsbD 1 || others.any (·.hIntegrity)
    suspect := 0 }
  let d := deriveVerdict s j c j.spike false
  let s := setStep s j.id.toNat (fun j => { j with red := some c, rbEnd := d.2 })
  actVerdict s j.id.toNat d.1 c

/-- The second round (R163): every member brings its flags; the verdict is derived again from the first-round record with
SUSPECT read as 0. A suspect accumulation without a capsule cannot be replayed. -/
def execSecondRoundReduction (job : BitVec 16) (others : List FlagPart) (s : State) : Out :=
  .next (match findJob s job.toNat with
    | none => s
    | some j =>
      match j.red with
      | none => s
      | some c =>
        let caps := (capsules s j).length
        if j.phase ≠ 5 || j.final || j.verdict ≠ Vd.suspect || j.replayed < caps
            || !allContributed s (jobTree j) (others.map (·.chip.toNat)) then s else
        secondRound s j c others)

end Sys2Proof.Machine
end

