-- ==== Sys2Proof/Machine/Sounding.lean ====
section
/-!
DEFINITION. Soundings of a plank, and INTEG_CTL (R317, R324 to R327).
-/
namespace Sys2Proof.Machine

/-- A plank may run an armed slice (R325): one of its current window, and after a replay that is due there (R327, R328). That it is due
is the event's own statement: time is not modelled. -/
def maySound (s : State) (p : Nat) : Bool :=
  let k := s.plank p
  !maskedPlank s p && powered s p && s.rbit (Reg.SOUND_WIN_REMAIN p) && !s.rbit (Reg.SOUND_STATUS_RUNNING p)
    && !k.windowOver && !replayDue s p && accState s p 0 == AccSt.free && accState s p 1 == AccSt.free && k.wait.isNone && k.run.isNone && k.reload.isNone
    && !s.rbit (Reg.PLANK_STATUS_SPILL_VALID p) && !s.rbit (Reg.CORE_STATUS_CTX_VALID p) && k.port2.isEmpty && k.port3.isEmpty

/-- A slice begins: REMAIN falls, and the first slice of a sounding keeps its start. -/
def sliceBegins (s : State) (p : Nat) : State :=
  let s := s.rset (Reg.SOUND_WIN_REMAIN p) (s.rget (Reg.SOUND_WIN_REMAIN p) - 1)
  let first := s.rget (Reg.SOUND_STATUS_NEXT p) = 0 && !s.rbit (Reg.SOUND_STATUS_RETRY p)
  let s := if first then s.tick.modPlank p (fun k => { k with soundStart := s.hc.setWidth 48 }) else s
  s.rset (Reg.SOUND_STATUS_RUNNING p) 1

/-- SOUNDING_SLICE (R324, R325): the next slice begins; slice 0 begins a sounding. -/
def execSoundingSlice (p : PlankId) (s : State) : Out :=
  .next (
    if !maySound s p then s else
    sliceBegins s p)

/-- A slice passed: NEXT moves on, and after slice 63 the sounding is complete. -/
def slicePassed (s : State) (p : Nat) : State :=
  let n := s.rget (Reg.SOUND_STATUS_NEXT p)
  let retry := s.rbit (Reg.SOUND_STATUS_RETRY p)
  let s := s.rset (Reg.SOUND_STATUS_NEXT p) ((n + 1) % 64)
  let s := s.rset (Reg.SOUND_STATUS_RETRY p) 0
  let s := if n = 63 then
      (s.rset (Reg.SOUND_STATUS_LAST_START p) (s.plank p).soundStart.toNat).modPlank p (fun k => { k with overdue := 0 })
    else s
  if retry then chargeSoon s p SoundCode.passed 0 0 else s

/-- A slice failed: it is retried once, first in the plank's next window; a failed retry masks the plank. -/
def sliceFailed (s : State) (p : Nat) : State :=
  let retry := s.rbit (Reg.SOUND_STATUS_RETRY p)
  let s := s.rsat (Reg.SOUND_STATUS_FAILS p) 1
  let s := chargeSoon s p SoundCode.failed 0 0
  if retry then decideMask (s.rset (Reg.SOUND_STATUS_RETRY p) 0) p
  else (s.rset (Reg.SOUND_STATUS_RETRY p) 1).modPlank p (fun k => { k with windowOver := true })

/-- A slice ends. -/
def sliceEnds (s : State) (p : Nat) (passed : Bool) : State :=
  let s := s.rset (Reg.SOUND_STATUS_RUNNING p) 0
  if passed then slicePassed s p else sliceFailed s p

/-- SOUNDING_SLICE_END (R327). -/
def execSoundingSliceEnd (p : PlankId) (passed : Bool) (s : State) : Out :=
  .next (
    if !s.rbit (Reg.SOUND_STATUS_RUNNING p) then s else
    sliceEnds s p passed)

/-- n more slices are armed: a window begins (R325, R327). With n = 0 none is armed, and nothing happens (R441). -/
def armSlices (s : State) (p n : Nat) : State :=
  if n = 0 then s else
  (s.rsat (Reg.SOUND_WIN_REMAIN p) n).modPlank p (fun k => { k with windowOver := false })

/-- SOUND_WIN_ARM (R325). -/
def execSoundWinArm (p : PlankId) (w : Writer) (n : BitVec 8) (s : State) : Out :=
  .next (regCommand s w (Reg.SOUND_WIN_ARM p).off (fun s => armSlices s p n.toNat))

/-- One more overdue sounding is counted and filed. -/
def noteOverdue (s : State) (p : Nat) : State :=
  let s := s.modPlank p (fun k => { k with overdue := k.overdue + 1 })
  fileEvent s 2 0x0100 0 p (plankStep s p) (BitVec.ofNat 512 (s.plank p).overdue)

/-- SOUND_OVERDUE (R326): one EVENT for each full period that a due sounding is late. -/
def execSoundOverdue (p : PlankId) (s : State) : Out :=
  .next (
    if maskedPlank s p then s else
    noteOverdue s p)

/-! ## INTEG_CTL (R317) -/

/-- CLASS of a plank (R323). -/
def plankClass (s : State) (p : Nat) : Nat :=
  if s.rbit (Reg.PLANK_STATUS_MASKED p) then 3
  else if s.rget (Reg.INTEG_STATE_LEVEL p) != 0 then 2
  else if s.rget (Reg.INTEG_STATE_CHARGES p) = 1 then 1
  else 0

/-- LEVEL 0, with the LDO and the clock of Table 13-4. -/
def nominal (s : State) (p : Nat) : State :=
  ((s.rset (Reg.INTEG_STATE_LEVEL p) 0).rset (Reg.PLANK_CLOCK_LDO_OFS p) 0).rset (Reg.CLOCK_CEIL_MHZ p) 2700

/-- RESTORE. -/
def restorePlank (s : State) (p : Nat) : State :=
  let s := nominal s p
  peatRecord (s.rset (Reg.INTEG_STATE_CLASS p) (plankClass s p)) 9 0 p {}

/-- UNMASK. -/
def unmaskPlank (s : State) (p : Nat) : State :=
  let s := if s.rbit (Reg.PLANK_STATUS_MASKED p) then
      setPlankState (s.rset (Reg.PLANK_STATUS_MASKED p) 0) p PlankSt.idle else s
  restorePlank s p

/-- INTEG_RESTORE: ignored while a job is loaded. -/
def execIntegRestore (p : PlankId) (w : Writer) (s : State) : Out :=
  .next (guardedCommand s w (Reg.INTEG_CTL_RESTORE p).off (!s.jobs.isEmpty) (fun s => restorePlank s p))

/-- INTEG_UNMASK: ignored while a job is loaded. -/
def execIntegUnmask (p : PlankId) (w : Writer) (s : State) : Out :=
  .next (guardedCommand s w (Reg.INTEG_CTL_UNMASK p).off (!s.jobs.isEmpty) (fun s => unmaskPlank s p))

end Sys2Proof.Machine
end

