-- ==== Sys2Proof/Machine/Hjelper.lean ====
section
/-!
DEFINITION. Hjelper's watchdog, its restart and what it restores from the peat log (R313, R321 to R323, R332, R333, R349, R352),
and the reference clocks (R431).
-/
namespace Sys2Proof.Machine

/-! ## The watchdog (R332) -/

/-- HJELPER_WATCHDOG_KICK. -/
def execHjelperWatchdogKick (s : State) : Out :=
  .next (if !hjRuns s then s else { s.tick with board := { s.board with wdogAt := s.hc } })

/-- Hjelper is down: queued errors are marked unlogged, and an activation under way reverts. -/
def hjelperFalls (s : State) : State :=
  let s := if hjelperUp s then takeCache s else s
  let s := s.errq.foldl (fun s e => markUnlogged s e.unitClass e.unit e.code true) s
  let s : State := { s with
    errq := []
    board := { s.board with hjData := [] } }
  let s := s.rset Reg.HJ_STATUS_STATE 0
  let s := s.rsat Reg.HJ_STATUS_WDOG_RESETS 1
  let s := markIvs s (fun v => { v with hjReset := true })
  let s := fileEvent (alert s 7) 2 0x0002 6 0 0 0
  match s.board.activation with
  | some a => activationReverts s a
  | none => s

/-- HJELPER_WATCHDOG_RESET (R332, R333, R352): the error queue is cleared, and what it held waits in the sticky fields; an
activation under way reverts. -/
def execHjelperWatchdogReset (s : State) : Out :=
  .next (
    if !s.board.hjUp then s
    else
      hjelperFalls s)

/-- ACTIVATION_REVERT (R352). -/
def execActivationRevert (s : State) : Out :=
  .next (match s.board.activation with
    | some a => if s.rget Reg.HJ_STATUS_STATE = 2 then activationReverts s a else s
    | none => s)

/-! ## The peat log at bring-up (R313, R322, R323) -/

def intactPeat (s : State) : List (Nat × BitVec 512) := s.peat.filter (fun e => peatIntact e.2)

/-- The record with the largest sequence number. -/
def latestPeat (rs : List (Nat × BitVec 512)) : Option (Nat × BitVec 512) :=
  rs.foldl (fun b e => match b with
    | none => some e
    | some x => if fget x.2 Peat.SEQ < fget e.2 Peat.SEQ then some e else b) none
/-- The record with the least sequence number. -/
def firstPeat (rs : List (Nat × BitVec 512)) : Option (Nat × BitVec 512) :=
  rs.foldl (fun b e => match b with
    | none => some e
    | some x => if fget e.2 Peat.SEQ < fget x.2 Peat.SEQ then some e else b) none

/-- LEVEL, CLASS, ceiling, LDO offset and mask of a plank from its latest record; CHARGES and LAST_TICK from its charges. -/
def restorePlankPeat (rs : List (Nat × BitVec 512)) (s : State) (p : Nat) : State :=
  let mine := rs.filter (fun e => fget e.2 Peat.UNIT_CLASS == 0 && fget e.2 Peat.UNIT == p)
  let charges := mine.filter (fun e => let k := fget e.2 Peat.KIND; k == 1 || k == 2 || k == 3 || k == 5)
  let r := match latestPeat mine with
    | some e => e.2
    | none => 0
  let level := fget r Peat.LEVEL
  let s := (s.rset (Reg.INTEG_STATE_LEVEL p) level).rset (Reg.INTEG_STATE_CLASS p) (fget r Peat.CLASS)
  let s := (s.rset (Reg.PLANK_CLOCK_LDO_OFS p) (min level 4)).rset (Reg.CLOCK_CEIL_MHZ p) (levelCeil level)
  let s := s.rset (Reg.INTEG_STATE_CHARGES p) (min 255 charges.length)
  let s := s.rset (Reg.INTEG_STATE_LAST_TICK p) (match latestPeat charges with
    | some e => fget e.2 Peat.TICK
    | none => 0)
  let masked := fget r Peat.MASKED
  let s := s.rset (Reg.PLANK_STATUS_MASKED p) masked
  setPlankState s p (if masked = 1 then PlankSt.masked else PlankSt.idle)

/-- Hjelper reads the log at its first start after Boot. -/
def restorePeat (s : State) : State :=
  let rs := intactPeat s
  let s := match latestPeat rs with
    | some e => (s.rset Reg.PEAT_SEQ_SEQ (fget e.2 Peat.SEQ)).rset Reg.PEAT_STATUS_HEAD ((e.1 + 1) % 65536)
    | none => s
  let s := match firstPeat rs with
    | some e => s.rset Reg.PEAT_STATUS_OLDEST e.1
    | none => s
  let s := s.rset Reg.PEAT_STATUS_WRAPPED (boolNat (rs.any (fun e => decide (s.rget Reg.PEAT_STATUS_HEAD ≤ e.1))))
  let s := s.rset Reg.STEP_TICK_TICK (rs.foldl (fun n e => max n (fget e.2 Peat.TICK)) 0)
  (List.range 160).foldl (restorePlankPeat rs) s

/-! ## The restart (R321, R333) -/

/-- Hjelper drains the event FIFO into the log. -/
def drainFifo (s : State) : State :=
  let es := s.fifo
  es.foldl logEvent { s with fifo := [] }

/-- One entry for each sticky error that is set and not yet logged (R321). -/
def rescan (s : State) : State :=
  let s := (List.range 160).foldl (fun s p =>
    let s := if (s.plank p).faultUnlogged && s.rget (Reg.FAULT_INFO_CODE p) != 0 then
        filePlank s p (s.rget (Reg.FAULT_INFO_CODE p)) (s.rget (Reg.FAULT_INFO_TAG p)) 0 else s
    if (s.plank p).trapUnlogged && s.rget (Reg.TRAP_INFO_CAUSE p) != 0 then filePlank s p 27 0 0 else s) s
  let s := (List.range 16).foldl (fun s m =>
    if s.board.eccUnlogged.getLsbD m && s.rget (Reg.ECC_UNCORR_COUNT m) != 0 then fileError s 1 (m * 64 + hbmPc (s.rget (Reg.ECC_LAST_ADDR m))) 0 0 0 0 else s) s
  (List.range 48).foldl (fun s l => if s.board.linkUnlogged.getLsbD l && s.rget (Reg.LINK_RETRY_FAILS (l / 4) (l % 4)) != 0 then fileError s 2 l 0 0 0 0 else s) s

/-- The charges and the energy records that waited. -/
def catchUp (s : State) : State :=
  let cs := s.board.charges
  let es := s.board.ivDue
  let s : State := { s with board := { s.board with
    charges := []
    ivDue := [] } }
  let s := cs.foldl applyCharge s
  es.foldl (fun s e => energyWrite s e.1 e.2.1 e.2.2) s

/-- Hjelper's firmware may start: its image is loaded, or it runs already. -/
def hjMayRun (s : State) : Bool :=
  let st := modState s
  st != 0 && st != 1 && s.rget Reg.HJ_STATUS_STATE != 1 && (s.board.booted || st == 3 || s.board.hjUp)

/-- The stacks of a die whose calibration begins are training (Table 9-11). -/
def trainStacks (s : State) (d : Nat) : State :=
  if 8 ≤ d then s else (s.rset (Reg.STACK_STATUS_STATE (2 * d)) 1).rset (Reg.STACK_STATUS_STATE (2 * d + 1)) 1

/-- The milestone "Configuration verified" of a Boot whose slot runs: the host and link dies run their firmware, fabric links train, and the
calibration of C0 begins (Table 16-7, sequences 5 to 7). -/
def configVerified (s : State) : State :=
  let s := (s.tick).rset Reg.BOOT_TIMES_CFG_OK (bootMs s)
  linksTrain (trainStacks s 0)

/-- The first start after Boot began: the peat log is read, unless it cannot be (Table 16-11), and the milestones are recorded (R412). -/
def firstStart (s : State) (peatRead : Bool) : State :=
  let s := if peatRead then restorePeat s.tick else { s.tick with board := { s.board with peatDue := true } }
  let s := s.rset Reg.BOOT_TIMES_HJ_READY (bootMs s)
  if s.board.booted then configVerified s else s

/-- Hjelper runs: the event FIFO drains, the log is continued, and what it missed is caught up. -/
def hjelperRises (s : State) (peatRead : Bool) : State :=
  let first := !s.board.hjUp
  let s := s.rset Reg.HJ_STATUS_STATE 1
  let s : State := { s.tick with board := { s.board with
    hjUp := true
    pgOut := s.board.pgOut || first
    wdogAt := s.hc } }
  let s := drainFifo s
  let s := fileEvent s 0 0x0001 6 0 0 0
  let s := if first then firstStart s peatRead
    else if s.board.activation.isNone then peatRecord s 15 6 0 {} else s
  let s := catchUp (rescan s)
  let s := uncapRelease (setIinLimit s)
  match s.board.activation with
  | some a => activationEnds s a
  | none => s

/-- HJELPER_RESTART (R321, R333, R349, R351): STATE running. -/
def execHjelperRestart (peatRead : Bool) (s : State) : Out :=
  .next (
    if !hjMayRun s then s
    else
      hjelperRises s peatRead)

/-! ## Reference clocks (R431) -/

def refOk (which : Nat) : RegF := if which = 0 then Reg.REFCLK_STATUS_REF0_OK else Reg.REFCLK_STATUS_REF1_OK
def refLoss (which : Nat) : RegF := if which = 0 then Reg.REFCLK_STATUS_REF0_LOSS else Reg.REFCLK_STATUS_REF1_LOSS
def refPpm (which : Nat) : RegF := if which = 0 then Reg.REFCLK_STATUS_REF0_PPM else Reg.REFCLK_STATUS_REF1_PPM

/-- A port that is no longer up. -/
def portDark (s : State) (e : Nat) : State :=
  ((s.rset (Reg.PORT_STATUS_UP e) 0).rset (Reg.PORT_STATUS_FEC_LOCK e) 0).rset (Reg.PORT_STATUS_AN_DONE e) 0
/-- A port goes down: its queue pairs end in error (R387, Table 15-14). -/
def portGoesDown (s : State) (e : Nat) : State := (portQps s e).foldl qpError (portDark s e)

/-- A reference is lost: the links that hold codeword lock retrain, or the ports go dark; then the event is logged, which with every port
dark waits in the log (R431, Table 17-8). -/
def refLost (s : State) (w : Nat) (ppm : BitVec 16) : State :=
  let s := ((s.rset (refOk w) 0).rsat (refLoss w) 1).rset (refPpm w) ppm.toNat
  let s := if w = 0 then
      (List.range 48).foldl (fun s l =>
        if linkState s l = LinkSt.active then enterTraining (leaveActive s l) l
        else if linkState s l = LinkSt.identify then enterTraining s l else s) s
    else (List.range 8).foldl portDark s
  fileEvent s 1 0x0260 5 (chipNo s) 0 0

/-- REFCLK_LOSS (R431). Streams go on (Table 17-8): a queue pair ends in error only by its timeouts. -/
def execRefclkLoss (which : Fin 2) (ppm : BitVec 16) (s : State) : Out :=
  .next (
    let w := which.val
    if modState s = 0 || modState s = 1 || !s.rbit (refOk w) then s
    else
      refLost s w ppm)

/-- A reference is back: failed links train again. -/
def refBack (s : State) (w : Nat) (ppm : BitVec 16) : State :=
  let s := (s.rset (refOk w) 1).rset (refPpm w) ppm.toNat
  if w = 0 && hjRuns s then
    (List.range 48).foldl (fun s l => if linkState s l = LinkSt.failed then linkRetrainOp l s else s) s
  else s

/-- REFCLK_RETURN (R431): within 500 ppm. Hjelper retrains the links in Failed. -/
def execRefclkReturn (which : Fin 2) (ppm : BitVec 16) (s : State) : Out :=
  .next (
    let w := which.val
    if modState s = 0 || modState s = 1 || s.rbit (refOk w) || 500 < (signed ppm.toNat 16).natAbs then s
    else
      refBack s w ppm)

end Sys2Proof.Machine
end

