-- ==== Sys2Proof/Machine/Sync.lean ====
section
/-!
DEFINITION. Signals, waits and object commands (R204, R267 to R275), and the stall watchdogs (R282).
-/
namespace Sys2Proof.Machine

/-! ## Signals and waits (R272, R273) -/

/-- A plank core signals an object that rs1 names: chip [29:16], object [14:0]; a number above 32,767 traps (Table 8-11), and so
does a signal to another chip for which the plank owns no direction to a link die (R252). -/
def syncSignal (s : State) (p : Nat) (rs1 rs2 : XReg) (isSet : Bool) : State :=
  let a := (s.xreg p rs1).toNat
  let insn := c1 0 (boolNat isSet) 0 rs1 rs2
  if !coreReady s p then s
  else if bit a 15 then coreTrap s p 24 3 insn 0
  else
    let s := applyHandovers s
    if bits a 16 14 != chipNo s && (plankInject s p).isNone then
      chanRefused s p (chanIndex (p / 20) (dieOfLink (p / 20 % 4)) 0) insn
    else coreNext (plankSignal s p (bits a 16 14) (bits a 0 15) (s.xreg p rs2).toNat isSet) p

/-- SYNC_ADD (R272). -/
def execSyncAdd (p : PlankId) (rs1 rs2 : XReg) (s : State) : Out := .next (syncSignal s p rs1 rs2 false)

/-- SYNC_SET (R272). -/
def execSyncSet (p : PlankId) (rs1 rs2 : XReg) (s : State) : Out := .next (syncSignal s p rs1 rs2 true)

/-- Status of a wait that may return now (R273, R274): 2 or 1 from an Orphaned object by its CAUSE, 0 when it is reached. -/
def waitStatus (s : State) (o target : Nat) : Option Nat :=
  let r := s.obj o
  let st := fget r Obj.STATE
  if st = 3 || st = 0 then some (if fget r Obj.CAUSE = 2 then 2 else 1)
  else if reached (fget r Obj.VALUE) target then some 0
  else none

/-- A wait returns its status in rd; a wait of a step that was released sets the flag of the check record (R274). -/
def waitReturns (s : State) (p rd status : Nat) : State :=
  let s := if status = 0 || stepless s p then s
    else match plankJob s p with
      | some j => releasedStep s j.id.toNat (if status = 1 then .vOrphaned else .vCancelled)
      | none => s
  coreNext (s.setX p rd (BitVec.ofNat 64 status)) p

/-- The core waits on an object: one more waiter, and WAIT_STATE names the object and the target (R273). -/
def waitBegins (s : State) (p : Nat) (rd : XReg) (o target : Nat) : State :=
  let r := s.obj o
  let s := s.setObj o (fset r Obj.WAITERS (fget r Obj.WAITERS + 1))
  let s := s.setWord (Reg.WAIT_STATE_OBJ p).off 0
  let s := ((s.rset (Reg.WAIT_STATE_OBJ p) o).rset (Reg.WAIT_STATE_TARGET p) target).rset (Reg.WAIT_STATE_WAITING p) 1
  coreHold (s.modPlank p (fun k => { k with waitRd := some rd, waited := 0 })) p (some 0)

/-- SYNC_WAIT (R204, R273). -/
def execSyncWait (p : PlankId) (rd rs1 rs2 : XReg) (s : State) : Out :=
  .next (
    let insn := c1 1 0 rd rs1 rs2
    let a := (s.xreg p rs1).toNat
    let o := bits a 0 15
    let target := bits (s.xreg p rs2).toNat 0 32
    if !coreReady s p then s
    else if stopDue s p then coreStop s p 0
    else if bit a 15 then coreTrap s p 24 3 insn 0
    else if bits a 16 14 != chipNo s || fget (s.obj o) Obj.STATE == 0 then coreTrap s p 24 0x0A insn 0
    else match waitStatus s o target with
      | some st => waitReturns s p rd st
      | none =>
        waitBegins s p rd o target)

/-- A wait on an object holds at a plank core that has not stopped. -/
def waitHolds (s : State) (p : Nat) : Bool :=
  s.rbit (Reg.WAIT_STATE_WAITING p) && coreActive s p && (s.plank p).quiesce.isNone

/-- SYNC_WAIT_RETURN (R149, R273, R274): a fill pass that waits and has not begun is withdrawn. -/
def execSyncWaitReturn (p : PlankId) (s : State) : Out :=
  .next (
    if !waitHolds s p then s
    else match waitStatus s (s.rget (Reg.WAIT_STATE_OBJ p)) (s.rget (Reg.WAIT_STATE_TARGET p)) with
      | none => s
      | some st =>
        let rd := match (s.plank p).waitRd with
          | some r => r.val
          | none => 0
        waitReturns (fillWithdraw (endWait s p) p) p rd st)

/-! ## Object commands (R269 to R271) -/

-- Fields of the command words (Table 11-3).
namespace OCmd
def VALUE : Fd := (31, 0)
def EPOCH : Fd := (47, 32)
def STREAM : Fd := (63, 48)
def CMD : Fd := (1, 0)
def TREE : Fd := (5, 2)
def RES1 : Fd := (7, 6)
def OWNER : Fd := (15, 8)
def PARTNER_CHIP : Fd := (29, 16)
def PARTNER_EN : Fd := (30, 30)
def RES2 : Fd := (31, 31)
def PARTNER_STREAM : Fd := (47, 32)
def RES3 : Fd := (63, 48)
end OCmd

/-- Latch of a writer (R269): each plank core, each session. -/
def latchKey : Writer → Nat
  | .plank q => q.val
  | .host n _ => 256 + n

def noLatch (_ : Nat) : Word64 := 0
def latchOf (s : State) (w : Writer) : Word64 := kget noLatch s.latch (latchKey w)
def setLatch (s : State) (w : Writer) (v : Word64) : State := { s with latch := kput noLatch s.latch (latchKey w) v }

/-- A claimed object (R270): both words and the owner. -/
def claimed (w0 w1 : Word64) (owner : Nat) (old : ObjRec) : ObjRec :=
  let r := fset old Obj.VALUE (fget w0 OCmd.VALUE)
  let r := fset r Obj.EPOCH (fget w0 OCmd.EPOCH)
  let r := fset r Obj.OWNER_STREAM (fget w0 OCmd.STREAM)
  let r := fset r Obj.TREE (fget w1 OCmd.TREE)
  let r := fset r Obj.PARTNER_CHIP (fget w1 OCmd.PARTNER_CHIP)
  let r := fset r Obj.PARTNER_EN (fget w1 OCmd.PARTNER_EN)
  let r := fset r Obj.PARTNER_STREAM (fget w1 OCmd.PARTNER_STREAM)
  let r := fset r Obj.OWNER owner
  let r := fset r Obj.WAITERS 0
  let r := fset r Obj.CAUSE 0
  let r := fset r Obj.PARTNER_SUSP 0
  let r := fset r Obj.SIGNALS 0
  let r := fset r Obj.LAST_SRC 0xFF
  let r := fset r Obj.LAST_CHIP 0
  let r := fset r Obj.LAST_STEP 0
  fset r Obj.STATE 1

/-- Owner codes that a claim may name (Table 11-1). -/
def ownerCode (n : Nat) : Bool := decide (n < 0xA0) || n == 0xB0 || n == 0xB1

/-- The owner of a claim by a writer. -/
def claimOwner (w : Writer) (w1 : Word64) : Nat :=
  match w with
  | .plank q => q.val
  | .host _ _ => fget w1 OCmd.OWNER

def claimObj (s : State) (w : Writer) (o : Nat) (w1 : Word64) : Option State :=
  let owner := claimOwner w w1
  if fget (s.obj o) Obj.STATE ≠ 0 || !ownerCode owner then none
  else some (objSet s o (claimed (latchOf s w) w1 owner (s.obj o)) none)

/-- The writer owns an object. -/
def ownsObj (w : Writer) (r : ObjRec) : Bool := fget r Obj.OWNER == writerSrc w

def rearmObj (s : State) (w : Writer) (o : Nat) : Option State :=
  let r := s.obj o
  if !ownsObj w r || fget r Obj.STATE != 1 || fget r Obj.WAITERS != 0 then none
  else some (objSet s o (fset (fset r Obj.VALUE (fget (latchOf s w) OCmd.VALUE)) Obj.EPOCH (fget (latchOf s w) OCmd.EPOCH))
    (some (fget r Obj.VALUE)))

def retireObj (s : State) (w : Writer) (o : Nat) : Option State :=
  let r := s.obj o
  let st := fget r Obj.STATE
  if st = 3 || ((st = 1 || st = 2) && ownsObj w r && fget r Obj.WAITERS == 0) then
    some (s.setObj o (fset (fset r Obj.STATE 0) Obj.OWNER 0xFF))
  else none

/-- A write of word 1: the state after the command, `none` when its condition does not hold (R270). -/
def objCommand (s : State) (w : Writer) (o : Nat) (v : Word64) : Option State :=
  if fget v OCmd.RES1 ≠ 0 || fget v OCmd.RES2 ≠ 0 || fget v OCmd.RES3 ≠ 0 then none
  else match fget v OCmd.CMD with
    | 1 => claimObj s w o v
    | 2 => rearmObj s w o
    | 3 => retireObj s w o
    | _ => none

/-- What a refused command does to its writer (R270): a plank core traps; a host's POKE is answered with the refusal. The
store's instruction word is no operand of the command: TRAP_INFO.INSN takes a free value (assumption 5). -/
def objRefused (s : State) (w : Writer) : State :=
  match w with
  | .plank q => if coreActive s q then coreTrap s.drew q 24 0x0B (s.fresh.toNat % 2 ^ 32) 0 else s
  | .host _ _ => s

/-- Offset of word w of object o's command register (R269). -/
def objCmdOff (o w : Nat) : Nat := syncBase + 0x100000 + o * 0x10 + w * 8

/-- A write of word 1 whose CMD is the one named. -/
def objWrite (s : State) (w : Writer) (o : ObjId) (v : Word64) (cmd : Nat) : State :=
  if fget v OCmd.CMD ≠ cmd then s
  else regCommand s w (objCmdOff o 1) (fun s => (objCommand s w o v).getD (objRefused s w))

/-- OBJ_CMD_WORD0 (R269): the word is latched for its writer. -/
def execObjCmdWord0 (w : Writer) (obj : ObjId) (v : Word64) (s : State) : Out :=
  .next (regCommand s w (objCmdOff obj 0) (fun s => setLatch s w v))

/-- OBJ_CLAIM (R270). -/
def execObjClaim (w : Writer) (obj : ObjId) (v : Word64) (s : State) : Out := .next (objWrite s w obj v 1)

/-- OBJ_REARM (R270). -/
def execObjRearm (w : Writer) (obj : ObjId) (v : Word64) (s : State) : Out := .next (objWrite s w obj v 2)

/-- OBJ_RETIRE (R270). -/
def execObjRetire (w : Writer) (obj : ObjId) (v : Word64) (s : State) : Out := .next (objWrite s w obj v 3)

/-! ## Stall watchdogs (R282) -/

/-- A wait that outlasts the limit is reported. -/
def waitReport (s : State) (p : Nat) : State :=
  let n := (s.plank p).waited + 1
  let o := s.rget (Reg.WAIT_STATE_OBJ p)
  let s := s.modPlank p (fun k => { k with waited := n })
  let s := s.rsat (Reg.WAIT_STATE_REPORTS p) 1
  stallReport s 0 p (some o) 0 (s.rget (Reg.WAIT_STATE_TARGET p)) (fget (s.obj o) Obj.VALUE) 0 n (plankStep s p)

/-- A stall report that names no object: OBJ, BARRIER and OBJECT are 0 (R160, R164). -/
def stepReport (s : State) (j : Job) (reason target value arrived : Nat) : State :=
  let s := modJob s j.id.toNat (fun j => { j with waited := j.waited + 1 })
  stallReport s reason 0xA0 none 0 target value arrived (j.waited + 1) j.step

/-- The step of a job is Held and waits for VERDICT (R164). -/
def stepHeld (j : Job) : Bool := j.phase == 5 && !j.final && j.verdict == Vd.held

/-- WAIT_WATCHDOG (R164, R282): a wait has held for one more LIMIT. The limit of a Held wait is that of the barrier engine
(assumption 106). -/
def execWaitWatchdog (who : WaitWho) (s : State) : Out :=
  .next (
    match who with
    | .plank p =>
      if !s.rbit (Reg.WAIT_STATE_WAITING p) || s.rget (Reg.WAIT_WDOG_LIMIT p) = 0 then s
      else waitReport s p
    | .held job =>
      match findJob s job.toNat with
      | some j => if !stepHeld j || s.rget Reg.BAR_WDOG_LIMIT = 0 then s else stepReport s j 0 0 0 0
      | none => s)

/-- A generation of a barrier has begun here: a plank or a member has arrived (R282). -/
def genBegun (s : State) (b : Nat) : Bool :=
  s.rget (Reg.BAR_HUM_COUNT b) != 0 || s.rget (Reg.BAR_ROOT_COUNT b) != 0
    || fget (s.obj (s.rget (Reg.BAR_ARRIVE_OBJ b))) Obj.VALUE != s.rget (Reg.BAR_LOCAL_N b) * s.rget (Reg.BAR_GEN b) % 2 ^ 32

/-- A barrier that outlasts the limit is reported. -/
def barrierReport (s : State) (b : Nat) : State :=
  let n := kget noCount s.fab.barWaits b + 1
  let s := { s with fab := { s.fab with barWaits := kput noCount s.fab.barWaits b n } }
  let o := s.rget (Reg.BAR_ARRIVE_OBJ b)
  let t := s.rget (Reg.BAR_TREE b)
  stallReport s 2 0xA0 (some o) b (s.rget (Reg.BAR_GEN b) + 1)
    (if isRoot s t then s.rget (Reg.BAR_ROOT_COUNT b) else fget (s.obj o) Obj.VALUE)
    (if isLeader s t then s.rget (Reg.BAR_ARRIVED b) else 0) n (fget (s.strm (s.rget (Reg.BAR_STREAM b))) Strm.STEP)

/-- A reduction that this member has joined waits for others: that of the first round, the second round of a Suspect verdict, or that of
the decisions on a Held step (R160, R163, R165). -/
def checkWaits (j : Job) : Bool :=
  j.phase == 5 && !j.final && j.own.isSome
    && (j.red.isNone || j.verdict == Vd.suspect || j.verdict == Vd.held && j.decided.isSome)

/-- The report of a check reduction held past the limit, at a leader or the root of the job's tree (R160): TARGET names the attempt,
a leader names in ARRIVED the members that have come, and the root its count in VALUE. -/
def checkReport (s : State) (j : Job) (arrived hums : Nat) : State :=
  let t := jobTree j
  stepReport s j 2 j.attempt (if isRoot s t then hums else 0) (if isLeader s t then arrived else 0)

/-- BARRIER_WATCHDOG (R160, R282): a generation has been held for one more LIMIT. The root reports its ROOT_COUNT. -/
def execBarrierWatchdog (gen : GenWho) (s : State) : Out :=
  .next (
    match gen with
    | .barrier b =>
      if !s.rbit (Reg.BAR_VALID b) || s.rget Reg.BAR_WDOG_LIMIT = 0 || !genBegun s b then s
      else barrierReport s b
    | .check job arrived hums =>
      match findJob s job.toNat with
      | some j =>
        if !checkWaits j || s.rget Reg.BAR_WDOG_LIMIT = 0 || !(isLeader s (jobTree j) || isRoot s (jobTree j)) then s
        else checkReport s j arrived.toNat hums.toNat
      | none => s)

end Sys2Proof.Machine
end

