-- ==== Sys2Proof/Machine/PlankCore.lean ====
section
/-!
DEFINITION. The plank core's own commands: the fill list (R147 to R151), the interleave order (R152), streams (R207, R374),
quiesce, context and resume (R207, R208), start and reset (R209).
-/
namespace Sys2Proof.Machine

/-! ## The fill list (R147 to R151) -/

/-- The next pass of the oldest of n items that has one: the item's place in the list, its descriptor's offset and its FILL_TAG. An
item that ends in an add-out holds back the items after it until the add-out completes. -/
def fillSeek (s : State) (p : Nat) : Nat → Nat → Nat → Option (Nat × Nat × Nat)
  | 0, _, _ => none
  | n + 1, k, issued =>
    let e := fillEntry s p ((s.rget (Reg.FILL_PTR_TAIL p) + k) % s.rget (Reg.FILL_RING_SIZE p))
    let m := fget e Fill.PASSES
    if issued < m then some (k, (fget e Fill.CHAIN * 64 + 32 * issued) % 2 ^ 24, fget e Fill.FILL_TAG)
    else if fget e Fill.END = 1 then none
    else fillSeek s p n (k + 1) (issued - m)

/-- A fill pass is refused: its item and the later ones leave the list without their signals. ACC1 keeps what it holds: a refusal
changes no accumulator (R89). -/
def fillRefused (s : State) (p k : Nat) : State :=
  let s := if k = 0 && s.rbit (Reg.FILL_PTR_ITEM_HELD p) then fillLeaves s p else s
  let s := s.rset (Reg.FILL_PTR_HEAD p) ((s.rget (Reg.FILL_PTR_TAIL p) + k) % s.rget (Reg.FILL_RING_SIZE p))
  fillDone (s.modPlank p (fun x => { x with fillN := k, fillIssued := if k = 0 then 0 else x.fillIssued })) p

/-- A fill pass may be issued: the waiting slot is empty (R149), and the array is not Suspending or Suspended, where the item stays
oldest (R154). -/
def fillMayIssue (s : State) (p : Nat) : Bool :=
  !slotFull s p && plankState s p != PlankSt.suspending && plankState s p != PlankSt.suspended

/-- The fill ring, which the core reads and writes in banks of its own (R147, Table 9-6, assumption 85). -/
def fillRing (s : State) (p : Nat) : Nat × Nat := (s.rget (Reg.FILL_RING_BASE p) * 64, s.rget (Reg.FILL_RING_SIZE p) * 64)

/-- Issue the next pass of the oldest `n` fill items (R149). -/
def fillIssueNext (s : State) (p n : Nat) (ecc : CoreEcc) : State :=
  if !fillMayIssue s p then s
  else match fillSeek s p n 0 (s.plank p).fillIssued with
    | none => s
    | some (k, off, tag) =>
      let r := issuePass s p off (some tag) ecc
      if r.1 ≠ 0 then fillRefused r.2 p k
      else if plankState r.2 p = PlankSt.faulted then r.2
      else fillDone (((phaseBegun r.2 p 3).radd (Reg.FILL_COUNT_PASSES p) 1).modPlank p (fun x => { x with fillIssued := x.fillIssued + 1 })) p

/-- FILL_PASS_ISSUE (R149): only while the wait's object has not been reached, and no suspend is pending. The command carries no
instruction word, so that of a trap is free (assumption 41). -/
def execFillPassIssue (p : PlankId) (ecc : CoreEcc) (s : State) : Out :=
  .next (
    if !waitHolds s p || stopDue s p
      || (waitStatus s (s.rget (Reg.WAIT_STATE_OBJ p)) (s.rget (Reg.WAIT_STATE_TARGET p))).isSome then s
    else match storeBad s p [ownCore] (fillRing s p) with
      | some b => coreTrap (bankRefused s.drew p b) p 26 1 (s.fresh.toNat % 2 ^ 32) 0
      | none => fillIssueNext s p (s.plank p).fillN ecc)

/-- An item enters the fill list and the core goes on (R147, R151). -/
def fillPut (s : State) (p : Nat) (e : BitVec 512) : State :=
  let size := s.rget (Reg.FILL_RING_SIZE p)
  let head := s.rget (Reg.FILL_PTR_HEAD p)
  let s := s.storeRec (storeBase p + s.rget (Reg.FILL_RING_BASE p) * 64 + head * 64) e
  let s := s.rset (Reg.FILL_PTR_HEAD p) ((head + 1) % size)
  coreNext (fillDone (s.modPlank p (fun x => { x with fillN := x.fillN + 1 })) p) p

/-- FILL_ENQ (R147, R151): a full list runs its oldest item to completion first; a list of SIZE 0 takes no item. The entry and
the ring lie in banks of the core. -/
def execFillEnq (p : PlankId) (rs1 : XReg) (ecc : CoreEcc) (s : State) : Out :=
  .next (
    let insn := c1 2 0 0 rs1 0
    let a := (s.xreg p rs1).toNat
    let size := s.rget (Reg.FILL_RING_SIZE p)
    if !coreReady s p then s
    else if a % 64 ≠ 0 || 0x1000000 < a + 64 then coreTrap s p 24 2 insn 0
    else
      match firstBad s p [ownCore] [(a, 64), fillRing s p] with
      | some b => coreTrap (bankRefused s p b) p 26 1 insn 0
      | none =>
      let bad := storeErrs s p ecc [(a, 64)]
      let s := eccCounts s p ecc bad
      if bad ≠ 0 then coreTrap s p 27 3 insn 0 else
      let e := s.recAt (storeBase p + a) 512
      if fget e Fill.PASSES = 0 then coreTrap s p 24 2 insn 0
      else if size = 0 then coreNext s p
      else if size ≤ (s.plank p).fillN then coreHold (fillIssueNext s p 1 .clean) p none
      else
        fillPut s p e)

/-- FILL_FLUSH (R151): the instruction holds until every item has completed. -/
def execFillFlush (p : PlankId) (ecc : CoreEcc) (s : State) : Out :=
  .next (
    if !coreReady s p then s
    else if (s.plank p).fillN = 0 then coreNext s p
    else match storeBad s p [ownCore] (fillRing s p) with
      | some b => coreTrap (bankRefused s p b) p 26 1 (c1 2 1 0 0 0) 0
      | none => coreHold (fillIssueNext s p (s.plank p).fillN ecc) p none)

/-! ## The interleave order (R152) -/

-- Header fields of the interleave table (Table 6-7).
namespace Ilv
def P_M1 : Fd := (9, 0)
def RANK : Fd := (19, 10)
def V_M1 : Fd := (22, 20)
def M : Fd := (47, 32)
end Ilv

/-- A unit: backward, virtual stage, micro-batch. -/
structure IlvUnit where
  bwd : Bool
  stage : Nat
  mb : Nat
deriving DecidableEq, Repr

/-- Unit number k of the order; `none` when the order has ended. -/
def ilvUnit (h : BitVec 512) (k : Nat) : Option IlvUnit :=
  let p := fget h Ilv.P_M1 + 1
  let v := fget h Ilv.V_M1 + 1
  let total := fget h Ilv.M * v
  let lead : Int := ((p : Int) - fget h Ilv.RANK - 1) * 2 + (v - 1 : Nat) * p
  let warm := min total lead.toNat
  let fwd (k : Nat) : IlvUnit := ⟨false, k / p % v, k / (p * v) * p + k % p⟩
  let bwd (k : Nat) : IlvUnit := ⟨true, v - 1 - k / p % v, k / (p * v) * p + k % p⟩
  let i := (k - warm) / 2
  if k < warm then some (fwd k)
  else if i < total - warm then some (if (k - warm) % 2 = 0 then fwd (warm + i) else bwd i)
  else if k - warm - (total - warm) < total then some (bwd (k - warm - (total - warm)))
  else none

/-- What ilv.next returns (Table 8-8). -/
def ilvWord (s : State) (base : Nat) (u : Option IlvUnit) : Word64 :=
  match u with
  | none => fset 0 (63, 63) 1
  | some u =>
    let e := s.recAt (base + 64 + 16 * u.stage) 128
    let w : Word64 := fset 0 (31, 0) (if u.bwd then fget e (63, 32) else fget e (31, 0))
    fset (fset (fset w (47, 32) u.mb) (50, 48) u.stage) (51, 51) (boolNat u.bwd)

/-- The next unit of the interleave list (R153). The core reads the table in banks of its own (Table 9-6, assumption 85). -/
def ilvTake (s : State) (p : Nat) (rd : XReg) (ecc : CoreEcc) : State :=
  let at0 := s.rget (Reg.ILV_BASE p) * 64
  let base := storeBase p + at0
  let k := (s.plank p).ilvPos
  let u := ilvUnit (s.recAt base 512) k
  let entry : List (Nat × Nat) := match u with
    | some u => [(at0 + 64 + 16 * u.stage, 16)]
    | none => []
  match firstBad s p [ownCore] ((at0, 64) :: entry) with
  | some b => coreTrap (bankRefused s p b) p 26 1 (c1 2 2 rd 0 0) 0
  | none =>
  let bad := storeErrs s p ecc ((at0, 64) :: entry)
  let s := eccCounts s p ecc bad
  if bad ≠ 0 then coreTrap s p 27 3 (c1 2 2 rd 0 0) 0 else
  let s := s.setX p rd (ilvWord s base u)
  let s := if u.any (·.bwd) then phaseBegun s p 2 else s
  coreNext (s.modPlank p (fun x => { x with ilvPos := if u.isSome then k + 1 else 0 })) p

/-- ILV_NEXT (R152). After done the order begins again with the next step. -/
def execIlvNext (p : PlankId) (rd : XReg) (ecc : CoreEcc) (s : State) : Out :=
  .next (
    if !coreReady s p then s
    else if !s.rbit (Reg.ILV_EN p) then coreTrap s p 24 4 (c1 2 2 rd 0 0) 0
    else
      ilvTake s p rd ecc)

/-! ## Streams (R207, R374) -/

/-- STRM_QP (R207, R298): a quiesce point of the stream; on a collective's stream it closes a chunk. -/
def execStrmQp (p : PlankId) (rs1 : XReg) (s : State) : Out :=
  .next (
    if !coreReady s p then s
    else if suspPend s p then coreStop s p 1
    else
      let n := (s.xreg p rs1).toNat % 65536
      let s := if streamKind s n = 2 then strmSet s n Strm.RECORDS (fget (s.strm n) Strm.RECORDS + 1) else s
      coreNext s p)

/-- STRM_STATE (R374). -/
def execStrmState (p : PlankId) (rd rs1 : XReg) (s : State) : Out :=
  .next (
    if !coreReady s p then s
    else coreNext (s.setX p rd (BitVec.ofNat 64 (streamState s ((s.xreg p rs1).toNat % 65536)))) p)

/-- The effect of strm.end on its stream (R374, Table 15-11). Of a Cancelling stream it ends the plank's part. A stream that
its program ends as Failed has no FAIL_CODE of Table 15-16: bits [15:8] are 0xFF, the rest a free value (R376, assumption 5). -/
def strmEnds (s : State) (n outcome : Nat) : State :=
  let st := streamState s n
  if st = St.cancelling then cancelEnds s n
  else if st = St.running || st = St.suspending then
    (if outcome = 1 then failStream s.drew n (0xFF00 + s.fresh.toNat % 256) else streamDone s n (boolNat (outcome == 2)))
  else s

/-- STRM_END (R374): an outcome above 2 is a reserved operand. -/
def execStrmEnd (p : PlankId) (rs1 rs2 : XReg) (s : State) : Out :=
  .next (
    if !coreReady s p then s
    else
      let n := (s.xreg p rs1).toNat % 65536
      let o := (s.xreg p rs2).toNat
      if 2 < o then coreTrap s p 24 1 (c1 3 2 0 rs1 rs2) 0
      else
        let mine := (s.plank p).stream.map (·.val) == some n
        let s := s.modPlank p (fun x => { x with ended := x.ended || mine })
        coreNext (strmEnds s n o) p)

/-! ## Quiesce, context and resume (R207, R208) -/

/-- CORE_QUIESCE (R207): a core that holds at a quiesce point when its suspend becomes pending stops there. -/
def execCoreQuiesce (p : PlankId) (s : State) : Out :=
  .next (
    if !suspPend s p || !coreActive s p || (s.plank p).quiesce.isSome then s
    else if s.rbit (Reg.WAIT_STATE_WAITING p) then (if qpOnly s p then s else coreStop s p 0)
    else match (s.plank p).held with
      | some q => if qpOnly s p && q != 1 then s else coreStop s p q
      | none => s)

def ctxBytes : Nat := 135168
def ctxOff (s : State) (p : Nat) : Nat := s.rget (Reg.CTX_BASE_BASE p) * 4096

/-- Header of the context record (Table 8-10), with VALID set. -/
def ctxHeader (s : State) (p q : Nat) : BitVec 512 :=
  let x : BitVec 512 := 0
  let x := fset x (0, 0) 1
  let x := fset x (3, 1) q
  let x := fset x (127, 64) (s.pc p)
  let x := match (s.plank p).waitOff with
    | some off => fset (fset x (190, 128) off) (191, 191) 1
    | none => x
  fset x (255, 192) (plankStep s p)

/-- The context record. -/
def ctxRecord (s : State) (p q : Nat) : List Byte :=
  let k := s.plank p
  leBytes 64 (ctxHeader s p q).toNat
    ++ (List.range 31).flatMap (fun i => leBytes 8 (s.xreg p (i + 1)).toNat)
    ++ (List.range 7).flatMap (fun i => leBytes 8 (s.csr p i).toNat)
    ++ leBytes 64 k.vm.toNat
    ++ leBytes 8 (s.word (Reg.XI_XI p).off).toNat
    ++ (List.range 4).map (fun i => BitVec.ofNat 8 (s.rget (slotF p i)))
    ++ List.replicate 3652 0
    ++ kgets noByte k.dmem 0 65536
    ++ (kgets noF32 k.v 0 16384).flatMap (fun w => leBytes 4 w.toNat)

/-- An access to the context area fails (R106, R207, Table 8-12): fault 0x04, the context and any spill lost, the stream
Failed. -/
def ctxFails (s : State) (p : Nat) : State :=
  let s := s.rset (Reg.CORE_STATUS_CTX_VALID p) 0
  let s := loseSpill (plankFaultOp s p 4) p
  let s := s.modPlank p (fun k => { k with ctxLost := true })
  match (s.plank p).stream with
  | some n => failStream s n.val 0xFF07
  | none => s

/-- The context record is written and the core is Quiesced (R207). -/
def contextWritten (s : State) (p q : Nat) : State :=
  let s := s.store (storeBase p + ctxOff s p) (ctxRecord s p q)
  let s := (s.rset (Reg.CORE_STATUS_CTX_VALID p) 1).rset (Reg.CORE_STATUS_SUSP_PEND p) 0
  setCore (s.modPlank p (fun k => { k with quiesce := none, waitOff := none })) p CoreSt.quiesced

/-- CONTEXT_WRITE_COMPLETE (R207): once the engine's queues are empty, the core's transfers done and the array Suspended or
counting as such, the record is written and the core is Quiesced. -/
def execContextWriteComplete (p : PlankId) (s : State) : Out :=
  .next (
    let k := s.plank p
    match k.quiesce with
    | none => s
    | some q =>
      if !coreActive s p || !k.port2.isEmpty || !k.port3.isEmpty || s.fab.xfers.any (fun x => x.plank == p.val)
        || !arrayQuiet s p || k.ctxLost then s
      else match firstBad s p [ownCells] [(ctxOff s p, ctxBytes)] with
        | some b => ctxFails (spillViolation s p b 0) p
        | none =>
          contextWritten s p q)

/-- Registers, engine and data memory as the record at an offset has them (R208 step 1). -/
def reloadCore (s : State) (p at0 : Nat) : State :=
  let word (o : Nat) : Word64 := BitVec.ofNat 64 (s.le (at0 + o) 8)
  let tabs := (List.range 4).map (fun i => (s.byte (at0 + 440 + i)).toNat % 64)
  let vm := s.recAt (at0 + 368) 512
  let dm := s.bytes (at0 + 4096) 65536
  let vs := (List.range 16384).map (fun i => (BitVec.ofNat 32 (s.le (at0 + 69632 + 4 * i) 4) : F32))
  let s := s.modPlank p (fun k => { k with
    x := kputs noWord [] 1 ((List.range 31).map (fun i => word (64 + 8 * i)))
    csr := kputs noWord [] 0 ((List.range 7).map (fun i => word (312 + 8 * i)))
    vm := vm
    dmem := kputs noByte [] 0 dm
    v := kputs noF32 [] 0 vs })
  let s := s.setWord (Reg.XI_XI p).off (word 432)
  let s := s.setPc p (word 8).toNat
  tabs.zipIdx.foldl (fun s t => if t.1 = 0 then s.rset (slotF p t.2) 0 else loadTable s p t.2 t.1) s

/-- The accumulator that the continue-from-spill copy names: the one that was Accumulating, else the lower live one (R208). -/
def resumeSel (s : State) (p : Nat) : Nat :=
  if spillAccumulating s p 0 then 0 else if spillAccumulating s p 1 then 1 else if bit (spillLive s p) 0 then 0 else 1

/-- Steps 2 and 3 of R208: the spilled descriptor continues, then the waiting descriptor is issued; a spill record without a
live accumulator is dropped (R107). -/
def resumeArray (s : State) (p : Nat) (waiting : Option Nat) : State :=
  if s.rbit (Reg.PLANK_STATUS_SPILL_VALID p) && spillLive s p != 0 then
    let s := s.modPlank p (fun k => { k with waitOff := waiting })
    let sel := resumeSel s p
    let d := fset (spillDesc s p sel) Desc.ACC 2
    let off := spillOff s p + 64 + 32 * sel
    if fget d Desc.OPC = 1 then (issueDesc s p d off none .clean).2
    else
      -- a loaded-in accumulator has no pass to continue: its record is reloaded and it stays Held (R107, assumption 113)
      let r : PassRun := ⟨fset d Desc.SEL sel, 0, off, 0, 0, 0, 0, none⟩
      refreshPlank (setPlankState (s.modPlank p (fun k => { k with reload := some r })) p PlankSt.idle) p
  else
    let s := if s.rbit (Reg.PLANK_STATUS_SPILL_VALID p) then s.rset (Reg.PLANK_STATUS_SPILL_VALID p) 0 else s
    let s := if plankState s p = PlankSt.suspended then setPlankState s p PlankSt.idle else s
    match waiting with
    | some off => (issuePass s p off none .clean).2
    | none => s

/-- The core takes its state from the context record and runs; the array resumes (R208). -/
def coreResumed (s : State) (p : Nat) : State :=
  let at0 := storeBase p + ctxOff s p
  let h := s.recAt at0 512
  let s := reloadCore s p at0
  let s := s.rset (Reg.CORE_STATUS_CTX_VALID p) 0
  let s := setCore s p CoreSt.running
  resumeArray s p (if fget h (191, 191) = 1 then some (fget h (190, 128) % 2 ^ 24) else none)

/-- CORE_RESUME (R208): the stream runs again, or the core has none; the quiesce instruction is the next to execute. `ecc` is what
SECDED finds on the context record (R232). -/
def execCoreResume (p : PlankId) (ecc : CoreEcc) (s : State) : Out :=
  .next (
    let runs := match (s.plank p).stream with
      | some n => streamState s n == St.running
      | none => true
    if coreState s p ≠ CoreSt.quiesced || !s.rbit (Reg.CORE_STATUS_CTX_VALID p) || !runs then s
    else
      match firstBad s p [ownCells] [(ctxOff s p, ctxBytes)] with
      | some b => ctxFails (spillViolation s p b 0) p
      | none =>
        let bad := storeErrs s p ecc [(ctxOff s p, ctxBytes)]
        let s := eccCounts s p ecc bad
        if bad ≠ 0 then ctxFails s p
        else
          coreResumed s p)

/-! ## Start and reset (R209) -/

/-- A write of CORE_CTL.DISCARD_CTX. -/
def discardCtxOp (p : Nat) (s : State) : State :=
  if !s.rbit (Reg.CORE_STATUS_CTX_VALID p) then s
  else contextLost (s.rset (Reg.CORE_STATUS_CTX_VALID p) 0) p

/-- CORE_START (R209). -/
def execCoreStart (p : PlankId) (w : Writer) (s : State) : Out :=
  .next (regCommand s w (Reg.CORE_CTL_START p).off (coreStartOp p))

/-- CORE_RESET (R209). -/
def execCoreReset (p : PlankId) (w : Writer) (s : State) : Out :=
  .next (regCommand s w (Reg.CORE_CTL_RESET p).off (fun s => resetCore s p))

/-- CORE_DISCARD_CTX (R207). -/
def execCoreDiscardCtx (p : PlankId) (w : Writer) (s : State) : Out :=
  .next (regCommand s w (Reg.CORE_CTL_DISCARD_CTX p).off (discardCtxOp p))

/-- CORE_AUTO_RESET (R209): Hjelper, once it runs, resets a Trapped core. -/
def execCoreAutoReset (p : PlankId) (s : State) : Out :=
  .next (if coreState s p = CoreSt.trapped && s.rget Reg.HJ_STATUS_STATE = 1 then resetCore s p else s)

end Sys2Proof.Machine
end

