-- ==== Sys2Proof/Machine/JobLoad.lean ====
section
/-!
DEFINITION. Loading and unloading a job (R373, R374), with the job-load rules of the chapters that define the records (R67, R125,
R152, R153, R167, R271, R277, R287).
-/
namespace Sys2Proof.Machine

/-! ## Checks of records -/

/-- +0, or a positive finite FP32 value. -/
def nonnegFinite (x : Nat) : Bool := decide (x < 0x7F800000)
def positiveFinite (x : Nat) : Bool := decide (0 < x) && decide (x < 0x7F800000)

/-- Step policy record (R167); MASTER_SRB is a b − 4 field of R52. -/
def policyOk (r : BitVec 512) : Bool :=
  fget r Policy.REBLOCK_END != 3 && fget r Policy.SPIKE_K != 0 && fget r Policy.SPIKE_M != 0
  && fget r Policy.RES1 == 0 && fget r Policy.RES2 == 0 && decide (fget r Policy.MASTER_SRB ≤ 12)
  && (fget r Policy.CLIP_EN == 0 || positiveFinite (fget r Policy.CLIP_NORM))

/-- Tensor scaling record (R67). -/
def tensorOk (r : BitVec 512) : Bool :=
  fget r Ten.CSMODE != 3 && decide (fget r Ten.FMT ≤ 7) && nonnegFinite (fget r Ten.INIT_REF)
  && fget r Ten.RES0 == 0 && fget r Ten.RES1 == 0 && fget r Ten.RES2 == 0 && fget r Ten.RES3 == 0 && fget r Ten.RES4 == 0
  && fget r Ten.RES5 == 0

/-- Tensor ladder record, beside the tensor's format (R125). -/
def ladderOk (l t : BitVec 512) : Bool :=
  fget l Lad.RES0 == 0 && fget l Lad.RES1 == 0 && fget l Lad.RES2 == 0
  && (fget l Lad.LADDER_EN == 0 ||
    (fget l Lad.RUNG != 0 && decide (fget l Lad.RUNG < 6) && decide (fget l Lad.RUNG ≤ fget l Lad.MAX_RUNG)
      && decide (fget l Lad.MAX_RUNG < 6) && (fget t Ten.FMT == 0 || fget t Ten.FMT == 1)
      && (decide (fget l Lad.MAX_RUNG < 3) || fget l Lad.NAP_RANK != 0)
      && (decide (fget l Lad.MAX_RUNG < 2) || positiveFinite (fget l Lad.SEDGE_THR))))

/-- Bits set in a 32-bit mask. -/
def ones (x : Nat) : Nat := ((List.range 32).filter (bit x)).length
def powerOf2 (n : Nat) : Bool := (List.range 15).any (fun k => n == 2 ^ k)

/-- Algorithms allowed for a kind of collective (Table 12-2). -/
def algAllowed (alg kind : Nat) : Bool :=
  if alg = 0 then kind == 0 || kind == 3 || kind == 4
  else if alg = 1 then kind == 0
  else if alg = 2 || alg = 3 then decide (kind ≤ 2)
  else if alg = 4 then kind == 2 || kind == 3 || kind == 5
  else false

/-- Collective record against the loaded tree maps (R287). KINDs above 5 and DTYPE 3 are reserved. -/
def collectiveOk (s : State) (j : Job) (c : BitVec 512) : Bool :=
  let t := fget c Coll.TREE
  let hums := treeHums s t
  let mm := fget c Coll.MMASK
  let n := hums.length * ones mm
  let g := if fget c Coll.DTYPE = 0 then 2048 else if fget c Coll.DTYPE = 1 then 16 else 64
  let ten := jobTensor s j (fget c Coll.CHUNK_TID)
  fget c Coll.RES0 == 0 && fget c Coll.RES1 == 0 && fget c Coll.RES2 == 0 && fget c Coll.RES3 == 0 && fget c Coll.RES4 == 0
  && decide (fget c Coll.KIND ≤ 5) && decide (fget c Coll.DTYPE ≤ 2)
  && hums.all (fun h => s.rget (Reg.TREE_MEMBERS t h) == ones mm && s.rget (Reg.TREE_MASK t h) == mm)
  && j.lists.trees.any (fun e => e.tree.val == t)
  && algAllowed (fget c Coll.ALG) (fget c Coll.KIND)
  && (fget c Coll.ALG != 1 || powerOf2 n)
  && (fget c Coll.ALG != 3 || hums.all (fun h => s.rget (Reg.TREE_MEMBERS t h) == s.rget (Reg.TREE_MEMBERS t (hums.headD 0))))
  && (n != 0 && fget c Coll.ELEMS % (g * n) == 0)
  && (fget c Coll.KIND != 5 || fget c Coll.DTYPE == 2)
  && (fget c Coll.DTYPE != 0 || (fget ten Ten.FMT == 3 && fget ten Ten.CSMODE == 0))

/-- A tree map with its mask as the module now holds them (R277). -/
def treeOk (s : State) (t : Nat) : Bool :=
  (treeHums s t).all (fun h =>
    s.rget (Reg.TREE_MEMBERS t h) == ones (s.rget (Reg.TREE_MASK t h))
    && bit (s.rget (Reg.TREE_MASK t h)) (s.rget (Reg.TREE_LEADER t h)))

/-- Reserved fields of an interleave table, M against P_M1, and the job's size (R152, R153). -/
def ilvOk (s : State) (p members : Nat) : Bool :=
  if !s.rbit (Reg.ILV_EN p) then true
  else
    let base := storeBase p + s.rget (Reg.ILV_BASE p) * 64
    let h := s.recAt base 512
    decide (members ≤ 1024) && fget h Ilv.M % (fget h Ilv.P_M1 + 1) == 0
    && fget h (31, 23) == 0 && fget h (63, 48) == 0 && fget h (511, 82) == 0
    && (List.range 8).all (fun i => fget (s.recAt (base + 64 + 16 * i) 128) (127, 84) == 0)

/-- Reserved bits of a manifest (Table 15-6): bits [63:44] of its offsets, and what its table names reserved. -/
def manifestReserved (m : BitVec 2048) (off : Nat) : Bool :=
  let w := fget m (8 * off + 63, 8 * off)
  if off = 0 then w / 2 ^ 33 == 0
  else if off = 8 then true
  else if off = 0x68 || off = 0x88 then bits w 44 4 == 0
  else if off = 0x90 then w / 2 ^ 16 == 0
  else if 0xC0 ≤ off then w == 0
  else w / 2 ^ 44 == 0

/-- Plank of a compute die that is ready, not masked. -/
def inService (s : State) (p : Nat) : Bool := bit (s.rget Reg.READY_DIES) (p / 20) && !s.rbit (Reg.PLANK_STATUS_MASKED p)

/-- An object entry can be claimed by its owner (R270, R271). -/
def objEntryOk (s : State) (e : ObjEntry) : Bool :=
  fget (s.obj e.obj) Obj.STATE == 0 && ownerCode (fget e.word1 OCmd.OWNER) && fget e.word1 OCmd.CMD == 1
  && fget e.word1 OCmd.RES1 == 0 && fget e.word1 OCmd.RES2 == 0 && fget e.word1 OCmd.RES3 == 0

/-- The checks of a job, each with the manifest offset of the field that it concerns, ascending (R373). -/
def jobChecks (s : State) (j : Job) : List (Nat × Bool) :=
  let m := j.man
  let ts := List.range j.lists.tensors
  let streams := j.lists.streams.map (fun e => e.id.val)
  let planks := j.lists.programs.map (fun e => e.plank.val)
  let own (off : Nat) : Bool :=
    if off = 0 then fget m Man.JOB_ID != 0xFFFF && (findJob s (fget m Man.JOB_ID)).isNone
    else if off = 0x10 then policyOk (policyOf s j)
    else if off = 0x18 then ts.all (fun t => tensorOk (jobTensor s j t))
    else if off = 0x28 then ts.all (fun t => ladderOk (jobLadder s j t) (jobTensor s j t))
    else if off = 0x70 then (List.range j.lists.collectives).all (fun i => collectiveOk s j (collRec s j i))
    else if off = 0x78 then j.lists.objects.all (objEntryOk s) && (j.lists.objects.map (·.obj)).eraseDups.length == j.lists.objects.length
    else if off = 0xA8 then streams.all (fun n => fget (s.strm n) Strm.STATE == St.idle) && streams.eraseDups.length == streams.length
    else if off = 0xB0 then
      planks.eraseDups.length == planks.length
      && j.lists.programs.all (fun e => streams.contains e.stream.val && decide (e.codeLen ≤ 65536)
        && (modState s != 4 || inService s e.plank) && ilvOk s e.plank (treeGroup s (jobTree j)).length
        && match (s.plank e.plank).stream with
          | some n => (findJob s (fget (s.strm n.val) Strm.JOB)).isNone || streamState s n == St.suspended
          | none => true)
    else if off = 0xB8 then j.lists.trees.all (fun e => treeOk s e.tree)
    else true
  (List.range 32).map (fun i => (8 * i, manifestReserved m (8 * i) && own (8 * i)))

/-! ## Loading -/

/-- A stream of a loaded job. -/
def ofLoadedJob (s : State) (n : Nat) : Bool := s.jobs.any (fun j => (jobStreams j).contains n)

/-- A tree map is named by an Active object or a valid barrier whose stream `ofStream` allows. -/
def treeNamedBy (s : State) (ofStream : Nat → Bool) (t : Nat) : Bool :=
  s.objs.any (fun e => fget e.2 Obj.STATE == 1 && fget e.2 Obj.TREE == t && ofStream (fget e.2 Obj.OWNER_STREAM))
  || (validBarriers s).any (fun b => s.rget (Reg.BAR_TREE b) == t && ofStream (s.rget (Reg.BAR_STREAM b)))
/-- A tree map is named by an Active object or a valid barrier (R277, R444). -/
def treeNamed (s : State) (t : Nat) : Bool := treeNamedBy s (fun _ => true) t
/-- A tree map is named by an Active object or a valid barrier of a loaded job (R373). -/
def treeInUse (s : State) (t : Nat) : Bool := treeNamedBy s (ofLoadedJob s) t

/-- Load a tree map with its member mask from HBM; reserved bits stay 0 (R6, R277). -/
def loadTree (s : State) (e : TreeEntry) : State :=
  let word (off i : Nat) : Word64 := BitVec.ofNat 64 (s.le (off + 8 * i) 8)
  let s1 := (List.range 128).foldl (fun x i => x.setWord (treeMapOff e.tree 0 + 8 * i) (word e.map i &&& 0x87FF87FF87FF87FF)) s
  (List.range 256).foldl (fun x i => x.setWord (treeMaskOff e.tree 0 + 8 * i) (word e.mask i)) s1

/-- Set a program of the program list up: code, CORE_ENTRY, registers (R202). A core that is not in Reset is reset first. -/
def loadProgram (s : State) (e : ProgEntry) : State :=
  let p := e.plank.val
  let s := if coreState s p = CoreSt.reset then s else resetCore s p
  let s := s.setWord (Reg.CORE_ENTRY_ENTRY p).off e.entry
  let code := s.bytes e.code e.codeLen
  let s := s.modPlank p (fun k => { k with
    imem := kputs noByte k.imem 0 code
    stream := some e.stream
    ended := false
    unstarted := true
    stats := []
    accSeq := 0 })
  e.regs.foldl (fun s r => s.setX p r.1.val r.2) s

/-- A stream that starts (Table 15-11): a stepless one begins an energy interval (R341). -/
def startStream (s : State) (n : Nat) : State :=
  let r := s.strm n
  let s := streamRuns s n
  let job := fget r Strm.JOB
  let idle := match findIv s job (some n) with
    | some v => !v.live
    | none => true
  if fget r Strm.KIND = 1 && idle then energyBegin s job (some n) (fget r Strm.STEP) else s

/-- Enter a job's stream in the table. -/
def enterStream (s : State) (j : Job) (e : StreamEntry) : State :=
  let r : StreamRec := 0
  let r := fset r Strm.KIND e.kind.val
  let r := fset r Strm.JOB j.id.toNat
  let r := fset r Strm.PARTITION (fget j.man Man.PARTITION)
  let r := fset r Strm.STEP j.step
  let n := e.id.val
  let s := s.setStrm n r
  if fget j.man Man.START = 1 then startStream s n else streamTo s n St.queued

/-- The lists of a manifest whose layout the manual does not give, field by field (assumption 99). -/
def listBytes (l : JobLists) : List Byte :=
  be 8 l.bitmap ++ l.blocks.flatMap (fun e => be 1 e.1.val ++ be 2 e.2.toNat)
  ++ l.chunks.flatMap (fun e => be 1 e.plank.val ++ be 8 e.off ++ be 8 e.elems ++ be 1 (boolNat e.primary))
  ++ be 1 (boolNat l.replicas) ++ l.replicaTable ++ l.epochTable
  ++ l.regions.flatMap (fun e => be 8 e.1 ++ be 8 e.2)
  ++ l.streams.flatMap (fun e => be 2 e.id.val ++ be 1 e.kind.val ++ be 1 e.tree.val)
  ++ l.programs.flatMap (fun e => be 1 e.plank.val ++ be 2 e.stream.val ++ be 8 e.code ++ be 4 e.codeLen ++ be 8 e.entry.toNat
    ++ e.regs.flatMap (fun r => be 1 r.1.val ++ be 8 r.2.toNat))
  ++ l.channels.flatMap (fun e => be 2 e.chan ++ be 1 e.owner.toNat ++ (match e.gate with
    | some g => be 2 g.1.val ++ be 4 g.2.toNat
    | none => be 2 0xFFFF))

/-- The byte ranges of the records that a manifest names and whose sizes the manual gives, in the order of Table 15-6. The Update staging
area and the replay stash are areas, and hold no record of the job as it is loaded. -/
def jobRanges (j : Job) : List (Nat × Nat) :=
  let m := j.man
  let l := j.lists
  [(fget m Man.POLICY, 64), (fget m Man.TENSORS, 320 * l.tensors), (fget m Man.STATS, 64 * l.tensors),
   (fget m Man.LADDER, 64 * l.tensors), (fget m Man.CLASSES, l.tensors), (fget m Man.OPT, 32 * l.tensors),
   (fget m Man.TELEM, 32 * l.tensors), (fget m Man.STEPREC, 64), (fget m Man.LOSS, 2048),
   (l.bitmap, (l.blocks.length + 7) / 8), (fget m Man.ENERGY, 64 * fget m Man.ENERGY_ENTRIES),
   (fget m Man.COLLECTIVES, 64 * l.collectives)]
  ++ l.programs.map (fun e => (e.code, e.codeLen))
  ++ l.trees.flatMap (fun e => [(e.map, 1024), (e.mask, 2048)])

/-- The bytes that M_JOB measures: the manifest, and every record that it names (R373). -/
def jobBytes (s : State) (j : Job) : List Byte :=
  leBytes 256 j.man.toNat ++ (jobRanges j).flatMap (fun r => s.bytes r.1 r.2)
  ++ j.lists.objects.flatMap (fun e => be 2 e.obj.val ++ leBytes 8 e.word0.toNat ++ leBytes 8 e.word1.toNat)
  ++ listBytes j.lists

/-- A job as its manifest gives it. -/
def newJob (s : State) (m : BitVec 2048) (lists : JobLists) : Job :=
  let j : Job := {
    id := BitVec.ofNat 16 (fget m Man.JOB_ID)
    man := m
    lists := lists
    step := 0
    attempt := 0
    flags := 0
    suspect := 0
    updNonfin := []
    phase := 0
    verdict := 0
    final := false
    stage := 0
    spike := false
    rbEnd := false
    replay := false
    own := none
    red := none
    marked := []
    crossed := []
    replayed := 0
    flags2 := 0
    decided := none
    refetch := false
    holds := []
    staged := []
    scale := one32
    loss := 0
    napDue := []
    naps := []
    waited := 0
    maskSusp := []
    cancelDue := []
    ckpt := none
    digest := []
    code := lists.programs.flatMap (fun e => s.bytes e.code e.codeLen) }
  { j with
    step := firstStep s j
    digest := Config.sha3_512 (jobBytes s j) }

/-- The first batch of a stepless program begins with its load: the module fixes REF and E of its tensors then, as it does at
the first attempt of a step (R63, R64, R66; assumption 33). -/
def firstBatch (s : State) (j : Job) : State :=
  if j.lists.streams.any (fun e => e.kind.val == 0) then s else firstRefs (hbmNotes s (recordRanges j)) j

/-- The channel directions that a job assigns (R15, R16): a first owner to one that has none, and every later owner at its gate, those of
one direction in their order (assumption 109). -/
def assignChans (s : State) (j : Job) : State :=
  applyHandovers { s with fab := { s.fab with handovers := s.fab.handovers ++ j.lists.channels.map (fun e =>
    match e.gate with
    | none => ⟨j.id, e.chan, e.owner.toNat, false, 0, 0⟩
    | some g => ⟨j.id, e.chan, e.owner.toNat, true, g.1.val, g.2.toNat⟩) } }

/-- A job that goes takes its handovers along; its planks own no direction any more, nor has a direction that it assigned an owner
(assumption 109). -/
def clearChans (s : State) (j : Job) (planks : List Nat) : State :=
  let s := planks.foldl dropChans s
  applyHandovers { s with fab := { s.fab with
    chans := s.fab.chans.filter (fun e => !j.lists.channels.any (fun c => c.chan == e.1))
    handovers := s.fab.handovers.filter (fun h => h.job != j.id) } }

/-- The planks that a job names leave the Suspended streams that they were of: those are Orphaned, their objects with CAUSE 1
(Table 11-4). A plank of a stream in another state is refused (assumption 26). -/
def takePlanks (s : State) (j : Job) : State :=
  (j.lists.programs.map (·.plank.val)).foldl (fun s p =>
    let s := contextLost s p
    match (s.plank p).stream with
    | some n => discardContexts s n
    | none => s) s

/-- The effects of an accepted job (R271, R373). -/
def acceptJob (s : State) (j : Job) : State :=
  let s := j.lists.programs.foldl loadProgram (takePlanks s j)
  let s := j.lists.objects.foldl (fun s e =>
    s.setObj e.obj (claimed e.word0 e.word1 (fget e.word1 OCmd.OWNER) (s.obj e.obj))) s
  let s := firstBatch (assignChans { s with jobs := s.jobs ++ [j] } j) j
  makeStale (j.lists.streams.foldl (fun s e => enterStream s j e) s)

/-- Load the job whose manifest lies at an HBM offset: the manifest offset of the first field refused, or none (R373). -/
def loadJob (s : State) (off : Nat) (lists : JobLists) : Option Nat × State :=
  let m := s.recAt off 2048
  if !(decide (off + 256 ≤ 2 ^ 40)) || 4 ≤ s.jobs.length then (some 0, s)
  else if lists.trees.any (fun e => treeInUse s e.tree) then (some 0xB8, s)
  else
    let s := lists.trees.foldl loadTree (hbmNote s off 256)
    let j := newJob s m lists
    let s := hbmNotes s (jobRanges j)
    match (jobChecks s j).find? (fun c => !c.2) with
    | some c => (some c.1, s)
    | none => (none, acceptJob s j)

/-- Copy the load list of the image that Boot runs into HBM; the offset of its manifest (R406). A committed image's takes effect at the next
Boot (R415). -/
def copyLoadList (s : State) : Option (Nat × State) :=
  let slot := s.board.bootSlot
  let l := slotComp s slot 0x0022
  let d := slotComp s slot 0x0023
  if l.length < 8 then none
  else some (loadManifest l, (loadEntries l).foldl (fun s e => hbmStore s e.2.2 (slice d e.1 e.2.1)) s)

/-- JOB_LOAD with source 0, and AUTOLOAD (R406). -/
def loadConfigured (s : State) (lists : JobLists) : Option Nat × State :=
  match copyLoadList s with
  | none => (some 0, s)
  | some r => loadJob r.2 r.1 lists

/-! ## Unloading (R374, R444) -/

/-- A stream has ended for good. -/
def streamEnded (s : State) (n : Nat) : Bool :=
  let st := fget (s.strm n) Strm.STATE
  st == St.done || st == St.failed || st == St.orphaned

/-- A stream returns to Idle. -/
def idleStream (s : State) (n : Nat) : State :=
  let s := streamTo s n St.idle
  let s := s.setStrm n (fset 0 Strm.HC_LAST (fget (s.strm n) Strm.HC_LAST))
  { s with fab := { s.fab with
    sent := s.fab.sent.filter (fun x => x.stream != n)
    aborts := s.fab.aborts.filter (fun x => x.1 != n) } }

/-- Remove the partition keys that no loaded job and no data stream uses any more (R383). -/
def dropPartition (s : State) (part : Nat) : State :=
  if part = 0 || s.jobs.any (fun j => fget j.man Man.PARTITION == part)
    || s.net.data.any (fun e => e.2.isSome && fget (s.strm e.1) Strm.PARTITION == part) then s
  else
    let s : State := { s with net := { s.net with keys := s.net.keys.filter (fun k => !(k.type == 3 && k.partition == part)) } }
    let drop (c : SealCtx) : SealCtx := if c.partition == part then ctxReset 0 else c
    let s : State := { s with fab := { s.fab with
      ctxs := (List.range 192).foldl (fun m i => kput ctxReset m i (drop (kget ctxReset m i))) s.fab.ctxs } }
    (List.range 12).foldl (fun s d =>
      let held (slot : Nat) : Nat := (List.range 16).foldl (fun n i =>
        n + (if ((kget ctxReset s.fab.ctxs (16 * d + i)).key slot).isSome then 2 ^ i else 0)) 0
      (s.rset (Reg.SEAL_KEYS_SLOT0 d) (held 0)).rset (Reg.SEAL_KEYS_SLOT1 d) (held 1)) s

/-- The job goes: its barriers, programs, streams and record. -/
def unloadJob (s : State) (j : Job) : State :=
  let ns := jobStreams j
  let s := (validBarriers s).foldl (fun s b => if ns.contains (s.rget (Reg.BAR_STREAM b)) then s.rset (Reg.BAR_VALID b) 0 else s) s
  let planks := (s.planks.filter (fun e => match e.2.stream with
    | some n => ns.contains n.val
    | none => false)).map (·.1)
  let s := planks.foldl (fun s p => s.modPlank p (fun k => { k with
      stream := none
      unstarted := false
      stats := [] })) s
  let s := clearChans s j planks
  let s := ns.foldl idleStream s
  let s : State := { s with jobs := s.jobs.filter (fun x => x.id != j.id), board := { s.board with
    ivs := s.board.ivs.filter (fun v => v.job != j.id.toNat) } }
  makeStale (dropPartition s (fget j.man Man.PARTITION))

/-- JOB_UNLOAD (R374): only once every stream of the job has ended. -/
def execJobUnload (job : BitVec 16) (s : State) : Out :=
  .next (match findJob s job.toNat with
    | none => s
    | some j => if (jobStreams j).all (fun n => streamEnded s n || streamState s n == St.idle) then unloadJob s j else s)

/-- JOB_LOAD (R373, R406). -/
def execJobLoad (rq : Req) (source : BitVec 8) (off : BitVec 64) (lists : JobLists) (s : State) : Out :=
  .next (answerVerb s rq { code := 0x0020, operator := true } (fun s =>
    if 1 < source.toNat || 2 ^ 44 ≤ off.toNat then (.malformed, s)
    else
      let r := if source = 0 then loadConfigured s lists else loadJob s off.toNat lists
      match r.1 with
      | some d => (.refused d, r.2)
      | none => (.done (be 2 (match r.2.jobs.getLast? with
          | some j => j.id.toNat
          | none => 0)), r.2)))

end Sys2Proof.Machine
end

