-- ==== Sys2Proof/Machine/Boot.lean ====
section
/-!
DEFINITION. Slot selection, Mire hold and the staged bring-up (R397 to R411, Tables 16-4, 16-6 and 16-7).
-/
namespace Sys2Proof.Machine

/-! ## Choosing a slot (R399, R400, R402, R405) -/

/-- BOOT_INFO, the SEQ registers and the trust die's counters. -/
def bootInfo (s : State) (ca cb : Nat) : State :=
  let seq (slot c : Nat) : Nat := if c = 2 then 0 else imgSeq (slotHeader s slot)
  let s1 := (s.rset Reg.BOOT_INFO_SLOT_A ca).rset Reg.BOOT_INFO_SLOT_B cb
  let s1 := s1.rset Reg.BOOT_INFO_OWNER_SET (boolNat s.board.owner.isSome)
  let s1 := (s1.rset Reg.SEQ_A_SEQ (seq 0 ca)).rset Reg.SEQ_B_SEQ (seq 1 cb)
  let s1 := (s1.rset Reg.RB_CTR0_FW (s.board.rbs.getD 0 0)).rset Reg.RB_CTR1_CFG (s.board.rbs.getD 1 0)
  s1.rset Reg.RB_CTR2_OWNER (s.board.rbs.getD 2 0)

/-- The selected slot supplies every component: configuration, routing image, firmware. -/
def runSlot (s : State) (slot : Nat) : State :=
  let c := slotComp s slot 0x0020
  let img := slotComp s slot 0x0021
  let s : State := { s with
    fab := { s.fab with table := img }
    board := { s.board with
      booted := true
      calNext := 0
      config := some c
      bootConf := some c
      bootSlot := slot
      mHj := slotDigest s slot 0x0010
      mConfig := slotDigest s slot 0x0020
      routing := slotDigest s slot 0x0021 } }
  let s := (s.rset Reg.BOOT_INFO_SELECTED slot).rset Reg.CHIP_ID_HUMMOCK (Cfg.hummock c)
  let s := (s.rset Reg.SLUICE_STATUS_UDP_PORT (Cfg.sluicePort c)).rset Reg.SLUICE_STATUS_FRAG_MAX (Cfg.fragMax c)
  let s := (s.rset Reg.HJ_VERSION_BANK 0).rset Reg.HJ_VERSION_FW_VERSION (Config.firmwareVersion (slotComp s slot 0x0010)).toNat
  let s := (List.range 12).foldl (fun s d =>
    (s.rset (Reg.FAB_STATUS_TABLE_VER d) (leAt img 0 4)).rset (Reg.LINKDIE_CLOCK_MHZ d) 1250) s
  let s := loadBank s 0 (slotComp s slot 0x0010)
  applyLive s c

/-- Mire hold (R400), the recovery image running; Boot has ended (R408). -/
def enterMire (s : State) (reason : Nat) : State :=
  let s := (s.rset Reg.MODULE_STATE_MIRE_REASON reason).rset Reg.BOOT_INFO_RECOVERY 1
  let s := loadBank s 0 (slotComp s 2 0x0010)
  let s := (s.rset Reg.HJ_VERSION_BANK 0).rset Reg.HJ_VERSION_FW_VERSION (Config.firmwareVersion (bankCode s 0)).toNat
  let s := setModState { s with board := { s.board with mHj := slotDigest s 2 0x0010, committed := none } } 3
  if tripCauseHolds s then tripNow s else s

/-- The boot slot is chosen, where UPDATE_ACTIVATE in Mire hold has named it (R415) or by Table 16-4, and runs; with none, the recovery image holds the module in Mire hold. -/
def slotChosen (s : State) (straps : BitVec 5) : State :=
  let s := s.rset Reg.CHIP_ID_MEMBER straps.toNat
  let ca := slotClass s 0 straps.toNat
  let cb := slotClass s 1 straps.toNat
  let s := bootInfo s ca cb
  let start := match s.board.startSlot with
    | some k => if (if k = 0 then ca else cb) = 0 then some k else none
    | none => none
  let s : State := { s with board := { s.board with startSlot := none } }
  match start.orElse (fun _ => chooseSlot ca cb (slotHeader s 0) (slotHeader s 1)) with
  | some slot =>
    let s := runSlot s slot
    if ca = 1 || cb = 1 then fileEvent s 1 0x0200 7 (if ca = 1 then 0 else 1) 0 0 else s
  | none =>
    if recoveryValid s then enterMire s (mireReason s ca cb)
    else { s with board := { s.board with recoveryFailed := true } }

/-- SLOT_SELECT (R399, Table 16-4): the straps are sampled (R405), both slots classified and one selected. -/
def execSlotSelect (straps : BitVec 5) (s : State) : Out :=
  .next (
    if modState s != 2 || s.board.booted || s.board.recoveryFailed then s
    else
      slotChosen s straps)

/-! ## Calibration of the compute dies (R409 to R411) -/

/-- Bring-up sounding of a plank (R410): the slices that failed in order, until a retry fails. -/
def bringUpSound (s : State) (p : Nat) : List SoundingFail → State
  | [] =>
    let h := s.hc
    (s.tick.rset (Reg.SOUND_STATUS_NEXT p) 0).rset (Reg.SOUND_STATUS_LAST_START p) (h.setWidth 48).toNat
  | f :: fs =>
    let s := s.rsat (Reg.SOUND_STATUS_FAILS p) 1
    let s := chargeSoon s p SoundCode.failed 0 0
    if f.retryPassed then bringUpSound (chargeSoon s p SoundCode.passed 0 0) p fs
    else
      let s := s.rsat (Reg.SOUND_STATUS_FAILS p) 1
      let s := chargeSoon s p SoundCode.failed 0 0
      decideMask (s.rset (Reg.SOUND_STATUS_NEXT p) f.slice.val) p

/-- The planks of a die are powered at the service clock and sounded. -/
def powerDie (s : State) (c : Nat) (failed : List SoundingFail) : State :=
  (List.range 20).foldl (fun s i =>
    let p := 20 * c + i
    let mhz := targetMhz s p
    let s := (s.rset (Reg.PLANK_CLOCK_MHZ p) mhz).rset (Reg.VMON_TARGET p) (targetMv s p mhz)
    if s.rbit (Reg.PLANK_STATUS_MASKED p) then s else bringUpSound s p (failed.filter (fun f => f.index.val == i))) s

/-- The first shallows service of an image raises the counters (R397) and enrols the next owner key (R398). -/
def raiseCounters (s : State) : State :=
  let h := slotHeader s s.board.bootSlot
  let id := Config.sha3_512 h
  if s.board.reached.contains id then s
  else
    let next := Cfg.ownerNext (s.board.bootConf.getD [])
    let newOwner := !allZero next
    let rbs := [max (s.board.rbs.getD 0 0) (imgFwRb h), max (s.board.rbs.getD 1 0) (imgCfgRb h),
      s.board.rbs.getD 2 0 + (if newOwner then 1 else 0)]
    let s : State := { s with board := { s.board with
      reached := s.board.reached ++ [id]
      rbs := rbs
      owner := if newOwner then some next else s.board.owner } }
    let s := (s.rset Reg.RB_CTR0_FW (rbs.getD 0 0)).rset Reg.RB_CTR1_CFG (rbs.getD 1 0)
    (s.rset Reg.RB_CTR2_OWNER (rbs.getD 2 0)).rset Reg.BOOT_INFO_OWNER_SET (boolNat s.board.owner.isSome)

/-- AUTOLOAD (R406): a refused one is logged and sent. -/
def autoload (s : State) (service : Nat) (lists : JobLists) : State :=
  if Cfg.autoload (s.board.bootConf.getD []) ≠ service then s
  else
    let r := loadConfigured s lists
    match r.1 with
    | some off => fileEvent r.2 1 0x0209 5 (chipNo s) 0 (BitVec.ofNat 512 off)
    | none => r.2

/-- First shallows service (R408, R411): the end of Boot. -/
def enterShallows (s : State) (lists : JobLists) : State :=
  if tripCauseHolds s then tripNow s
  else
    let s := (setModState s 4).rset Reg.MODULE_STATE_SERVICE 1
    let s := (s.tick).rset Reg.BOOT_TIMES_SHALLOWS (bootMs s)
    let s := raiseCounters s
    let s := fileEvent s 1 0x0208 5 (chipNo s) 0 1
    let s := autoload s 1 lists
    if !pinActs s PinNo.holdN then enterHold s else s

/-- Full service (R411): every compute die is ready. -/
def enterService (s : State) (lists : JobLists) : State :=
  let s := s.rset Reg.MODULE_STATE_SERVICE 2
  let s := if modState s = 4 then setModState s 5 else s
  let s := (s.tick).rset Reg.BOOT_TIMES_FULL (bootMs s)
  let s := fileEvent s 1 0x0208 5 (chipNo s) 0 2
  autoload s 2 lists

/-- A compute die is calibrated and powered, its stacks by full sweeps (R409); the last of them brings the module to its service state. -/
def dieCalibrated (s : State) (d : Nat) (stack0Ok stack1Ok : Bool) (sweeps : List SweepResult) (failed : List SoundingFail) (lists : JobLists) : State :=
  let s : State := { s with board := { s.board with
    calDone := putBit s.board.calDone d true
    calNext := d + 1 } }
  let s := s.rset Reg.READY_CAL_DIE (min (d + 1) 7)
  let s := sweeps.foldl (fun s x => eyeMeasured s (2 * d + x.half.val) x.pc.val x.dqLo x.dqHi x.vrefLo x.vrefHi x.dq x.vref) s
  let s := (s.rset (Reg.STACK_STATUS_STATE (2 * d)) (if stack0Ok then 2 else 3)).rset
    (Reg.STACK_STATUS_STATE (2 * d + 1)) (if stack1Ok then 2 else 3)
  let s := trainStacks s (d + 1)
  let s := s.rset Reg.READY_STACKS (s.rget Reg.READY_STACKS ||| (boolNat stack0Ok * 2 ^ (2 * d) + boolNat stack1Ok * 2 ^ (2 * d + 1)))
  let s := powerDie s d failed
  if !(stack0Ok && stack1Ok) then fileEvent s 1 0x0207 5 (chipNo s) 0 (BitVec.ofNat 512 d)
  else
    let s := s.rset Reg.READY_DIES (s.rget Reg.READY_DIES ||| 2 ^ d)
    let s := if modState s = 2 then enterShallows s lists else s
    if allReady s && modState s != 8 then enterService s lists else s

/-- DIE_CALIBRATION_COMPLETE (R409 to R411), in the order C0 to C7. -/
def execDieCalibrationComplete (c : DieId) (stack0Ok stack1Ok : Bool) (sweeps : List SweepResult) (failed : List SoundingFail) (lists : JobLists)
    (s : State) : Out :=
  .next (
    let st := modState s
    let d := c.val
    if !s.board.booted || !hjRuns s || s.board.calNext != d || !(st == 2 || st == 4 || st == 6) then s
    else
      dieCalibrated s d stack0Ok stack1Ok sweeps failed lists)

end Sys2Proof.Machine
end

