-- ==== Sys2Proof/Machine/Ethernet.lean ====
section
/-!
DEFINITION. The Ethernet ports and what they answer (R356 to R358, R400).
-/
namespace Sys2Proof.Machine

def laneTest (s : State) (cls unit lane : Nat) : LaneTest := kget laneReset s.net.tests (laneKey cls unit lane)
def setLaneTest (s : State) (cls unit lane : Nat) (x : LaneTest) : State :=
  { s with net := { s.net with tests := kput laneReset s.net.tests (laneKey cls unit lane) x } }
/-- A port is down for a PATTERN (R369). -/
def portInTest (s : State) (e : Nat) : Bool := (laneTest s 1 e 0).taken

/-- The host dies run firmware that brings ports up: in Mire hold E0 and E4 alone (R400, Table 16-7). -/
def portServed (s : State) (e : Nat) : Bool :=
  let st := modState s
  if st = 3 then e == 0 || e == 4
  else if st = 8 then s.board.booted || e == 0 || e == 4
  else (st == 2 || st == 4 || st == 5 || st == 6) && s.board.booted

/-- ETH_PORT_UP (R356, R369, R387, R431). -/
def execEthPortUp (e : PortId) (up : Bool) (s : State) : Out :=
  .next (
    if !up then (if portIsUp s e then portGoesDown s e else s)
    else if !portServed s e || portInTest s e || !s.rbit Reg.REFCLK_STATUS_REF1_OK then s
    else ((s.rset (Reg.PORT_STATUS_UP e) 1).rset (Reg.PORT_STATUS_FEC_LOCK e) 1).rset (Reg.PORT_STATUS_AN_DONE e) 1)

/-! ## Frames (R356, R357, R400) -/

/-- A port drops a frame: one outside 64 to 9,216 B, with more than one tag or with a VLAN id that is not its own (R356, Table 16-5), with
a bad FCS or of an unknown protocol, an IP fragment, and one whose UDP checksum is wrong (R357). Which VLAN ids a port takes is the
model's reading (assumption 124). -/
def frameDropped (s : State) (e : Nat) (x : EthIn) : Bool :=
  x.bad || x.fragment || x.sumBad || decide (x.bytes.toNat < 64) || decide (9216 < x.bytes.toNat) || decide (1 < x.tags.length)
  || x.tags.headD 0 != BitVec.ofNat 12 (portVlan s e)

/-- Frames arrive at a port that is up, after the codewords that its FEC counted: n of them, or one that is dropped and counted in
PORT_DROP (Table 15-15). -/
def portRx (s : State) (e : Nat) (x : EthIn) (n : Nat) : State :=
  let s := (s.radd (Reg.PORT_FEC_CORR e) x.corrected.toNat).radd (Reg.PORT_FEC_UNCORR e) x.uncorrected.toNat
  if frameDropped s e x then s.rsat (Reg.PORT_DROP_COUNT e) 1 else s.radd (Reg.PORT_RX_FRAMES e) n
/-- A message leaves in n frames. -/
def portTx (s : State) (e : Nat) (m : OutMsg) (n : Nat) : State := { s.radd (Reg.PORT_TX_FRAMES e) n with out := m :: s.out }

/-- ARP_REQUEST (R357). -/
def execArpRequest (e : PortId) (x : EthIn) (senderMac : BitVec 48) (senderIp targetIp : BitVec 32) (s : State) : Out :=
  .next (
    if !portIsUp s e then s
    else
      let s := portRx s e x 1
      if frameDropped s e x || targetIp = 0 || targetIp != portIp4 s e then s
      else portTx s e (.arpReply e (portVlan s e) (portMac s e) (portIp4 s e) senderMac senderIp) 1)

/-- NEIGHBOUR_SOLICITATION (R357). -/
def execNeighbourSolicitation (e : PortId) (x : EthIn) (source target : BitVec 128) (s : State) : Out :=
  .next (
    if !portIsUp s e then s
    else
      let s := portRx s e x 1
      if frameDropped s e x || target != portIp6 s e then s
      else portTx s e (.neighbourAdvert e (portVlan s e) (portMac s e) (portIp6 s e) source) 1)

/-- ICMP_ECHO (R357): ICMPv6, or ICMP with the addresses in the low 32 bits. -/
def execIcmpEcho (e : PortId) (x : EthIn) (v6 : Bool) (source target : BitVec 128) (data : List Byte) (s : State) : Out :=
  .next (
    if !portIsUp s e then s
    else
      let s := portRx s e x 1
      let mine : BitVec 128 := if v6 then portIp6 s e else (portIp4 s e).setWidth 128
      if frameDropped s e x || (!v6 && portIp4 s e == 0) || target != mine then s
      else portTx s e (.echoReply e (portVlan s e) v6 (!v6) mine source data) 1)

end Sys2Proof.Machine
end

