-- ==== Sys2Proof/Machine/Session.lean ====
section
/-!
DEFINITION. Sluice fragments, sessions, EVENT messages, and the verbs IDENT, STATUS and ATTEST (R362 to R372, R381, R401).
-/
namespace Sys2Proof.Machine

/-! ## Fragments (R362, R363, R365) -/

/-- Fields of a Sluice header (Table 15-1). -/
structure FragHead where
  version : Nat
  kind : Nat
  verb : Nat
  status : Nat
  frag : Nat
  nfrag : Nat
  session : Nat
  reqId : BitVec 32
  seq : Nat
  wall : Nat
  length : Nat
deriving DecidableEq, Repr

def parseHead (h : List Byte) : FragHead := {
  version := beAt h 0 1
  kind := beAt h 1 1
  verb := beAt h 2 2
  status := beAt h 4 2
  frag := beAt h 6 1
  nfrag := beAt h 7 1
  session := beAt h 8 4
  reqId := BitVec.ofNat 32 (beAt h 12 4)
  seq := beAt h 16 8
  wall := beAt h 24 8
  length := beAt h 32 4 }

/-- A header that can be read: it names a KIND and one fragment of its message. -/
def headOk (bytes : List Byte) (h : FragHead) : Bool :=
  bytes.length == 40 && h.version == 1 && decide (h.kind ≤ 2) && decide (1 ≤ h.nfrag) && decide (h.frag < h.nfrag)

/-- A header field is reserved and not zero, or the payload is longer than FRAG_MAX or not of LENGTH bytes: STATUS 5 (Table 15-2). -/
def headMalformed (s : State) (bytes : List Byte) (h : FragHead) (payload : List Byte) : Bool :=
  h.length != payload.length || decide (fragMax s < payload.length) || beAt bytes 36 4 != 0

/-- The request payload of a verb has the length that Table 15-4 and the tables that it names give, and its reserved bytes are 0. -/
def payloadOk (verb : Nat) (p : List Byte) : Bool :=
  let n := p.length
  if verb = 0x01 || verb = 0x02 || verb = 0x30 || verb = 0x32 || verb = 0x40 || verb = 0x52 then n == 0
  else if verb = 0x03 then n == 32
  else if verb = 0x10 then n == 12
  else if verb = 0x11 then n == 12 + beAt p 8 4
  else if verb = 0x20 then n == 9
  else if verb = 0x21 || verb = 0x22 || verb = 0x23 then n == 5
  else if verb = 0x24 || verb = 0x25 then n == 10
  else if verb = 0x26 then n == 11
  else if verb = 0x27 || verb = 0x53 then n == 4
  else if verb = 0x31 then n == 5184
  else if verb = 0x41 || verb = 0x42 then n == 6
  else if verb = 0x50 then n == 8 && allZero (slice p 1 3)
  else if verb = 0x51 then decide (4 ≤ n) && decide (n ≤ 4 + 61440)
  else if verb = 0x60 then n == 13
  else if verb = 0x61 then n == 15
  else if verb = 0x70 then decide (1584 ≤ n) && n == 1584 + 64 * beAt p 1576 2 && allZero (slice p 1578 6)
  else if verb = 0x71 then n == 88
  else if verb = 0x72 then n == 2
  else false

/-- The KIND that a verb allows: HELLO and FINISH 0, IDENT 1 or 2, every other verb 1 (R363). -/
def kindAllowed (h : FragHead) : Bool :=
  if h.kind = 0 then h.verb == 1 || h.verb == 2 else if h.kind = 2 then h.verb == 1 && h.session == 0 else true

/-- SEQ is acceptable: among the 64 below the highest accepted or above it, and not seen before (R363). -/
def seqFresh (x : Session) (seq : Nat) : Bool :=
  decide (1 ≤ seq) && (decide (x.rxHigh < seq)
    || (decide (x.rxHigh ≤ seq + 64) && decide (seq < x.rxHigh) && !x.rxSeen.getLsbD (x.rxHigh - 1 - seq)))

/-- Note an accepted SEQ. -/
def seqTake (x : Session) (seq : Nat) : Session :=
  if x.rxHigh < seq then
    let d := seq - x.rxHigh
    let old : BitVec 64 := if d ≤ 64 then (x.rxSeen <<< d) ||| (if x.rxHigh = 0 then 0 else 1#64 <<< (d - 1)) else 0
    { x with rxHigh := seq, rxSeen := old }
  else { x with rxSeen := x.rxSeen ||| (1#64 <<< (x.rxHigh - 1 - seq)) }

def setParts (s : State) (ps : List Partial) : State := { s with net := { s.net with parts := ps } }

/-- An answer of session setup, of KIND 0. -/
def setupMsg (verb session : Nat) (reqId : BitVec 32) (a : Answer) : Msg := ⟨0, verb, a.status, session, reqId, a.payload⟩

/-- A malformed message is answered STATUS 5 in its own KIND (Table 15-2), one of a session unless its REQ_ID is kept (R364). -/
def answerMalformed (s : State) (e : PortId) (peer : Peer) (kind verb session : Nat) (reqId : BitVec 32) : State :=
  if kind = 0 then sendMsg s e peer (setupMsg (verb + 0x8000) session reqId .malformed)
  else if kind = 2 then respond s ⟨none, reqId, e, peer⟩ verb .malformed
  else
    let rq : Req := ⟨some session, reqId, e, peer⟩
    match findSession s session with
    | none => s
    | some x =>
      let s := acceptReq s session rq
      match keptOf x reqId verb with
      | some k => sendKept s rq k
      | none => respond s rq verb .malformed

/-- A whole message waits for its verb's command. A sealed or open one of an unknown verb, of a wrong length or with a reserved byte that
is not zero is answered STATUS 5; an EVENT's answer waits for none, and a HELLO or FINISH is looked at by its own command. -/
def messageWhole (s : State) (e : PortId) (peer : Peer) (m : Msg) : State :=
  if m.kind = 1 && m.verb = 0x80F0 then s
  else if m.kind ≠ 0 && !payloadOk m.verb m.payload then answerMalformed s e peer m.kind m.verb m.session m.reqId
  else { s with net := { s.net with ready := s.net.ready ++ [m] } }

/-- The fragments of a message that is still incomplete are dropped. -/
def dropPart (s : State) (session : Nat) (reqId : BitVec 32) : State :=
  setParts s (s.net.parts.filter (fun p => !(p.session == session && p.reqId == reqId)))

/-- A fragment joins its message (R365): at most four in reassembly per session, each at most 64 KiB. -/
def reassemble (s : State) (e : PortId) (peer : Peer) (h : FragHead) (data : List Byte) : State :=
  let whole (p : List Byte) : Msg := ⟨h.kind, h.verb, 0, h.session, h.reqId, p⟩
  if h.nfrag = 1 then messageWhole s e peer (whole data)
  else
    let same (p : Partial) : Bool := p.session == h.session && p.reqId == h.reqId && p.verb == h.verb && p.kind == h.kind
    let x := (s.net.parts.find? same).getD ⟨h.session, h.reqId, h.verb, h.kind, e.val, h.nfrag, []⟩
    let others := s.net.parts.filter (fun p => !same p)
    if x.nfrag ≠ h.nfrag || x.frags.any (fun f => f.1 == h.frag) then s
    else if !s.net.parts.any same && 4 ≤ (others.filter (fun p => p.session == h.session)).length then s
    else
      let frags := (h.frag, data) :: x.frags
      if 65536 < (frags.flatMap (·.2)).length then setParts s others
      else if frags.length < h.nfrag then setParts s (others ++ [{ x with frags := frags }])
      else messageWhole (setParts s others) e peer (whole ((List.range h.nfrag).flatMap (fun i =>
        kget (fun _ => ([] : List Byte)) frags i)))

/-- A fragment that has come: it joins its message, unless its header is malformed, which answers the message, before its state or its
role is looked at (assumption 57). -/
def fragmentArrives (s : State) (e : PortId) (peer : Peer) (h : FragHead) (head payload data : List Byte) : State :=
  if headMalformed s head h payload then answerMalformed (dropPart s h.session h.reqId) e peer h.kind h.verb h.session h.reqId
  else reassemble s e peer h data

/-- A sealed message of an open session is opened; its sequence number must be fresh. -/
def sealedFragment (s : State) (e : PortId) (peer : Peer) (h : FragHead) (head payload tag : List Byte) : State :=
  match findSession s h.session with
  | none => countReject s
  | some x =>
    if !x.opened || !seqFresh x h.seq then countReject s
    else
      match Config.gcmOpen x.keyIn (seqIv h.seq) head payload tag with
      | none => countReject s
      | some data =>
        let s := modSession s x.num (fun x => seqTake x h.seq)
        let s : State := if h.wall = 0 then s else { s.tick with
          wall := BitVec.ofNat 64 h.wall
          wallAt := s.hc }
        fragmentArrives s e peer h head payload data

/-- SLUICE_FRAGMENT (R363, R365). -/
def execSluiceFragment (e : PortId) (x : EthIn) (peer : Peer) (head payload tag : List Byte) (s : State) : Out :=
  .next (
    if !portIsUp s e then s
    else
      let s := endSpent (portRx s e x 1)
      let h := parseHead head
      if frameDropped s e x then s
      else if !headOk head h || !kindAllowed h then countReject s
      else if h.kind ≠ 1 then fragmentArrives s e peer h head payload payload
      else
        sealedFragment s e peer h head payload tag)

/-- REASSEMBLY_TIMEOUT (R365). -/
def execReassemblyTimeout (session : Nat) (reqId : BitVec 32) (s : State) : Out :=
  .next (dropPart s session reqId)

/-- SESSION_IDLE_TIMEOUT (R368). -/
def execSessionIdleTimeout (session : Nat) (s : State) : Out :=
  .next (if s.net.sessions.any (fun x => x.num == session) then endSession s session else s)

/-! ## Session setup (R366 to R368, R401) -/

/-- Answer a HELLO. -/
def helloAnswer (s : State) (e : Nat) (peer : Peer) (session : Nat) (reqId : BitVec 32) (a : Answer) : State :=
  sendMsg s e peer (setupMsg 0x8001 session reqId a)

/-- Answer a FINISH and keep the answer (R364). -/
def finishAnswer (s : State) (e : Nat) (peer : Peer) (session : Nat) (reqId : BitVec 32) (m : Msg) : State :=
  sendMsg (keep s session reqId (some m)) e peer m

/-- The host networks answer: not in Off and Reset, and only once a port is up. -/
def netAnswers (s : State) (e : Nat) : Bool := modState s != 0 && modState s != 1 && portIsUp s e

/-- Role of a host-key digest (R367); in Mire hold with no list ever recorded, enrolment (R401). -/
def roleOf (s : State) (digest : List Byte) : Option Nat :=
  match s.board.config with
  | some c => ((Cfg.hosts c).find? (fun h => h.1 == digest)).map (·.2)
  | none => if modState s = 3 then some 3 else none

/-- The answer that turns a setup message away before it is looked at, by the module's state. -/
def setupGate (s : State) : Option Answer :=
  if modState s = 8 then some .wrongState else if !hjelperUp s then some .busy else none

/-- A HELLO message no longer waits. -/
def helloTaken (s : State) (reqId : BitVec 32) : State :=
  { s with net := { s.net with ready := s.net.ready.filter (fun m => !(m.kind == 0 && m.verb == 1 && m.reqId == reqId)) } }
/-- A FINISH message no longer waits. -/
def finishTaken (s : State) (session : Nat) (reqId : BitVec 32) : State :=
  { s with net := { s.net with ready := s.net.ready.filter (fun m =>
    !(m.kind == 0 && m.verb == 2 && m.reqId == reqId && m.session == session)) } }

/-- A half-open session: its number, its key material and the signed challenge that answers. -/
def sessionOpens (s : State) (e : PortId) (peer : Peer) (reqId : BitVec 32) (payload digest : List Byte) (role : Nat) : State :=
  let n := s.net.nextSession
  let kem := Config.kemEncaps n (slice payload 96 1568)
  let body := (Config.nonce n).take 32 ++ (Config.sha3_512 Config.identityKey).take 64 ++ kem.2
  let sig := Config.dsaSign (Config.sha3_512 (ascii "EXM-T40 SLUICE MODULE" ++ payload ++ body))
  let x : Session := {
    num := n
    opened := false
    role := role
    digest := digest
    helloReq := reqId
    hello := payload
    chal := body ++ sig
    ss := kem.1
    keyIn := []
    keyOut := []
    rxHigh := 0
    rxSeen := 0
    txSeq := 1
    port := e.val
    peer := peer
    kept := []
    events := []
    nextEvent := 0 }
  let s : State := { s with net := { s.net with
    sessions := s.net.sessions ++ [x]
    nextSession := n + 1 } }
  helloAnswer s e peer n reqId (.done x.chal)

/-- HELLO (R366 to R368). A HELLO sent again, with its REQ_ID and its payload, has its CHALLENGE sent again (R364, assumption 57). -/
def execHello (e : PortId) (peer : Peer) (reqId : BitVec 32) (payload : List Byte) (s : State) : Out :=
  .next (
    let s := endSpent s
    if !netAnswers s e then s
    else
      let s := helloTaken s reqId
      let digest := slice payload 32 64
      if payload.length ≠ 1664 then helloAnswer s e peer 0 reqId .malformed
      else
        match (liveSessions s).find? (fun x => x.helloReq == reqId && x.hello == payload) with
        | some x => helloAnswer s e peer x.num reqId (.done x.chal)
        | none =>
          match setupGate s with
          | some a => helloAnswer s e peer 0 reqId a
          | none =>
            match roleOf s digest with
            | none => helloAnswer s e peer 0 reqId ⟨6, []⟩
            | some role =>
              if 16 ≤ (liveSessions s).length then helloAnswer s e peer 0 reqId (.refused 0)
              else sessionOpens s e peer reqId payload digest role)

/-- A host that proves its key opens the session; one that does not ends it. -/
def sessionFinish (s : State) (e : PortId) (peer : Peer) (session : Nat) (reqId : BitVec 32) (payload : List Byte) (x : Session) :
    State :=
  let key := slice payload 0 2592
  let m := Config.sha3_512 (ascii "EXM-T40 SLUICE HOST" ++ x.hello ++ x.chal ++ key)
  if Config.sha3_512 key == x.digest && Config.dsaVerify key m (slice payload 2592 4627) then
    let k := Config.kmac256 x.ss m 512 (ascii "EXM-T40 SLUICE")
    let s := modSession s session (fun x => { x with
      opened := true
      keyIn := slice k 0 32
      keyOut := slice k 32 32
      port := e.val
      peer := peer })
    finishAnswer s e peer session reqId ⟨1, 0x8002, 0, session, reqId, []⟩
  else endSession (sendMsg s e peer (setupMsg 0x8002 session reqId ⟨6, []⟩)) session

/-- FINISH (R366): the host's key is the one that HELLO named, and its signature verifies. A FINISH whose REQ_ID is kept has its
answer sent again (R364). -/
def execFinish (e : PortId) (peer : Peer) (session : Nat) (reqId : BitVec 32) (payload : List Byte) (s : State) : Out :=
  .next (
    let s := endSpent s
    if !netAnswers s e then s
    else
      let s := finishTaken s session reqId
      match findSession s session with
      | none => countReject s
      | some x =>
        match keptOf x reqId 0x02 with
        | some k => sendKept s ⟨some session, reqId, e, peer⟩ k
        | none =>
          if x.opened then countReject s
          else if payload.length ≠ 7219 then finishAnswer s e peer session reqId (setupMsg 0x8002 session reqId .malformed)
          else
            match setupGate s with
            | some a => finishAnswer s e peer session reqId (setupMsg 0x8002 session reqId a)
            | none => sessionFinish s e peer session reqId payload x)

/-! ## EVENT messages (R372) -/

/-- EVENT_ACK. -/
def execEventAck (session : Nat) (reqId : BitVec 32) (s : State) : Out :=
  .next (modSession s session (fun x => { x with events := x.events.filter (fun v => v.reqId != reqId) }))

/-- EVENT_RESEND: up to 8 times, with a new SEQ and the same REQ_ID; then it is abandoned. -/
def execEventResend (session : Nat) (reqId : BitVec 32) (s : State) : Out :=
  .next (
    let s := endSpent s
    match findSession s session with
    | none => s
    | some x =>
      match x.events.find? (fun v => v.reqId == reqId) with
      | none => s
      | some v =>
        if 8 < v.tries then
          (modSession s session (fun x => { x with events := x.events.filter (fun v => v.reqId != reqId) })).rsat
            Reg.EVENT_LOST_COUNT 1
        else
          let s := modSession s session (fun x => { x with
            events := x.events.map (fun v => if v.reqId == reqId then { v with tries := v.tries + 1 } else v) })
          sendMsg s x.port x.peer (eventMsg x reqId v.record))

/-! ## IDENT, STATUS, ATTEST (R333, R369, R371, R381) -/

/-- IDENT. -/
def execIdent (rq : Req) (s : State) : Out :=
  .next (answerVerb s rq { code := 1, inHold := true, inMire := true, inBoot := true, inTrip := true, enrol := true, cached := true }
    (fun s => (.done (if hjelperUp s || s.net.cache.1.isEmpty then identPayload s else s.net.cache.1), s)))

/-- STATUS. -/
def execStatusVerb (rq : Req) (s : State) : Out :=
  .next (answerVerb s rq { code := 2, inHold := true, inMire := true, inBoot := true, inTrip := true, enrol := true, cached := true }
    (fun s => if hjelperUp s || s.net.cache.2.isEmpty then (.done (statusPayload s s.hc), s.tick) else (.done s.net.cache.2, s)))

/-- 64 B of a measurement. -/
def pad64 (d : List Byte) : List Byte := (d ++ List.replicate 64 0).take 64

/-- M_JOB is that of the job loaded last; zeros when there is none. -/
def jobMeasure (s : State) : List Byte :=
  match s.jobs.getLast? with
  | some j => j.digest
  | none => []

/-- Bytes 0 to 2,143 of an attestation report (Table 15-9). -/
def reportBody (s : State) (id : Nat) (nonce ek : List Byte) (h : BitVec 64) : List Byte :=
  be 2 1 ++ be 2 0 ++ be 2 (chipNo s) ++ be 1 (shownState s) ++ be 1 (s.rget Reg.MODULE_STATE_SERVICE) ++ be 16 Config.serial.toNat
  ++ be 8 id ++ nonce ++ be 8 h.toNat
  ++ be 8 (s.board.rbs.getD 0 0) ++ be 8 (s.board.rbs.getD 1 0) ++ be 8 (s.board.rbs.getD 2 0) ++ be 8 recoveryCounter
  ++ be 24 0
  ++ pad64 Config.mRom ++ pad64 s.board.mHj ++ pad64 s.board.mConfig ++ pad64 s.board.routing ++ pad64 (jobMeasure s)
  ++ pad64 (Config.sha3_512 (s.jobs.flatMap (·.code)))
  ++ pad64 (Config.sha3_512 Config.identityKey) ++ ek

/-- A fresh report with its own key pair; every earlier one is stale (R381). -/
def makeReport (s : State) (nonce : List Byte) : List Byte × State :=
  let id := s.net.reports + 1
  let keys := Config.kemKeyGen id
  let body := reportBody s id nonce keys.2 s.hc
  let bytes := body ++ Config.dsaSign (Config.sha3_512 (ascii "EXM-T40 ATTEST" ++ body))
  (bytes, { s.tick with net := { s.net with
    reports := id
    report := some ⟨id, bytes, keys.1, false⟩ } })

/-- ATTEST. -/
def execAttest (rq : Req) (nonce : List Byte) (s : State) : Out :=
  .next (answerVerb s rq { code := 3, inHold := true, inMire := true, inBoot := true, inTrip := true, enrol := true }
    (fun s => if nonce.length ≠ 32 then (.malformed, s) else let r := makeReport s nonce; (.done r.1, r.2)))

end Sys2Proof.Machine
end

