-- ==== Sys2Proof/Machine/Diagnose.lean ====
section
/-!
DEFINITION. The verbs MARGIN and PATTERN (R224, R264, R369).
-/
namespace Sys2Proof.Machine

/-! ## MARGIN (R224) -/

/-- The points of a sweep, bytes in two's complement, from the first in steps to the last. -/
def sweepPoints (first last stride : BitVec 8) : List Nat :=
  let a := first.toInt
  let b := last.toInt
  if stride = 0 || b < a then [] else
  (List.range ((b - a).toNat / stride.toNat + 1)).map (fun i : Nat => ((a + (i : Int) * (stride.toNat : Int)) % 256).toNat)

/-- MARGIN: the points wait in the pseudo-channels named; the answer comes with the last of them. -/
def startMargin (rq : Req) (m : Nat) (pcs : BitVec 64) (param : Nat) (points : List Nat) (s : State) : State :=
  let cs := (List.range 64).filter (fun c => pcs.getLsbD c)
  let s := cs.foldl (fun s c =>
    let s := setPcState s m c { getPc s m c with
      param := param
      points := points
      passes := [] }
    s.rset (Reg.PC_STATUS_CAL_BUSY m c) 1) s
  { s with net := { s.net with margin := some ⟨rq, m, cs, points.length⟩ } }

/-- MARGIN (R224): one command at a time. -/
def execMargin (rq : Req) (m : BitVec 8) (pcs : BitVec 64) (param first last stride : BitVec 8) (s : State) : Out :=
  .next (runVerb s rq { code := 0x60, inHold := true, inMire := true, operator := true } (fun s =>
    let points := sweepPoints first last stride
    if 16 ≤ m.toNat || 4 ≤ param.toNat || pcs = 0 || points.isEmpty then (some .malformed, s)
    else if s.net.margin.isSome then (some (.refused 0), s)
    else (none, startMargin rq m.toNat pcs param.toNat points s)))

/-! ## PATTERN (R264, R369) -/

/-- The answer of PATTERN: errors, bits, lock. -/
def patternAnswer (errors bits : Nat) (lock : Bool) : Answer := .done (be 8 errors ++ be 8 bits ++ be 1 (boolNat lock))

/-- PATTERN on lane i of a fabric link: through the lane's registers, while the link is in Test. -/
def patternFabric (l i gen chk : Nat) (user : BitVec 64) (action : Nat) (s : State) : Answer × State :=
  let d := l / 4
  let j := l % 4
  let put (s : State) (gen chk : Nat) : State := (s.rset (Reg.PAT_CTL_GEN d j i) gen).rset (Reg.PAT_CTL_CHK d j i) chk
  let clear (s : State) : State := ((setFabricLane s l i (laneReset 0)).setWord (Reg.PAT_ERR_LOCK d j i).off 0).setWord (Reg.PAT_BITS_BITS d j i).off 0
  if linkState s l ≠ LinkSt.test then (.refused 0, s)
  else if action = 0 then
    (patternAnswer 0 0 false, clear ((put s gen chk).setWord (Reg.PAT_USER_USER d j i).off user))
  else
    let a := patternAnswer (s.rget (Reg.PAT_ERR_ERRORS d j i)) (s.rget (Reg.PAT_BITS_BITS d j i)) (s.rbit (Reg.PAT_ERR_LOCK d j i))
    (a, if action = 2 then put s 0 0 else s)

/-- PATTERN on a lane of another class. Whether a running checker has locked is a free value with its counts (assumption 29). -/
def patternLane (cls unit lane gen chk : Nat) (user : BitVec 64) (action : Nat) (s : State) : Answer × State :=
  let x := laneTest s cls unit lane
  if action = 0 then
    (patternAnswer 0 0 false, setLaneTest s cls unit lane { laneReset 0 with
      taken := true
      gen := gen
      chk := chk
      user := user })
  else
    let r := if x.chk ≠ 0 then
        let c := sampleCounts s
        let x : LaneTest := { x with
          errors := c.1.1
          bits := c.1.2
          lock := c.2.fresh.getLsbD 0 }
        (x, c.2.drew)
      else (x, s)
    let x := r.1
    let y : LaneTest := if action = 2 then { x with taken := false, gen := 0, chk := 0, user := 0 } else x
    (patternAnswer x.errors x.bits x.lock, setLaneTest r.2 cls unit lane y)

/-- A set is refused: of an Ethernet lane when no port of the other network is up; of a die-to-die lane when its channel
direction has an owner, be it a link die's permanently. -/
def patternRefused (s : State) (cls unit action : Nat) : Bool :=
  if action ≠ 0 then false
  else if cls = 1 then !(networkPorts (1 - unit / 4)).any (portIsUp s)
  else if cls = 2 then chanOwner s unit != 0xFF
  else false

/-- PATTERN on an Ethernet, die-to-die or HBM DQ lane. A set takes an Ethernet port down. -/
def patternOther (cls unit lane gen chk : Nat) (user : BitVec 64) (action : Nat) (s : State) : Answer × State :=
  let s := if cls = 2 then applyHandovers s else s
  if patternRefused s cls unit action then (.refused 0, s)
  else
    let s := if cls = 1 && action = 0 && portIsUp s unit then portGoesDown s unit else s
    patternLane cls unit lane gen chk user action s

/-- The lane exists: fabric link and lane, port, stack × 64 + pseudo-channel and DQ line. A die-to-die lane's unit is its
channel direction; the manual does not number the lanes of a channel (assumption 109). -/
def laneExists (cls unit lane : Nat) : Bool :=
  if cls = 0 then decide (unit < 48) && decide (lane < 2)
  else if cls = 1 then decide (unit < 8) && lane == 0
  else if cls = 3 then decide (unit < 1024) && decide (lane < 32)
  else chanExists unit

/-- PATTERN (R369). -/
def execPattern (rq : Req) (lc : BitVec 8) (unit : BitVec 16) (lane gen chk : BitVec 8) (user : BitVec 64) (action : BitVec 8)
    (s : State) : Out :=
  .next (answerVerb s rq { code := 0x61, inHold := true, operator := true } (fun s =>
    if 4 ≤ lc.toNat || 8 ≤ gen.toNat || 8 ≤ chk.toNat || 3 ≤ action.toNat || !laneExists lc.toNat unit.toNat lane.toNat then
      (.malformed, s)
    else if lc = 0 then patternFabric unit.toNat lane.toNat gen.toNat chk.toNat user action.toNat s
    else patternOther lc.toNat unit.toNat lane.toNat gen.toNat chk.toNat user action.toNat s))

end Sys2Proof.Machine
end

