-- ==== Sys2Proof/Machine/Router.lean ====
section
/-!
DEFINITION. The routers of the link dies (R245, R251 to R258): routes, the causeway, output ports, frames sent, draining.
-/
namespace Sys2Proof.Machine

/-! ## Routes (R251 to R255) -/

/-- What becomes of a packet head. -/
inductive Route where
  | deliver
  | cross (link : Nat)
  | mesh (die : Nat)
  | drop (status : Nat)
  | wait
deriving DecidableEq, Repr

/-- The next die on the way through the mesh: along the row, then along the column (R251). -/
def meshNext (k t : Nat) : Nat :=
  if k % 4 < t % 4 then k + 1 else if t % 4 < k % 4 then k - 1 else if k / 4 < t / 4 then k + 4 else k - 4

/-- Two link dies joined by a mesh connection. -/
def meshNeighbour (a b : Nat) : Bool := a != b && (meshNext a b == b)

/-- The die at which a packet for this module is delivered: the die of the column of its compute die on the row it is on;
L0 for TREE packets; the source link die for responses (assumption 23). -/
def deliverDie (s : State) (die : Nat) (h : BitVec 512) : Nat :=
  let ty := fget h Pk.TYPE
  if ty = 8 then 0
  else if ty = 4 || ty = 5 then
    let mine := s.fab.xfers.filter (fun x => x.remote && x.id == fget h Pk.XFER_ID && x.stream == fget h Pk.STREAM)
    if mine.any (fun x => x.die == die) then die else ((mine.map (·.die)).head?).getD die
  else if ty = 6 then die
  else
    match computeDie (fget h Pk.DST_OFS) with
    | some c => die / 4 * 4 + c % 4
    | none => die

/-- Pool that a packet takes on the far side of a link (R256, Table 10-1). -/
def nextPool (h : BitVec 512) : Nat := if fget h Pk.LANE < 4 then fget h Pk.LANE else 4 + fget h Pk.HOPS

def linkActive (s : State) (l : Nat) : Bool := linkState s l == LinkSt.active

/-- The port has an Active link. -/
def portActive (s : State) (p : Nat) : Bool := portValid s p && (portLinks s p).any (linkActive s)

/-- The link that a port's arbiter chooses: Active, with a credit, ascending from the one after its last choice (R245). -/
def chooseLink (s : State) (p pool : Nat) : Option Nat :=
  let last := kget noCount s.fab.lastLink p
  let ok := (portLinks s p).filter (fun l => linkActive s l && credit (getLink s l) pool != 0)
  match ok.find? (fun l => decide (last ≤ l)) with
  | some l => some l
  | none => ok.head?

/-- Route of a packet for another chip on the causeway lane (R255). -/
def routeCauseway (s : State) (h : BitVec 512) : Route :=
  let hum := fget h Pk.DST_CHIP / 32
  let e := humEntry s hum
  let m := memEntry s (fget h Pk.DST_CHIP % 32)
  let p := if hum = chipNo s / 32 then (if fld m 6 6 = 1 then some (fld m 5 0) else none)
    else (if fld e 22 22 = 1 then some (fld e 21 16) else none)
  match p with
  | none => .drop 3
  | some p =>
    if !portActive s p then .drop 3
    else match chooseLink s p (nextPool h) with
      | some l => .cross l
      | none => .wait

/-- Route of a packet head at a die (R255). -/
def routeHead (s : State) (die : Nat) (h : BitVec 512) : Route :=
  let dst := fget h Pk.DST_CHIP
  if dst = chipNo s then
    let t := deliverDie s die h
    if t = die then .deliver else .mesh (meshNext die t)
  else if fget h Pk.HOPS = 3 then .drop 3
  else if fget h Pk.LANE = 4 then routeCauseway s h
  else
    let hum := dst / 32
    let own := hum == chipNo s / 32
    let e := humEntry s hum
    let m := memEntry s (dst % 32)
    let cand : List Nat :=
      if own then (if fld m 6 6 = 1 then [fld m 5 0] else [])
      else if fld e 6 6 = 1 then fld e 5 0 :: (if fld e 14 14 = 1 then [fld e 13 8] else [])
      else []
    if cand.isEmpty then .drop 3
    else match cand.findSome? (fun p => chooseLink s p (nextPool h)) with
      | some l => .cross l
      | none => if !cand.any (portActive s) && (own || fld e 22 22 = 0) then .drop 3 else .wait

/-- Heads of a die, in the order in which its router lists them. -/
def dieHeads (s : State) (d : Nat) : List Head := s.fab.heads.filter (fun h => h.die == d)

def modHead (s : State) (id : Nat) (f : Head → Head) : State :=
  { s with fab := { s.fab with heads := s.fab.heads.map (fun h => if h.id = id then f h else h) } }

/-- A drop is counted, and a request answered when a route to its source exists (R255). -/
def dropPacket (s : State) (h : Head) (status : Nat) : State :=
  let hdr := h.pkt.hdr
  let f := if fget hdr Pk.HOPS = 3 then Reg.ROUTER_DROP_HOPDROP h.die else Reg.ROUTER_DROP_NOROUTE h.die
  let s := (freePool (dropHead s h.id) h (packetFlits hdr)).radd f 1
  let back := fget hdr Pk.SRC_CHIP
  let way := back == chipNo s || (match routeHead s h.die (fset (fset (fset hdr Pk.DST_CHIP back) Pk.HOPS 0) Pk.LANE 2) with
    | .drop _ => false
    | _ => true)
  if way then answerLost s h.die hdr status else s

/-- A drained or draining member holds its own requests at the link dies (R258). -/
def heldBack (s : State) (h : Head) : Bool :=
  h.inp == 16 && !isResponse h.pkt.hdr && s.rget (Reg.FAB_STATUS_MODE h.die) != 0

/-- A head goes to the port of its link, or on through the mesh toward it. -/
def crossHead (s : State) (h : Head) (l : Nat) : State :=
  modHead s h.id (fun h => { h with link := some l, out := some (if l / 4 = h.die then l % 4 else 4 + meshNext h.die (l / 4)) })

/-- Carry out a route; a link chosen for a packet is the port's last choice (R245). A packet whose sealing failed and that has no answer is discarded at its destination (R262). -/
def takeRoute (s : State) (h : Head) (r : Route) : State :=
  match r with
  | .wait => s
  | .drop st => dropPacket s h st
  | .deliver =>
    let s := freePool (dropHead s h.id) h (packetFlits h.pkt.hdr)
    let ty := fget h.pkt.hdr Pk.TYPE
    if h.pkt.badTail && (ty == 4 || ty == 5 || ty == 6 || ty == 8) then s else
    { s with fab := { s.fab with arrived := s.fab.arrived ++ [(h.die, h.pkt)] } }
  | .mesh t => modHead s h.id (fun h => { h with out := some (4 + t) })
  | .cross l =>
    let s := match portOf s l with
      | some p => { s with fab := { s.fab with lastLink := kput noCount s.fab.lastLink p (l + 1) } }
      | none => s
    crossHead s h l

/-- PACKET_HEAD_ROUTE (R255): the head-th packet of the die's router. A packet whose link is chosen keeps it while it is
Active; one of a reserved TYPE is dropped and counted. -/
def execPacketHeadRoute (d : LinkDieId) (head : Nat) (s : State) : Out :=
  .next (
    match (dieHeads s d)[head]? with
    | none => s
    | some h =>
      let ty := fget h.pkt.hdr Pk.TYPE
      if h.granted || heldBack s h then s
      else if ty = 0 || 8 < ty then
        (freePool (dropHead s h.id) h (packetFlits h.pkt.hdr)).radd (Reg.ROUTER_DROP_BADPKT d) 1
      else match h.link with
        | some l => if linkActive s l then crossHead s h l else takeRoute s h (routeHead s d h.pkt.hdr)
        | none => takeRoute s h (routeHead s d h.pkt.hdr))

/-- CAUSEWAY_THRESHOLD (R255): a head that has waited CW_THRESH cycles without a grant moves onto the causeway for good. -/
def execCausewayThreshold (d : LinkDieId) (head : Nat) (s : State) : Out :=
  .next (
    match (dieHeads s d)[head]? with
    | none => s
    | some h =>
      if h.granted || heldBack s h || fget h.pkt.hdr Pk.LANE = 4 then s
      else match routeHead s d h.pkt.hdr with
        | .wait =>
          let hdr := fset h.pkt.hdr Pk.LANE 4
          let s := (modHead s h.id (fun h => { h with pkt := { h.pkt with hdr := hdr }, link := none, out := none })).radd (Reg.CW_COUNT_COUNT d) 1
          takeRoute s { h with pkt := { h.pkt with hdr := hdr }, link := none, out := none } (routeHead s d hdr)
        | _ => s)

/-! ## Output ports (R239, R242, R257) -/

def outKey (d o : Nat) : Nat := 16 * d + o

/-- The waiting head that a port grants next on a lane: the first in round-robin order of its inputs. -/
def nextGrant (s : State) (d o lane : Nat) : Option Head :=
  let x := kget portReset s.fab.outs (outKey d o)
  let ready := s.fab.heads.filter (fun h => h.die == d && h.out == some o && !h.granted && !heldBack s h
    && fget h.pkt.hdr Pk.LANE == lane)
  let after := ready.filter (fun h => decide (x.lastInp < h.inp))
  let pick (hs : List Head) : Option Head := hs.foldl (fun b h => match b with
    | none => some h
    | some c => if h.inp < c.inp then some h else some c) none
  match pick after with
  | some h => some h
  | none => pick ready

/-- The packet that holds a port's lane. -/
def holder (s : State) (d o lane : Nat) : Option Head :=
  s.fab.heads.find? (fun h => h.die == d && h.out == some o && h.granted && fget h.pkt.hdr Pk.LANE == lane)

/-- Grant every free lane of a port. A sealed packet for whose partition the die holds no key is dropped with status 4
(R262). -/
def grantLanes (s : State) (d o : Nat) : State :=
  (List.range 5).foldl (fun s lane =>
    if (holder s d o lane).isSome then s else
    match nextGrant s d o lane with
    | none => s
    | some h =>
      let x := kget portReset s.fab.outs (outKey d o)
      let s := { s with fab := { s.fab with outs := kput portReset s.fab.outs (outKey d o) { x with lastInp := h.inp } } }
      if 4 ≤ o then modHead s h.id (fun h => { h with
        granted := true
        wire := (h.pkt.hdr, false) :: List.replicate (packetFlits h.pkt.hdr - 1) (0, false) })
      else match wireOf s (4 * d + o) h.pkt with
        | some r => modHead r.2 h.id (fun h => { h with granted := true, wire := r.1 })
        | none =>
          let s := (freePool (dropHead s h.id) h (packetFlits h.pkt.hdr)).radd (Reg.SEAL_NOKEY_COUNT d) 1
          fileEvent (answerLost s d h.pkt.hdr 4) 1 0x0203 2 (4 * d + o) 0 0) s

/-- The lane a port serves in this cycle: the causeway first, then the normal lanes in round-robin order, with a credit on a
link. -/
def serveLane (s : State) (d o : Nat) : Option Head :=
  let last := (kget portReset s.fab.outs (outKey d o)).lastLane
  let lanes := 4 :: (List.range 4).map (fun i => (last + 1 + i) % 4)
  lanes.findSome? (fun lane =>
    match holder s d o lane with
    | none => none
    | some h => if 4 ≤ o || credit (getLink s (4 * d + o)) (nextPool h.pkt.hdr) != 0 then some h else none)

/-- Send an alignment codeword after every 8,191 codewords of 5,140 message bits (R239). -/
def countBits (s : State) (l : Nat) : State :=
  let n := (getLink s l).bits + 2112
  if n < 8191 * 5140 then modLink s l (fun x => { x with bits := n })
  else { modLink s l (fun x => { x with bits := n - 8191 * 5140 }) with out := .alignment l :: s.out }

/-- Hand a frame to the link. -/
def sendFrame (s : State) (l : Nat) (f : Frame) : State := countBits { s with out := .frame l f :: s.out } l

/-- The control word of the frame that a link sends now, and the link with its reports made: ACK, NAK, marker and echo, the
next pool's freed flits (R240, R241). -/
def controlWord (x : Link) (seq : Nat) (lanes : List Nat) : BitVec 64 × Link :=
  let n := min 31 (kget noCount x.freed x.cvc)
  let cred := (kget noCount x.credOut x.cvc + n) % 32
  let c : BitVec 64 := 0
  let c := fset c Ctl.SEQ seq
  let c := fset c Ctl.ACK x.rxSeq
  let c := fset c Ctl.NAK (boolNat x.nak)
  let c := fset c Ctl.MK (boolNat x.markDue + 2 * boolNat (x.echoDue != 0))
  let c := fset c Ctl.CVC x.cvc
  let c := fset c Ctl.CRED cred
  let c := lanes.zipIdx.foldl (fun c e => setFld c (3 * e.2 + 25) (3 * e.2 + 23) e.1) c
  (c, { x with
    markDue := false
    marks := x.marks + boolNat x.markDue
    echoDue := x.echoDue - 1
    credOut := kput noCount x.credOut x.cvc cred
    freed := kput noCount x.freed x.cvc (kget noCount x.freed x.cvc - n)
    cvc := (x.cvc + 1) % 7 })

def withCrc (slots : List (BitVec 512)) (poison : BitVec 4) (c : BitVec 64) : Frame :=
  let f : Frame := ⟨slots, poison, c⟩
  ⟨slots, poison, fset c Ctl.CRC (frameCrc f).toNat⟩

/-- Send the gathered flits as a data frame, kept for retry; an idle frame when there are none or `hold` keeps them back. -/
def frameOut (s : State) (l : Nat) (hold : Bool) : State :=
  let x := getLink s l
  let data := !x.slots.isEmpty && !hold
  let seq := if data then (x.txSeq + 1) % 512 else x.txSeq
  let fs := if data then x.slots else []
  let lanes := (List.range 4).map (fun i => (fs.getD i (7, 0, false)).1)
  let slots := (List.range 4).map (fun i => (fs.getD i (7, 0, false)).2.1)
  let poison := (List.range 4).foldl (fun (p : BitVec 4) i => if (fs.getD i (7, 0, false)).2.2 then putBit p i true else p) 0
  let r := controlWord x seq lanes
  let f := withCrc slots poison r.1
  let y := if data then { r.2 with txSeq := seq, slots := [], retry := r.2.retry ++ [⟨f, 0⟩] } else r.2
  sendFrame (setLink s l y) l f

/-- Resend the stored frame at a place of the retry buffer; the sixteenth retransmission without an ACK retrains the link
(R242). -/
def resendFrame (s : State) (l i : Nat) : State :=
  let x := getLink s l
  match x.retry[i]? with
  | none => setLink s l { x with resend := none }
  | some r =>
    let n := r.times + 1
    let x := { x with
      retry := x.retry.zipIdx.map (fun e => if e.2 = i then { r with times := n } else e.1)
      resend := if i + 1 < x.retry.length then some (i + 1) else none }
    let s := (setLink s l x).radd (Reg.LINK_RETRY_FRAMES (l / 4) (l % 4)) 1
    let s := sendFrame s l r.frame
    if 16 ≤ n then enterTraining (leaveActive s l) l else s

/-- Send one flit of a packet on a link: a credit is spent, and its last flit ends its hold. -/
def sendFlit (s : State) (l : Nat) (h : Head) : State :=
  let pool := nextPool h.pkt.hdr
  match h.wire with
  | [] => dropHead s h.id
  | f :: rest =>
    let s := s.radd (Reg.LINK_TX_FLITS (l / 4) (l % 4)) 1
    let s := modLink s l (fun x => { x with
      credits := kput poolSize x.credits pool (credit x pool - 1)
      slots := x.slots ++ [(pool, f.1, f.2)]
      inFlight := if rest.isEmpty then x.inFlight ++ [((x.txSeq + 1) % 512, h.pkt.hdr)] else x.inFlight })
    if rest.isEmpty then freePool (dropHead s h.id) h (packetFlits h.pkt.hdr) else modHead s h.id (fun h => { h with wire := rest, begun := true })

def noteLane (s : State) (d o : Nat) (h : Head) : State :=
  let lane := fget h.pkt.hdr Pk.LANE
  if lane = 4 then s else
  let x := kget portReset s.fab.outs (outKey d o)
  { s with fab := { s.fab with outs := kput portReset s.fab.outs (outKey d o) { x with lastLane := lane } } }

/-- Pool of a mesh input that a packet takes (R256): that of its normal lane, numbered 0 to 3, or of its HOPS on the causeway,
numbered 4 to 7 here. -/
def meshPool (h : BitVec 512) : Nat := if fget h Pk.LANE = 4 then 4 + fget h Pk.HOPS else fget h Pk.LANE

/-- One cycle of a mesh port. -/
def meshCycle (s : State) (d k : LinkDieId) : State :=
  let o := 4 + k.val
  let s := grantLanes s d o
  match serveLane s d o with
  | none => s
  | some h =>
    let s := noteLane s d o h
    match h.wire with
    | _ :: f :: rest => modHead s h.id (fun h => { h with wire := f :: rest, begun := true })
    | _ =>
      let s := freePool s h (packetFlits h.pkt.hdr)
      modHead s h.id (fun h => { h with die := k, inp := 4 + d.val, pool := meshPool h.pkt.hdr, out := none, granted := false, wire := [], begun := false })

/-- One cycle of a link port. -/
def linkCycle (s : State) (d : LinkDieId) (j : Fin 4) : State :=
  let l := 4 * d.val + j.val
  let x := getLink s l
  match x.resend with
  | some i => resendFrame s l i
  | none =>
    let s := grantLanes s d j
    if 256 ≤ x.retry.length then frameOut s l true
    else match serveLane s d j with
      | none => frameOut s l false
      | some h =>
        let s := sendFlit (noteLane s d j h) l h
        if 4 ≤ (getLink s l).slots.length then frameOut s l false else s

/-- A router takes the new image in its next cycle; when the last one holds it, the member is drained again (R259, assumption 60). -/
def tableTaken (s : State) (d : Nat) : State :=
  if !s.fab.loading.contains d then s else
  let left := s.fab.loading.filter (· != d)
  let s : State := { s with fab := { s.fab with loading := left } }
  if left.isEmpty && s.rget (Reg.FAB_STATUS_MODE 0) = 3 then (List.range 12).foldl (fun s d => s.rset (Reg.FAB_STATUS_MODE d) 2) s else s

/-- OUTPUT_PORT_CYCLE (R257): a port grants its free lanes and sends one flit. A link port resends first; four flits make a
frame; with no flit to send it sends what it has gathered, or an idle frame. A full retry buffer sends no data (R242), and
a link in Test its patterns (R264). -/
def execOutputPortCycle (d : LinkDieId) (out : Outlet) (s : State) : Out :=
  .next (
    match out with
    | .mesh k =>
      let s := tableTaken s d
      if !meshNeighbour d k then s
      else
        meshCycle s d k
    | .link j =>
      let l := 4 * d.val + j.val
      let s := tableTaken s d
      if linkState s l = LinkSt.test then sendPattern (sendPattern s l 0) l 1
      else if !linkActive s l then s
      else
        linkCycle s d j)

/-! ## Draining (R258) -/

/-- Packets of a transfer are out or wait at its link die: the reads of one that fetches from a peer, the writes of one that sends. -/
def sends (s : State) (x : Xfer) : Bool :=
  if fget x.desc Xd.SRC_CHIP == chipNo s || !gathers x.desc then x.writing else !x.writing

/-- A transfer of the member awaits a response: more of its packets are out than wait at its link die. -/
def awaits (s : State) (x : Xfer) : Bool :=
  let waiting := s.fab.heads.filter (fun h => h.inp == 16 && h.die == x.die && !isResponse h.pkt.hdr
    && fget h.pkt.hdr Pk.XFER_ID == x.id && fget h.pkt.hdr Pk.STREAM == x.stream && !h.granted)
  x.remote && sends s x && decide (waiting.length < x.left)

/-- A router of the die holds a flit. -/
def routerHolds (s : State) (d : Nat) : Bool :=
  s.fab.heads.any (fun h => h.die == d && !(heldBack s h && !h.granted)) || s.fab.arrived.any (fun e => e.1 == d)
    || (List.range 4).any (fun j => let x := getLink s (4 * d + j); !x.rx.isEmpty || !x.slots.isEmpty)

/-- The fabric is drained: every die reads Drained. -/
def drained (s : State) : State :=
  let s := (List.range 12).foldl (fun s d => (s.rset (Reg.FAB_STATUS_MODE d) 2).rset (Reg.FAB_STATUS_ECHOES d) 1) s
  fileEvent s 1 0x0202 5 (chipNo s) 0 0

/-- FABRIC_DRAINED (R258): echoes back, routers empty, no own transfer awaiting, no completion record: MODE is drained, and
an EVENT message says so (assumption 22 gives its kind). -/
def execFabricDrained (s : State) : Out :=
  .next (
    if s.rget (Reg.FAB_STATUS_MODE 0) ≠ 1
      || !((List.range 48).all (fun l => !linkActive s l || markBack (getLink s l)))
      || (List.range 12).any (routerHolds s) || s.fab.xfers.any (awaits s) || !s.fab.dones.isEmpty || !s.fab.serves.isEmpty then s
    else
      drained s)

end Sys2Proof.Machine
end

