-- ==== Sys2Proof/Machine/Packets.lean ====
section
/-!
DEFINITION. Packets at their destination (R231, R249, R250, R272, R291) and the messages over tree maps (R276 to R281,
R299).
-/
namespace Sys2Proof.Machine

/-! ## Requests at the destination link die (R249) -/

/-- A packet handed over by a router leaves its list; one that came another way is in none. -/
def takeArrived (s : State) (d : Nat) (pkt : Packet) : State :=
  { s with fab := { s.fab with arrived := s.fab.arrived.erase (d, pkt) } }

/-- The packet is of the type and for this module. -/
def forMe (s : State) (ty : Nat) (pkt : Packet) : Bool := fget pkt.hdr Pk.TYPE == ty && fget pkt.hdr Pk.DST_CHIP == chipNo s

/-- Status with which the checks of R249 refuse access of link die d to [off, off + n), with the ownership record. -/
def checkTarget (s : State) (d : Nat) (pkt : Packet) (off n : Nat) (storeOnly : Bool) : Nat × State :=
  if pkt.badTail then (4, s)
  else
    let src := fget pkt.hdr Pk.SRC_CHIP
    let step := fget (s.strm (fget pkt.hdr Pk.STREAM)) Strm.STEP
    match regionOf off n with
    | .none => (5, s)
    | .hbm =>
      if storeOnly then (5, s)
      else match badShare s (0xA0 + d) off n with
        | some a => (1, violation s 3 (hbmStack a * 64 + hbmPc a) 0 (0xA0 + d) src 0 step)
        | none => (0, s)
    | .store q o =>
      match badBank s q [ownTransfer] o n with
      | some b => (1, violation s 1 q b (0xA0 + d) src 0 step)
      | none => (0, s)

/-- The lines of a packet's payload. -/
def payloadLines (pkt : Packet) : List Line :=
  (List.range (pkt.payload.length / 64)).map (fun i => ⟨(pkt.payload.drop (64 * i)).take 64, pkt.poison.contains i⟩)

/-- Sector requests of a packet go into the queues of its link die; its answer waits for them. -/
def serveHbm (s : State) (d : Nat) (pkt : Packet) (reqs : List (Bool × Nat × Line)) : State :=
  let num := s.fab.nextId
  let s := { s with fab := { s.fab with
    serves := s.fab.serves ++ [⟨num, d, pkt, reqs.length, []⟩]
    nextId := num + 1 } }
  reqs.zipIdx.foldl (fun s r => enqueue s (0xA0 + d) ⟨r.1.1, r.1.2.1, r.1.2.2, .serve num, r.2⟩) s

/-- Write a WRITE or CHUNK packet at its offset and count it (R249, R291). -/
def writePacket (s : State) (d : Nat) (pkt : Packet) : State :=
  let off := fget pkt.hdr Pk.DST_OFS
  let ls := payloadLines pkt
  let r := checkTarget s d pkt off (64 * ls.length) false
  if r.1 ≠ 0 then countDone r.2 d pkt r.1
  else if isHbm off && !ls.isEmpty then serveHbm r.2 d pkt (ls.zipIdx.map (fun l => (true, off + 64 * l.2, l.1)))
  else
    let s := ls.zipIdx.foldl (fun s l => putLine s (off + 64 * l.2) l.1) r.2
    countDone s d pkt (if pkt.poison.isEmpty then 0 else 2)

/-- PKT_WRITE (R249). -/
def execPktWrite (d : LinkDieId) (pkt : Packet) (s : State) : Out :=
  .next (if !forMe s 1 pkt then s else writePacket (takeArrived s d pkt) d pkt)

/-- PKT_CHUNK (R291). -/
def execPktChunk (d : LinkDieId) (pkt : Packet) (s : State) : Out :=
  .next (if !forMe s 7 pkt then s else writePacket (takeArrived s d pkt) d pkt)

/-- The part that two runs of bytes make when one follows on the other. -/
def joinParts (a b : Nat × List Byte) : Option (Nat × List Byte) :=
  if a.1 + a.2.length = b.1 then some (a.1, a.2 ++ b.2)
  else if b.1 + b.2.length = a.1 then some (b.1, b.2 ++ a.2)
  else none

/-- Join a part with the parts that lie next to it; the others are kept. -/
def gatherParts (x : Nat × List Byte) : List (Nat × List Byte) → List (Nat × List Byte) → (Nat × List Byte) × List (Nat × List Byte)
  | [], kept => (x, kept)
  | y :: ys, kept =>
    match joinParts x y with
    | some z => gatherParts z ys kept
    | none => gatherParts x ys (kept ++ [y])

/-- Add the whole entries of a run of bytes, once it is known where entries begin: the rest at each end is left. -/
def addEntries (s : State) (phase : Nat) (x : Nat × List Byte) : State × List (Nat × List Byte) :=
  let h := min x.2.length ((phase + 12 - x.1 % 12) % 12)
  let n := (x.2.length - h) / 12 * 12
  let left := [(x.1, x.2.take h), (x.1 + h + n, x.2.drop (h + n))].filter (fun e => !e.2.isEmpty)
  (if n = 0 then s else accumulate s (x.1 + h) 2 ((x.2.drop h).take n) [], left)

/-- The transfer that a TYPE 2 packet belongs to, as the destination holds it. One whose bytes are all added and whose last packet has
come is over when the packet cannot lie before it; the packet then begins another transfer. -/
def accumXfer (s : State) (h : BitVec 512) (off n : Nat) : AccumXfer :=
  let new : AccumXfer := ⟨fget h Pk.SRC_CHIP, fget h Pk.XFER_ID, fget h Pk.STREAM, none, false, off, [], []⟩
  match s.fab.accums.find? (fun y => y.chip == new.chip && y.xid == new.xid && y.stream == new.stream) with
  | some y => if y.parts.isEmpty && y.last && decide (y.low < off + n) then new else y
  | none => new

/-- Where entries begin, modulo 12, as a packet shows it: at the start of one that begins off a 4 KiB boundary, which is its transfer's
first (R248), and at the end of the last one. -/
def packetPhase (h : BitVec 512) (off n : Nat) : Option Nat :=
  if off % 4096 ≠ 0 then some (off % 12) else if fget h Pk.LAST = 1 then some ((off + n) % 12) else none

/-- Bytes of a TYPE 2 packet (R231): joined with the neighbours that have come, its whole entries are added once it is known where
entries begin; what lies in an entry that packets cut waits for the packet with the rest. A packet is counted when all its bytes are
added (assumption 19). -/
def accumEntries (s : State) (d : Nat) (pkt : Packet) : State :=
  let h := pkt.hdr
  let off := fget h Pk.DST_OFS
  let n := pkt.payload.length
  let x := accumXfer s h off n
  let phase := (packetPhase h off n).or x.phase
  let g := gatherParts (off, pkt.payload) x.parts []
  let g := gatherParts g.1 g.2 []
  let parts := g.1 :: g.2
  let r := match phase with
    | some k => parts.foldl (fun (r : State × List (Nat × List Byte)) e => let y := addEntries r.1 k e; (y.1, r.2 ++ y.2)) (s, [])
    | none => (s, parts)
  let waits (e : Nat × Packet) : Bool :=
    let a := fget e.2.hdr Pk.DST_OFS
    r.2.any (fun y => decide (y.1 < a + e.2.payload.length) && decide (a < y.1 + y.2.length))
  let all := x.waits ++ [(d, pkt)]
  let y : AccumXfer := { x with
    phase := phase
    last := x.last || fget h Pk.LAST == 1
    low := min x.low off
    parts := r.2
    waits := all.filter waits }
  let other (z : AccumXfer) : Bool := !(z.chip == y.chip && z.xid == y.xid && z.stream == y.stream)
  let s : State := { r.1 with fab := { r.1.fab with accums := r.1.fab.accums.filter other ++ [y] } }
  (all.filter (fun e => !waits e)).foldl (fun s e => countDone s e.1 e.2 (if e.2.poison.isEmpty then 0 else 2)) s

/-- The payload is added to the target, once the target may be written. -/
def accumPacket (s : State) (d : Nat) (pkt : Packet) : State :=
  let s := takeArrived s d pkt
  let h := pkt.hdr
  let off := fget h Pk.DST_OFS
  let r := checkTarget s d pkt off pkt.payload.length true
  if r.1 ≠ 0 then countDone r.2 d pkt r.1
  else
    if fget h Pk.ATYPE = 2 then accumEntries (pkt.poison.foldl (fun s i => s.addPoison (off + 64 * i) 64) r.2) d pkt
    else countDone (accumulate r.2 off (fget h Pk.ATYPE) pkt.payload pkt.poison) d pkt (if pkt.poison.isEmpty then 0 else 2)

/-- PKT_ACCUM (R231): accumulate-on-write into a plank store. -/
def execPktAccum (d : LinkDieId) (pkt : Packet) (s : State) : Out :=
  .next (
    if !forMe s 2 pkt then s
    else
      accumPacket s d pkt)

/-- Uncorrectable words of a plank store that a read meets, counted with its corrected ones in PS_ECC (R232). -/
def countErrs (s : State) (ecc : CoreEcc) (off n : Nat) : Nat × State :=
  match regionOf off n with
  | .store q o =>
    let bad := storeErrs s q ecc [(o, n)]
    (bad, eccCounts s q ecc bad)
  | _ => (0, s)

/-- The bytes asked for are read and sent, once the target may be read. A poisoned or uncorrectable word gives status 2 (R220, R232). -/
def readPacket (s : State) (d : Nat) (pkt : Packet) (ecc : CoreEcc) : State :=
  let s := takeArrived s d pkt
  let off := fget pkt.hdr Pk.DST_OFS
  let n := fget pkt.hdr Pk.FLITS
  let r := checkTarget s d pkt off (64 * n) false
  if r.1 ≠ 0 then sendReadData r.2 d pkt r.1 []
  else if isHbm off && n != 0 then
    serveHbm r.2 d pkt ((List.range n).map (fun i => (false, off + 64 * i, (⟨[], false⟩ : Line))))
  else
    let e := countErrs r.2 ecc off (64 * n)
    sendReadData e.2 d pkt (if e.1 = 0 then 0 else 2) (e.2.bytes off (64 * n))

/-- PKT_READ_REQ (R249): the data is read and returned as READ_DATA. -/
def execPktReadReq (d : LinkDieId) (pkt : Packet) (ecc : CoreEcc) (s : State) : Out :=
  .next (
    if !forMe s 3 pkt then s
    else
      readPacket s d pkt ecc)

/-! ## Responses at the source (R250) -/

/-- The transfer that a response names at link die d. -/
def xferOf (s : State) (d : Nat) (h : BitVec 512) : Option Xfer :=
  s.fab.xfers.find? (fun x => x.remote && x.die == d && x.id == fget h Pk.XFER_ID && x.stream == fget h Pk.STREAM)

/-- Bytes that the READ_REQ for an offset asked for. -/
def askedAt (x : Xfer) (off : Nat) : Nat :=
  match (readParts x.desc).find? (fun r => r.1 == off) with
  | some r => r.2.1
  | none => 0

/-- Lines that came for a transfer which gathers its data: the last packet starts its writes. A transfer that met an error
status writes nothing (assumption 18). -/
def gatherLines (s : State) (x : Xfer) (off : Nat) (ls : List Line) : State :=
  let at0 := (off - fget x.desc Xd.DST_OFS) / 64
  let x := { x with
    lines := ls.zipIdx.foldl (fun m l => kput (fun _ => (⟨[], false⟩ : Line)) m (at0 + l.2) l.1) x.lines
    left := x.left - 1 }
  let s := modXfer s x.num (fun _ => x)
  if x.left ≠ 0 then s
  else if x.status = 0 then xferWrite s x
  else modXfer s x.num (fun x => { x with writing := true, lines := [] })

/-- Lines that came for a copy, written where they are wanted while that is still the plank's (R17). A transfer of which a write is
refused never signals (R206). -/
def putLines (s : State) (x : Xfer) (off : Nat) (ls : List Line) : State :=
  match runBad s x.plank (off, 64 * ls.length) with
  | some b => xferDone (modXfer (xferRefuse s x.plank x.insn b) x.num (fun x => { x with refused := true })) x.num 1 0
  | none =>
    let at0 := ls.zipIdx.map (fun l => (off + 64 * l.2, l.1))
    if isHbm off then
      let s := modXfer s x.num (fun x => { x with left := x.left + ls.length - 1 })
      at0.foldl (fun s l => enqueue s x.plank ⟨true, l.1, l.2, .xfer x.num, 0⟩) s
    else xferDone (at0.foldl (fun s l => putLine s l.1 l.2) s) x.num 1 0

/-- The transfer that asked takes the bytes. -/
def dataPacket (s : State) (d : Nat) (pkt : Packet) : State :=
  let s := takeArrived s d pkt
  if pkt.badTail then s
  else match xferOf s d pkt.hdr with
    | none => s
    | some x =>
      let st := fget pkt.hdr Pk.STATUS
      let off := fget pkt.hdr Pk.RET_OFS
      let n := askedAt x off
      let data := if st = 0 then pkt.payload else (List.range n).map (Config.mixByte s.draws)
      let ls := (List.range (data.length / 64)).map (fun i =>
        (⟨(data.drop (64 * i)).take 64, st != 0 || pkt.poison.contains i⟩ : Line))
      let s := if st = 0 then s else s.drew
      if gathers x.desc then
        gatherLines s { x with status := if x.status = 0 && st != 2 then st else x.status } off
          (if st = 0 || st = 2 then ls else [])
      else if st ≠ 0 && st ≠ 2 then xferDone s x.num 1 st
      else putLines s x off ls

/-- PKT_READ_DATA (R250): data is written at RET_OFS; poisoned data, which does not come, leaves free bytes marked poisoned
(R220, Table 10-6). -/
def execPktReadData (d : LinkDieId) (pkt : Packet) (s : State) : Out :=
  .next (
    if !forMe s 4 pkt then s
    else
      dataPacket s d pkt)

/-- The transfer that wrote takes the count and the status. -/
def donePacket (s : State) (d : Nat) (pkt : Packet) : State :=
  let s := takeArrived s d pkt
  if pkt.badTail then s
  else match xferOf s d pkt.hdr with
    | none => s
    | some x => xferDone s x.num (fget pkt.hdr Pk.COUNT) (fget pkt.hdr Pk.STATUS)

/-- PKT_DONE (R250): COUNT packets of the transfer are accounted for. -/
def execPktDone (d : LinkDieId) (pkt : Packet) (s : State) : Out :=
  .next (
    if !forMe s 5 pkt then s
    else
      donePacket s d pkt)

/-- The signal acts on its object. -/
def signalArrives (s : State) (d : Nat) (pkt : Packet) : State :=
  let s := takeArrived s d pkt
  let op := fget pkt.hdr Pk.SIG_OP
  let o := fget pkt.hdr Pk.OBJ
  if pkt.badTail || op = 0 || op = 3 then s
  else signal s {
    obj := o
    set := op == 2
    val := fget pkt.hdr Pk.SIG_VAL
    chip := fget pkt.hdr Pk.SRC_CHIP
    src := 0xFE
    step := fget (s.strm (fget (s.obj o) Obj.OWNER_STREAM)) Strm.STEP }

/-- PKT_SIGNAL (R272): an add or a set on a local object; LAST_SRC reads 0xFE and LAST_STEP the step of the owner's stream. -/
def execPktSignal (d : LinkDieId) (pkt : Packet) (s : State) : Out :=
  .next (
    if !forMe s 6 pkt then s
    else
      signalArrives s d pkt)

/-- DONE_RECORD_FLUSH (R249): the r-th completion record of a link die is 256 cycles old and goes out. -/
def execDoneRecordFlush (d : LinkDieId) (r : Nat) (s : State) : Out :=
  .next (
    match (s.fab.dones.filter (fun x => x.die == d.val))[r]? with
    | none => s
    | some x => sendDone (setDones s (s.fab.dones.erase x)) x)

/-! ## Messages over tree maps (R276 to R281, Table 11-7) -/

-- Fields of a TREE flit (Tables 11-7 and 12-4).
namespace Tf
def KIND : Fd := (3, 0)
def BARRIER : Fd := (13, 4)
def TREE : Fd := (17, 14)
def GEN : Fd := (63, 32)
def OWNER_CHIP : Fd := (77, 64)
def OWNER_STREAM : Fd := (93, 78)
def EVENT : Fd := (95, 94)
def CAUSE : Fd := (97, 96)
def STEP : Fd := (191, 128)
def ORIGIN_CHIP : Fd := (205, 192)
def STREAM : Fd := (223, 208)
def EPOCH : Fd := (239, 224)
def COLL : Fd := (255, 240)
end Tf

/-- A delivered TREE packet leaves the list of its die. -/
def takeTree (s : State) (src : Option Nat) (flit : BitVec 512) : State :=
  match s.fab.arrived.find? (fun e => fget e.2.hdr Pk.TYPE == 8 && e.2.payload == leBytes 64 flit.toNat
      && (src == none || src == some (fget e.2.hdr Pk.SRC_CHIP))) with
  | none => s
  | some e => { s with fab := { s.fab with arrived := s.fab.arrived.erase e } }

/-- An arrival counts at the leader of its hummock or at the root. -/
def treeArrive (s : State) (src : BitVec 14) (flit : BitVec 512) : State :=
  let s := takeTree s (some src.toNat) flit
  let b := fget flit Tf.BARRIER
  let t := s.rget (Reg.BAR_TREE b)
  let gen := fget flit Tf.GEN
  let hum := src.toNat / 32
  let drop := s.rsat Reg.SYNC_DROP_COUNT 1
  if !s.rbit (Reg.BAR_VALID b) || s.rbit (Reg.BAR_BROKEN b) || gen != (s.rget (Reg.BAR_GEN b) + 1) % 2 ^ 32 then drop
  else if hum = chipNo s / 32 && isLeader s t && (treeMembers s t hum).contains src.toNat then
    let r := leaderArrive s b gen (src.toNat % 32)
    syncWork r.1 r.2
  else if isRoot s t && (treeHums s t).contains hum && treeLeader s t hum == src.toNat then
    let r := rootArrive s b gen
    syncWork r.1 r.2
  else drop

/-- TREE_ARRIVE (R280): the leader counts members of its hummock, the root leaders of hummocks. -/
def execTreeArrive (src : BitVec 14) (flit : BitVec 512) (s : State) : Out :=
  .next (
    if fget flit Tf.KIND ≠ 1 then s
    else
      treeArrive s src flit)

/-- A release goes down the tree and releases here. -/
def treeRelease (s : State) (flit : BitVec 512) : State :=
  let s := takeTree s none flit
  let b := fget flit Tf.BARRIER
  if !s.rbit (Reg.BAR_VALID b) then s.rsat Reg.SYNC_DROP_COUNT 1
  else
    let s := sendFlits s (treeDown s (s.rget (Reg.BAR_TREE b))) flit
    let r := barRelease s b (fget flit Tf.GEN)
    syncWork r.1 r.2

/-- TREE_RELEASE (R280): GEN rises, the counts clear, the message goes down, RELEASE_OBJ is signalled. -/
def execTreeRelease (flit : BitVec 512) (s : State) : Out :=
  .next (
    if fget flit Tf.KIND ≠ 2 then s
    else
      treeRelease s flit)

/-- Where a member passes a message of a chip (R278): the leader of the sender's hummock to the root and to its members;
the root to the leaders and its members; another leader to its members. -/
def treePass (s : State) (t origin : Nat) : List Nat :=
  if isRoot s t then treeDown s t
  else if isLeader s t then
    if origin = chipNo s then []
    else if origin / 32 = chipNo s / 32 then treeRoot s t :: treeDown s t
    else treeDown s t
  else []

/-- A leader that passed a message of its hummock up gets it back from the root: that copy is spent. `none` when it is. -/
def firstCopy (s : State) (t origin : Nat) (flit : BitVec 512) : Option State :=
  if isLeader s t && !isRoot s t && origin / 32 == chipNo s / 32 && origin != chipNo s then
    if s.fab.passed.contains flit then none
    else some { s with fab := { s.fab with passed := flit :: s.fab.passed } }
  else some s

/-- What an owner message does to this member (R276): one of an orphaning ends every valid barrier on its tree map (R281, Table 11-11;
DEDUCED, assumption 112). -/
def ownerEvent (s : State) (flit : BitVec 512) : State :=
  let chip := fget flit Tf.OWNER_CHIP
  let n := fget flit Tf.OWNER_STREAM
  let t := fget flit Tf.TREE
  if fget flit Tf.EVENT = 0 then
    let bs := (validBarriers s).filter (fun b => s.rget (Reg.BAR_TREE b) == t)
    let s' := bs.foldl breakBarrier s
    orphan s' (partners s chip n ++ bs.map (fun b => s.rget (Reg.BAR_RELEASE_OBJ b))) (fget flit Tf.CAUSE)
  else partnerEvent s chip n (fget flit Tf.EVENT)

/-- An owner message goes on through the tree and acts here. -/
def treeOwner (s : State) (flit : BitVec 512) : State :=
  let s := takeTree s none flit
  let t := fget flit Tf.TREE
  let origin := fget flit Tf.OWNER_CHIP
  match firstCopy s t origin flit with
  | none => { s with fab := { s.fab with passed := s.fab.passed.erase flit } }
  | some s => ownerEvent (sendFlits s (treePass s t origin) flit) flit

/-- TREE_OWNER_MESSAGE (R276, R278). -/
def execTreeOwnerMessage (flit : BitVec 512) (s : State) : Out :=
  .next (
    if fget flit Tf.KIND ≠ 3 then s
    else
      treeOwner s flit)

/-- A stream's abort takes effect on this member once for its epoch (R299). -/
def abortHere (s : State) (n epoch : Nat) : State :=
  cancelOp { s with fab := { s.fab with aborts := (n, epoch) :: s.fab.aborts } } n

/-- An abort goes on through the tree and cancels the stream here, once for its epoch. -/
def treeAbort (s : State) (flit : BitVec 512) : State :=
  let s := takeTree s none flit
  let n := fget flit Tf.STREAM
  let e := fget flit Tf.EPOCH
  if s.fab.aborts.contains (n, e) then s
  else abortHere (sendFlits s (treePass s (fget flit Tf.TREE) (fget flit Tf.ORIGIN_CHIP)) flit) n e

/-- TREE_ABORT (R299). -/
def execTreeAbort (flit : BitVec 512) (s : State) : Out :=
  .next (
    if fget flit Tf.KIND ≠ 4 then s
    else
      treeAbort s flit)

end Sys2Proof.Machine
end

