-- ==== Sys2Proof/Machine/Keys.lean ====
section
/-!
DEFINITION. Keys and the opening of data streams (R263, R380, R382, R383, R411, Tables 15-8 and 15-10).
-/
namespace Sys2Proof.Machine

/-! ## KEY_DELIVER (R382, R383) -/

/-- A key entry opened under KW; none when its tag fails or a field is reserved. -/
def openEntry (kw e : List Byte) : Option TrustKey :=
  let id := beAt e 0 4
  let type := beAt e 4 1
  if e.length ≠ 64 || id = 0 || type < 1 || 3 < type || (type = 3 && 1 < beAt e 5 1) then none
  else (Config.gcmOpen kw (be 4 id ++ be 8 0) (slice e 0 16) (slice e 16 32) (slice e 48 16)).map (fun k =>
    { id := id
      type := type
      salt := if type = 3 then beAt e 8 4 else beAt e 12 4
      key := k
      partition := beAt e 6 2
      slot := beAt e 5 1
      bound := false })

/-- The module has room for a key: 65,536 of TYPE 1 and 2, 64 of TYPE 3. -/
def keyRoom (s : State) (k : TrustKey) : Bool :=
  let n := (s.net.keys.filter (fun x => (x.type == 3) == (k.type == 3))).length
  if k.type = 3 then decide (n < 64) else decide (n < 65536)

/-- The context of a partition, else the first that holds no key; the same on every link die. -/
def keyCtx (s : State) (partition : Nat) : Option Nat :=
  let at0 (i : Nat) : SealCtx := kget ctxReset s.fab.ctxs i
  let used (c : SealCtx) : Bool := c.slot0.isSome || c.slot1.isSome
  ((List.range 16).find? (fun i => used (at0 i) && (at0 i).partition == partition)).orElse
    (fun _ => (List.range 16).find? (fun i => !used (at0 i)))

/-- A partition key goes into its slot of a context on a link die, which then sends on it; the other slot waits for the echoes of
new markers (R263). The slot's counters start at 0 (R261). -/
def loadSealKey (s : State) (die i : Nat) (k : TrustKey) : State :=
  let c := kget ctxReset s.fab.ctxs (16 * die + i)
  let key : SealKey := ⟨k.key, k.salt⟩
  let old := if k.slot = 0 then c.slot1.isSome else c.slot0.isSome
  let c : SealCtx := { c with
    partition := k.partition
    slot0 := if k.slot = 0 then some key else c.slot0
    slot1 := if k.slot = 0 then c.slot1 else some key
    send := k.slot
    clearing := if old then (List.range 4).map (fun j =>
        if linkState s (4 * die + j) = LinkSt.active then (getLink s (4 * die + j)).marks + 1 else 0) else [] }
  let s : State := { s with fab := { s.fab with
    ctxs := kput ctxReset s.fab.ctxs (16 * die + i) c
    ctrs := (List.range 4).foldl (fun m j => kput noCount m (((4 * die + j) * 65536 + k.partition) * 2 + k.slot) 0) s.fab.ctrs } }
  let f := if k.slot = 0 then Reg.SEAL_KEYS_SLOT0 die else Reg.SEAL_KEYS_SLOT1 die
  let s := s.rset f (s.rget f ||| 2 ^ i)
  if !old then s
  else (List.range 4).foldl (fun s j =>
    if linkState s (4 * die + j) = LinkSt.active then modLink s (4 * die + j) (fun x => { x with markDue := true })
    else s) s

/-- Take one entry: skipped when its tag fails, a field is reserved, its KEY_ID is in use or no place is left. -/
def takeKey (kw : List Byte) (x : Nat × State) (e : List Byte) : Nat × State :=
  let s := x.2
  match openEntry kw e with
  | none => x
  | some k =>
    if s.net.keys.any (fun y => y.id == k.id) || !keyRoom s k then x
    else
      let add (s : State) : State := { s with net := { s.net with keys := s.net.keys ++ [k] } }
      if k.type ≠ 3 then (x.1 + 1, add s)
      else
        match keyCtx s k.partition with
        | none => x
        | some i => (x.1 + 1, (List.range 12).foldl (fun s d => loadSealKey s d i k) (add s))

/-- KEY_DELIVER (R382). -/
def execKeyDeliver (rq : Req) (reportId : BitVec 64) (ct : List Byte) (entries : List (List Byte)) (s : State) : Out :=
  .next (answerVerb s rq { code := 0x70, operator := true } (fun s =>
    if ct.length ≠ 1568 || 65535 < entries.length || entries.any (fun e => e.length != 64) then (.malformed, s)
    else
      match s.net.report with
      | none => (.refused 0, s)
      | some r =>
        if r.stale || r.id ≠ reportId.toNat then (.refused 0, s)
        else
          let ss := Config.kemDecaps r.dk ct
          let kw := Config.kmac256 ss (Config.sha3_512 r.bytes) 256 (ascii "EXM-T40 KEY WRAP")
          let x := entries.foldl (takeKey kw) (0, s)
          (.done (be 2 x.1), x.2)))

/-! ## STREAM_OPEN and STREAM_CLOSE (R380, R411) -/

/-- The fields of Table 15-8. -/
structure OpenReq where
  stream : Nat
  kind : Nat
  flags : Nat
  keyId : Nat
  job : Nat
  qp : Nat
  alt : Nat
  ring : Nat
  slots : Nat
  slotSize : Nat
  doneObj : Nat
  freeObj : Nat
  remote : Nat
  rkey : Nat
  remoteSlots : Nat
  port : Nat
  dscp : Nat
  qpn : Nat
  psn : Nat
  gid : List Byte
deriving DecidableEq, Repr

def parseOpen (p : List Byte) : OpenReq := {
  stream := beAt p 0 2
  kind := beAt p 2 1
  flags := beAt p 3 1
  keyId := beAt p 4 4
  job := beAt p 8 2
  qp := beAt p 10 2
  alt := beAt p 12 2
  ring := beAt p 16 8
  slots := beAt p 24 4
  slotSize := beAt p 28 4
  doneObj := beAt p 32 2
  freeObj := beAt p 34 2
  remote := beAt p 36 8
  rkey := beAt p 44 4
  remoteSlots := beAt p 48 4
  port := beAt p 52 1
  dscp := beAt p 53 1
  qpn := beAt p 56 4
  psn := beAt p 60 4
  gid := slice p 64 16 }

/-- No field is reserved or out of range. -/
def openInRange (p : List Byte) (o : OpenReq) : Bool :=
  decide (o.flags < 8) && decide (o.kind < 8) && decide (o.qp < 4096)
  && (o.alt == 0xFFFF || decide (o.alt < 4096) && o.alt / 2048 != o.qp / 2048)
  && o.ring % 4096 == 0 && decide (1 ≤ o.slots) && decide (o.slots ≤ 65536)
  && o.slotSize % 4096 == 0 && decide (1 ≤ o.slotSize) && decide (o.slotSize ≤ 1048576)
  && decide (o.ring + o.slots * o.slotSize ≤ 2 ^ 40)
  && decide (o.doneObj < 32768) && decide (o.freeObj < 32768)
  && (o.kind == 3 || decide (1 ≤ o.remoteSlots))
  && decide (o.port < 8) && o.port / 4 == o.qp / 2048 && decide (o.dscp < 64)
  && decide (o.qpn < 2 ^ 24) && decide (o.psn < 2 ^ 24)
  && (bit o.flags 0 || o.keyId == 0)
  && allZero (slice p 14 2) && allZero (slice p 54 2) && allZero (slice p 80 8)

/-- Key type of a stream's records (Table 15-10): 1 for ingest, 2 for the others. -/
def keyType (kind : Nat) : Nat := if kind = 3 then 1 else 2
def findKey (s : State) (id type : Nat) : Option TrustKey := s.net.keys.find? (fun k => k.id == id && k.type == type)

/-- Two byte runs overlap. -/
def overlap (a n b m : Nat) : Bool := decide (a < b + m) && decide (b < a + n)
/-- A ring overlaps what a loaded sealed job names: its committed regions, or the ring of one of its streams. -/
def touchesSealed (s : State) (ring n : Nat) : Bool :=
  s.jobs.any (fun j => fget j.man Man.PARTITION != 0
    && (j.lists.regions.any (fun r => overlap ring n r.1 r.2)
      || s.net.data.any (fun e => match e.2 with
        | some d => fget (s.strm e.1) Strm.JOB == j.id.toNat && overlap ring n d.ring (d.slots * d.slotSize)
        | none => false)))

/-- H1 carries streams only once C3 or C7 has been calibrated (R411). -/
def hostReady (s : State) (q : Nat) : Bool := q / 2048 == 0 || s.board.calDone.getLsbD 3 || s.board.calDone.getLsbD 7

/-- The records of KIND 3, 4 and 5 are sealed as they are made; a load stream reads records that were (R384, R386). -/
def sealsRecords (kind : Nat) : Bool := kind == 3 || kind == 4 || kind == 5

/-- The key of a stream to open was a sealing stream's before: every stream counts RSEQ from 0, so its key would be used with one RSEQ
twice (R384, assumption 125). -/
def keyBound (s : State) (o : OpenReq) : Bool :=
  bit o.flags 0 && sealsRecords o.kind && (match findKey s o.keyId (keyType o.kind) with
    | some k => k.bound
    | none => false)

/-- The module refuses a STREAM_OPEN (R380). -/
def openRefused (s : State) (p : List Byte) (o : OpenReq) : Bool :=
  let q := s.qp o.qp
  !openInRange p o || o.kind < 3 || streamState s o.stream ≠ St.idle
  || (q.connected && (q.remoteQpn ≠ o.qpn || q.gid ≠ o.gid)) || (!q.connected && !bit o.flags 2)
  || (bit o.flags 0 && (findKey s o.keyId (keyType o.kind)).isNone)
  || (!bit o.flags 0 && (match findJob s o.job with
      | some j => fget j.man Man.PARTITION != 0
      | none => false))
  || (!bit o.flags 0 && touchesSealed s o.ring (o.slots * o.slotSize))
  || keyBound s o || !hostReady s o.qp || (o.alt ≠ 0xFFFF && !hostReady s o.alt)

/-- Connect a queue pair by the connection block, unless it is connected. -/
def connectQp (s : State) (q port : Nat) (o : OpenReq) : State :=
  if (s.qp q).connected then s
  else s.setQp q {
    connected := true
    port := port
    dscp := o.dscp
    remoteQpn := o.qpn
    gid := o.gid
    txPsn := o.psn
    rxPsn := o.psn
    rate := 100000000
    error := false
    retries := 0
    rnr := 0
    lastCnp := none }

/-- The key of a stream that seals records is bound to it. -/
def bindKey (s : State) (o : OpenReq) : State :=
  if bit o.flags 0 && sealsRecords o.kind then { s with net := { s.net with
    keys := s.net.keys.map (fun k => if k.id == o.keyId then { k with bound := true } else k) } }
  else s

/-- The stream's entry and its ring. -/
def openStream (s : State) (session : Nat) (o : OpenReq) : State :=
  let s := bindKey (connectQp s o.qp o.port o) o
  let s := if o.alt = 0xFFFF then s else connectQp s o.alt (4 * (o.alt / 2048)) o
  let part := match findJob s o.job with
    | some j => fget j.man Man.PARTITION
    | none => 0
  let r : StreamRec := 0
  let r := fset r Strm.KIND o.kind
  let r := fset r Strm.JOB o.job
  let r := fset r Strm.PARTITION part
  let r := fset r Strm.SESSION session
  let r := fset r Strm.DONE_OBJ o.doneObj
  let r := fset r Strm.DONE_EN 1
  let r := fset r Strm.QP o.qp
  let s := s.setStrm o.stream r
  let s := s.setData o.stream (some {
    session := session
    isSealed := bit o.flags 0
    keyId := o.keyId
    qp := o.qp
    alt := if o.alt = 0xFFFF then none else some o.alt
    ring := o.ring
    slots := o.slots
    slotSize := o.slotSize
    doneObj := o.doneObj
    freeObj := o.freeObj
    remote := o.remote
    rkey := o.rkey
    remoteSlots := o.remoteSlots
    next := 0
    freed := 0
    busy := false
    moved := false
    regions := [] })
  streamTo s o.stream (if bit o.flags 1 then St.queued else St.running)

/-- STREAM_OPEN (R380). -/
def execStreamOpen (rq : Req) (payload : List Byte) (s : State) : Out :=
  .next (answerVerb s rq { code := 0x71, operator := true } (fun s =>
    let o := parseOpen payload
    if payload.length ≠ 88 then (.malformed, s)
    else if o.job ≠ 0xFFFF && (findJob s o.job).isNone then (.notFound, s)
    else if openRefused s payload o then (.refused 0, s)
    else (.done [], openStream s (rq.session.getD 0) o)))

/-- A queue pair that no stream names is no longer connected (R360). -/
def releaseQp (s : State) (q : Nat) : State := if qpNamed s q then s else s.setQp q (qpReset 0)

/-- STREAM_CLOSE: the entry is Idle, the key is cleared with its last stream, the queue pairs are released. -/
def closeStream (s : State) (n : Nat) : State :=
  match s.data n with
  | none => idleStream s n
  | some d =>
    let part := fget (s.strm n) Strm.PARTITION
    let s := (idleStream s n).setData n none
    let s : State := { s with net := { s.net with work := s.net.work.filter (fun w => w.stream != n) } }
    let used := s.net.data.any (fun e => match e.2 with
      | some x => x.isSealed && x.keyId == d.keyId
      | none => false)
    let s : State := if d.isSealed && !used then { s with net := { s.net with
      keys := s.net.keys.filter (fun k => k.id != d.keyId) } } else s
    let s := releaseQp s d.qp
    let s := match d.alt with
      | some a => releaseQp s a
      | none => s
    dropPartition s part

/-- STREAM_CLOSE (R380). -/
def execStreamClose (rq : Req) (stream : BitVec 16) (s : State) : Out :=
  .next (answerVerb s rq { code := 0x72, operator := true } (fun s =>
    let n := stream.toNat
    if streamState s n = St.idle then (.notFound, s)
    else if !streamEnded s n then (.refused 0, s)
    else (.done [], closeStream s n)))

end Sys2Proof.Machine
end

