-- ==== Sys2Proof/Machine/Pins.lean ====
section
/-!
DEFINITION. The board inputs of J4: the filter, chattering, and what the accepted levels do in their rank (R346 to R348, R423,
R424, Table 14-5, Table 14-9).
-/
namespace Sys2Proof.Machine

/-- What the levels do now, in their rank: PWR_EN and PRESENT_N, THERM_TRIP_N, RESET_N, HOLD_N; `trip` says that THERM_TRIP_N was
just accepted low. A THERM_TRIP_N that is low overrides the lower inputs, but does not act in Reset. -/
def pinsAct (s : State) (trip : Bool) : State :=
  let st := modState s
  if st = 0 then tryPowerOn s
  else if !pinActs s PinNo.pwrEn || pinActs s PinNo.presentN then powerDown s
  else if trip && st != 1 && st != 8 then tripNow s
  else if !pinActs s PinNo.thermTripN && st != 1 then s
  else if !pinActs s PinNo.resetN then (if st = 1 then s else enterReset s)
  else if st = 1 then leaveReset s
  else if !pinActs s PinNo.holdN && (st == 4 || st == 5) then enterHold s
  else if pinActs s PinNo.holdN && st == 6 then leaveHold s
  else s

/-- Connector (2 for J2, 3 for J3) and column of a lane of a fabric link (R425). -/
def linkColumn (j lane : Nat) : Nat × Nat := (2 + j / 24, 2 * (j % 24) + lane + 1)
/-- Connector and column of an Ethernet port (R425). -/
def portColumn (e : Nat) : Nat × Nat := (2 + e / 4, 49 + e % 4)

def setPin (s : State) (i : Nat) (x : Pin) : State :=
  showPins { s with board := { s.board with pins := kput pinReset s.board.pins i x } }

/-- Chattering is entered or left: kind 0x0011, and the count (R346). -/
def noteChatter (s : State) (i : Nat) : State :=
  fileEvent (alert (s.rsat Reg.BOARD_IN_CHATTER_CNT 1) 6) 1 0x0011 8 i 0 0

/-- The module acts on an input's level: THERM_TRIP_N trips when it becomes low. -/
def actOn (s : State) (i : Nat) (was : Bool) : State :=
  pinsAct s (i == PinNo.thermTripN && was && !pinActs s PinNo.thermTripN)

/-- A level of an input is accepted (R346). While the input chatters the module acts where its last stable level changes. In Off no filter
runs and the level is only sensed. -/
def acceptLevel (s : State) (i : Nat) (level : Bool) : State :=
  let x := kget pinReset s.board.pins i
  if modState s = 0 then
    actOn (setPin s i ⟨true, level, level, false, []⟩) i true
  else
    let now := s.hc
    let s := s.tick
    let old := if x.known then x.level else i != 4
    if old = level then setPin s i { x with
      known := true
      level := level
      stable := if x.known then x.stable else level }
    else
      let was := pinActs s i
      let held : Bool := match x.edges.head? with
        | some h => decide (msCounts ≤ (now - h).toNat)
        | none => true
      let edges := (now :: x.edges).take 11
      let burst : Bool := match (edges.drop 10).head? with
        | some h => decide ((now - h).toNat ≤ msCounts)
        | none => false
      let s := setPin s i ⟨true, level, if held then old else x.stable, x.chatter || burst, edges⟩
      if x.chatter then (if pinActs s i = was then s else actOn (fileEvent s 0 0x0010 8 i 0 0) i was)
      else if burst then actOn (noteChatter s i) i was
      else actOn (fileEvent s 0 0x0010 8 i 0 0) i was

/-- PWR_EN (R347, R423, R424). -/
def execPwrEn (level : Bool) (s : State) : Out := .next (acceptLevel s PinNo.pwrEn level)
/-- PRESENT_N (R347). -/
def execPresentN (level : Bool) (s : State) : Out := .next (acceptLevel s PinNo.presentN level)
/-- THERM_TRIP_N (R345, R347). -/
def execThermTripN (level : Bool) (s : State) : Out := .next (acceptLevel s PinNo.thermTripN level)
/-- RESET_N (R347). -/
def execResetN (level : Bool) (s : State) : Out := .next (acceptLevel s PinNo.resetN level)
/-- HOLD_N (R347, R348, R408). -/
def execHoldN (level : Bool) (s : State) : Out := .next (acceptLevel s PinNo.holdN level)

/-- A pin leaves chatter at the level it has held; an edge that differs acts. -/
def chatterEnds (s : State) (i : Nat) (level : Bool) : State :=
  let was := pinActs s i
  let s := noteChatter (setPin s i ⟨true, level, level, false, []⟩) i
  if was = level then s else actOn (fileEvent s 0 0x0010 8 i 0 0) i was

/-- CHATTER_EXIT (R346): the raw level that held for 10 ms is accepted. -/
def execChatterExit (pin : Fin 5) (level : Bool) (s : State) : Out :=
  .next (
    let i := pin.val
    if modState s = 0 || !(kget pinReset s.board.pins i).chatter then s
    else
      chatterEnds s i level)

end Sys2Proof.Machine
end

