-- ==== Sys2Proof/Machine/Records.lean ====
section
/-!
DEFINITION. Sealed records and the queue pairs that carry them (R359 to R361, R384 to R388).
-/
namespace Sys2Proof.Machine

/-! ## Records (R384) -/

/-- Header fields of a record, least significant byte first. -/
structure RecHead where
  stream : Nat
  flags : Nat
  len : Nat
  rseq : Nat
  zeros : Bool
deriving DecidableEq, Repr

def parseRec (m : List Byte) : RecHead := ⟨leAt m 0 2, leAt m 2 1, leAt m 4 4, leAt m 8 8, allZero (slice m 3 1) && allZero (slice m 16 16)⟩
def recHeader (stream flags len rseq : Nat) : List Byte :=
  leBytes 2 stream ++ leBytes 1 flags ++ leBytes 1 0 ++ leBytes 4 len ++ leBytes 8 rseq ++ List.replicate 16 0

/-- IV of a record: SALT and RSEQ. -/
def recIv (k : TrustKey) (rseq : Nat) : List Byte := be 4 k.salt ++ be 8 rseq

/-- The record of a stream as it goes to the host; none while its key is gone. -/
def sealRec (s : State) (d : DataStream) (kind : Nat) (h : List Byte) (rseq : Nat) (data : List Byte) : Option (List Byte) :=
  if !d.isSealed then some (h ++ data)
  else (findKey s d.keyId (keyType kind)).map (fun k =>
    let c := Config.gcmSeal k.key (recIv k rseq) h data
    h ++ c.1 ++ c.2.take 16)

/-- The data of a received record; none when its length or a reserved byte is wrong, or its tag does not match. -/
def openRec (s : State) (d : DataStream) (kind : Nat) (m : List Byte) (exact : Bool) : Option (List Byte) :=
  let h := parseRec m
  let n := 32 + h.len + (if d.isSealed then 16 else 0)
  if !h.zeros || m.length < n || (exact && m.length ≠ n) || d.slotSize < h.len + 64 then none
  else
    let body := slice m 32 h.len
    if !d.isSealed then some body
    else match findKey s d.keyId (keyType kind) with
      | none => none
      | some k => Config.gcmOpen k.key (recIv k h.rseq) (slice m 0 32) body (slice m (32 + h.len) 16)

/-! ## Ring slots (R385, R386) -/

def slotOff (d : DataStream) (r : Nat) : Nat := d.ring + r % d.slots * d.slotSize
/-- Address of the host slot of record r. -/
def hostSlot (d : DataStream) (r : Nat) : BitVec 64 := BitVec.ofNat 64 (d.remote + r % d.remoteSlots * d.slotSize)
/-- A ring slot is free for record r: (r - F) mod 2^32 < SLOTS. -/
def slotFree (s : State) (d : DataStream) (r : Nat) : Bool :=
  let f := fget (s.obj d.freeObj) Obj.VALUE
  decide ((r % 2 ^ 32 + 2 ^ 32 - f) % 2 ^ 32 < d.slots)

/-- A host die signals an object of a stream with add 1. -/
def hostSignal (s : State) (n die obj : Nat) : State :=
  signal s ⟨obj, false, 1, chipNo s, 0xB0 + die, fget (s.strm n) Strm.STEP⟩

/-- Count a record of a stream. -/
def countRec (s : State) (n len : Nat) : State :=
  let s := strmSet s n Strm.BYTES (fget (s.strm n) Strm.BYTES + len)
  strmSet s n Strm.RECORDS (fget (s.strm n) Strm.RECORDS + 1)

/-! ## Records in HBM (R10, R17, R213, R217) -/

/-- The connections from host die h to the home die of stack m: to the end of that die's row, then along the row (Table 1-2). -/
def hostHops (h m : Nat) : List (Nat × Nat) :=
  let a := m / 2 / 4 * 4 + 3 * h
  (dieOfHost h, a) :: dieHops a (m / 2)

/-- The channel directions that a host die uses to reach a range of HBM, and back where it reads; or one that it lacks. -/
def hostChans (s : State) (h off n : Nat) (back : Bool) : List Nat ⊕ Nat :=
  let out := ((sectors off n).map hbmStack).eraseDups.flatMap (hostHops h)
  let hops := (if back then out ++ out.map (fun e => (e.2, e.1)) else out).eraseDups
  match hops.find? (fun e => (chanOwned s (0xB0 + h) e.1 e.2).isNone) with
  | some e => .inr (chanIndex e.1 e.2 0)
  | none => .inl (hops.filterMap (fun e => chanOwned s (0xB0 + h) e.1 e.2))

/-- A record needs slots (class 3) or a channel (class 2) that its host die does not own: the violation is filed, and the data
stream that asked fails (R17, assumption 90). -/
def hostRefused (s : State) (w : HostWork) (cls unit : Nat) : State :=
  failStream (idleData (violation s cls unit 0 (0xB0 + w.die) (chipNo s) 0 (fget (s.strm w.stream) Strm.STEP)) w.stream) w.stream 0xFF08

/-- A load stream may write what its ring overlaps: committed regions of a job only while every step stream of the job is Queued or
Suspended (R388). -/
def loadAllowed (s : State) (d : DataStream) : Bool :=
  s.jobs.all (fun j => !j.lists.regions.any (fun r => overlap d.ring (d.slots * d.slotSize) r.1 r.2)
    || (stepStreams j).all (fun m => streamState s m == St.queued || streamState s m == St.suspended))

/-- A sector of a host die's record may be written: not one of a record that was dropped, nor one of a load stream that must wait. -/
def hostWrites (s : State) (num : Nat) : Bool :=
  match s.net.work.find? (fun w => w.num == num) with
  | none => true
  | some w => !w.dropped && (streamKind s w.stream != 7 || (match s.data w.stream with
    | some d => loadAllowed s d
    | none => true))

/-- The records of a load stream that are still being written are dropped, to be read again once the stream may write (R388). -/
def loadWithdraws (s : State) (num : Nat) : State :=
  match s.net.work.find? (fun w => w.num == num) with
  | none => s
  | some w =>
    let mine (x : HostWork) : Bool := x.stream == w.stream && x.write && !x.dropped
    match s.net.work.find? mine with
    | none => s
    | some first =>
      let s := s.modData w.stream (fun d => { d with
        next := first.rseq
        moved := d.busy })
      { s with net := { s.net with work := s.net.work.map (fun x => if mine x then { x with dropped := true } else x) } }

/-- Put the sectors of a record into the queues of its host die (R217), unless it owns no way to them. -/
def hostQueue (s : State) (w : HostWork) (bytes : List Byte) : State :=
  let n := w.skip + w.len
  match badShare s (0xB0 + w.die) w.off n with
  | some a => hostRefused s w 3 (hbmStack a * 64 + hbmPc a)
  | none =>
    match hostChans s w.die w.off n (!w.write) with
    | .inr c => hostRefused s w 2 c
    | .inl cs =>
      let num := s.fab.nextId
      let parts := sectors w.off n
      let s := { s with
        fab := { s.fab with nextId := num + 1 }
        net := { s.net with work := s.net.work ++ [{ w with
          num := num
          chans := cs
          left := parts.length }] } }
      parts.zipIdx.foldl (fun s a =>
        enqueue s (0xB0 + w.die) ⟨w.write, a.1, ⟨if w.write then slice bytes (64 * a.2) 64 else [], false⟩, .host num, a.2⟩) s

def dropWork (s : State) (num : Nat) : State :=
  { s with net := { s.net with work := s.net.work.filter (fun w => w.num != num) } }

/-- The bytes of a ring slot that record h fills: a 64 B header (RSEQ, LENGTH, FLAGS; assumption 30 gives its layout), the data,
and free bytes up to the end of the last sector, which is written whole (R213). -/
def slotBytes (s : State) (h : RecHead) (data : List Byte) : List Byte :=
  leBytes 8 h.rseq ++ leBytes 4 h.len ++ leBytes 4 h.flags ++ List.replicate 48 0 ++ data
    ++ (List.range ((64 - data.length % 64) % 64)).map (Config.mixByte s.draws)

/-- A record is taken into the ring: its host die writes it to slot r mod SLOTS (R385). -/
def takeRecord (s : State) (n q : Nat) (d : DataStream) (h : RecHead) (data : List Byte) : State :=
  let s := s.modData n (fun d => { d with
    next := h.rseq + 1
    busy := false })
  hostQueue s.drew ⟨0, n, q / 2048, true, h.flags, h.rseq, slotOff d h.rseq, 64, h.len, [], 0, [], false⟩ (slotBytes s h data)

/-- A record stands in its slot: counted, signalled, and the stream Done after its last one (R385). One that was dropped does not. -/
def recordTaken (s : State) (w : HostWork) : State :=
  match s.data w.stream with
  | none => s
  | some d =>
    if w.dropped then (if streamState s w.stream = St.cancelling then cancelEnds s w.stream else s) else
    let s := hostSignal (countRec s w.stream w.len) w.stream w.die d.doneObj
    let st := streamState s w.stream
    if st = St.cancelling then cancelEnds s w.stream
    else if bit w.flags 0 && (st = St.running || st = St.suspending || st = St.suspended) then streamDone s w.stream 0 else s

/-- Records of a stream are taken in the order of their RSEQ: those in front whose sectors are all written. -/
def settleWork : List HostWork → State → State
  | [], s => s
  | w :: ws, s => if w.left ≠ 0 then s else settleWork ws (recordTaken (dropWork s w.num) w)
def settleRecords (s : State) (n : Nat) : State := settleWork (s.net.work.filter (fun w => w.stream == n && w.write)) s

/-! ## Packets of a queue pair -/

/-- Packets of a message at the path MTU of 4,096 B. -/
def packets (n : Nat) : Nat := max 1 ((n + 4095) / 4096)
/-- A message of a queue pair leaves by its port: a WRITE in as many packets as it needs, any other in one. -/
def qpSend (s : State) (q : Nat) (m : OutMsg) : State :=
  portTx s (s.qp q).port m (match m with
    | .rdmaWrite _ _ _ data => packets data.length
    | _ => 1)
def qpUp (s : State) (q : Nat) : Bool := qpUsable s q && portIsUp s (s.qp q).port

/-- A frame that brings a packet of a queue pair is dropped at its port. -/
def qpDropped (s : State) (q : Nat) (x : EthIn) : Bool := frameDropped s (s.qp q).port x

/-- A message of n bytes arrives on a queue pair: its port counts its packets, and for a mark CE a CNP goes back, at most one per 50 µs
(R361). -/
def qpReceive (s : State) (q : Nat) (x : EthIn) (n : Nat) : State :=
  let dropped := qpDropped s q x
  let s := portRx s (s.qp q).port x (packets n)
  if dropped || !x.marked then s
  else
    let h := s.hc
    let due := match (s.qp q).lastCnp with
      | some t => decide (5000 ≤ (h - t).toNat)
      | none => true
    if !due then s.tick
    else qpSend ((s.tick.radd Reg.ROCE_CNP_SENT 1).setQp q { s.qp q with lastCnp := some h }) q (.cnp q)

/-- The SEND is acknowledged. -/
def qpAck (s : State) (q len : Nat) : State :=
  qpSend (s.setQp q { s.qp q with rxPsn := ((s.qp q).rxPsn + packets len) % 2 ^ 24 }) q (.ack q)

/-! ## INGEST_RECORD (R385) -/

/-- A stream is bound to a queue pair. -/
def boundTo (d : DataStream) (q : Nat) : Bool := d.qp == q || d.alt == some q

/-- An ingest record fails: nothing is written, the stream that it names is Failed, the failure counted, and an EVENT message sent: that of
the stream's change, or one of its own for a stream that is not live (R385; the kind is assumption 22's). -/
def ingestFails (s : State) (q n len : Nat) : State :=
  let s := s.rsat Reg.INGEST_FAIL_COUNT 1
  qpAck (if streamLive s n then failStream (idleData s n) n 0xFF01
    else fileEvent s 1 0x0201 9 (fget (s.strm n) Strm.JOB) (fget (s.strm n) Strm.STEP) (fset (0 : BitVec 512) (15, 0) n)) q len

/-- A record of an ingest stream arrives. -/
def recordArrives (s : State) (q : QpId) (message : List Byte) : State :=
  let h := parseRec message
  let n := h.stream
  match s.data n with
  | none => ingestFails s q n message.length
  | some d =>
    if !boundTo d q || streamKind s n ≠ 3 then ingestFails s q n message.length
    else if h.rseq < d.next then qpAck (s.rsat Reg.INGEST_DUP_COUNT 1) q message.length
    else if !streamLive s n then qpAck s q message.length
    else if d.next < h.rseq then ingestFails s q n message.length
    else if streamState s n ≠ St.running || !slotFree s d h.rseq then qpSend s q (.rnrNak q)
    else
      match openRec s d 3 message true with
      | none => ingestFails s q n message.length
      | some data => qpAck (takeRecord s n q d h data) q message.length

/-- INGEST_RECORD. A message with CREDIT set and LENGTH 0 is no ingest record (R386). While the stream is not Running it takes none. A
packet of any other opcode than SEND that the module does not take is answered with an Invalid Request NAK (R359). -/
def execIngestRecord (q : QpId) (x : EthIn) (send : Bool) (message : List Byte) (s : State) : Out :=
  .next (
    let h := parseRec message
    if !qpUp s q || send && bit h.flags 2 && h.len == 0 then s
    else
      let dropped := qpDropped s q x
      let s := qpReceive s q x message.length
      if dropped then s else if send then recordArrives s q message else qpSend s q (.invalidNak q))

/-! ## EGRESS_RECORD_WRITE, LOAD_READ_ISSUE (R386, R388) -/

/-- The next record of an egress or a checkpoint stream, as the work of reading it; none while none is ready. -/
def nextRecord (s : State) (n : Nat) (d : DataStream) : Option HostWork :=
  if streamKind s n = 4 then
    if !objReached s d.doneObj (d.next + 1) then none
    else
      let a := slotOff d d.next
      some ⟨0, n, d.qp / 2048, false, s.le (a + 12) 4 % 4, d.next, a, 64, min (s.le (a + 8) 4) (d.slotSize - 64), [],
        0, [], false⟩
  else if streamKind s n = 5 then
    match d.regions with
    | [] => none
    | r :: rest =>
      let k := min r.2 (d.slotSize - 64)
      some ⟨0, n, d.qp / 2048, false, boolNat (rest.isEmpty && k == r.2), d.next, r.1 / 64 * 64, r.1 % 64, k, [], 0, [],
        false⟩
  else none

/-- Data of a record that is read whole. -/
def HostWork.data (w : HostWork) : List Byte := slice (w.lines.flatMap (fun l => l.2.data)) w.skip w.len

/-- Send the record that is read whole by RDMA WRITE; a record whose key is gone stays unsent. -/
def sendRecord (s : State) (n : Nat) : State :=
  match s.data n, readRecord s n with
  | some d, some w =>
    match sealRec s d (streamKind s n) (recHeader n w.flags w.len w.rseq) w.rseq w.data with
    | some bytes => if qpUp s d.qp then qpSend s d.qp (.rdmaWrite d.qp (hostSlot d w.rseq) (BitVec.ofNat 32 d.rkey) bytes) else s
    | none => s
  | _, _ => s

/-- One sector of a host die's record is done (R217): the last one of a record to write takes records into the ring, the last
one of a record to read sends it. -/
def hostPart (s : State) (num place : Nat) (l : Option Line) : State :=
  match s.net.work.find? (fun w => w.num == num) with
  | none => s
  | some w =>
    let w := { w with
      left := w.left - 1
      lines := match l with
        | some l => kput (fun _ => (⟨[], false⟩ : Line)) w.lines place l
        | none => w.lines }
    let s : State := { s with net := { s.net with work := s.net.work.map (fun x => if x.num = num then w else x) } }
    if w.left ≠ 0 then s else if w.write then settleRecords s w.stream else sendRecord s w.stream

/-- The key of a sealed stream is there. -/
def keyHeld (s : State) (n : Nat) (d : DataStream) : Bool := !d.isSealed || (findKey s d.keyId (keyType (streamKind s n))).isSome

/-- EGRESS_RECORD_WRITE: while the record's number is below REMOTE_SLOTS and the slots that the host freed, the host die reads
the next record and, once it is read, writes it to the host. A record that its stream took along to its ALT_QP is sent again (R387). -/
def execEgressRecordWrite (stream : StreamId) (s : State) : Out :=
  .next (
    let n := stream.val
    match s.data n with
    | none => s
    | some d =>
      if d.moved && streamLive s n && streamKind s n != 7 && qpUp s d.qp then sendRecord (s.modData n (fun d => { d with moved := false })) n
      else if streamState s n ≠ St.running || d.busy || !qpUp s d.qp || d.remoteSlots + d.freed ≤ d.next || !keyHeld s n d then s
      else
        match nextRecord s n d with
        | some w => sendRecord (hostQueue (s.modData n (fun d => { d with busy := true })) w []) n
        | none => s)

/-- Send the READ of the next record. -/
def sendRead (s : State) (d : DataStream) : State :=
  qpSend s d.qp (.rdmaRead d.qp (hostSlot d d.next) (BitVec.ofNat 32 d.rkey) d.slotSize)


/-- LOAD_READ_ISSUE. -/
def execLoadReadIssue (stream : StreamId) (s : State) : Out :=
  .next (
    let n := stream.val
    match s.data n with
    | none => s
    | some d =>
      if streamKind s n ≠ 7 || streamState s n ≠ St.running || d.busy || !qpUp s d.qp || !slotFree s d d.next
        || !loadAllowed s d then s
      else (sendRead s d).modData n (fun d => { d with busy := true }))

/-- A record that is not taken: its read is over. -/
def dropRead (s : State) (n : Nat) : State :=
  (idleData s n).modData n (fun d => { d with moved := false })

/-- The record that a read asked for arrives. One that may not be written now is dropped, and its READ sent again later (R388,
assumption 67). -/
def loadArrives (s : State) (n : Nat) (d : DataStream) (record : List Byte) : State :=
  let s := s.setQp d.qp { s.qp d.qp with
    retries := 0
    rnr := 0
    txPsn := ((s.qp d.qp).txPsn + packets d.slotSize) % 2 ^ 24 }
  let h := parseRec record
  let st := streamState s n
  if d.moved then dropRead s n
  else if st ≠ St.running && st ≠ St.suspending then cancelEnds (dropRead s n) n
  else if !loadAllowed s d then dropRead s n
  else if h.rseq ≠ d.next || h.stream ≠ n then failStream (dropRead s n) n 0xFF03
  else
    match openRec s d 7 record false with
    | none => failStream (dropRead s n) n 0xFF03
    | some data => takeRecord s n d.qp d h data

/-- LOAD_RECORD: the response to the READ that is out. -/
def execLoadRecord (stream : StreamId) (x : EthIn) (record : List Byte) (s : State) : Out :=
  .next (
    let n := stream.val
    match s.data n with
    | none => s
    | some d =>
      if streamKind s n ≠ 7 || !d.busy || !qpUp s d.qp then s
      else
        let dropped := qpDropped s d.qp x
        let s := qpReceive s d.qp x record.length
        if dropped then s else loadArrives s n d record)

/-- CREDIT_RECORD (R386): the cumulative count of slots that the host freed rises. -/
def execCreditRecord (q : QpId) (x : EthIn) (message : List Byte) (s : State) : Out :=
  .next (
    let h := parseRec message
    let n := h.stream
    if !qpUp s q || !bit h.flags 2 || h.len ≠ 0 then s
    else
      let dropped := qpDropped s q x
      let s := qpReceive s q x message.length
      if dropped then s else
      let s := qpAck s q message.length
      match s.data n with
      | none => s
      | some d =>
        if !boundTo d q || (streamKind s n ≠ 4 && streamKind s n ≠ 5) then s
        else s.setData n (some { d with freed := max d.freed h.rseq }))

/-! ## ROCE_ACK, ROCE_ACK_TIMEOUT, CNP_RECEIVE, RATE_INCREASE (R360, R361) -/

/-- What a checkpoint stream has still to write once k bytes are written. -/
def regionsAfter (rs : List (Nat × Nat)) (k : Nat) : List (Nat × Nat) :=
  match rs with
  | [] => []
  | r :: rest => if k < r.2 then (r.1 + k, r.2 - k) :: rest else rest

/-- An acknowledged WRITE: counted, FREE_OBJ of an egress stream or DONE_OBJ of a checkpoint stream signalled, and the stream
Done after its last record. -/
def writeDone (s : State) (n : Nat) (d : DataStream) : State :=
  match readRecord s n with
  | none => s
  | some w =>
    let s := (idleData s n).setData n (some { d with
      next := d.next + 1
      busy := false
      moved := false
      regions := regionsAfter d.regions w.len })
    let s := countRec s n w.len
    let s := hostSignal s n (d.qp / 2048) (if streamKind s n = 5 then d.doneObj else d.freeObj)
    let st := streamState s n
    if st = St.cancelling then cancelEnds s n
    else if bit w.flags 0 && (st = St.running || st = St.suspending) then streamDone s n 0 else s

/-- Send again what a stream has out: a READ, or a WRITE whose record is read. -/
def resend (s : State) (n : Nat) (d : DataStream) : State :=
  if streamKind s n = 7 then (if d.busy then sendRead s d else s) else sendRecord s n

/-- One more try, of the seven after a timeout or a sequence error, or of the seven after an RNR NAK; then the queue pair is in error
(R360). -/
def qpRetry (s : State) (q : Nat) (afterRnr : Bool) (ns : List Nat) : State :=
  let x := s.qp q
  if 7 ≤ (if afterRnr then x.rnr else x.retries) then qpError s q
  else
    let s := s.setQp q (if afterRnr then { x with rnr := x.rnr + 1 } else { x with retries := x.retries + 1 })
    ns.foldl (fun s n => match s.data n with
      | some d => resend s n d
      | none => s) s

/-- What the peer answers to the outstanding WRITE or READ arrives. A NAK for good puts the QP into the error state at once. -/
def ackArrives (s : State) (q : QpId) (n : Nat) (d : DataStream) (kind : AckKind) : State :=
  match kind with
  | .rnrNak => qpRetry s q true [n]
  | .seqNak => qpRetry s q false [n]
  | .fatalNak => qpError s q
  | .ack =>
    if streamKind s n = 7 then s
    else
    let len := match readRecord s n with
      | some w => w.len + 32
      | none => 0
    let s := s.setQp q { s.qp q with
      retries := 0
      rnr := 0
      txPsn := ((s.qp q).txPsn + packets len) % 2 ^ 24 }
    writeDone s n d

/-- ROCE_ACK. -/
def execRoceAck (q : QpId) (x : EthIn) (stream : StreamId) (kind : AckKind) (s : State) : Out :=
  .next (
    let n := stream.val
    match s.data n with
    | none => s
    | some d =>
      if d.qp ≠ q.val || !d.busy || (streamKind s n ≠ 7 && (readRecord s n).isNone) || !qpUp s q then s
      else
        let dropped := qpDropped s q x
        let s := qpReceive s q x 0
        if dropped then s else ackArrives s q n d kind)

/-- A stream has a READ or a WRITE out. -/
def dataOut (s : State) (n : Nat) : Bool :=
  match s.data n with
  | some d => d.busy && (streamKind s n == 7 || (readRecord s n).isSome)
  | none => false

/-- ROCE_ACK_TIMEOUT: what its streams have out is sent again. -/
def execRoceAckTimeout (q : QpId) (s : State) : Out :=
  .next (
    let ns := (qpUsers s q).filter (dataOut s)
    if !qpUsable s q || ns.isEmpty then s else qpRetry s q false ns)

/-- CNP_RECEIVE: half the rate, at least 1 Gb/s. -/
def execCnpReceive (q : QpId) (x : EthIn) (s : State) : Out :=
  .next (
    if !qpUp s q then s
    else
      let dropped := qpDropped s q x
      let s := qpReceive s q x 0
      if dropped then s else (s.radd Reg.ROCE_CNP_RECEIVED 1).setQp q { s.qp q with rate := max 1000000 ((s.qp q).rate / 2) })

/-- RATE_INCREASE: 5 Gb/s more, at most the port's 100 Gb/s. -/
def execRateIncrease (q : QpId) (s : State) : Out :=
  .next (if !(s.qp q).connected then s else s.setQp q { s.qp q with rate := min 100000000 ((s.qp q).rate + 5000000) })

end Sys2Proof.Machine
end

