-- ==== Sys2Proof/Machine/Window.lean ====
section
/-!
DEFINITION. The management window: what a read of a word returns and what a write of it does (R5, R6, R268, R269, R438 to R447,
Table 18-2), PEEK, POKE and REGISTER_WRITE.
-/
namespace Sys2Proof.Machine

/-! ## Places (R438) -/

def inWindow (off : Nat) : Bool := decide (0xF0000000000 ≤ off) && decide (off < 2 ^ 44)

/-- Object, command, stream or peat record whose word lies at an 8 B-aligned offset: its number and the word. -/
def objAt (off : Nat) : Option (Nat × Nat) :=
  if syncBase ≤ off && off < syncBase + 0x100000 then some ((off - syncBase) / 0x20, (off - syncBase) % 0x20 / 8) else none
def objCmdAt (off : Nat) : Option (Nat × Nat) :=
  if syncBase + 0x100000 ≤ off && off < syncBase + 0x180000 then
    some ((off - syncBase - 0x100000) / 0x10, (off - syncBase) % 0x10 / 8)
  else none
def streamAt (off : Nat) : Option (Nat × Nat) :=
  if streamBase ≤ off && off < streamBase + 0x400000 then some ((off - streamBase) / 0x40, (off - streamBase) % 0x40 / 8) else none
def peatAt (off : Nat) : Option (Nat × Nat) :=
  if peatBase + 0x100000 ≤ off && off < peatBase + 0x500000 then
    some ((off - peatBase - 0x100000) / 0x40, (off - peatBase) % 0x40 / 8)
  else none

/-- A word of the window that is in a register, a record or a table. -/
def wordExists (off : Nat) : Bool :=
  (regRow off).isSome || (objAt off).isSome || (objCmdAt off).isSome || (streamAt off).isSome || (peatAt off).isSome

/-- Link die and link of a register of a link, from the offset within the link-die blocks. -/
def linkAt (off : Nat) : Option (Nat × Nat) :=
  if linkBase 0 ≤ off && off < linkBase 12 then
    let o := (off - linkBase 0) % 0x10000
    if 0x1000 ≤ o && o < 0x1400 then some ((off - linkBase 0) / 0x10000 * 4 + (o - 0x1000) / 0x100, (o - 0x1000) % 0x100) else none
  else none

/-- Stack, and offset in its block. -/
def stackAt (off : Nat) : Option (Nat × Nat) :=
  if stackBase 0 ≤ off && off < stackBase 16 then some ((off - stackBase 0) / 0x10000, (off - stackBase 0) % 0x10000) else none

/-! ## Reading (R440, R442, R443) -/

/-- A field of a word replaced by what the module derives from its other state. -/
def showField (w : Word64) (f : RegF) (v : Nat) : Word64 := setFld w f.hi f.lo v

/-- Bit per vector-engine port with work (Table 8-1): drain, Sedge path, plank core, stream. -/
def portsBusy (s : State) (p : Nat) : Nat :=
  let k := s.plank p
  boolNat (drainBusy s p) + 2 * boolNat (!k.segs.isEmpty) + 4 * boolNat (!k.port2.isEmpty) + 8 * boolNat (!k.port3.isEmpty)

/-- The derived fields of a plank's words. -/
def plankShown (s : State) (p o : Nat) (w : Word64) : Word64 :=
  if o = 0x08 then showField w (Reg.PLANK_STATUS_WAITING p) (boolNat (s.plank p).wait.isSome)
  else if o = 0xC0 then
    showField (showField w (Reg.VEC_STATUS_PORT_BUSY p) (portsBusy s p)) (Reg.VEC_STATUS_STREAM_Q p) (s.plank p).port3.length
  else w

/-- Transfers of a link die that are outstanding. -/
def xfersOut (s : State) (d : Nat) : Nat := (s.fab.xfers.filter (fun x => x.remote && x.die == d)).length

/-- The derived fields of a link die's words. -/
def linkShown (s : State) (off : Nat) (w : Word64) : Word64 :=
  match linkAt off with
  | some (l, 0) => showField w (Reg.LINK_STATUS_PORT (l / 4) (l % 4)) ((portOf s l).getD 0)
  | some _ => w
  | none =>
    let d := (off - linkBase 0) / 0x10000
    let o := (off - linkBase 0) % 0x10000
    if o = 0x00 then showField w (Reg.LINKDIE_ID_CHIP d) (chipNo s)
    else if o = 0x08 then showField w (Reg.FAB_STATUS_EMPTY d) (boolNat (!routerHolds s d))
    else if o = 0x40 then showField w (Reg.XFER_OUT_COUNT d) (xfersOut s d)
    else w

/-- The derived fields of the identity, synchronisation and peat-log words. -/
def fixedShown (s : State) (off : Nat) (w : Word64) : Word64 :=
  if off = Reg.MODULE_STATE_STATE.off then showField w Reg.MODULE_STATE_STATE (shownState s)
  else if off = Reg.SLUICE_STATUS_SESSIONS.off then showField w Reg.SLUICE_STATUS_SESSIONS (openSessions s)
  else if off = Reg.ROCE_STATUS_CONNECTED.off then
    showField (showField w Reg.ROCE_STATUS_CONNECTED (s.net.qps.filter (fun q => q.2.connected)).length)
      Reg.ROCE_STATUS_ERRORED (s.net.qps.filter (fun q => q.2.error)).length
  else if off = Reg.SYNC_STATUS_ACTIVE.off then
    showField (showField (showField w Reg.SYNC_STATUS_ACTIVE (s.objs.filter (fun e => fget e.2 Obj.STATE == 1)).length)
      Reg.SYNC_STATUS_SUSPENDED (s.objs.filter (fun e => fget e.2 Obj.STATE == 2)).length)
      Reg.SYNC_STATUS_ORPHANED (s.objs.filter (fun e => fget e.2 Obj.STATE == 3)).length
  else if off = Reg.ERRQ_STATUS_OPEN.off then showField w Reg.ERRQ_STATUS_OPEN s.errq.length
  else w

/-- A register word as it reads. -/
def shownWord (s : State) (off : Nat) : Word64 :=
  let w := s.word off
  match blockPlank off with
  | some p => plankShown s p ((off - plankBase 0) % 0x10000) w
  | none => if linkBase 0 ≤ off && off < linkBase 12 then linkShown s off w else fixedShown s off w

/-- A word of the window, at an 8 B-aligned offset (R268, R443). A peat record that was never written reads as erased flash. -/
def readWord (s : State) (off : Nat) : Word64 :=
  if blockCause s off = 2 then 0
  else match objAt off with
    | some (o, i) => BitVec.ofNat 64 (bits (s.obj o).toNat (64 * i) 64)
    | none =>
      match streamAt off with
      | some (n, i) => BitVec.ofNat 64 (bits (s.strm n).toNat (64 * i) 64)
      | none =>
        match peatAt off with
        | some (r, i) =>
          let x := kget noPeat s.peat r
          if x = 0 then BitVec.allOnes 64 else BitVec.ofNat 64 (bits x.toNat (64 * i) 64)
        | none => if (regRow off).isSome then shownWord s off else 0

/-- What a read of n bytes at an offset returns: the bytes of its words. -/
def readWindow (s : State) (off n : Nat) : List Byte :=
  slice ((List.range ((off % 8 + n + 7) / 8)).flatMap (fun i => leBytes 8 (readWord s (off / 8 * 8 + 8 * i)).toNat)) (off % 8) n

/-! ## Writing (R441, R443, R444) -/

/-- The condition of Table 18-2 that guards a plank register. -/
def plankGuarded (s : State) (p o : Nat) (v : Word64) : Bool :=
  if o = 0x18 then s.rbit (Reg.PLANK_STATUS_SPILL_VALID p)
  else if o = 0x98 || o = 0x88 then s.rbit (Reg.CORE_STATUS_CTX_VALID p)
  else if o = 0x20 then plankState s p == PlankSt.running || plankState s p == PlankSt.suspending
  else if o = 0x38 then accState s p 0 != AccSt.free || accState s p 1 != AccSt.free
  else if o = 0x68 then s.rget (Reg.FILL_PTR_HEAD p) != s.rget (Reg.FILL_PTR_TAIL p) || s.rbit (Reg.FILL_PTR_ITEM_HELD p)
  else if o = 0xD8 then coreState s p != CoreSt.reset
  else if o = 0xF8 || o = 0x100 then s.rbit (Reg.BANK_SWITCH_ARMED p)
  else if o = 0x108 then v.getLsbD 48 && s.rbit (Reg.BANK_SWITCH_ARMED p)
  else if o = 0x148 then !s.jobs.isEmpty
  else false

/-- That of a stack register. -/
def stackGuarded (s : State) (m o : Nat) (v : Word64) : Bool :=
  if 0x1000 ≤ o && o < 0x1800 && o % 0x20 = 8 then v.getLsbD 48 && s.rbit (Reg.PC_STATUS_ARMED m ((o - 0x1000) / 0x20))
  else if 0x4000 ≤ o && o < 0xC000 then
    let c := (o - 0x4000) / 0x200
    s.rbit (Reg.PC_STATUS_ARMED m c) || s.rget (Reg.PC_STATUS_ACTIVE m c) == (o - 0x4000) / 0x100 % 2
  else false

/-- That of a barrier, a tree map or a member mask. -/
def syncGuarded (s : State) (o : Nat) : Bool :=
  if 0x200000 ≤ o && o < 0x210000 then s.rbit (Reg.BAR_VALID ((o - 0x200000) / 0x40))
  else if 0x300000 ≤ o && o < 0x304000 then treeNamed s ((o - 0x300000) / 0x400)
  else if 0x340000 ≤ o && o < 0x348000 then treeNamed s ((o - 0x340000) / 0x800)
  else false

/-- A write that Table 18-2 guards. -/
def guarded (s : State) (off : Nat) (v : Word64) : Bool :=
  match blockPlank off with
  | some p => plankGuarded s p ((off - plankBase 0) % 0x10000) v
  | none =>
    match stackAt off with
    | some (m, o) => stackGuarded s m o v
    | none => if syncBase ≤ off && off < syncBase + 0x400000 then syncGuarded s (off - syncBase) else false

/-- Cause with which a write is ignored, 0 when it is not (Table 18-3). -/
def writeCause (s : State) (off : Nat) (v : Word64) : Nat :=
  let c := blockCause s off
  if c ≠ 0 then c
  else if !wordExists off then 1
  else if guarded s off v then 3
  else 0

/-- A write under the access codes alone (R5, R6, R441). -/
def plainWrite (s : State) (off : Nat) (v : Word64) : State :=
  match regRow off with
  | some r => s.setWord off (regWrite r (s.word off) v)
  | none => s

/-- A plank register with behaviour of its own. -/
def plankWrite (s : State) (p o : Nat) (v : Word64) : State :=
  if o = 0x10 then
    let s := if v.getLsbD 0 then suspendArray (suspendCore s p) p else s
    let s := if v.getLsbD 1 then faultAck s p else s
    if v.getLsbD 2 then discardSpill s p else s
  else if o = 0xA0 then
    let s := if v.getLsbD 1 then resetCore s p else s
    let s := if v.getLsbD 2 then discardCtxOp p s else s
    if v.getLsbD 0 then coreStartOp p s else s
  else if o = 0x108 then
    let s := s.rset (Reg.BANK_SWITCH_OBJ p) (fld v 14 0)
    let s := s.rset (Reg.BANK_SWITCH_TARGET p) (fld v 47 16)
    if v.getLsbD 48 then s.rset (Reg.BANK_SWITCH_ARMED p) 1 else s
  else if o = 0x148 then
    let s := if v.getLsbD 0 then restorePlank s p else s
    if v.getLsbD 1 then unmaskPlank s p else s
  else if o = 0x128 then
    let r := fld v 3 0
    let s := s.rset (Reg.SAMPLE_CTL_EN p) (fld v 4 4)
    if 4 ≤ r && r ≤ 10 then s.rset (Reg.SAMPLE_CTL_RATE_LOG2 p) r else s
  else if o = 0x158 then armSlices s p (fld v 7 0)
  else plainWrite s (plankBase p + o) v

/-- A stack register: CAL_CTL and PC_SWITCH have behaviour of their own. -/
def stackWrite (s : State) (m o : Nat) (v : Word64) : State :=
  if o = 0x40 then
    let s := plainWrite s (stackBase m + o) v
    if v.getLsbD 0 && stackServes s m then retrainAll s m else s
  else if 0x1000 ≤ o && o < 0x1800 && o % 0x20 = 8 then
    let c := (o - 0x1000) / 0x20
    let s := s.rset (Reg.PC_SWITCH_OBJ m c) (fld v 14 0)
    let s := s.rset (Reg.PC_SWITCH_TARGET m c) (fld v 47 16)
    if v.getLsbD 48 then s.rset (Reg.PC_STATUS_ARMED m c) 1 else s
  else plainWrite s (stackBase m + o) v

/-- A register of a link: LINK_CTL, and PAT_CTL, whose write starts its checker anew (R264). -/
def linkWrite (s : State) (l o off : Nat) (v : Word64) : State :=
  if o = 0x08 then
    let s := s.rset (Reg.LINK_CTL_TEST (l / 4) (l % 4)) (boolNat (v.getLsbD 2))
    let s := linkTestOp l (v.getLsbD 2) (linkDisableOp l (v.getLsbD 0) s)
    if v.getLsbD 1 then linkRetrainOp l s else s
  else if o = 0x40 || o = 0x60 then
    let s := setFabricLane (plainWrite s off v) l (if o = 0x40 then 0 else 1) (laneReset 0)
    (s.setWord (off + 0x10) 0).setWord (off + 0x18) 0
  else plainWrite s off v

/-- Word 0 of a barrier: one that it puts in use has completed no generation (R279, assumption 31). -/
def barWrite (s : State) (b : Nat) (v : Word64) : State :=
  let was := s.rbit (Reg.BAR_VALID b)
  let s := plainWrite s (barOff b 0) v
  if !v.getLsbD 31 then s
  else
    let s := (s.setWord (barOff b 1) 0).setWord (barOff b 2) 0
    if was then s else syncWork s [.check b]

/-- A command to an object (R269, R270); one against its condition traps the plank core that wrote it. The second answer says
that it was refused. -/
def objCmdWrite (s : State) (w : Writer) (o i : Nat) (v : Word64) (insn : Nat) : State × Bool :=
  if i = 0 then (setLatch s w v, false)
  else
    match objCommand s w o v with
    | some t => (t, false)
    | none =>
      match w with
      | .plank q => (if coreActive s q then coreTrap s q 24 0x0B insn 0 else s, true)
      | .host _ _ => (s, true)

/-- The effect of a write that is not ignored. -/
def writeEffect (s : State) (w : Writer) (off : Nat) (v : Word64) (insn : Nat) : State × Bool :=
  match objCmdAt off, blockPlank off with
  | some (o, i), _ => objCmdWrite s w o i v insn
  | none, some p =>
    let o := (off - plankBase 0) % 0x10000
    if o = 0xE0 then psMapWrite s p v insn (writerSrc w) else (plankWrite s p o v, false)
  | none, none => (
    match stackAt off with
    | some (m, o) => stackWrite s m o v
    | none =>
      match linkAt off with
      | some (l, o) => linkWrite s l o off v
      | none =>
        if off = Reg.POWER_CAP_CAP_W.off then powerCapOp s v
        else if off = Reg.THR_COMPUTE_WARN.off then thrComputeOp s v
        else if barOff 0 0 ≤ off && off < barOff 1024 0 then
          (if (off - barOff 0 0) % 0x40 = 0 then barWrite s ((off - barOff 0 0) / 0x40) v else s)
        else plainWrite s off v, false)

/-- One write of a word. The second answer says that it was ignored, or as an object command refused. A write while RESET_N is low or the
module is Off is lost (Table 18-12). -/
def writeWord (s : State) (w : Writer) (off : Nat) (v : Word64) (insn : Nat) : State × Bool :=
  if modState s = 0 || modState s = 1 then (s, true) else
  let c := writeCause s off v
  if c ≠ 0 then (winErr s c (writerSrc w) off, true) else writeEffect s w off v insn

/-! ## REGISTER_WRITE, PEEK, POKE -/

/-- A write that is not aligned: counted, and a store access fault of the plank core that made it (R440). -/
def badStore (s : State) (w : Writer) (a : Nat) : State :=
  let s := winErr s 4 (writerSrc w) a
  match w with
  | .plank p => if coreActive s p then coreTrap s.drew p 7 0 (s.fresh.toNat % 2 ^ 32) a else s
  | .host _ _ => s

/-- REGISTER_WRITE (R441): one word at an 8 B-aligned offset of the window. The writer's instruction word is no operand of the
command: where it traps, TRAP_INFO.INSN takes a free value (assumption 5). -/
def execRegisterWrite (w : Writer) (off : BitVec 64) (v : Word64) (s : State) : Out :=
  .next (
    let a := off.toNat
    if !inWindow a then s
    else if a % 8 ≠ 0 then badStore s w a
    else (writeWord s.drew w a v (s.fresh.toNat % 2 ^ 32)).1)

/-- In Boot, Mire hold and Tripped, PEEK reaches only some blocks (R370, R400). -/
def peekWord (s : State) (off : Nat) : Word64 :=
  let st := modState s
  let near := decide (identBase ≤ off) && decide (off < sensorBase + 0x10000)
    || decide (peatBase ≤ off) && decide (off < peatBase + 0x500000)
  if (st = 2 || st = 8) && !near then 0 else readWord s off

/-- PEEK (R439, Table 15-4). -/
def execPeek (rq : Req) (off : BitVec 64) (len : BitVec 32) (s : State) : Out :=
  .next (answerVerb s rq { code := 0x10, inHold := true, inMire := true, inBoot := true, inTrip := true } (fun s =>
    let a := off.toNat
    let n := len.toNat
    if n < 8 || 4096 < n || n % 8 ≠ 0 || a % 8 ≠ 0 then (.malformed, s)
    else if !inWindow a || 2 ^ 44 < a + n then (.refused 1, s)
    else
      (.done ((List.range (n / 8)).flatMap (fun i => leBytes 8 (peekWord s (a + 8 * i)).toNat)), s)))

/-- The words of a POKE in ascending order: the state, and the index of the first word ignored. -/
def pokeWords (w : Writer) (insn : Nat) : List Word64 → Nat → Nat → State × Option Nat → State × Option Nat
  | [], _, _, x => x
  | v :: vs, off, i, x =>
    let r := writeWord x.1 w off v insn
    pokeWords w insn vs (off + 8) (i + 1) (r.1, if r.2 then some (x.2.getD i) else x.2)

/-- The words of a payload, least significant byte first. -/
def payloadWords (d : List Byte) : List Word64 := (List.range (d.length / 8)).map (fun i => BitVec.ofNat 64 (leAt d (8 * i) 8))

/-- POKE (R439, R444). -/
def execPoke (rq : Req) (off : BitVec 64) (data : List Byte) (s : State) : Out :=
  .next (answerVerb s rq { code := 0x11, inHold := true, operator := true } (fun s =>
    let a := off.toNat
    let n := data.length
    let die : HostDie := if rq.port.val < 4 then 0 else 1
    if n < 8 || n % 8 ≠ 0 || a % 8 ≠ 0 then (.malformed, s)
    else if !inWindow a || 2 ^ 44 < a + n then (.refused 1, s)
    else
      let r := pokeWords (.host (rq.session.getD 0) die) (s.fresh.toNat % 2 ^ 32) (payloadWords data) a 0 (s.drew, none)
      match r.2 with
      | some i => (.refused i, r.1)
      | none => (.done [], r.1)))

end Sys2Proof.Machine
end

