-- ==== Sys2Proof/Machine/Riscv.lean ====
section
/-!
DEFINITION. The base instructions of the plank core (R202): RV64IMC and Zifencei, the CSR words for the CSRs of the context
record (Table 8-10), and the standard traps of Table 8-11. The spec names the base by its standard; the encodings and results
are the standard's (assumption 32).
-/
namespace Sys2Proof.Machine

/-! ## Fields of a word -/

/-- Sign-extended immediates of a 32-bit word. -/
def immI (w : Nat) : Word64 := BitVec.ofInt 64 (signed (bits w 20 12) 12)
def immS (w : Nat) : Word64 := BitVec.ofInt 64 (signed (bits w 25 7 * 32 + bits w 7 5) 12)
def immB (w : Nat) : Word64 :=
  BitVec.ofInt 64 (signed (bits w 31 1 * 2 ^ 12 + bits w 7 1 * 2 ^ 11 + bits w 25 6 * 2 ^ 5 + bits w 8 4 * 2) 13)
def immU (w : Nat) : Word64 := BitVec.ofInt 64 (signed (bits w 12 20 * 2 ^ 12) 32)
def immJ (w : Nat) : Word64 :=
  BitVec.ofInt 64 (signed (bits w 31 1 * 2 ^ 20 + bits w 12 8 * 2 ^ 12 + bits w 20 1 * 2 ^ 11 + bits w 21 10 * 2) 21)

/-! ## The C extension: each 16-bit word stands for a 32-bit one -/

def encI (opc f3 rd rs1 imm : Nat) : Nat := opc + rd * 2 ^ 7 + f3 * 2 ^ 12 + rs1 * 2 ^ 15 + imm % 2 ^ 12 * 2 ^ 20
def encS (f3 rs1 rs2 imm : Nat) : Nat :=
  0x23 + bits imm 0 5 * 2 ^ 7 + f3 * 2 ^ 12 + rs1 * 2 ^ 15 + rs2 * 2 ^ 20 + bits imm 5 7 * 2 ^ 25
def encB (f3 rs1 imm : Nat) : Nat :=
  0x63 + bits imm 11 1 * 2 ^ 7 + bits imm 1 4 * 2 ^ 8 + f3 * 2 ^ 12 + rs1 * 2 ^ 15 + bits imm 5 6 * 2 ^ 25 + bits imm 12 1 * 2 ^ 31
def encJ (imm : Nat) : Nat :=
  0x6F + bits imm 12 8 * 2 ^ 12 + bits imm 11 1 * 2 ^ 20 + bits imm 1 10 * 2 ^ 21 + bits imm 20 1 * 2 ^ 31

/-- A field of n bits, sign-extended to 32 bits as a number. -/
def sext (v n : Nat) : Nat := unsign (signed v n) 32

/-- The 6-bit immediate of most forms. -/
def cImm6 (w : Nat) : Nat := bits w 12 1 * 32 + bits w 2 5

/-- Quadrant 0. -/
def expand0 (w : Nat) : Option Nat :=
  let lo := bits w 2 3 + 8
  let hi := bits w 7 3 + 8
  let word := bits w 10 3 * 8 + bits w 6 1 * 4 + bits w 5 1 * 64
  let dbl := bits w 10 3 * 8 + bits w 5 2 * 64
  match bits w 13 3 with
  | 0 =>
    let imm := bits w 11 2 * 16 + bits w 7 4 * 64 + bits w 6 1 * 4 + bits w 5 1 * 8
    if imm = 0 then none else some (encI 0x13 0 lo 2 imm)
  | 2 => some (encI 0x03 2 lo hi word)
  | 3 => some (encI 0x03 3 lo hi dbl)
  | 6 => some (encS 2 hi lo word)
  | 7 => some (encS 3 hi lo dbl)
  | _ => none

/-- The register-register and immediate forms of quadrant 1. -/
def expandAlu (w : Nat) : Option Nat :=
  let rd := bits w 7 3 + 8
  let rs2 := bits w 2 3 + 8
  match bits w 10 2 with
  | 0 => some (encI 0x13 5 rd rd (cImm6 w))
  | 1 => some (encI 0x13 5 rd rd (0x400 + cImm6 w))
  | 2 => some (encI 0x13 7 rd rd (sext (cImm6 w) 6))
  | _ =>
    match bits w 12 1, bits w 5 2 with
    | 0, 0 => some (rWord 0x33 0 0x20 rd rd rs2)
    | 0, 1 => some (rWord 0x33 4 0 rd rd rs2)
    | 0, 2 => some (rWord 0x33 6 0 rd rd rs2)
    | 0, 3 => some (rWord 0x33 7 0 rd rd rs2)
    | 1, 0 => some (rWord 0x3B 0 0x20 rd rd rs2)
    | 1, 1 => some (rWord 0x3B 0 0 rd rd rs2)
    | _, _ => none

/-- Quadrant 1. -/
def expand1 (w : Nat) : Option Nat :=
  let rd := bits w 7 5
  let imm := cImm6 w
  let bimm := bits w 12 1 * 256 + bits w 10 2 * 8 + bits w 5 2 * 64 + bits w 3 2 * 2 + bits w 2 1 * 32
  match bits w 13 3 with
  | 0 => some (encI 0x13 0 rd rd (sext imm 6))
  | 1 => if rd = 0 then none else some (encI 0x1B 0 rd rd (sext imm 6))
  | 2 => some (encI 0x13 0 rd 0 (sext imm 6))
  | 3 =>
    if imm = 0 then none
    else if rd = 2 then
      let v := bits w 12 1 * 512 + bits w 6 1 * 16 + bits w 5 1 * 64 + bits w 3 2 * 128 + bits w 2 1 * 32
      some (encI 0x13 0 2 2 (sext v 10))
    else some (0x37 + rd * 2 ^ 7 + sext imm 6 % 2 ^ 20 * 2 ^ 12)
  | 4 => expandAlu w
  | 5 =>
    let v := bits w 12 1 * 2048 + bits w 11 1 * 16 + bits w 9 2 * 256 + bits w 8 1 * 1024 + bits w 7 1 * 64 + bits w 6 1 * 128
      + bits w 3 3 * 2 + bits w 2 1 * 32
    some (encJ (sext v 12))
  | 6 => some (encB 0 (bits w 7 3 + 8) (sext bimm 9))
  | _ => some (encB 1 (bits w 7 3 + 8) (sext bimm 9))

/-- Quadrant 2. -/
def expand2 (w : Nat) : Option Nat :=
  let rd := bits w 7 5
  let rs2 := bits w 2 5
  match bits w 13 3 with
  | 0 => some (encI 0x13 1 rd rd (cImm6 w))
  | 2 => if rd = 0 then none else some (encI 0x03 2 rd 2 (bits w 12 1 * 32 + bits w 4 3 * 4 + bits w 2 2 * 64))
  | 3 => if rd = 0 then none else some (encI 0x03 3 rd 2 (bits w 12 1 * 32 + bits w 5 2 * 8 + bits w 2 3 * 64))
  | 4 =>
    if bits w 12 1 = 0 then
      if rs2 ≠ 0 then some (rWord 0x33 0 0 rd 0 rs2)
      else if rd = 0 then none
      else some (encI 0x67 0 0 rd 0)
    else if rs2 ≠ 0 then some (rWord 0x33 0 0 rd rd rs2)
    else if rd = 0 then some 0x00100073
    else some (encI 0x67 0 1 rd 0)
  | 6 => some (encS 2 2 rs2 (bits w 9 4 * 4 + bits w 7 2 * 64))
  | 7 => some (encS 3 2 rs2 (bits w 10 3 * 8 + bits w 7 3 * 64))
  | _ => none

/-- The 32-bit word that a 16-bit word stands for; none for a reserved word and for the floating-point forms. -/
def expandC (w : Nat) : Option Nat :=
  match bits w 0 2 with
  | 0 => expand0 w
  | 1 => expand1 w
  | _ => expand2 w

/-! ## Arithmetic -/

/-- OP and OP-IMM results by funct3 and funct7; none for a reserved pair. -/
def aluOp (f3 f7 : Nat) (a b : Word64) : Option Word64 :=
  let sh := b.toNat % 64
  match f7, f3 with
  | 0, 0 => some (a + b)
  | 0x20, 0 => some (a - b)
  | 0, 1 => some (a <<< sh)
  | 0, 2 => some (BitVec.ofNat 64 (boolNat (a.slt b)))
  | 0, 3 => some (BitVec.ofNat 64 (boolNat (a.ult b)))
  | 0, 4 => some (a ^^^ b)
  | 0, 5 => some (a >>> sh)
  | 0x20, 5 => some (a.sshiftRight sh)
  | 0, 6 => some (a ||| b)
  | 0, 7 => some (a &&& b)
  | 1, 0 => some (a * b)
  | 1, 1 => some (BitVec.ofInt 64 (a.toInt * b.toInt / 2 ^ 64))
  | 1, 2 => some (BitVec.ofInt 64 (a.toInt * b.toNat / 2 ^ 64))
  | 1, 3 => some (BitVec.ofNat 64 (a.toNat * b.toNat / 2 ^ 64))
  | 1, 4 => some (if b = 0 then BitVec.allOnes 64 else a.sdiv b)
  | 1, 5 => some (if b = 0 then BitVec.allOnes 64 else a / b)
  | 1, 6 => some (if b = 0 then a else a.srem b)
  | 1, 7 => some (if b = 0 then a else a % b)
  | _, _ => none

/-- OP-32 and OP-IMM-32 results on the low words, before sign extension. -/
def aluOp32 (f3 f7 : Nat) (a b : BitVec 32) : Option (BitVec 32) :=
  let sh := b.toNat % 32
  match f7, f3 with
  | 0, 0 => some (a + b)
  | 0x20, 0 => some (a - b)
  | 0, 1 => some (a <<< sh)
  | 0, 5 => some (a >>> sh)
  | 0x20, 5 => some (a.sshiftRight sh)
  | 1, 0 => some (a * b)
  | 1, 4 => some (if b = 0 then BitVec.allOnes 32 else a.sdiv b)
  | 1, 5 => some (if b = 0 then BitVec.allOnes 32 else a / b)
  | 1, 6 => some (if b = 0 then a else a.srem b)
  | 1, 7 => some (if b = 0 then a else a % b)
  | _, _ => none

def aluOpW (f3 f7 : Nat) (a b : Word64) : Option Word64 :=
  (aluOp32 f3 f7 (a.truncate 32) (b.truncate 32)).map (BitVec.signExtend 64)

/-- The result of an instruction that only computes; none where the word is not one. -/
def aluWord (w : Nat) (a b : Word64) : Option Word64 :=
  let f3 := bits w 12 3
  let f7 := bits w 25 7
  match bits w 0 7 with
  | 0x33 => aluOp f3 f7 a b
  | 0x3B => aluOpW f3 f7 a b
  | 0x13 =>
    if f3 = 1 then (if f7 / 2 = 0 then aluOp 1 0 a (BitVec.ofNat 64 (bits w 20 6)) else none)
    else if f3 = 5 then
      (if f7 / 2 = 0 || f7 / 2 = 0x10 then aluOp 5 (f7 / 2 * 2) a (BitVec.ofNat 64 (bits w 20 6)) else none)
    else aluOp f3 0 a (immI w)
  | 0x1B =>
    if f3 = 0 then aluOpW 0 0 a (immI w)
    else if (f3 = 1 && f7 = 0) || (f3 = 5 && (f7 = 0 || f7 = 0x20)) then aluOpW f3 f7 a (BitVec.ofNat 64 (bits w 20 5))
    else none
  | _ => none

/-- A branch is taken; none for a reserved funct3. -/
def branchTaken (f3 : Nat) (a b : Word64) : Option Bool :=
  match f3 with
  | 0 => some (a == b)
  | 1 => some (a != b)
  | 4 => some (a.slt b)
  | 5 => some (!a.slt b)
  | 6 => some (a.ult b)
  | 7 => some (!a.ult b)
  | _ => none

/-! ## Loads and stores (R202, R440) -/

/-- Where a core address leads. -/
inductive CorePlace where
  | imem (o : Nat)
  | dmem (o : Nat)
  | window
  | store (o : Nat)
  | nowhere
deriving DecidableEq, Repr

/-- The place of an access of n bytes; the access is aligned and so lies in one place. -/
def corePlace (p addr : Nat) : CorePlace :=
  if imemBase ≤ addr && addr < imemBase + 0x10000 then .imem (addr - imemBase)
  else if dmemBase ≤ addr && addr < dmemBase + 0x10000 then .dmem (addr - dmemBase)
  else if inWindow addr then .window
  else if storeBase p ≤ addr && addr < storeBase p + 0x1000000 then .store (addr - storeBase p)
  else .nowhere

/-- What the core does next: go on at a pc, or trap with a cause, a sub-code and an mtval; `stays` where the access itself has
changed the core. -/
inductive CoreNext where
  | goes (s : State) (pc : Nat)
  | traps (s : State) (cause sub tval : Nat)
  | stays (s : State)
deriving Repr

/-- A load of n bytes: the state, and the number read or a trap (R202, R232, R440). -/
def coreLoad (s : State) (p n addr : Nat) (ecc : CoreEcc) : State × (Nat × Nat ⊕ Nat) :=
  if addr % n ≠ 0 then (s, .inl (4, 0))
  else match corePlace p addr with
    | .imem o => (s, .inr (leNat (kgets noByte (s.plank p).imem o n)))
    | .dmem o => if ecc = .dmem then (s, .inl (27, 2)) else (s, .inr (leNat (kgets noByte (s.plank p).dmem o n)))
    | .window =>
      (s, .inr (leNat (readWindow s addr n)))
    | .store o =>
      match badBank s p [ownCore] o n with
      | some b => (bankRefused s p b, .inl (26, 1))
      | none =>
        let bad := storeErrs s p ecc [(o, n)]
        let s := eccCounts s p ecc bad
        if bad ≠ 0 then (s, .inl (27, 3)) else (s, .inr (s.le addr n))
    | .nowhere => (s, .inl (5, 0))

/-- Sign or zero extension of what a load reads. -/
def loadExtend (f3 v : Nat) : Word64 :=
  if f3 < 3 then BitVec.ofInt 64 (signed v (8 * 2 ^ f3)) else BitVec.ofNat 64 v

/-- An 8 B store to the window. A store that traps the core, or that resets it, leaves its pc where that put it. -/
def coreWindowStore (s : State) (p : PlankId) (addr : Nat) (v : Word64) (insn pc : Nat) : CoreNext :=
  let t := (writeWord s.drew (.plank p) addr v insn).1
  if !coreActive t p || (addr == (Reg.CORE_CTL_RESET p).off && v.getLsbD 1) then .stays t else .goes t pc

/-- A store of n bytes (R202, R440). -/
def coreStore (s : State) (p : PlankId) (n addr : Nat) (v : Word64) (insn pc : Nat) : CoreNext :=
  let bs := leBytes n v.toNat
  if inWindow addr && (n ≠ 8 || addr % 8 ≠ 0) then .traps (winErr s 4 p.val addr) 7 0 addr
  else if addr % n ≠ 0 then .traps s 6 0 addr
  else match corePlace p addr with
    | .imem o => .goes (s.modPlank p (fun k => { k with imem := kputs noByte k.imem o bs })) pc
    | .dmem o => .goes (s.modPlank p (fun k => { k with dmem := kputs noByte k.dmem o bs })) pc
    | .window => coreWindowStore s p addr v insn pc
    | .store o =>
      match badBank s p [ownCore] o n with
      | some b => .traps (bankRefused s p b) 26 1 addr
      | none => .goes (s.store addr bs) pc
    | .nowhere => .traps s 7 0 addr

/-! ## System words -/

/-- The CSRs of Table 8-10, by number. -/
def csrIndex (n : Nat) : Option Nat :=
  match n with
  | 0x300 => some Csr.mstatus
  | 0x341 => some Csr.mepc
  | 0x342 => some Csr.mcause
  | 0x343 => some Csr.mtval
  | 0x340 => some Csr.mscratch
  | 0x304 => some Csr.mie
  | 0x305 => some Csr.mtvec
  | _ => none

/-- A write of a CSR: bit 0 of mepc is always zero. -/
def csrWrite (s : State) (p c : Nat) (v : Word64) : State :=
  s.setCsr p c (if c = Csr.mepc then v &&& ~~~1 else v)

/-- A CSR word: csrrw, csrrs, csrrc and their immediate forms. -/
def coreCsr (s : State) (p : Nat) (w pc : Nat) : Option CoreNext :=
  let f3 := bits w 12 3
  let r := bits w 15 5
  match csrIndex (bits w 20 12) with
  | none => none
  | some c =>
    let old := s.csr p c
    let src := if f3 < 4 then s.xreg p r else BitVec.ofNat 64 r
    let t :=
      if f3 % 4 = 1 then csrWrite s p c src
      else if r = 0 then s
      else if f3 % 4 = 2 then csrWrite s p c (old ||| src)
      else csrWrite s p c (old &&& ~~~src)
    if f3 % 4 = 0 then none else some (.goes (t.setX p (bits w 7 5) old) pc)

/-- mret: MIE takes MPIE, MPIE becomes 1, and the core goes on at mepc. -/
def coreMret (s : State) (p : Nat) : CoreNext :=
  let st := s.csr p Csr.mstatus
  let st := fset (fset st (3, 3) (fget st (7, 7))) (7, 7) 1
  .goes (s.setCsr p Csr.mstatus st) (s.csr p Csr.mepc).toNat

/-- SYSTEM words; none for one that is illegal. -/
def coreSystem (s : State) (p w pc next : Nat) : Option CoreNext :=
  if w = 0x00000073 then some (.traps s 11 0 0)
  else if w = 0x00100073 then some (.traps s 3 0 pc)
  else if w = 0x30200073 then some (coreMret s p)
  else if w = 0x10500073 then some (.goes s next)
  else if bits w 12 3 = 0 then none
  else coreCsr s p w next

/-! ## One instruction -/

/-- The custom words of Table 8-8: opcode, funct3 and funct7 (R203). -/
def customWord (w : Nat) : Bool :=
  let k := (bits w 12 3, bits w 25 7)
  if bits w 0 7 = custom0 then
    [(0, 0), (1, 0), (2, 0), (2, 1), (3, 0), (4, 0), (4, 1), (4, 2), (4, 3), (4, 4)].contains k
  else [(0, 0), (0, 1), (1, 0), (2, 0), (2, 1), (2, 2), (3, 0), (3, 1), (3, 2), (4, 0)].contains k

/-- A word that is neither a load, a store nor a SYSTEM word; none for one that is illegal. -/
def coreCompute (s : State) (p w pc next : Nat) : Option CoreNext :=
  let a := s.xreg p (bits w 15 5)
  let b := s.xreg p (bits w 20 5)
  let rd := bits w 7 5
  let here := BitVec.ofNat 64 pc
  let link := BitVec.ofNat 64 next
  match bits w 0 7 with
  | 0x37 => some (.goes (s.setX p rd (immU w)) next)
  | 0x17 => some (.goes (s.setX p rd (here + immU w)) next)
  | 0x6F => some (.goes (s.setX p rd link) (here + immJ w).toNat)
  | 0x67 => if bits w 12 3 = 0 then some (.goes (s.setX p rd link) ((a + immI w) &&& ~~~1).toNat) else none
  | 0x63 => (branchTaken (bits w 12 3) a b).map (fun t => .goes s (if t then (here + immB w).toNat else next))
  | 0x0F => if bits w 12 3 < 2 then some (.goes s next) else none
  | _ => (aluWord w a b).map (fun v => .goes (s.setX p rd v) next)

/-- Execute a 32-bit word that stands at pc and ends at `next`; `insn` is the word as fetched. -/
def coreExecute (s : State) (p : PlankId) (w pc next insn : Nat) (ecc : CoreEcc) : CoreNext :=
  let a := s.xreg p (bits w 15 5)
  let f3 := bits w 12 3
  let illegal := CoreNext.traps s 2 0 insn
  match bits w 0 7 with
  | 0x03 =>
    if f3 = 7 then illegal
    else
      let addr := (a + immI w).toNat
      match coreLoad s p (2 ^ (f3 % 4)) addr ecc with
      | (t, .inl (c, sub)) => .traps t c sub addr
      | (t, .inr v) => .goes (t.setX p (bits w 7 5) (loadExtend f3 v)) next
  | 0x23 =>
    if 3 < f3 then illegal
    else coreStore s p (2 ^ f3) (a + immS w).toNat (s.xreg p (bits w 20 5)) insn next
  | 0x73 => (coreSystem s p w pc next).getD illegal
  | _ => (coreCompute s p w pc next).getD illegal

/-- The 16 bits of the instruction memory at a pc. -/
def fetchHalf (s : State) (p pc : Nat) : Nat := leNat (kgets noByte (s.plank p).imem (pc - imemBase) 2)
/-- A pc whose n bytes lie in the instruction memory. -/
def fetchable (pc n : Nat) : Bool := decide (imemBase ≤ pc) && decide (pc + n ≤ imemBase + 0x10000)

/-- Fetch and execute the instruction at the pc. -/
def coreFetch (s : State) (p : PlankId) (ecc : CoreEcc) : CoreNext × Nat :=
  let pc := s.pc p
  if pc % 2 ≠ 0 then (.traps s 0 0 pc, 0)
  else if !fetchable pc 2 then (.traps s 1 0 pc, 0)
  else if ecc = .imem then (.traps s 27 1 pc, 0)
  else
    let lo := fetchHalf s p pc
    if lo % 4 ≠ 3 then
      match expandC lo with
      | none => (.traps s 2 0 lo, lo)
      | some w => (coreExecute s p w pc (pc + 2) lo ecc, lo)
    else if !fetchable pc 4 then (.traps s 1 0 (pc + 2), 0)
    else
      let w := lo + fetchHalf s p (pc + 2) * 2 ^ 16
      if bits w 0 7 = custom0 || bits w 0 7 = custom1 then
        (if customWord w then .stays s else .traps s 24 1 0, w)
      else (coreExecute s p w pc (pc + 4) w ecc, w)

/-- CORE_BASE_INSTRUCTION (R202). A word of Table 8-8 at the pc is not a base instruction: its own command executes it. -/
def execCoreBaseInstruction (p : PlankId) (ecc : CoreEcc) (s : State) : Out :=
  .next (
    if !coreReady s p then s
    else
      let r := coreFetch s p ecc
      match r.1 with
      | .goes t pc => setCore (t.setPc p pc) p CoreSt.running |>.modPlank p (fun k => { k with held := none })
      | .traps t c sub tval => coreTrap t p c sub r.2 tval
      | .stays t => t)

end Sys2Proof.Machine
end

