-- ==== Sys2Proof/Machine/Slots.lean ====
section
/-!
DEFINITION. The slots of a pseudo-channel (R215, R217): what the slot's owner is served.
-/
namespace Sys2Proof.Machine

/-- Write the sector of a request, which drops a queued rewrite of it (R235). A bit of the update bitmap is set in the sector read before
it, whose poison stays (R176, R220). -/
def serveWrite (s : State) (m c : Nat) (q : HbmReq) : State :=
  let x := getPc s m c
  let s := setPcState s m c { x with rewrite := x.rewrite.filter (· != q.off) }
  match q.who with
  | .mask a b => s.storeKeep a [s.byte a ||| BitVec.ofNat 8 (2 ^ b)]
  | _ => putLine s q.off q.line

/-- Serve one request: the sector moves, and its transfer, packet or record hears of it. A load record that may not be written is
dropped instead (R388). -/
def serveReq (s : State) (m c : Nat) (q : HbmReq) (e : Ecc) : State :=
  if q.write then
    match q.who with
    | .xfer n => xferDone (serveWrite s m c q) n 1 0
    | .serve n => servePart (serveWrite s m c q) n q.place none
    | .host n => hostPart (if hostWrites s n then serveWrite s m c q else loadWithdraws s n) n q.place none
    | .mask _ _ => serveWrite s m c q
  else
    let r := readSector s m c q.off e
    match q.who with
    | .xfer n => xferLine r.2 n q.place r.1
    | .serve n => servePart r.2 n q.place (some r.1)
    | .host n => hostPart r.2 n q.place (some r.1)
    | .mask _ _ => r.2

/-- A slot serves the oldest request of its owner. -/
def slotTakes (s : State) (m c owner : Nat) (q : HbmReq) (rest : List HbmReq) (ecc : Ecc) : State :=
  let x := getPc s m c
  let bank := hbmBank q.off
  let row := hbmRow q.off
  let opens := (x.rows.find? (fun e => e.1 == bank)).map (·.2) != some row
  let y := slotPasses x
  let y := { y with
    queues := kput (fun _ => []) y.queues owner rest
    rows := if opens then (bank, row) :: y.rows.filter (fun e => e.1 != bank) else y.rows
    sinceAct := if opens then 1 else y.sinceAct
    lastWrite := some q.write
    turned := y.turned.filter (· != owner) }
  serveReq (setPcState s m c y) m c q ecc

/-- SLOT_SERVE (R217): the slot's owner has its head request served, or the slot stays idle: in the calibration slice, on an
empty queue, on a bank under refresh, within the activation limit, and once for a head that reverses the direction. -/
def execSlotServe (m : StackId) (c : PcId) (ecc : Ecc) (s : State) : Out :=
  .next (
    if !stackServes s m then s else
    let x := getPc s m c
    let owner := shareOwner s m c (x.slot % 200)
    let queue := kget (fun _ => []) x.queues owner
    let idle := setPcState s m c (slotPasses x)
    if inSlice x c then idle else
    match queue with
    | [] => idle
    | q :: rest =>
      let bank := hbmBank q.off
      let row := hbmRow q.off
      let opens := (x.rows.find? (fun e => e.1 == bank)).map (·.2) != some row
      let turns := match x.lastWrite with
        | some w => w != q.write
        | none => false
      let first := turns && !x.turned.contains owner
      if x.refresh.any (fun e => e.1 == bank) || opens && decide (x.sinceAct < 3) || first then
        setPcState s m c { slotPasses x with turned := if first then owner :: x.turned else x.turned }
      else slotTakes s m c owner q rest ecc)

end Sys2Proof.Machine
end

