-- ==== Sys2Proof/Machine/Nap.lean ====
section
/-!
DEFINITION. The nap refresh of stage U4 (R121, R122): the factors U and V of D = W_master − Ŵ, by iterations of a product, a
Cholesky orthonormalisation and a product with the transpose. The manual fixes the steps and leaves the order of a product's sum
open (`Config.napOrder`); a matrix is a list of its rows or of its columns, as its definition says.
-/
namespace Sys2Proof.Machine

/-- Add up partial sums two at a time, in an order of the hardware's own: a sum of n terms, in at most `fuel` additions. -/
def napSum (n : Nat) : Nat → List F32 → F32
  | _, [] => 0
  | _, [x] => x
  | 0, x :: _ => x
  | fuel + 1, xs =>
    let k := Config.napOrder n xs.length
    let i := k.1 % xs.length
    let rest := xs.eraseIdx i
    let j := k.2 % rest.length
    napSum n fuel (addR (xs.getD i 0) (rest.getD j 0) :: rest.eraseIdx j)

/-- Sum of products of two lists of FP32 values in binary32 with RNE (R122): each product and each sum is rounded, in an order of sums that the
manual leaves open (assumption 81). -/
def napDot (xs ys : List F32) : F32 :=
  let ps := (xs.zip ys).map (fun x => mulR x.1 x.2)
  napSum ps.length ps.length ps

/-- Rank of a NAP_RANK code (Table 5-6). -/
def napRank (code : Nat) : Nat := 8 * 2 ^ (code - 1)

/-- The laddered tensor on rung 3 that names a weight: the weight has factors as long as there is one (R121, R129). -/
def napTensor (s : State) (j : Job) (tid : Nat) : Option Nat :=
  (List.range j.lists.tensors).find? (fun t =>
    let l := jobLadder s j t
    fget l Lad.LADDER_EN == 1 && fget l Lad.RUNG == 3 && fget l Lad.NAP_TID == tid)

/-- Rank r of a weight's factors. -/
def weightRank (s : State) (j : Job) (tid : Nat) : Nat :=
  match napTensor s j tid with
  | some t => napRank (fget (jobLadder s j t) Lad.NAP_RANK)
  | none => 0

/-- Columns of D: the master's values less those of the forward copy rebuilt under R59, channel scales included, rounded to FP32. -/
def napColumns (s : State) (j : Job) (n : NapPlan) : List (List F32) :=
  let r := jobTensor s j n.tid.toNat
  let f := (Fmt.ofCode (fget r Ten.FMT)).getD .fp4
  let e := tensorE r
  let nb := blocksOf n.rows
  let words := if f == .sw8 then tensorWords s n.plank n.tid.toNat else 1
  (List.range n.cols).map (fun c =>
    let scale := if fget r Ten.CSMODE = 0 then Val.dy false 1 0 else f32 (BitVec.ofNat 32 (s.le (n.scales + 4 * c) 4))
    (List.range n.rows).map (fun k =>
      let planes := (List.range words).map (fun w =>
        codeFrom s f (n.codes + w * planeSize n.cols n.rows + (c * nb + k / 16) * f.blockBytes) (k % 16))
      let w := elemReal (elemValue f planes) e (shiftFrom s (n.shifts + c * linesOf n.rows * 32) (k / 16)) scale none
      subR (bf16F (s.le (n.master + 2 * (c * n.rows + k)) 2)) (toF32 .rne w)))

/-- Column i of a matrix given by its rows. -/
def colOf (i : Nat) (rows : List (List F32)) : List F32 := rows.map (fun r => r.getD i 0)

/-- Columns of P = D × V, from the columns of D and the rows of V. -/
def napProduct (d : List (List F32)) (v : List (List F32)) (rows rank : Nat) : List (List F32) :=
  (List.range rank).map (fun i => (List.range rows).map (fun k => napDot (colOf k d) (colOf i v)))

/-- The Gram matrix of columns. -/
def gramOf (ps : List (List F32)) : List (List F32) := ps.map (fun a => ps.map (fun b => napDot a b))

/-- Entrywise sum of two matrices. -/
def matAdd (a b : List (List F32)) : List (List F32) := (a.zip b).map (fun r => (r.1.zip r.2).map (fun x => addR x.1 x.2))

/-- One more column of a Cholesky orthonormalisation: row j of the triangular factor and column j of U, from those before it. -/
def cholStep (g : List (List F32)) (done : List (List F32 × List F32)) (p : List F32) : List (List F32 × List F32) :=
  let j := done.length
  let less (x : F32) (i : Nat) : F32 := done.foldl (fun x r => subR x (mulR (r.1.getD j 0) (r.1.getD i 0))) x
  let d := sqrtF .rne (less ((g.getD j []).getD j 0) j)
  let row := (List.range g.length).map (fun i => if i < j then 0 else if i = j then d else divR (less ((g.getD j []).getD i 0) i) d)
  let u := p.zipIdx.map (fun x => divR (done.foldl (fun y r => subR y (mulR (r.1.getD j 0) (r.2.getD x.2 0))) x.1) d)
  done ++ [(row, u)]

/-- Columns of U: the columns of P made orthonormal, in ascending order, under their Gram matrix. -/
def cholesky (g : List (List F32)) (ps : List (List F32)) : List (List F32) := (ps.foldl (cholStep g) []).map (·.2)

/-- Round to BF16 with RNE. -/
def bf16Round (x : F32) : F32 := bf16F (convert .bf16 false .rne (f32 x)).code

/-- One iteration (R122): the columns of U and the rows of V, rounded to BF16. Gram matrices and parts of V of the shard group are
folded in the order of R160. -/
def napIterate (chip : Nat) (d : List (List F32)) (rows rank : Nat) (v : List (List F32)) (shares : List NapShare) :
    List (List F32) × List (List F32) :=
  let ps := napProduct d v rows rank
  let g := treeFoldUp matAdd [] ((chip, gramOf ps) :: shares.map (fun x => (x.chip.toNat, x.gram)))
  let us := cholesky g ps
  let mine := d.map (fun c => us.map (napDot c))
  let vs := treeFoldUp matAdd [] ((chip, mine) :: shares.map (fun x => (x.chip.toNat, x.v)))
  (us.map (·.map bf16Round), vs.map (·.map bf16Round))

/-- Iterations one after the other, each from the V of the one before. -/
def napIterations (chip : Nat) (d : List (List F32)) (rows rank : Nat) :
    List (List NapShare) → List (List F32) × List (List F32) → List (List F32) × List (List F32)
  | [], x => x
  | sh :: rest, x => napIterations chip d rows rank rest (napIterate chip d rows rank x.2 sh)

/-- V_old at the first of four iterations: ±1 by bit 127 of lanegen (R122). -/
def napSigns (s : State) (j : Job) (tid cols rank : Nat) : List (List F32) :=
  (List.range cols).map (fun c => (List.range rank).map (fun i =>
    if (laneGen (fget j.man Man.SEED) j.step tid (2 ^ 40 + c * 64 + i)).getLsbD 127 then negF one32 else one32))

/-- V as its buffer holds it in BF16. -/
def napStored (s : State) (b : NapBuf) (cols rank : Nat) : List (List F32) :=
  (List.range cols).map (fun c => (List.range rank).map (fun i => bf16F (s.le (b.bf16 + 2 * (c * rank + i)) 2)))

/-- Write channels of one factor into a buffer (R121, R122): its BF16 values, and its SW8 planes by a split convert of the plank's
vector engine under the factor's own scaling record. -/
def napWrite (s : State) (p : Nat) (b : NapBuf) (chans : List (List F32)) : State :=
  let len := (chans.headD []).length
  let tid := b.tid.toNat
  let w : Word64 := fset (fset (fset 0 Vec.OPC 0x40) Vec.FMT_D 8) Vec.FMT_S 5
  let d : BitVec 512 := fset (fset (fset (fset 0 SDesc.TID_D tid) SDesc.CHANNELS chans.length) SDesc.CH_LEN len) SDesc.CH_STRIDE len
  let o : StreamOp := ⟨w, d⟩
  let outs := chans.zipIdx.map (fun c => convChannel s p o false c.2 (c.1.map f32))
  let s := hbmStore s b.bf16 (chans.flatMap (·.flatMap (fun x => leBytes 2 (x.toNat / 2 ^ 16))))
  let s := outs.zipIdx.foldl (fun s r => putChannel s .sw8 2 chans.length len (fget (tensorRec s p tid) Ten.CSMODE) false
    b.codes b.shifts b.scales r.2 r.1) s
  addStats s p tid (outs.foldl (fun t r => t.add r.tally) Tally.zero).record

/-- The engine reads what a refresh takes from HBM (R219): masters, forward copy, shifts, scales, and V of the step before. -/
def napReads (s : State) (j : Job) (n : NapPlan) : State :=
  let r := jobTensor s j n.tid.toNat
  let f := (Fmt.ofCode (fget r Ten.FMT)).getD .fp4
  let words := if f == .sw8 then tensorWords s n.plank n.tid.toNat else 1
  let rank := weightRank s j n.tid.toNat
  [(n.master, 2 * n.cols * n.rows), (n.codes, codeBytes f words n.cols n.rows), (n.shifts, shiftBytes n.cols n.rows),
   (n.scales, 4 * n.cols), (n.v.1.bf16, 2 * n.cols * rank), (n.v.2.bf16, 2 * n.cols * rank)].foldl (fun s x => hbmNote s x.1 x.2) s

/-- Refresh one weight's factors into the buffers that do not hold them, which then become the factors (R122). A weight that enters
rung 3 takes four iterations from the signs, another one takes one from its V. -/
def napRefresh (s : State) (id : Nat) (n : NapPlan) : State :=
  match findJob s id with
  | none => s
  | some j =>
    let tid := n.tid.toNat
    let rank := weightRank s j tid
    let second := (j.naps.find? (fun x => x.1 == tid)).any (·.2)
    let fresh := j.napDue.contains tid || !j.naps.any (fun x => x.1 == tid)
    let v := if fresh then napSigns s j tid n.cols rank else napStored s (if second then n.v.2 else n.v.1) n.cols rank
    let count := if fresh then 4 else 1
    let s := napReads s j n
    let x := napIterations (chipNo s) (napColumns s j n) n.rows rank
      ((List.range count).map (fun i => n.shares.getD i [])) ([], v)
    let s := napWrite s n.plank (if second then n.u.1 else n.u.2) x.1
    let s := napWrite s n.plank (if second then n.v.1 else n.v.2) x.2
    modJob s id (fun j => { j with naps := (tid, !second) :: j.naps.filter (fun x => x.1 != tid) })

end Sys2Proof.Machine
end

