-- ==== Sys2Proof/Machine/Update.lean ====
section
/-!
DEFINITION. The stages of Update (R122, R172 to R182) and the evaluation points of a stepless program (R66, R131, R448).
-/
namespace Sys2Proof.Machine

/-! ## The stages -/

/-- Laddered tensors with a trigger at MAX_RUNG in the committed step (R128). -/
def topTriggers (s : State) (j : Job) : List Nat :=
  (List.range j.lists.tensors).filter (fun t =>
    let l := jobLadder s j t
    fget l Lad.LADDER_EN == 1 && fget l Lad.PEND_RUNG == fget l Lad.RUNG && fget l Lad.MARKED == 1
      && fget l Lad.RUNG == fget l Lad.MAX_RUNG)

/-- Event 0x0211 of a laddered tensor (Table 14-12). -/
def ladderEvent (s : State) (j : Job) (step tid : Nat) : State :=
  let l := jobLadder s j tid
  let x : BitVec 512 := 0
  let x := fset x (15, 0) tid
  let x := fset x (18, 16) (fget l Lad.RUNG)
  fileEvent s 1 0x0211 9 j.id.toNat step (fset x (63, 32) (fget l Lad.TRIGGERS))

/-- A checkpoint stream still writes the records of the step before (R388): it has neither ended nor failed. -/
def ckptBusy (s : State) (j : Job) : Bool :=
  match j.ckpt with
  | some (n, true) => [St.queued, St.running, St.suspending, St.suspended, St.cancelling].contains (streamState s n)
  | _ => false

/-- Copy the staged records from the staging area to their places (R172). Poison follows the data (R220). -/
def copyStaged (s : State) (j : Job) : State :=
  ((stagedAt (fget j.man Man.STAGING) (j.staged.map (·.2))).zip j.staged).foldl
    (fun s w =>
      let t := hbmStore (hbmNote s w.1 w.2.2) w.2.1 (s.bytes w.1 w.2.2)
      if s.poisoned w.1 w.2.2 then t.addPoison w.2.1 w.2.2 else t) s

/-- Factors that no tensor on rung 3 names any more are released (R129). -/
def releaseNaps (s : State) (id : Nat) : State :=
  match findJob s id with
  | some j => modJob s id (fun k => { k with naps := k.naps.filter (fun n => (napTensor s j n.1).isSome) })
  | none => s

/-- Stage U1: the staged words are written, the block bitmap clears and the ladder events are filed. -/
def stageU1 (s : State) (j : Job) (refetched : List Sys2Proof.Region) : State :=
  let top := topTriggers s j
  let s := copyStaged s j
  let s := hbmStore s j.lists.bitmap (List.replicate ((j.lists.blocks.length + 7) / 8) 0)
  let s := if !j.refetch then s else
    peatRecord (refetched.foldl (fun s r => hbmStore s r.off r.data) s) 12 5 (chipNo s) { step := j.step }
  let s := releaseNaps (top.foldl (fun s t => ladderEvent s j j.step t) s) j.id.toNat
  setStep s j.id.toNat (fun j => { j with
    stage := 1
    staged := []
    refetch := false
    ckpt := if (j.ckpt.map (·.2)) == some true then none else j.ckpt })

/-- UPDATE_STAGE_U1 (R172, R176, R318, R388): the staged records, the bitmap, and what a re-fetch brings. -/
def execUpdateStageU1 (job : BitVec 16) (refetched : List Sys2Proof.Region) (s : State) : Out :=
  .next (match findJob s job.toNat with
    | none => s
    | some j =>
      if j.phase ≠ 6 || j.stage ≠ 0 || ckptBusy s j then s else
      stageU1 s j refetched)

/-- Event 0x0210 of a tensor with elements left unchanged (R175, Table 14-12). -/
def nonfinEvent (s : State) (j : Job) (e : Nat × Nat) : State :=
  fileEvent s 1 0x0210 9 j.id.toNat j.step (fset (fset (0 : BitVec 512) (15, 0) e.1) (47, 16) e.2)

/-- Stage U2 ends: non-finite updates are reported, pending masks act, the next step's flags are formed. -/
def stageU2 (s : State) (j : Job) : State :=
  let id := j.id.toNat
  let s := setStep s id (fun j => { j with stage := 2 })
  let s := j.updNonfin.foldl (fun s e => nonfinEvent s j e) s
  let s := ((jobPlanks s id).filter (fun p => (s.plank p).maskPending)).foldl maskPlank s
  formNext s id

/-- UPDATE_STAGE_U2 (R174 to R177): ends when every update block of the member has its bit. Masks that waited take effect, and
what follows belongs to the next step (R178). -/
def execUpdateStageU2 (job : BitVec 16) (s : State) : Out :=
  .next (match findJob s job.toNat with
    | none => s
    | some j =>
      if j.phase ≠ 6 || j.stage ≠ 1 || !(List.range 160).all (blocksDone s j) then s else
      stageU2 s j)

/-- A step ends (R155, R184, R341): PHASE 0, the energy record, the next step number, cancels and suspends that waited. -/
def endStep (s : State) (id stage : Nat) : State :=
  let s := setStep s id (fun j => { j with
    phase := 0
    stage := stage })
  match findJob s id with
  | none => s
  | some j =>
    let s := energyEnd s id none j.attempt j.verdict
    let s := modJob s id (fun j => { j with
      step := (j.step + 1) % 2 ^ 64
      attempt := 0
      updNonfin := []
      cancelDue := [] })
    let s := j.cancelDue.foldl cancelNow s
    match findJob s id with
    | some j => boundarySuspends s j
    | none => s

/-- UPDATE_STAGE_U3 (R178, R179): the forward copies are made. After a Void step this ends the step. -/
def execUpdateStageU3 (job : BitVec 16) (s : State) : Out :=
  .next (match findJob s job.toNat with
    | none => s
    | some j =>
      if j.phase = 6 && j.stage = 2 then setStep s j.id.toNat (fun j => { j with stage := 3 })
      else if j.phase = 5 && j.final && j.verdict = Vd.void then endStep s j.id.toNat j.stage
      else s)

/-- Weights that the member updates and whose factors a refresh is due for: a laddered tensor on rung 3 names them (R121, R122). -/
def napTids (s : State) (j : Job) : List Nat := (updatedTids j).filter (fun t => (napTensor s j t).isSome)

/-- Stage U4: the naps are refreshed. -/
def stageU4 (s : State) (j : Job) (plans : List NapPlan) : State :=
  setStep (plans.foldl (fun s n => if (napTensor s j n.tid.toNat).isSome then napRefresh s j.id.toNat n else s) s) j.id.toNat (fun j => { j with
    stage := 4
    napDue := [] })

/-- UPDATE_STAGE_U4 (R122): every weight on rung 3 that the member updated has its plan. -/
def execUpdateStageU4 (job : BitVec 16) (plans : List NapPlan) (s : State) : Out :=
  .next (match findJob s job.toNat with
    | none => s
    | some j =>
      if j.phase ≠ 6 || j.stage ≠ 3 || !(napTids s j).all (fun t => plans.any (fun n => n.tid.toNat == t)) then s else
      stageU4 s j plans)

/-- The sum of two telemetry entries: FP32 sums, and fingerprint words modulo 2^32 (R180, R181). -/
def telemSum (a b : BitVec 256) : BitVec 256 :=
  let f (hi lo : Nat) (x : BitVec 256) : F32 := BitVec.ofNat 32 (fld x hi lo)
  let x := setFld a 31 0 (addR (f 31 0 a) (f 31 0 b)).toNat
  let x := setFld x 63 32 (addR (f 63 32 a) (f 63 32 b)).toNat
  let x := setFld x 95 64 (addR (f 95 64 a) (f 95 64 b)).toNat
  (List.range 4).foldl (fun x i => setFld x (159 + 32 * i) (128 + 32 * i) (fld a (159 + 32 * i) (128 + 32 * i)
    + fld b (159 + 32 * i) (128 + 32 * i))) x

/-- One tensor's entry of the telemetry table (Table 7-11): the planks' running entries, ascending. -/
def telemWrite (s : State) (j : Job) (t : TelemPart) : State :=
  let x := foldFirst telemSum 0 (t.running.map (fun o => s.recAt o 256))
  hbmStoreRec (t.running.foldl (fun s o => hbmNote s o 32) s) (fget j.man Man.TELEM + 32 * t.tid.toNat) (setFld x 127 96 j.step)

/-- Stage U5: telemetry is written and the step ends. -/
def stageU5 (s : State) (j : Job) (tids : List TelemPart) : State :=
  endStep (tids.foldl (fun s t => telemWrite s j t) s) j.id.toNat 5

/-- UPDATE_STAGE_U5 (R180 to R182): every tensor id that the member updated has its entry, and no other. -/
def execUpdateStageU5 (job : BitVec 16) (tids : List TelemPart) (s : State) : Out :=
  .next (match findJob s job.toNat with
    | none => s
    | some j =>
      let ids := updatedTids j
      if j.phase ≠ 6 || j.stage ≠ 4 || !ids.all (fun t => tids.any (fun x => x.tid.toNat == t)) then s else
      stageU5 s j (tids.filter (fun x => ids.contains x.tid.toNat)))

/-! ## Evaluation points (R66, R82, R131, R341, R448) -/

/-- A trigger of a stepless program raises RUNG at once; without one CLEAN_RUN rises, and the tensor may step down. -/
def evalLadder (l : BitVec 512) (batch : Nat) (trigger : Bool) : BitVec 512 :=
  let rung := fget l Lad.RUNG
  let l := fset l Lad.MARKED 0
  let moved (r : Nat) := fset (fset (fset (fset l Lad.RUNG r) Lad.PEND_RUNG r) Lad.CLEAN_RUN 0) Lad.LAST_CHANGE batch
  if trigger then
    if rung < fget l Lad.MAX_RUNG then moved (rung + 1)
    else fset (fset l Lad.CLEAN_RUN 0) Lad.TRIGGERS (satInc 32 (fget l Lad.TRIGGERS))
  else
    let n := satInc 16 (fget l Lad.CLEAN_RUN)
    if fget l Lad.DOWN_AFTER != 0 && decide (fget l Lad.DOWN_AFTER ≤ n) && decide (1 < rung) then moved (rung - 1)
    else fset (fset l Lad.CLEAN_RUN n) Lad.PEND_RUNG rung

/-- One laddered tensor at an evaluation point: its record, the stream's note and the event. -/
def evalOneLadder (s : State) (j : Job) (n batch tid : Nat) (c : StatRec) : State :=
  let l := jobLadder s j tid
  if fget l Lad.LADDER_EN = 0 then s else
  let trigger := sedgeTrigger (fset l Lad.PEND_RUNG (fget l Lad.RUNG)) c
  let l' := evalLadder l batch trigger
  let s := setLadder s j tid l'
  if fget l' Lad.RUNG ≠ fget l Lad.RUNG then
    let x := fset (fset (0 : BitVec 512) (15, 0) tid) (18, 16) (fget l' Lad.RUNG)
    fileEvent (strmSet s n Strm.RUNG_CHANGED 1) 1 0x0206 9 j.id.toNat batch x
  else if trigger then ladderEvent s j batch tid
  else s

/-- Replay event 0x0213 (Table 14-12). -/
def replayEvent (s : State) (n batch tag outcome orig : Nat) (r : Option Nat) : State :=
  let x : BitVec 512 := 0
  let x := fset x (15, 0) tag
  let x := fset x (17, 16) outcome
  let x := fset x (31, 24) orig
  let x := fset x (39, 32) (r.getD 0xFF)
  fileEvent (strmSet s n Strm.SUSPECT 1) 2 0x0213 9 (fget (s.strm n) Strm.JOB) batch (fset x (63, 48) n)

/-- Replay one capsule of a stepless program and free its slot (R448, Table 13-11). -/
def evalCapsule (s : State) (j : Job) (n slot : Nat) : State :=
  let cap := capsuleOff j slot
  let h := s.recAt cap 512
  let orig := fget h Cap.PLANK
  let batch := fget h Cap.STEP
  let tag := (capsuleTag s cap).1
  let x := replayCapsule s cap
  let s := replayBlame x.2.2 cap x.1 x.2.1
  let s := match x.1 with
    | .same => s
    | .differs => replayEvent s n batch tag 1 orig x.2.1
    | .mismatch => replayEvent s n batch tag 2 orig x.2.1
    | .cannot => replayEvent s n batch tag 3 orig x.2.1
  let s := s.modPlank orig (fun k => { k with mism := k.mism.erase tag })
  hbmStoreRec s cap (fset h Cap.VALID 0)

/-- Mismatches of a plank for which no capsule was written. -/
def evalNoCapsule (s : State) (n batch p : Nat) : State :=
  let s' := (s.plank p).mism.foldl (fun s t => replayEvent s n batch t 3 p none) s
  let s' := if (s.plank p).mism.isEmpty then s' else closeMismatch s' p
  s'.modPlank p (fun k => { k with mism := [] })

/-- The capsules that a stepless stream's program has made, in slot order. -/
def evalCapsules (s : State) (j : Job) : List Nat :=
  (List.range (fget j.man Man.REPLAY_SLOTS)).takeWhile (fun i => fget (capsuleHead s j i) Cap.VALID == 1)

/-- EVALUATION_POINT. -/
def evaluate (s : State) (j : Job) (n : Nat) (others : List MemberPart) : State :=
  let batch := fget (s.strm n) Strm.STEP
  let ps := streamPlanks s n
  let rs := reduceStats j.lists.tensors
    ((chipNo s, memberStats s ps) :: others.map (fun o => (o.chip.toNat, o.stats)))
  let s := writeStatTable s j rs
  let crossed := crossedTids s j rs
  let s := if crossed.isEmpty then s else strmSet s n Strm.RB_CROSSED 1
  let s := crossed.foldl (fun s t => fileEvent s 1 0x0205 9 j.id.toNat batch (fset (0 : BitVec 512) (15, 0) t)) s
  let cs := chunkTids s j
  let s := ((List.range j.lists.tensors).filter (fun t => !cs.contains t)).foldl
    (fun s t => (stagedTensor s j t).foldl (fun s w => hbmStore s w.1 w.2) s) s
  let s := releaseNaps (rs.foldl (fun s r => evalOneLadder s j n batch r.1 r.2) s) j.id.toNat
  let s := firstRefs s j
  let s := (evalCapsules s j).foldl (fun s i => evalCapsule s j n i) s
  let s := ps.foldl (fun s p => evalNoCapsule s n batch p) s
  let s := ps.foldl (fun s p =>
    (s.modPlank p (fun k => { k with stats := [], accSeq := 0 })).rset (Reg.INTEG_STATE_STEP_MASKED p) 0) s
  let s := workErrors (closeEntries (s.radd Reg.STEP_TICK_TICK 1) ps)
  let s := energyEnd s j.id.toNat (some n) 1 0
  let s := strmSet s n Strm.STEP ((batch + 1) % 2 ^ 64)
  let s := energyBegin s j.id.toNat (some n) ((batch + 1) % 2 ^ 64)
  if modState s = 6 then suspendStreamOp s n Susp.hold else s

/-- EVALUATION_POINT (R131): of a Running or Suspending stepless stream, once every member of its group has contributed
and no slice runs where a capsule replays. -/
def execEvaluationPoint (job : BitVec 16) (stream : StreamId) (others : List MemberPart) (s : State) : Out :=
  .next (match findJob s job.toNat with
    | none => s
    | some j =>
      let n := stream.val
      let live := streamKind s n == 1 && fget (s.strm n) Strm.JOB == job.toNat &&
        (streamState s n == St.running || streamState s n == St.suspending)
      let t := streamTree j n
      let whole := (treeGroup s t).isEmpty && others.isEmpty || allContributed s t (others.map (·.chip.toNat))
      let ready := (evalCapsules s j).all (fun i => replayReady s (capsuleOff j i))
      if live && whole && ready then evaluate s j n others else s)

end Sys2Proof.Machine
end

