-- ==== Sys2Proof/Machine/UpdateVerbs.lean ====
section
/-!
DEFINITION. The UPDATE verbs (R395, R398, R413 to R416, Tables 16-8 and 16-9).
-/
namespace Sys2Proof.Machine

/-- An answer of an UPDATE verb; LAST_REFUSAL keeps the detail of a refusal. -/
def updateVerb (s : State) (rq : Req) (v : Verb) (act : Nat → State → Answer × State) : State :=
  answerVerb s rq v (fun s =>
    let r := act (rq.session.getD 0) s
    (r.1, noteRefusal r.2 r.1))

/-- Class and SEQ that BOOT_INFO and SEQ_A or SEQ_B show of a slot. -/
def showSlot (s : State) (slot cls seq : Nat) : State :=
  if slot = 0 then (s.rset Reg.BOOT_INFO_SLOT_A cls).rset Reg.SEQ_A_SEQ seq
  else (s.rset Reg.BOOT_INFO_SLOT_B cls).rset Reg.SEQ_B_SEQ seq

/-- UPDATE_BEGIN: the target's trailer sector is erased, which leaves the slot half-written, and the update is open. -/
def updateBegin (slot len session : Nat) (s : State) : Answer × State :=
  if modState s ≠ 3 && slot = activeSlot s then (.refused 0x01, s)
  else if s.board.update.isSome then (.refused 0x02, s)
  else if len < 0x4000 || trailerOff < len then (.refused 0x03, s)
  else
    let s := flashErase s (slotBase slot + trailerOff)
    let s : State := { s with board := { s.board with update := some ⟨slot, len, 0, session⟩ } }
    let s := (s.rset Reg.UPDATE_STATUS_OPEN 1).rset Reg.UPDATE_STATUS_TARGET slot
    (.done [], showSlot (s.rset Reg.UPDATE_STATUS_BYTES 0) slot 2 0)

/-- UPDATE_BEGIN (R413). -/
def execUpdateBegin (rq : Req) (slot : BitVec 8) (len : BitVec 32) (s : State) : Out :=
  .next (updateVerb s rq { code := 0x50, inHold := true, inMire := true, inTrip := true, operator := true, enrol := true }
    (fun n s => if 1 < slot.toNat then (.malformed, s) else updateBegin slot.toNat len.toNat n s))

/-- The open update, when it is this session's (R413). -/
def myUpdate (s : State) (session : Nat) : Option Update := s.board.update.filter (fun u => u.session == session)

/-- UPDATE_CHUNK: each sector is erased at its first touch, then the data is programmed. -/
def updateChunk (off : Nat) (data : List Byte) (session : Nat) (s : State) : Answer × State :=
  match myUpdate s session with
  | none => (.refused 0x02, s)
  | some u =>
    if off ≠ u.next then (.refused 0x04, s)
    else if u.len < off + data.length then (.refused 0x03, s)
    else
      let touched := (List.range 1537).filter (fun k => decide (off ≤ k * 65536) && decide (k * 65536 < off + data.length))
      let s := touched.foldl (fun s k => flashErase s (slotBase u.slot + k * 65536)) s
      let s := flashWrite s (slotBase u.slot + off) data
      let s : State := { s with board := { s.board with update := some { u with next := off + data.length } } }
      (.done (be 4 data.length), s.rset Reg.UPDATE_STATUS_BYTES (off + data.length))

/-- UPDATE_CHUNK (R413). -/
def execUpdateChunk (rq : Req) (off : BitVec 32) (data : List Byte) (s : State) : Out :=
  .next (updateVerb s rq { code := 0x51, inHold := true, inMire := true, inTrip := true, operator := true, enrol := true }
    (fun n s => if 61440 < data.length then (.malformed, s) else updateChunk off.toNat data n s))

/-- The first check of R396 and R414 that an image in a slot fails, by its detail code (Table 16-9). -/
def commitFails (s : State) (slot : Nat) : Option Nat :=
  let h := slotHeader s slot
  if leAt h 0 4 ≠ imgMagic || !layoutOk 1 trailerOff h || !digestsOk s slot then some 0x05
  else if !fwSigOk s slot || !cfgSigOk s slot then some 0x06
  else if !rollbackOk s slot then some 0x07
  else if modState s ≠ 3 && imgSeq h ≤ imgSeq (slotHeader s (activeSlot s)) then some 0x08
  else if !slotConfigOk s slot (s.rget Reg.CHIP_ID_MEMBER) then some 0x09
  else none

/-- UPDATE_COMMIT: the image verifies, its trailer is written, its slot is the selected one, and its firmware goes into Hjelper's
inactive bank (R351); the first commit enrols its owner key (R398). -/
def updateCommit (session : Nat) (s : State) : Answer × State :=
  match myUpdate s session with
  | none => (.refused 0x02, s)
  | some u =>
    match commitFails s u.slot with
    | some c => (.refused c, s)
    | none =>
      let h := slotHeader s u.slot
      let key := Config.sha3_512 (slotComp s u.slot 0x0002)
      let s := flashWrite s (slotBase u.slot + trailerOff) (trailerOf h)
      let s : State := { s with board := { s.board with
        owner := s.board.owner.orElse (fun _ => some key)
        committed := if modState s = 3 then some u.slot else s.board.committed } }
      let s := (closeUpdate s).rset Reg.BOOT_INFO_SELECTED u.slot
      let s := loadBank s (idleBank s) (slotComp s u.slot 0x0010)
      (.done (be 8 (imgSeq h)), showSlot (s.rset Reg.BOOT_INFO_OWNER_SET 1) u.slot 0 (imgSeq h))

/-- UPDATE_COMMIT (R413, R414). -/
def execUpdateCommit (rq : Req) (s : State) : Out :=
  .next (updateVerb s rq { code := 0x52, inHold := true, inMire := true, inTrip := true, operator := true, enrol := true }
    updateCommit)

/-- In Mire hold a committed valid image restarts Boot, once the verb is answered (R415, Table 16-6, assumption 62). -/
def activateMire (rq : Req) (mask : Nat) (s : State) : Option Answer × State :=
  match s.board.committed with
  | some k =>
    if slotClass s k (s.rget Reg.CHIP_ID_MEMBER) ≠ 0 then (some (.refused 0x0B), noteRefusal s (.refused 0x0B))
    else
      let s := leaveReset (allLost (respond s rq 0x53 (.done (be 4 mask))))
      (none, { s with board := { s.board with startSlot := some k } })
  | none => (some (.refused 0x0B), noteRefusal s (.refused 0x0B))

/-- UPDATE_ACTIVATE outside Mire hold. -/
def activateService (rq : Req) (mask : Nat) (s : State) : Option Answer × State :=
  let r := activateFrom rq mask 4 0 s
  match r.1 with
  | none => (none, r.2)
  | some done =>
    let a := activateAnswer mask done
    (some a, noteRefusal r.2 a)

/-- UPDATE_ACTIVATE (R415). One that meets an activation under way is refused, where Table 15-2 answers the other verbs with Busy (R353). -/
def execUpdateActivate (rq : Req) (mask : BitVec 32) (s : State) : Out :=
  .next (runVerb s rq { code := 0x53, inHold := true, inMire := true, operator := true, enrol := true, cached := s.board.activation.isSome }
    (fun s =>
    if modState s = 3 then activateMire rq mask.toNat s
    else if 16 ≤ mask.toNat then (some (.refused 0x0A), noteRefusal s (.refused 0x0A))
    else if s.board.activation.isSome then (some (.refused 0x0B), noteRefusal s (.refused 0x0B))
    else activateService rq mask.toNat s))

end Sys2Proof.Machine
end

