-- ==== Sys2Proof/Machine/Verbs.lean ====
section
/-!
DEFINITION. The Sluice verbs for streams, steps, checkpoints, the fabric and the logs (R165, R166, R258, R259, R283, R299, R322,
R350, R377 to R379, R388).
-/
namespace Sys2Proof.Machine

/-! ## SUSPEND, RESUME, CANCEL (R377 to R379) -/

/-- The streams that a request names, lowest first: one, or with flag [0] every stream of the job. -/
def namedStreams (s : State) (stream : BitVec 16) (flags : BitVec 8) (job : BitVec 16) : List Nat :=
  if flags.getLsbD 0 then
    (if (findJob s job.toNat).isSome then
      (s.streams.filter (fun e => fget e.2 Strm.JOB == job.toNat && fget e.2 Strm.STATE != 0)).map (·.1)
    else [])
  else if streamState s stream.toNat = St.idle then [] else [stream.toNat]

/-- A request on streams: a reserved flag is malformed, a stream or a job that is not there gives STATUS 7. The answer is the new
state of the stream named, or of the job's lowest when it is none of them. -/
def streamVerb (s : State) (stream : BitVec 16) (flags : BitVec 8) (job : BitVec 16)
    (act : List Nat → State → Option State) : Answer × State :=
  if 1 < flags.toNat then (.malformed, s)
  else
    let ns := namedStreams s stream flags job
    match ns.head? with
    | none => (.notFound, s)
    | some first =>
      match act ns s with
      | none => (.refused 0, s)
      | some s => (.done (be 1 (streamState s (if ns.contains stream.toNat then stream.toNat else first))), s)

/-- SUSPEND. -/
def execSuspendStream (rq : Req) (stream : BitVec 16) (flags : BitVec 8) (job : BitVec 16) (s : State) : Out :=
  .next (answerVerb s rq { code := 0x21, operator := true } (fun s =>
    streamVerb s stream flags job (fun ns s => some (ns.foldl (fun s n => suspendStreamOp s n Susp.host) s))))

/-- RESUME of one stream: a Queued one starts; of another the host's bit clears. -/
def resumeOne (s : State) (n : Nat) : State :=
  if streamState s n = St.queued then startStream (strmSet s n Strm.SUSP_SRC 0) n else resumeStreamOp s n Susp.host

/-- A stream's program names a masked plank (R316). -/
def namesMasked (s : State) (n : Nat) : Bool :=
  s.jobs.any (fun j => j.lists.programs.any (fun e => e.stream.val == n && s.rbit (Reg.PLANK_STATUS_MASKED e.plank.val)))

/-- RESUME. -/
def execResumeStream (rq : Req) (stream : BitVec 16) (flags : BitVec 8) (job : BitVec 16) (s : State) : Out :=
  .next (answerVerb s rq { code := 0x22, operator := true } (fun s =>
    streamVerb s stream flags job (fun ns s => if ns.any (namesMasked s) then none else some (ns.foldl resumeOne s))))

/-- The collective records of a stream: index and record. -/
def streamColls (s : State) (n : Nat) : List (BitVec 512) :=
  match findJob s (fget (s.strm n) Strm.JOB) with
  | none => []
  | some j => ((List.range j.lists.collectives).map (collRec s j)).filter (fun c => fget c Coll.STREAM == n)

/-- A cancelled collective stream starts an abort over its tree map (R299). Which of its collectives runs, if any, is a free
value (assumption 28). -/
def startAbort (s : State) (n : Nat) : State :=
  let cs := streamColls s n
  match cs.head? with
  | none => cancelOp s n
  | some first =>
    let i := s.fresh.toNat % (cs.length + 1)
    let s := s.drew
    let c := cs.getD i first
    let epoch := fget c Coll.EPOCH
    if s.fab.aborts.contains (n, epoch) then s
    else
      let f : BitVec 512 := 0
      let f := fset f Tf.KIND 4
      let f := fset f Tf.TREE (fget c Coll.TREE)
      let f := fset f Tf.ORIGIN_CHIP (chipNo s)
      let f := fset f Tf.STEP (fget (s.strm n) Strm.STEP)
      let f := fset f Tf.STREAM n
      let f := fset f Tf.EPOCH epoch
      let f := fset f Tf.COLL (if i < cs.length then fget c Coll.COLL_ID else 0xFFFF)
      abortHere (sendFlits s (treeUp s (fget c Coll.TREE)) f) n epoch

/-- CANCEL of one stream: one that is Cancelling already, or that has ended, stays as it is. -/
def cancelOne (s : State) (n : Nat) : State :=
  let st := streamState s n
  if st = St.queued || st = St.running || st = St.suspending || st = St.suspended then
    (if streamKind s n = 2 then startAbort s n else cancelOp s n)
  else s

/-- CANCEL: refused when every stream named is Done, Failed or Orphaned. -/
def execCancelStream (rq : Req) (stream : BitVec 16) (flags : BitVec 8) (job : BitVec 16) (s : State) : Out :=
  .next (answerVerb s rq { code := 0x23, operator := true } (fun s =>
    streamVerb s stream flags job (fun ns s => if ns.all (streamEnded s) then none else some (ns.foldl cancelOne s))))

/-- STREAM_QUIESCED (R374, R377): every unit of a Suspending stream has quiesced, or of a Cancelling one has ended. A stream
whose suspension was withdrawn meanwhile runs again. -/
def execStreamQuiesced (stream : StreamId) (s : State) : Out :=
  .next (
    let n := stream.val
    let st := streamState s n
    if st = St.cancelling then cancelEnds s n
    else if st = St.suspending && !dataBusy s n && (streamPlanks s n).all (plankQuiet s) then
      let s := streamTo s n St.suspended
      if fget (s.strm n) Strm.SUSP_SRC = 0 then streamRuns s n else s
    else s)

/-! ## HOLD_STEP, RELEASE_STEP, VERDICT (R165, R166) -/

/-- HOLD_STEP: refused for a step whose verdict is already final. -/
def execHoldStep (rq : Req) (job : BitVec 16) (step : BitVec 64) (s : State) : Out :=
  .next (answerVerb s rq { code := 0x24, operator := true } (fun s =>
    match findJob s job.toNat with
    | none => (.notFound, s)
    | some j =>
      if step.toNat < j.step || (step.toNat = j.step && j.final) then (.refused 0, s)
      else (.done [], modJob s job.toNat (fun j => { j with holds := step.toNat :: j.holds.filter (· != step.toNat) }))))

/-- RELEASE_STEP (R166): a step that no HOLD_STEP holds is not found (R369). -/
def execReleaseStep (rq : Req) (job : BitVec 16) (step : BitVec 64) (s : State) : Out :=
  .next (answerVerb s rq { code := 0x25, operator := true } (fun s =>
    match findJob s job.toNat with
    | none => (.notFound, s)
    | some j =>
      if !j.holds.contains step.toNat then (.notFound, s)
      else (.done [], modJob s job.toNat (fun j => { j with holds := j.holds.filter (· != step.toNat) }))))

/-- The member joins the reduction of decisions on a Held step (R165), with its first VERDICT of the step; `others` are the decisions of
the other members. The reduction completes only when every member that the tree map counts has joined it (R160): until then the own
decision waits, and CHECK_REDUCTION_COMPLETE brings the others. -/
def joinDecision (s : State) (j : Job) (c : CheckRec) (decision : Nat) (others : List (BitVec 14 × BitVec 8)) : State :=
  let d := j.decided.getD decision
  if allContributed s (jobTree j) (others.map (·.1.toNat)) then resolveHeld s j c d others
  else modJob s j.id.toNat (fun j => { j with decided := some d, waited := if j.decided.isNone then 0 else j.waited })

/-- VERDICT (R165). -/
def execVerdict (rq : Req) (job : BitVec 16) (step : BitVec 64) (decision : BitVec 8) (others : List (BitVec 14 × BitVec 8)) (s : State) : Out :=
  .next (answerVerb s rq { code := 0x26, operator := true } (fun s =>
    if decision.toNat < 1 || 3 < decision.toNat then (.malformed, s)
    else
      match findJob s job.toNat with
      | none => (.notFound, s)
      | some j =>
        if j.step ≠ step.toNat || j.phase ≠ 5 || j.verdict ≠ Vd.held || j.final then (.refused 0, s)
        else
          match j.red with
          | none => (.refused 0, s)
          | some c =>
            (.done [], joinDecision s j c decision.toNat others)))

/-! ## CHECKPOINT (R388) -/

/-- The step that a checkpoint of the job stands for: the step under way, or the last that ended (R388). -/
def ckptStep (j : Job) : Nat := if j.phase ≠ 0 then j.step else (BitVec.ofNat 64 j.step - 1).toNat

/-- CHECKPOINT: the answer is the step whose committed state is written, which is the last one that ended. -/
def execCheckpoint (rq : Req) (job stream : BitVec 16) (s : State) : Out :=
  .next (answerVerb s rq { code := 0x27, operator := true } (fun s =>
    match findJob s job.toNat with
    | none => (.notFound, s)
    | some j =>
      let n := stream.toNat
      let st := streamState s n
      if st = St.idle then (.notFound, s)
      else if streamKind s n ≠ 5 || (st ≠ St.queued && st ≠ St.running) || fget (s.strm n) Strm.JOB ≠ job.toNat
        || (s.data n).isNone || j.ckpt.isSome then (.refused 0, s)
      else
        (.done (be 8 (ckptStep j)), modJob s job.toNat (fun j => { j with ckpt := some (n, false) }))))

/-- The checkpoint stream takes the job's regions and runs; with none it is Done. -/
def checkpointBegins (s : State) (job : Nat) (j : Job) (n : Nat) : State :=
  let rs := j.lists.regions.filter (fun r => r.2 != 0)
  let s := modJob s job (fun j => { j with ckpt := some (n, true) })
  let s := s.modData n (fun d => { d with regions := rs })
  let s := if streamState s n = St.queued then streamRuns s n else s
  if rs.isEmpty && streamState s n = St.running then streamDone s n 0 else s

/-- CHECKPOINT_WRITE: at the step boundary the committed regions are what the stream writes. -/
def execCheckpointWrite (job : BitVec 16) (s : State) : Out :=
  .next (
    match findJob s job.toNat with
    | none => s
    | some j =>
      match j.ckpt with
      | some (n, false) =>
        if j.phase ≠ 0 then s
        else
          checkpointBegins s job.toNat j n
      | _ => s)

/-! ## DRAIN_FABRIC, TABLE_LOAD, UNDRAIN (R258, R259) -/

/-- DRAIN_FABRIC: the answer is MODE. -/
def execDrainFabric (rq : Req) (s : State) : Out :=
  .next (answerVerb s rq { code := 0x30, operator := true } (fun s =>
    let s := if s.rget (Reg.FAB_STATUS_MODE 0) = 0 then drainAgain.startDrain s else s
    (.done (be 1 (s.rget (Reg.FAB_STATUS_MODE 0))), s)))

/-- An accepted image replaces the tables of all twelve routers, MODE is loading until the last of them holds it, and every link
leaves Miswired for Training. -/
def takeTable (s : State) (image : List Byte) : State :=
  let s : State := { s with
    fab := { s.fab with
      table := image
      loading := List.range 12 }
    board := { s.board with routing := Config.sha3_512 image } }
  let s := (List.range 12).foldl (fun s d => (s.rset (Reg.FAB_STATUS_TABLE_VER d) (leAt image 0 4)).rset (Reg.FAB_STATUS_MODE d) 3) s
  let s := (List.range 48).foldl (fun s l => if linkState s l = LinkSt.miswired then enterTraining s l else s) s
  makeStale s

/-- TABLE_LOAD: only while drained, and whole. -/
def execTableLoad (rq : Req) (image : List Byte) (s : State) : Out :=
  .next (answerVerb s rq { code := 0x31, operator := true } (fun s =>
    if image.length ≠ 5184 then (.malformed, s)
    else if s.rget (Reg.FAB_STATUS_MODE 0) ≠ 2
      || !routingOk image (s.rget Reg.CHIP_ID_HUMMOCK) (s.rget Reg.CHIP_ID_MEMBER) then (.refused 0, s)
    else (.done [], takeTable s image)))

/-- UNDRAIN. -/
def execUndrain (rq : Req) (s : State) : Out :=
  .next (answerVerb s rq { code := 0x32, operator := true } (fun s =>
    (.done [], (List.range 12).foldl (fun s d => s.rset (Reg.FAB_STATUS_MODE d) 0) s)))

/-! ## SYNC_DUMP, LOG_READ, PEAT_READ (R283, R322, R350) -/

/-- Objects in a state. -/
def objCount (s : State) (st : Nat) : Nat := (s.objs.filter (fun e => fget e.2 Obj.STATE == st)).length

/-- The synchronisation dump (Table 11-10) between two counts. -/
def syncDump (s : State) (h0 h1 : BitVec 64) : List Byte :=
  let x : BitVec 512 := 0
  let x := fset x (13, 0) (chipNo s)
  let x := fset x (79, 16) h0.toNat
  let x := fset x (143, 80) h1.toNat
  let x := fset x (159, 144) (objCount s 1)
  let x := fset x (175, 160) (objCount s 2)
  let x := fset x (191, 176) (objCount s 3)
  let x := fset x (223, 192) (s.rget Reg.SYNC_DROP_COUNT)
  leBytes 64 x.toNat
    ++ (List.range 32768).flatMap (fun o => leBytes 32 (s.obj o).toNat)
    ++ (List.range 1024).flatMap (fun b => (List.range 8).flatMap (fun w => leBytes 8 (s.word (barOff b w)).toNat))

/-- SYNC_DUMP. -/
def execSyncDump (rq : Req) (s : State) : Out :=
  .next (answerVerb s rq { code := 0x40, inHold := true } (fun s =>
    let h0 := s.hc
    let s := s.tick
    (.done (syncDump s h0 s.hc), s.tick)))

/-- Records by sequence number, ascending; one that is no longer kept is left out. -/
def seqRange (first count : Nat) (find : Nat → Option (List Byte)) : List Byte :=
  (List.range count).flatMap (fun i => (find (first + i)).getD [])

/-- LOG_READ. -/
def execLogRead (rq : Req) (first : BitVec 32) (count : BitVec 16) (s : State) : Out :=
  .next (answerVerb s rq { code := 0x41, inHold := true, inMire := true, inBoot := true, inTrip := true } (fun s =>
    if count.toNat < 1 || 63 < count.toNat then (.malformed, s)
    else (.done (seqRange first.toNat count.toNat (fun q =>
      (s.evlog.find? (fun e => fget e.2 (31, 0) == q)).map (fun e => leBytes 128 e.2.toNat))), s)))

/-- PEAT_READ: a record whose CRC fails is skipped. -/
def execPeatRead (rq : Req) (first : BitVec 32) (count : BitVec 16) (s : State) : Out :=
  .next (answerVerb s rq { code := 0x42, inHold := true, inMire := true, inBoot := true, inTrip := true } (fun s =>
    if count.toNat < 1 || 127 < count.toNat then (.malformed, s)
    else (.done (seqRange first.toNat count.toNat (fun q =>
      (s.peat.find? (fun e => peatIntact e.2 && fget e.2 Peat.SEQ == q)).map (fun e => leBytes 64 e.2.toNat))), s)))

end Sys2Proof.Machine
end

