-- ==== Sys2Proof/Machine/Dispatch.lean ====
section
/-! DEFINITION. The effect of a command on everything but the queue: one arm per row of the opcode table. -/
namespace Sys2Proof.Machine

def exec (i : Instr) (s : State) : Host.Outcome State Fault Refusal :=
  match i with
  | .passIssue p rd rs1 ecc => Sys2Proof.Machine.execPassIssue p rd rs1 ecc s
  | .passBegin p corrected => Sys2Proof.Machine.execPassBegin p corrected s
  | .passEnd p => Sys2Proof.Machine.execPassEnd p s
  | .sedgeSegment p ecc => Sys2Proof.Machine.execSedgeSegment p ecc s
  | .drainBegin p => Sys2Proof.Machine.execDrainBegin p s
  | .drainComplete p ecc => Sys2Proof.Machine.execDrainComplete p ecc s
  | .plankFault p code => Sys2Proof.Machine.execPlankFault p code s
  | .plankSuspendCmd p w => Sys2Proof.Machine.execPlankSuspendCmd p w s
  | .plankFaultAck p w => Sys2Proof.Machine.execPlankFaultAck p w s
  | .plankDiscardSpill p w => Sys2Proof.Machine.execPlankDiscardSpill p w s
  | .spillStart p pos ecc => Sys2Proof.Machine.execSpillStart p pos ecc s
  | .spillComplete p => Sys2Proof.Machine.execSpillComplete p s
  | .spillReloadComplete p ecc => Sys2Proof.Machine.execSpillReloadComplete p ecc s
  | .plankMask p => Sys2Proof.Machine.execPlankMask p s
  | .accAddout p rd rs1 rs2 => Sys2Proof.Machine.execAccAddout p rd rs1 rs2 s
  | .addoutBegin p ecc => Sys2Proof.Machine.execAddoutBegin p ecc s
  | .addoutComplete p ecc => Sys2Proof.Machine.execAddoutComplete p ecc s
  | .accLoadin p rd rs1 rs2 => Sys2Proof.Machine.execAccLoadin p rd rs1 rs2 s
  | .loadinBegin p ecc => Sys2Proof.Machine.execLoadinBegin p ecc s
  | .loadinComplete p ecc => Sys2Proof.Machine.execLoadinComplete p ecc s
  | .passFence p rd => Sys2Proof.Machine.execPassFence p rd s
  | .plankSusp p => Sys2Proof.Machine.execPlankSusp p s
  | .vecIssue p rs1 => Sys2Proof.Machine.execVecIssue p rs1 s
  | .vecRun p rs1 rs2 ecc => Sys2Proof.Machine.execVecRun p rs1 rs2 ecc s
  | .vecFence p => Sys2Proof.Machine.execVecFence p s
  | .vecXi p rs1 => Sys2Proof.Machine.execVecXi p rs1 s
  | .vecMvx p rd rs2 ecc => Sys2Proof.Machine.execVecMvx p rd rs2 ecc s
  | .vnop p => Sys2Proof.Machine.execVnop p s
  | .addF32 p ecc => Sys2Proof.Machine.execAddF32 p ecc s
  | .subF32 p ecc => Sys2Proof.Machine.execSubF32 p ecc s
  | .mulF32 p ecc => Sys2Proof.Machine.execMulF32 p ecc s
  | .fmaF32 p ecc => Sys2Proof.Machine.execFmaF32 p ecc s
  | .minF32 p ecc => Sys2Proof.Machine.execMinF32 p ecc s
  | .maxF32 p ecc => Sys2Proof.Machine.execMaxF32 p ecc s
  | .absF32 p ecc => Sys2Proof.Machine.execAbsF32 p ecc s
  | .negF32 p ecc => Sys2Proof.Machine.execNegF32 p ecc s
  | .divF32 p ecc => Sys2Proof.Machine.execDivF32 p ecc s
  | .sqrtF32 p ecc => Sys2Proof.Machine.execSqrtF32 p ecc s
  | .cmp p ecc => Sys2Proof.Machine.execCmp p ecc s
  | .sel p ecc => Sys2Proof.Machine.execSel p ecc s
  | .andB32 p ecc => Sys2Proof.Machine.execAndB32 p ecc s
  | .orB32 p ecc => Sys2Proof.Machine.execOrB32 p ecc s
  | .xorB32 p ecc => Sys2Proof.Machine.execXorB32 p ecc s
  | .shlB32 p ecc => Sys2Proof.Machine.execShlB32 p ecc s
  | .shrB32 p ecc => Sys2Proof.Machine.execShrB32 p ecc s
  | .ldW p ecc => Sys2Proof.Machine.execLdW p ecc s
  | .ldH p ecc => Sys2Proof.Machine.execLdH p ecc s
  | .stW p ecc => Sys2Proof.Machine.execStW p ecc s
  | .stH p ecc => Sys2Proof.Machine.execStH p ecc s
  | .cvtRegister p ecc => Sys2Proof.Machine.execCvtRegister p ecc s
  | .cvtStream p ecc => Sys2Proof.Machine.execCvtStream p ecc s
  | .cvtRb p ecc => Sys2Proof.Machine.execCvtRb p ecc s
  | .cvtM p ecc => Sys2Proof.Machine.execCvtM p ecc s
  | .cvtMxExport p ecc => Sys2Proof.Machine.execCvtMxExport p ecc s
  | .amaxTile p ecc => Sys2Proof.Machine.execAmaxTile p ecc s
  | .statFold p ecc => Sys2Proof.Machine.execStatFold p ecc s
  | .tabLd p ecc => Sys2Proof.Machine.execTabLd p ecc s
  | .tabF p ecc => Sys2Proof.Machine.execTabF p ecc s
  | .redAdd p ecc => Sys2Proof.Machine.execRedAdd p ecc s
  | .amaxV p ecc => Sys2Proof.Machine.execAmaxV p ecc s
  | .rngV p => Sys2Proof.Machine.execRngV p s
  | .card p ecc => Sys2Proof.Machine.execCard p ecc s
  | .uncard p ecc => Sys2Proof.Machine.execUncard p ecc s
  | .corrSum p ecc => Sys2Proof.Machine.execCorrSum p ecc s
  | .chkCmp p ecc => Sys2Proof.Machine.execChkCmp p ecc s
  | .optAdamw p ecc => Sys2Proof.Machine.execOptAdamw p ecc s
  | .syncAdd p rs1 rs2 => Sys2Proof.Machine.execSyncAdd p rs1 rs2 s
  | .syncSet p rs1 rs2 => Sys2Proof.Machine.execSyncSet p rs1 rs2 s
  | .syncWait p rd rs1 rs2 => Sys2Proof.Machine.execSyncWait p rd rs1 rs2 s
  | .syncWaitReturn p => Sys2Proof.Machine.execSyncWaitReturn p s
  | .fillPassIssue p ecc => Sys2Proof.Machine.execFillPassIssue p ecc s
  | .fillEnq p rs1 ecc => Sys2Proof.Machine.execFillEnq p rs1 ecc s
  | .fillFlush p ecc => Sys2Proof.Machine.execFillFlush p ecc s
  | .ilvNext p rd ecc => Sys2Proof.Machine.execIlvNext p rd ecc s
  | .strmQp p rs1 => Sys2Proof.Machine.execStrmQp p rs1 s
  | .strmState p rd rs1 => Sys2Proof.Machine.execStrmState p rd rs1 s
  | .strmEnd p rs1 rs2 => Sys2Proof.Machine.execStrmEnd p rs1 rs2 s
  | .xfer p rs1 ecc => Sys2Proof.Machine.execXfer p rs1 ecc s
  | .xferComplete x => Sys2Proof.Machine.execXferComplete x s
  | .coreAutoReset p => Sys2Proof.Machine.execCoreAutoReset p s
  | .coreQuiesce p => Sys2Proof.Machine.execCoreQuiesce p s
  | .contextWriteComplete p => Sys2Proof.Machine.execContextWriteComplete p s
  | .coreResume p ecc => Sys2Proof.Machine.execCoreResume p ecc s
  | .coreStart p w => Sys2Proof.Machine.execCoreStart p w s
  | .coreReset p w => Sys2Proof.Machine.execCoreReset p w s
  | .coreDiscardCtx p w => Sys2Proof.Machine.execCoreDiscardCtx p w s
  | .checkBegin job replicas => Sys2Proof.Machine.execCheckBegin job replicas s
  | .checkReductionComplete job others => Sys2Proof.Machine.execCheckReductionComplete job others s
  | .attemptBegin job => Sys2Proof.Machine.execAttemptBegin job s
  | .suspectReplay job slot => Sys2Proof.Machine.execSuspectReplay job slot s
  | .secondRoundReduction job others => Sys2Proof.Machine.execSecondRoundReduction job others s
  | .seqLossNonfinite job slot => Sys2Proof.Machine.execSeqLossNonfinite job slot s
  | .updateStageU1 job refetched => Sys2Proof.Machine.execUpdateStageU1 job refetched s
  | .updateStageU2 job => Sys2Proof.Machine.execUpdateStageU2 job s
  | .updateStageU3 job => Sys2Proof.Machine.execUpdateStageU3 job s
  | .updateStageU4 job plans => Sys2Proof.Machine.execUpdateStageU4 job plans s
  | .updateStageU5 job tids => Sys2Proof.Machine.execUpdateStageU5 job tids s
  | .evaluationPoint job stream others => Sys2Proof.Machine.execEvaluationPoint job stream others s
  | .errorFiled cls unit code => Sys2Proof.Machine.execErrorFiled cls unit code s
  | .soundingSlice p => Sys2Proof.Machine.execSoundingSlice p s
  | .soundingSliceEnd p passed => Sys2Proof.Machine.execSoundingSliceEnd p passed s
  | .soundWinArm p w n => Sys2Proof.Machine.execSoundWinArm p w n s
  | .soundOverdue p => Sys2Proof.Machine.execSoundOverdue p s
  | .integRestore p w => Sys2Proof.Machine.execIntegRestore p w s
  | .integUnmask p w => Sys2Proof.Machine.execIntegUnmask p w s
  | .slotServe m c ecc => Sys2Proof.Machine.execSlotServe m c ecc s
  | .bankRefresh m c bank slots => Sys2Proof.Machine.execBankRefresh m c bank slots s
  | .calibrationSlice m c ecc laneBits => Sys2Proof.Machine.execCalibrationSlice m c ecc laneBits s
  | .calPeriodExpiry m => Sys2Proof.Machine.execCalPeriodExpiry m s
  | .calRetrain m w => Sys2Proof.Machine.execCalRetrain m w s
  | .retrainComplete m c dqLo dqHi vrefLo vrefHi dq vref => Sys2Proof.Machine.execRetrainComplete m c dqLo dqHi vrefLo vrefHi dq vref s
  | .stackTempRead m temp => Sys2Proof.Machine.execStackTempRead m temp s
  | .pcSwitchArm m c w v => Sys2Proof.Machine.execPcSwitchArm m c w v s
  | .shareSwitchApply m c => Sys2Proof.Machine.execShareSwitchApply m c s
  | .bankSwitchArm p w v => Sys2Proof.Machine.execBankSwitchArm p w v s
  | .bankSwitchApply p => Sys2Proof.Machine.execBankSwitchApply p s
  | .psMapWrite p w v => Sys2Proof.Machine.execPsMapWrite p w v s
  | .frameReceive l f fecOk corrected => Sys2Proof.Machine.execFrameReceive l f fecOk corrected s
  | .linkTrainingDone l => Sys2Proof.Machine.execLinkTrainingDone l s
  | .linkTrainingTimeout l => Sys2Proof.Machine.execLinkTrainingTimeout l s
  | .linkIdentify l chip peer => Sys2Proof.Machine.execLinkIdentify l chip peer s
  | .codewordLockLost l => Sys2Proof.Machine.execCodewordLockLost l s
  | .linkLossTimeout l => Sys2Proof.Machine.execLinkLossTimeout l s
  | .linkDisable l w on => Sys2Proof.Machine.execLinkDisable l w on s
  | .linkRetrain l w => Sys2Proof.Machine.execLinkRetrain l w s
  | .linkTest l w on => Sys2Proof.Machine.execLinkTest l w on s
  | .packetHeadRoute d head => Sys2Proof.Machine.execPacketHeadRoute d head s
  | .causewayThreshold d head => Sys2Proof.Machine.execCausewayThreshold d head s
  | .pktWrite d pkt => Sys2Proof.Machine.execPktWrite d pkt s
  | .pktAccum d pkt => Sys2Proof.Machine.execPktAccum d pkt s
  | .pktReadReq d pkt ecc => Sys2Proof.Machine.execPktReadReq d pkt ecc s
  | .pktReadData d pkt => Sys2Proof.Machine.execPktReadData d pkt s
  | .pktDone d pkt => Sys2Proof.Machine.execPktDone d pkt s
  | .pktSignal d pkt => Sys2Proof.Machine.execPktSignal d pkt s
  | .pktChunk d pkt => Sys2Proof.Machine.execPktChunk d pkt s
  | .doneRecordFlush d r => Sys2Proof.Machine.execDoneRecordFlush d r s
  | .treeArrive src flit => Sys2Proof.Machine.execTreeArrive src flit s
  | .treeRelease flit => Sys2Proof.Machine.execTreeRelease flit s
  | .treeOwnerMessage flit => Sys2Proof.Machine.execTreeOwnerMessage flit s
  | .treeAbort flit => Sys2Proof.Machine.execTreeAbort flit s
  | .markerEcho l => Sys2Proof.Machine.execMarkerEcho l s
  | .fabricDrained => Sys2Proof.Machine.execFabricDrained s
  | .objCmdWord0 w obj v => Sys2Proof.Machine.execObjCmdWord0 w obj v s
  | .objClaim w obj v => Sys2Proof.Machine.execObjClaim w obj v s
  | .objRearm w obj v => Sys2Proof.Machine.execObjRearm w obj v s
  | .objRetire w obj v => Sys2Proof.Machine.execObjRetire w obj v s
  | .waitWatchdog who => Sys2Proof.Machine.execWaitWatchdog who s
  | .barrierWatchdog gen => Sys2Proof.Machine.execBarrierWatchdog gen s
  | .inputSample mv cur => Sys2Proof.Machine.execInputSample mv cur s
  | .capCompare => Sys2Proof.Machine.execCapCompare s
  | .capUnmet => Sys2Proof.Machine.execCapUnmet s
  | .powerCapWrite w v => Sys2Proof.Machine.execPowerCapWrite w v s
  | .backstopEngage => Sys2Proof.Machine.execBackstopEngage s
  | .backstopRelease => Sys2Proof.Machine.execBackstopRelease s
  | .clockGlideStep p => Sys2Proof.Machine.execClockGlideStep p s
  | .energyRead nj => Sys2Proof.Machine.execEnergyRead nj s
  | .tempSensorRead sensor temp => Sys2Proof.Machine.execTempSensorRead sensor temp s
  | .thermalClockStep c => Sys2Proof.Machine.execThermalClockStep c s
  | .railOutOfRange rail => Sys2Proof.Machine.execRailOutOfRange rail s
  | .trip cause => Sys2Proof.Machine.execTrip cause s
  | .thrComputeWrite w v => Sys2Proof.Machine.execThrComputeWrite w v s
  | .pwrEn level => Sys2Proof.Machine.execPwrEn level s
  | .presentN level => Sys2Proof.Machine.execPresentN level s
  | .thermTripN level => Sys2Proof.Machine.execThermTripN level s
  | .resetN level => Sys2Proof.Machine.execResetN level s
  | .holdN level => Sys2Proof.Machine.execHoldN level s
  | .chatterExit pin level => Sys2Proof.Machine.execChatterExit pin level s
  | .powerDownComplete => Sys2Proof.Machine.execPowerDownComplete s
  | .hjelperWatchdogKick => Sys2Proof.Machine.execHjelperWatchdogKick s
  | .hjelperWatchdogReset => Sys2Proof.Machine.execHjelperWatchdogReset s
  | .hjelperRestart peatRead => Sys2Proof.Machine.execHjelperRestart peatRead s
  | .activationRevert => Sys2Proof.Machine.execActivationRevert s
  | .refclkLoss which ppm => Sys2Proof.Machine.execRefclkLoss which ppm s
  | .refclkReturn which ppm => Sys2Proof.Machine.execRefclkReturn which ppm s
  | .slotSelect straps => Sys2Proof.Machine.execSlotSelect straps s
  | .dieCalibrationComplete c stack0Ok stack1Ok sweeps failed lists => Sys2Proof.Machine.execDieCalibrationComplete c stack0Ok stack1Ok sweeps failed lists s
  | .ethPortUp e up => Sys2Proof.Machine.execEthPortUp e up s
  | .arpRequest e x senderMac senderIp targetIp => Sys2Proof.Machine.execArpRequest e x senderMac senderIp targetIp s
  | .neighbourSolicitation e x source target => Sys2Proof.Machine.execNeighbourSolicitation e x source target s
  | .icmpEcho e x v6 source target data => Sys2Proof.Machine.execIcmpEcho e x v6 source target data s
  | .sluiceFragment e x peer head payload tag => Sys2Proof.Machine.execSluiceFragment e x peer head payload tag s
  | .reassemblyTimeout session reqId => Sys2Proof.Machine.execReassemblyTimeout session reqId s
  | .sessionIdleTimeout session => Sys2Proof.Machine.execSessionIdleTimeout session s
  | .hello e peer reqId payload => Sys2Proof.Machine.execHello e peer reqId payload s
  | .finish e peer session reqId payload => Sys2Proof.Machine.execFinish e peer session reqId payload s
  | .ident rq => Sys2Proof.Machine.execIdent rq s
  | .statusVerb rq => Sys2Proof.Machine.execStatusVerb rq s
  | .attest rq nonce => Sys2Proof.Machine.execAttest rq nonce s
  | .peek rq off len => Sys2Proof.Machine.execPeek rq off len s
  | .poke rq off data => Sys2Proof.Machine.execPoke rq off data s
  | .jobLoad rq source off lists => Sys2Proof.Machine.execJobLoad rq source off lists s
  | .suspendStream rq stream flags job => Sys2Proof.Machine.execSuspendStream rq stream flags job s
  | .resumeStream rq stream flags job => Sys2Proof.Machine.execResumeStream rq stream flags job s
  | .cancelStream rq stream flags job => Sys2Proof.Machine.execCancelStream rq stream flags job s
  | .streamQuiesced stream => Sys2Proof.Machine.execStreamQuiesced stream s
  | .holdStep rq job step => Sys2Proof.Machine.execHoldStep rq job step s
  | .releaseStep rq job step => Sys2Proof.Machine.execReleaseStep rq job step s
  | .verdict rq job step decision others => Sys2Proof.Machine.execVerdict rq job step decision others s
  | .checkpoint rq job stream => Sys2Proof.Machine.execCheckpoint rq job stream s
  | .checkpointWrite job => Sys2Proof.Machine.execCheckpointWrite job s
  | .drainFabric rq => Sys2Proof.Machine.execDrainFabric rq s
  | .tableLoad rq image => Sys2Proof.Machine.execTableLoad rq image s
  | .undrain rq => Sys2Proof.Machine.execUndrain rq s
  | .syncDump rq => Sys2Proof.Machine.execSyncDump rq s
  | .logRead rq first count => Sys2Proof.Machine.execLogRead rq first count s
  | .peatRead rq first count => Sys2Proof.Machine.execPeatRead rq first count s
  | .updateBegin rq slot len => Sys2Proof.Machine.execUpdateBegin rq slot len s
  | .updateChunk rq off data => Sys2Proof.Machine.execUpdateChunk rq off data s
  | .updateCommit rq => Sys2Proof.Machine.execUpdateCommit rq s
  | .updateActivate rq mask => Sys2Proof.Machine.execUpdateActivate rq mask s
  | .margin rq m pcs param first last stride => Sys2Proof.Machine.execMargin rq m pcs param first last stride s
  | .pattern rq lc unit lane gen chk user action => Sys2Proof.Machine.execPattern rq lc unit lane gen chk user action s
  | .keyDeliver rq reportId ct entries => Sys2Proof.Machine.execKeyDeliver rq reportId ct entries s
  | .streamOpen rq payload => Sys2Proof.Machine.execStreamOpen rq payload s
  | .streamClose rq stream => Sys2Proof.Machine.execStreamClose rq stream s
  | .eventAck session reqId => Sys2Proof.Machine.execEventAck session reqId s
  | .eventResend session reqId => Sys2Proof.Machine.execEventResend session reqId s
  | .ingestRecord q x send message => Sys2Proof.Machine.execIngestRecord q x send message s
  | .egressRecordWrite stream => Sys2Proof.Machine.execEgressRecordWrite stream s
  | .loadRecord stream x record => Sys2Proof.Machine.execLoadRecord stream x record s
  | .roceAck q x stream kind => Sys2Proof.Machine.execRoceAck q x stream kind s
  | .roceAckTimeout q => Sys2Proof.Machine.execRoceAckTimeout q s
  | .cnpReceive q x => Sys2Proof.Machine.execCnpReceive q x s
  | .rateIncrease q => Sys2Proof.Machine.execRateIncrease q s
  | .registerWrite w off v => Sys2Proof.Machine.execRegisterWrite w off v s
  | .coreBaseInstruction p ecc => Sys2Proof.Machine.execCoreBaseInstruction p ecc s
  | .outputPortCycle d out => Sys2Proof.Machine.execOutputPortCycle d out s
  | .patternCheckerLock l lane bits => Sys2Proof.Machine.execPatternCheckerLock l lane bits s
  | .inputPathChange mv => Sys2Proof.Machine.execInputPathChange mv s
  | .loadReadIssue stream => Sys2Proof.Machine.execLoadReadIssue stream s
  | .creditRecord q x message => Sys2Proof.Machine.execCreditRecord q x message s
  | .jobUnload job => Sys2Proof.Machine.execJobUnload job s

end Sys2Proof.Machine
end

