-- ==== Sys2Proof/Safety.lean ====
section
/-!
DEFINITION. What the statements say of a state: the canonical form of memory and of every other table that the machine
keeps as a list of pairs, and that a change of state keeps both that form and the queue of commands.
-/
namespace Sys2Proof.Machine

/-- Memory is in its canonical form: addresses strictly rising, no entry equal to what an unlisted address reads as. -/
def Memory.wf (m : List (Nat × Byte)) : Bool := kwf noByte m

/-- So are the registers and the memories of a plank core, and the vector registers. -/
abbrev Plank.Canonical (k : Plank) : Prop :=
  kwf noWord k.x = true ∧ kwf noWord k.csr = true ∧ kwf noF32 k.v = true ∧ kwf noByte k.imem = true ∧ kwf noByte k.dmem = true

/-- Every table of the state is in that form: the register words, memory, its poison, the planks, the objects and their
latches, the stream table, the event log, the peat log, the pseudo-channels, and those of every plank. Equal contents are then equal data. -/
structure State.Wf (s : State) : Prop where
  win : kwf winReset s.win = true
  mem : Memory.wf s.mem = true
  poison : kwf noFlag s.poison = true
  planks : kwf plankReset s.planks = true
  objs : kwf objReset s.objs = true
  latch : kwf noLatch s.latch = true
  streams : kwf streamReset s.streams = true
  evlog : kwf (fun _ => 0) s.evlog = true
  peat : kwf noPeat s.peat = true
  pcs : kwf pcReset s.pcs = true
  cores : ∀ p, (s.plank p).Canonical

/-- What every command does to a state a that it turns into t, whatever else it changes: tables stay canonical, and the
commands that wait still wait, in their order. -/
structure Keeps (a t : State) : Prop where
  wf : a.Wf → t.Wf
  queue : t.pending = a.pending

/-- The machine after n steps, or where it stopped. -/
def State.run : Nat → State → Out
  | 0, s => .next s
  | n + 1, s =>
    match step s with
    | .next t => State.run n t
    | .fault f => .fault f
    | .refused r => .refused r

/-- The verb that a command brings over Ethernet: the request, and the row of Table 15-4 with its code and its columns (R369,
R370, R401). Every other command is none. -/
def requestOf : Instr → Option (Req × Verb)
  | .ident rq => some (rq,
      { code := 0x01, inHold := true, inMire := true, inBoot := true, inTrip := true, enrol := true, cached := true })
  | .statusVerb rq => some (rq,
      { code := 0x02, inHold := true, inMire := true, inBoot := true, inTrip := true, enrol := true, cached := true })
  | .attest rq _ => some (rq, { code := 0x03, inHold := true, inMire := true, inBoot := true, inTrip := true, enrol := true })
  | .peek rq _ _ => some (rq, { code := 0x10, inHold := true, inMire := true, inBoot := true, inTrip := true })
  | .poke rq _ _ => some (rq, { code := 0x11, inHold := true, operator := true })
  | .jobLoad rq _ _ _ => some (rq, { code := 0x20, operator := true })
  | .suspendStream rq _ _ _ => some (rq, { code := 0x21, operator := true })
  | .resumeStream rq _ _ _ => some (rq, { code := 0x22, operator := true })
  | .cancelStream rq _ _ _ => some (rq, { code := 0x23, operator := true })
  | .holdStep rq _ _ => some (rq, { code := 0x24, operator := true })
  | .releaseStep rq _ _ => some (rq, { code := 0x25, operator := true })
  | .verdict rq _ _ _ _ => some (rq, { code := 0x26, operator := true })
  | .checkpoint rq _ _ => some (rq, { code := 0x27, operator := true })
  | .drainFabric rq => some (rq, { code := 0x30, operator := true })
  | .tableLoad rq _ => some (rq, { code := 0x31, operator := true })
  | .undrain rq => some (rq, { code := 0x32, operator := true })
  | .syncDump rq => some (rq, { code := 0x40, inHold := true })
  | .logRead rq _ _ => some (rq, { code := 0x41, inHold := true, inMire := true, inBoot := true, inTrip := true })
  | .peatRead rq _ _ => some (rq, { code := 0x42, inHold := true, inMire := true, inBoot := true, inTrip := true })
  | .updateBegin rq _ _ => some (rq,
      { code := 0x50, inHold := true, inMire := true, inTrip := true, operator := true, enrol := true })
  | .updateChunk rq _ _ => some (rq,
      { code := 0x51, inHold := true, inMire := true, inTrip := true, operator := true, enrol := true })
  | .updateCommit rq => some (rq,
      { code := 0x52, inHold := true, inMire := true, inTrip := true, operator := true, enrol := true })
  | .updateActivate rq _ => some (rq, { code := 0x53, inHold := true, inMire := true, operator := true, enrol := true })
  | .margin rq _ _ _ _ _ _ => some (rq, { code := 0x60, inHold := true, inMire := true, operator := true })
  | .pattern rq _ _ _ _ _ _ _ => some (rq, { code := 0x61, inHold := true, operator := true })
  | .keyDeliver rq _ _ _ => some (rq, { code := 0x70, operator := true })
  | .streamOpen rq _ => some (rq, { code := 0x71, operator := true })
  | .streamClose rq _ => some (rq, { code := 0x72, operator := true })
  | _ => none

/-- The memory of t, bytes and poison, is that of s. -/
structure SameMemory (s t : State) : Prop where
  bytes : ∀ a, t.byte a = s.byte a
  poison : ∀ a, kget noFlag t.poison a = kget noFlag s.poison a

/-- The state t differs from s in plank p at most where a lane instruction may write: its vector registers, VM, port 2, and the
words VEC_STATUS and VEC_CYCLES. -/
structure OnlyLanes (s t : State) (p : Nat) : Prop where
  words : ∀ i, i ≠ (Reg.VEC_STATUS_INVALID p).off → i ≠ (Reg.VEC_CYCLES_CYCLES p).off → t.word i = s.word i
  planks : ∀ q, q ≠ p → t.plank q = s.plank q
  lanes : ∃ v vm es, t.plank p = { s.plank p with
    v := v
    vm := vm
    port2 := es }
  rest : { t with
    win := s.win
    planks := s.planks } = s

/-- The state with the first instruction of port 2 of plank p taken off it: what an arithmetic instruction finds. -/
def State.pop2 (s : State) (p : Nat) (es : List VecSlot) : State := s.modPlank p (fun k => { k with port2 := es })
/-- The same for port 3, whose instructions work on streams in the plank store. -/
def State.pop3 (s : State) (p : Nat) (es : List VecSlot) : State := s.modPlank p (fun k => { k with port3 := es })

/-- The word at the pc of plank p's core, of 4 bytes or the one that 2 bytes stand for, and where it ends (R202). -/
def CoreWordAt (s : State) (p w next : Nat) : Prop :=
  s.pc p % 2 = 0 ∧
  ((fetchHalf s p (s.pc p) % 4 = 3 ∧ fetchable (s.pc p) 4 = true ∧
      w = fetchHalf s p (s.pc p) + fetchHalf s p (s.pc p + 2) * 2 ^ 16 ∧ next = s.pc p + 4) ∨
    (fetchHalf s p (s.pc p) % 4 ≠ 3 ∧ fetchable (s.pc p) 2 = true ∧ expandC (fetchHalf s p (s.pc p)) = some w ∧
      next = s.pc p + 2))

/-- The core runs on at a pc, and holds at no instruction. -/
def coreGoes (t : State) (p pc : Nat) : State :=
  (setCore (t.setPc p pc) p CoreSt.running).modPlank p (fun k => { k with held := none })

/-- The stream instruction e stands first on port 3 of plank p and may run: no older instruction waits on port 2, every range
that it reads or writes lies in banks that the vector engine owns, and none that it reads is poisoned. -/
structure StreamClear (s : State) (p : Nat) (e : VecSlot) (es : List VecSlot)
    (extra : State → StreamOp → List (Nat × Nat) × List (Nat × Nat)) : Prop where
  first : (s.plank p).port3 = e :: es
  order : (s.plank p).port2.all (fun x => decide (e.seq < x.seq)) = true
  owned : firstBad (s.pop3 p es) p [ownVector] ((streamDescOff e.word, 64) ::
    (streamReads (s.pop3 p es) p (streamOp (s.pop3 p es) p e.word) ++ (extra (s.pop3 p es) (streamOp (s.pop3 p es) p e.word)).1)
    ++ (streamWrites (s.pop3 p es) p (streamOp (s.pop3 p es) p e.word) ++
      (extra (s.pop3 p es) (streamOp (s.pop3 p es) p e.word)).2)) = none
  clean : poisonSum (s.pop3 p es) p ((streamDescOff e.word, 64) ::
    (streamReads (s.pop3 p es) p (streamOp (s.pop3 p es) p e.word) ++
      (extra (s.pop3 p es) (streamOp (s.pop3 p es) p e.word)).1)) = 0

/-- The request rq is accepted as verb v and is to be carried out in the state a: it came by a port that is up, over an open session
and is no repetition, and neither the module's state nor the role turns it away (R364, R367, R369, R431). -/
structure Accepted (s : State) (rq : Req) (v : Verb) (n : Nat) (x : Session) (a : State) : Prop where
  session : rq.session = some n
  awake : modState (endSpent s) ≠ 0 ∧ modState (endSpent s) ≠ 1
  port : portIsUp (endSpent s) rq.port = true
  found : findSession (endSpent s) n = some x
  opened : x.opened = true
  fresh : keptOf x rq.reqId v.code = none
  state : acceptReq (endSpent s) n rq = a
  gate : verbGate a v x.role = 0

end Sys2Proof.Machine
end

