-- ==== Sys2Proof/Certificates/Slice0/Obligations.lean ====
section
/-!
DEFINITION. The statements about the machine that are to be proved. The statements that a command completes name the state that
it leads to as a whole, so that what is not named there is as before; frames that go across commands stand at the end.
Where an operation named here rests on a choice of the model, the docstring of that operation names its assumption.
-/

open Sys2Proof Sys2Proof.Machine

/-! ## The array -/

/-- A descriptor that the core hands over with the waiting slot free is read and decoded, rd takes the refusal code
(zero for a pass taken, and where the read stops the array) and the core goes on; the offset counts modulo 2^24 and
the descriptor may lie in banks of the core or of the cells (assumption 85). A waiting pass that may begin enters the
array, a pass in the array ends, a sedge segment whose list can be read is added, a pending accumulator begins its
drain and a draining one ends it (R89, R92, R93, R98, R117). -/
def Obligations.PassCommandsComplete : Prop :=
  ∀ (s : State) (p : PlankId),
    (∀ (rd rs1 : XReg) ecc, coreReady s p = true → stopDue s p = false → (s.xreg p rs1).toNat % 32 = 0 → slotFull s p = false →
      exec (.passIssue p rd rs1 ecc) s = .next (coreNext ((issuePass s p ((s.xreg p rs1).toNat % 2 ^ 24) none ecc).2.setX p rd
        (BitVec.ofNat 64 (issuePass s p ((s.xreg p rs1).toNat % 2 ^ 24) none ecc).1)) p)) ∧
    (∀ c r, (s.plank p).wait = some r → mayBegin s p r = true →
      ∃ t, t = ((s.modPlank p (fun k => { k with run := some r, wait := none })).rsat (Reg.FEED_CORR_COUNT p) c.toNat).rsat
          (Reg.PS_ECC_CORR p) c.toNat ∧
        exec (.passBegin p c) s = .next (refreshPlank
          (if accState t p (fget r.desc Desc.SEL) == AccSt.draining then t else enterPass t p r) p)) ∧
    (∀ r, (s.plank p).run = some r → accState s p (fget r.desc Desc.SEL) = AccSt.accumulating →
      exec (.passEnd p) s = .next (endPass s p r)) ∧
    (∀ j js ecc, (s.plank p).segs = j :: js → segFault s p [j] ecc = none →
      exec (.sedgeSegment p ecc) s = .next ((runSeg (eccCounts s p ecc 0) p j).modPlank p (fun k => { k with segs := js }))) ∧
    (∀ sel, drainBusy s p = false → drainNext s p = some sel →
      exec (.drainBegin p) s = .next (refreshPlank (setAccState s p sel AccSt.draining) p)) ∧
    (∀ ecc, accState s p 0 = AccSt.draining → exec (.drainComplete p ecc) s = .next (finishDrain s p 0 ecc)) ∧
    (∀ ecc, accState s p 0 ≠ AccSt.draining → accState s p 1 = AccSt.draining →
      exec (.drainComplete p ecc) s = .next (finishDrain s p 1 ecc))

/-- A fault of a known code stops the array, and code 2 counts an uncorrectable word of the feed first; the writes of
PLANK_CTL suspend it, acknowledge its fault and discard its spill when the block takes the write; a plank whose errors
ask for it is masked (R105, R109, R110, R316). -/
def Obligations.PlankControlCompletes : Prop :=
  ∀ (s : State) (p : PlankId) (w : Writer),
    (∀ c : BitVec 8, 1 ≤ c.toNat → c.toNat ≤ 5 → c ≠ 2 → exec (.plankFault p c) s = .next (plankFaultOp s p c.toNat)) ∧
    exec (.plankFault p 2) s = .next (plankFaultOp (s.rsat (Reg.PS_ECC_UNCORR p) 1) p 2) ∧
    (blockCause s (Reg.PLANK_CTL_SUSPEND p).off = 0 →
      exec (.plankSuspendCmd p w) s = .next (suspendArray (suspendCore s p) p) ∧
      exec (.plankFaultAck p w) s = .next (faultAck s p) ∧
      exec (.plankDiscardSpill p w) s = .next (discardSpill s p)) ∧
    exec (.plankMask p) s = .next (decideMask s p)

/-- A Suspending array with nothing draining stops its feed and spills, for a pass under way at a K-block that it has
still to reach; the spill's end writes the record's VALID last; a reload ends with the accumulators as recorded (R105,
R106, R107). -/
def Obligations.SpillCommandsComplete : Prop :=
  ∀ (s : State) (p : PlankId),
    (∀ (pos : BitVec 24) ecc, plankState s p = PlankSt.suspending → (s.plank p).spilling = false → (s.plank p).reload = none →
      drainBusy s p = false → s.rbit (Reg.SOUND_STATUS_RUNNING p) = false →
      accState s p 0 ≠ AccSt.pending → accState s p 1 ≠ AccSt.pending →
      ((s.plank p).run = none → segFault s p (segsDone (s.plank p).segs pos.toNat) (if (segsDone (s.plank p).segs pos.toNat).isEmpty then .clean else ecc) = none →
        exec (.spillStart p pos ecc) s = .next (beginSpill (stopFeed (eccCounts s p ecc 0) p pos.toNat) p ecc)) ∧
      (∀ r, (s.plank p).run = some r → accState s p (fget r.desc Desc.SEL) = AccSt.accumulating →
        r.pos ≤ pos.toNat → pos.toNat < passBlocks r.desc →
        feedCheck s p r (getAcc s p (fget r.desc Desc.SEL)).sampled = none →
        segFault s p (segsDone (s.plank p).segs pos.toNat) (if (segsDone (s.plank p).segs pos.toNat).isEmpty then .clean else ecc) = none →
        exec (.spillStart p pos ecc) s = .next (beginSpill (stopFeed (eccCounts s p ecc 0) p pos.toNat) p ecc))) ∧
    ((s.plank p).spilling = true → exec (.spillComplete p) s = .next (spillDone s p)) ∧
    (∀ r ecc, (s.plank p).reload = some r → firstBad s p [ownCells] (reloadRanges s p) = none →
      storeErrs s p ecc (reloadRanges s p) = 0 →
      exec (.spillReloadComplete p ecc) s = .next (reloadDone (eccCounts s p ecc 0) p r))

/-- The core asks for an add-out or a load-in and holds until the image path answers; a request that may begin begins,
and one under way whose ranges the cells own ends. The accumulator is bit 0 of rs2 and the offset counts modulo 2^24
(assumption 12) (R143, R144, R145). -/
def Obligations.ImageCommandsComplete : Prop :=
  ∀ (s : State) (p : PlankId),
    (∀ rd rs1 rs2 : XReg, coreReady s p = true → (s.xreg p rs1).toNat % 4096 = 0 → (s.plank p).image = none →
      exec (.accAddout p rd rs1 rs2) s = .next (coreHold (s.modPlank p (fun k => { k with
        image := some (ImageReq.mk false ((s.xreg p rs2).toNat % 2) ((s.xreg p rs1).toNat % 2 ^ 24) rd false 0 false) })) p none) ∧
      exec (.accLoadin p rd rs1 rs2) s = .next (coreHold (s.modPlank p (fun k => { k with
        image := some (ImageReq.mk true ((s.xreg p rs2).toNat % 2) ((s.xreg p rs1).toNat % 2 ^ 24) rd false 0 false) })) p none)) ∧
    (∀ q ecc, imageWaiting s p = some q → imageReady s p q = true →
      (q.load = false → exec (.addoutBegin p ecc) s = .next (beginImage s p q ecc)) ∧
      (q.load = true → exec (.loadinBegin p ecc) s = .next (beginImage s p q ecc))) ∧
    (∀ q ecc, (s.plank p).image = some q → q.begun = true →
      (q.load = false → firstBad s p [ownCells] (chkSums s p (getAcc s p q.sel) ++ imageRanges q.image) = none → ecc ≠ .store →
        exec (.addoutComplete p ecc) s = .next (addoutDone (eccCounts s p ecc 0) p q)) ∧
      (q.load = true → firstBad s p [ownCells] (imageRanges q.image) = none → storeErrs s p ecc (imageRanges q.image) = 0 →
        exec (.loadinComplete p ecc) s = .next (loadinDone (eccCounts s p ecc 0) p q)))

/-! ## The vector engine and the plank core -/

/-- pass.fence advances once no pass is under way or waits and both accumulators are Free or Held, returning the count
of drains, and on a Faulted array at once with bit 63 set; vec.fence advances once both ports are empty; until then
they hold. An issued vector instruction joins its port; vec.run goes through its list; vec.xi and vec.mvx move a word,
vec.mvx from the register that bits [4:0] of rs2 number (assumption 12); plank.susp makes the array and the core
suspend (R186, R187, R188, R203). -/
def Obligations.CoreFencesAndIssueComplete : Prop :=
  ∀ (s : State) (p : PlankId), coreReady s p = true →
    (∀ rd : XReg, plankState s p ≠ PlankSt.faulted → (s.plank p).run = none → slotFull s p = false →
      (accState s p 0 = AccSt.free ∨ accState s p 0 = AccSt.held) →
      (accState s p 1 = AccSt.free ∨ accState s p 1 = AccSt.held) →
      exec (.passFence p rd) s = .next (coreNext (s.setX p rd
        (BitVec.ofNat 64 (s.rget (Reg.PASS_COUNT_DRAINS p) % 2 ^ 63))) p)) ∧
    (∀ rd : XReg, plankState s p = PlankSt.faulted →
      exec (.passFence p rd) s = .next (coreNext (s.setX p rd
        (BitVec.ofNat 64 (s.rget (Reg.PASS_COUNT_DRAINS p) % 2 ^ 63 + 2 ^ 63))) p)) ∧
    (∀ rd : XReg, plankState s p ≠ PlankSt.faulted →
      ((s.plank p).run.isSome = true ∨ slotFull s p = true ∨
        (accState s p 0 ≠ AccSt.free ∧ accState s p 0 ≠ AccSt.held) ∨ (accState s p 1 ≠ AccSt.free ∧ accState s p 1 ≠ AccSt.held)) →
      exec (.passFence p rd) s = .next (coreHold s p none)) ∧
    exec (.plankSusp p) s = .next (coreStop (s.rset (Reg.CORE_STATUS_SUSP_PEND p) 1) p 3) ∧
    (∀ rs1 : XReg, vecRefusal s p (s.xreg p rs1) = 0 → portFull s p (s.xreg p rs1) = false →
      exec (.vecIssue p rs1) s = .next (coreNext (vecEnqueue s p (s.xreg p rs1)) p)) ∧
    (∀ (rs1 rs2 : XReg) ecc, (s.xreg p rs1).toNat % 8 = 0 → exec (.vecRun p rs1 rs2 ecc) s = .next (vecRunLoop p
      (s.xreg p rs1).toNat (s.xreg p rs2).toNat (c0 4 1 0 rs1 rs2) ecc 8194 (s.plank p).vecRun s)) ∧
    ((s.plank p).port2 = [] → (s.plank p).port3 = [] → exec (.vecFence p) s = .next (coreNext s p)) ∧
    ((s.plank p).port2 ≠ [] ∨ (s.plank p).port3 ≠ [] → exec (.vecFence p) s = .next (coreHold s p none)) ∧
    (∀ rs1 : XReg, exec (.vecXi p rs1) s = .next (coreNext (s.setWord (Reg.XI_XI p).off (s.xreg p rs1)) p)) ∧
    (∀ (rd rs2 : XReg) ecc, (s.plank p).port2 = [] → ecc ≠ .vreg → exec (.vecMvx p rd rs2 ecc) s = .next (coreNext (s.setX p rd
      ((kget noF32 (s.plank p).v ((s.xreg p rs2).toNat % 32 * 512)).setWidth 64)) p))

/-- The instruction first on port 2 is taken off it and executed: FP32 arithmetic in every lane; it reads no register
word that cannot be corrected (R47, R185, R190). -/
def Obligations.LaneArithmeticCompletes : Prop :=
  ∀ (s : State) (p : PlankId) (e : VecSlot) (es : List VecSlot) (ecc : CoreEcc), (s.plank p).port2 = e :: es → ecc ≠ .vreg →
    (fget e.word Vec.OPC = 0x00 → exec (.vnop p) s = .next (laneCycles (s.pop2 p es) p 1)) ∧
    (fget e.word Vec.OPC = 0x01 → exec (.addF32 p ecc) s = .next (laneOp2 (s.pop2 p es) p e 1 addF)) ∧
    (fget e.word Vec.OPC = 0x02 → exec (.subF32 p ecc) s = .next (laneOp2 (s.pop2 p es) p e 1 subF)) ∧
    (fget e.word Vec.OPC = 0x03 → exec (.mulF32 p ecc) s = .next (laneOp2 (s.pop2 p es) p e 1 mulF)) ∧
    (fget e.word Vec.OPC = 0x04 → exec (.fmaF32 p ecc) s = .next (laneFma (s.pop2 p es) p e)) ∧
    (fget e.word Vec.OPC = 0x05 → exec (.minF32 p ecc) s = .next (laneOp2 (s.pop2 p es) p e 1 (fun _ => minF))) ∧
    (fget e.word Vec.OPC = 0x06 → exec (.maxF32 p ecc) s = .next (laneOp2 (s.pop2 p es) p e 1 (fun _ => maxF))) ∧
    (fget e.word Vec.OPC = 0x07 → exec (.absF32 p ecc) s = .next (laneOp1 (s.pop2 p es) p e 1 (fun _ x => canon (absF x)))) ∧
    (fget e.word Vec.OPC = 0x08 → exec (.negF32 p ecc) s = .next (laneOp1 (s.pop2 p es) p e 1 (fun _ x => canon (negF x)))) ∧
    (fget e.word Vec.OPC = 0x09 → exec (.divF32 p ecc) s = .next (laneOp2 (s.pop2 p es) p e 4 divF)) ∧
    (fget e.word Vec.OPC = 0x0A → exec (.sqrtF32 p ecc) s = .next (laneOp1 (s.pop2 p es) p e 4 sqrtF))

/-- The instruction first on port 2 is taken off it and executed: comparison, selection, bit operations and the
whole-register sums and maxima (R47, R185, R190). -/
def Obligations.LaneLogicCompletes : Prop :=
  ∀ (s : State) (p : PlankId) (e : VecSlot) (es : List VecSlot) (ecc : CoreEcc), (s.plank p).port2 = e :: es → ecc ≠ .vreg →
    (fget e.word Vec.OPC = 0x0B → exec (.cmp p ecc) s = .next (laneCmp (s.pop2 p es) p e)) ∧
    (fget e.word Vec.OPC = 0x0C → exec (.sel p ecc) s = .next (laneSel (s.pop2 p es) p e)) ∧
    (fget e.word Vec.OPC = 0x10 → exec (.andB32 p ecc) s = .next (laneBits (s.pop2 p es) p e (fun a b => a &&& b))) ∧
    (fget e.word Vec.OPC = 0x11 → exec (.orB32 p ecc) s = .next (laneBits (s.pop2 p es) p e (fun a b => a ||| b))) ∧
    (fget e.word Vec.OPC = 0x12 → exec (.xorB32 p ecc) s = .next (laneBits (s.pop2 p es) p e (fun a b => a ^^^ b))) ∧
    (fget e.word Vec.OPC = 0x13 →
      exec (.shlB32 p ecc) s = .next (laneBits (s.pop2 p es) p e (fun a _ => a <<< (fget e.word Vec.IMM % 32)))) ∧
    (fget e.word Vec.OPC = 0x14 →
      exec (.shrB32 p ecc) s = .next (laneBits (s.pop2 p es) p e (fun a _ => a >>> (fget e.word Vec.IMM % 32)))) ∧
    (fget e.word Vec.OPC = 0x60 → exec (.redAdd p ecc) s = .next (laneFoldOp (s.pop2 p es) p e addR (fun x => x))) ∧
    (fget e.word Vec.OPC = 0x61 → exec (.amaxV p ecc) s = .next (laneFoldOp (s.pop2 p es) p e maxF absF))

/-- The instruction first on port 2 is taken off it and executed: loads, stores, conversions, tables and random words;
one that reads a register word that cannot be corrected leaves free values in its destination and traps with cause 27,
sub-code 4 (R50, R190, R194, R195, R201). -/
def Obligations.LaneMovesComplete : Prop :=
  ∀ (s : State) (p : PlankId) (e : VecSlot) (es : List VecSlot), (s.plank p).port2 = e :: es →
    (∀ ecc : CoreEcc, ecc ≠ .vreg →
      (fget e.word Vec.OPC = 0x20 → exec (.ldW p ecc) s = .next (laneLoad (s.pop2 p es) p ecc e 4)) ∧
      (fget e.word Vec.OPC = 0x21 → exec (.ldH p ecc) s = .next (laneLoad (s.pop2 p es) p ecc e 2)) ∧
      (fget e.word Vec.OPC = 0x22 → exec (.stW p ecc) s = .next (laneStore (s.pop2 p es) p e 4)) ∧
      (fget e.word Vec.OPC = 0x23 → exec (.stH p ecc) s = .next (laneStore (s.pop2 p es) p e 2)) ∧
      (fget e.word Vec.OPC = 0x30 → exec (.cvtRegister p ecc) s = .next (laneCvt (s.pop2 p es) p e)) ∧
      (fget e.word Vec.OPC = 0x50 → imageNamed s p (s.rget (slotF p (fget e.word Vec.IMM % 4))) = false →
        exec (.tabLd p ecc) s = .next (laneTabLd (s.pop2 p es) p ecc e)) ∧
      (fget e.word Vec.OPC = 0x51 → exec (.tabF p ecc) s = .next (laneTabF (s.pop2 p es) p e)) ∧
      (fget e.word Vec.OPC = 0x68 → exec (.rngV p) s = .next (laneRng (s.pop2 p es) p e))) ∧
    (∀ c o, (c, o) ∈ [(.addF32 p .vreg, 0x01), (.subF32 p .vreg, 0x02), (.mulF32 p .vreg, 0x03), (.fmaF32 p .vreg, 0x04),
        (.minF32 p .vreg, 0x05), (.maxF32 p .vreg, 0x06), (.absF32 p .vreg, 0x07), (.negF32 p .vreg, 0x08),
        (.divF32 p .vreg, 0x09), (.sqrtF32 p .vreg, 0x0A), (.cmp p .vreg, 0x0B), (.sel p .vreg, 0x0C), (.andB32 p .vreg, 0x10),
        (.orB32 p .vreg, 0x11), (.xorB32 p .vreg, 0x12), (.shlB32 p .vreg, 0x13), (.shrB32 p .vreg, 0x14), (.stW p .vreg, 0x22),
        (.stH p .vreg, 0x23), (.cvtRegister p .vreg, 0x30), (.tabF p .vreg, 0x51), (.redAdd p .vreg, 0x60),
        (.amaxV p .vreg, 0x61)] →
      fget e.word Vec.OPC = o → exec c s = .next (vecTrap (mixDest (s.pop2 p es) p e.word) p e.word 27 4))

/-- A stream instruction that may run takes its operands from the record in the plank store and does its work there;
the words that SECDED corrected are counted (R57, R58, R78, R136, R192, R198, R199, R200). -/
def Obligations.StreamInstructionsComplete : Prop :=
  ∀ (s : State) (p : PlankId) (e : VecSlot) (es : List VecSlot) (o : StreamOp) (ecc : CoreEcc) (t : State),
    o = streamOp (s.pop3 p es) p e.word → ecc ≠ .store → t = eccCounts (s.pop3 p es) p ecc 0 →
    (fget e.word Vec.OPC = 0x40 → StreamClear s p e es (fun s o => cvtWrites s p o) →
      exec (.cvtStream p ecc) s = .next (cvtStreamOp t p o)) ∧
    (fget e.word Vec.OPC = 0x41 → StreamClear s p e es (fun s o => cvtRbReads s p o) →
      exec (.cvtRb p ecc) s = .next (cvtRbOp t p o)) ∧
    (StreamClear s p e es noRanges →
      (fget e.word Vec.OPC = 0x42 → exec (.cvtM p ecc) s = .next (mxImport t p o)) ∧
      (fget e.word Vec.OPC = 0x43 → exec (.cvtMxExport p ecc) s = .next (mxExport t p o)) ∧
      (fget e.word Vec.OPC = 0x48 → exec (.amaxTile p ecc) s = .next (amaxTile t p o)) ∧
      (fget e.word Vec.OPC = 0x49 → exec (.statFold p ecc) s = .next (statFold t p o)) ∧
      (0x70 ≤ fget e.word Vec.OPC → fget e.word Vec.OPC ≤ 0x74 →
        exec (.card p ecc) s = .next (cardStream t p o false)) ∧
      (0x78 ≤ fget e.word Vec.OPC → fget e.word Vec.OPC ≤ 0x7C →
        exec (.uncard p ecc) s = .next (cardStream t p o true)) ∧
      (fget e.word Vec.OPC = 0x7E → exec (.corrSum p ecc) s = .next (corrSum t p o))) ∧
    (fget e.word Vec.OPC = 0x7F → StreamClear s p e es (fun s o => (chkRanges s p o, [])) →
      exec (.chkCmp p ecc) s = .next (chkCompare t p o)) ∧
    (fget e.word Vec.OPC = 0x80 → StreamClear s p e es (fun s o => adamWord s p o) →
      exec (.optAdamw p ecc) s = .next (adamBlock t p o))

/-- Signals, waits, the fill list and the interleave table as a ready core runs them. A signal to another chip needs a
direction to a link die, and the record of a refused one names channel 0 to the lowest of them (assumptions 8 and
109). A wait on an object that has reached its target returns at once; else the core waits and WAIT_STATE names the
object. fill.flush goes on once the list is empty, and holds and issues its items until then (R149, R151, R152, R204,
R252, R272, R273). -/
def Obligations.SyncAndFillInstructionsComplete : Prop :=
  ∀ (s : State) (p : PlankId), coreReady s p = true →
    (∀ (rs1 rs2 : XReg) (t : State), bit (s.xreg p rs1).toNat 15 = false → t = applyHandovers s →
      (bits (s.xreg p rs1).toNat 16 14 = chipNo t ∨ (plankInject t p).isSome = true →
        exec (.syncAdd p rs1 rs2) s = .next (coreNext (plankSignal t p (bits (s.xreg p rs1).toNat 16 14)
          (bits (s.xreg p rs1).toNat 0 15) (t.xreg p rs2).toNat false) p) ∧
        exec (.syncSet p rs1 rs2) s = .next (coreNext (plankSignal t p (bits (s.xreg p rs1).toNat 16 14)
          (bits (s.xreg p rs1).toNat 0 15) (t.xreg p rs2).toNat true) p)) ∧
      (bits (s.xreg p rs1).toNat 16 14 ≠ chipNo t → plankInject t p = none →
        exec (.syncAdd p rs1 rs2) s = .next (chanRefused t p (chanIndex (p / 20) (dieOfLink (p / 20 % 4)) 0) (c1 0 0 0 rs1 rs2)))) ∧
    (∀ (rd rs1 rs2 : XReg) (o target : Nat), o = bits (s.xreg p rs1).toNat 0 15 → target = bits (s.xreg p rs2).toNat 0 32 →
      stopDue s p = false → bit (s.xreg p rs1).toNat 15 = false → bits (s.xreg p rs1).toNat 16 14 = chipNo s →
      fget (s.obj o) Obj.STATE ≠ 0 →
      (∀ st, waitStatus s o target = some st → exec (.syncWait p rd rs1 rs2) s = .next (waitReturns s p rd st)) ∧
      (waitStatus s o target = none → exec (.syncWait p rd rs1 rs2) s = .next (waitBegins s p rd o target))) ∧
    (∀ (rs1 : XReg) (e : BitVec 512) ecc (t : State), (s.xreg p rs1).toNat % 64 = 0 → (s.xreg p rs1).toNat + 64 ≤ 0x1000000 →
      storeErrs s p ecc [((s.xreg p rs1).toNat, 64)] = 0 → t = eccCounts s p ecc 0 →
      firstBad s p [ownCore] [((s.xreg p rs1).toNat, 64), fillRing s p] = none →
      e = t.recAt (storeBase p + (s.xreg p rs1).toNat) 512 → fget e Fill.PASSES ≠ 0 →
      s.rget (Reg.FILL_RING_SIZE p) ≠ 0 → (t.plank p).fillN < s.rget (Reg.FILL_RING_SIZE p) →
      exec (.fillEnq p rs1 ecc) s = .next (fillPut t p e)) ∧
    (∀ ecc, (s.plank p).fillN = 0 → exec (.fillFlush p ecc) s = .next (coreNext s p)) ∧
    (∀ ecc, (s.plank p).fillN ≠ 0 → storeBad s p [ownCore] (fillRing s p) = none →
      exec (.fillFlush p ecc) s = .next (coreHold (fillIssueNext s p (s.plank p).fillN ecc) p none)) ∧
    (s.rbit (Reg.ILV_EN p) = true → ∀ (rd : XReg) ecc, exec (.ilvNext p rd ecc) s = .next (ilvTake s p rd ecc))

/-- A wait that is over returns its status to the core, and a waiting core's fill list issues its next pass (R149,
R204, R273). -/
def Obligations.WaitingCoreGoesOn : Prop :=
  ∀ (s : State) (p : PlankId), waitHolds s p = true →
    (∀ st rd, waitStatus s (s.rget (Reg.WAIT_STATE_OBJ p)) (s.rget (Reg.WAIT_STATE_TARGET p)) = some st →
      (s.plank p).waitRd = some rd →
      exec (.syncWaitReturn p) s = .next (waitReturns (fillWithdraw (endWait s p) p) p rd st)) ∧
    (waitStatus s (s.rget (Reg.WAIT_STATE_OBJ p)) (s.rget (Reg.WAIT_STATE_TARGET p)) = none → stopDue s p = false →
      ∀ ecc, storeBad s p [ownCore] (fillRing s p) = none →
      exec (.fillPassIssue p ecc) s = .next (fillIssueNext s p (s.plank p).fillN ecc))

/-- Stream instructions of a ready core: strm.qp closes a chunk of a collective's stream, which RECORDS counts;
strm.state reads a stream's state; strm.end ends a stream with an outcome of 0 to 2 and the core goes on (assumption
45); xfer starts a transfer whose descriptor, banks, slots and channels are in order (R205, R206, R207, R225, R298,
R374). -/
def Obligations.StreamAndTransferInstructionsComplete : Prop :=
  ∀ (s : State) (p : PlankId) (rs1 : XReg) (n : Nat), coreReady s p = true → n = (s.xreg p rs1).toNat % 65536 →
    (suspPend s p = false → exec (.strmQp p rs1) s = .next (coreNext
      (if streamKind s n = 2 then strmSet s n Strm.RECORDS (fget (s.strm n) Strm.RECORDS + 1) else s) p)) ∧
    (∀ rd : XReg, exec (.strmState p rd rs1) s = .next (coreNext (s.setX p rd (BitVec.ofNat 64 (streamState s n))) p)) ∧
    (∀ rs2 : XReg, (s.xreg p rs2).toNat ≤ 2 → exec (.strmEnd p rs1 rs2) s = .next (coreNext (strmEnds (s.modPlank p (fun k =>
      { k with ended := k.ended || (s.plank p).stream.map (·.val) == some n })) n (s.xreg p rs2).toNat) p)) ∧
    (∀ ecc t d cs, (s.xreg p rs1).toNat % 64 = 0 → (s.xreg p rs1).toNat + 64 ≤ 0x1000000 →
      storeBad s p [ownCore, ownTransfer] ((s.xreg p rs1).toNat, 64) = none →
      storeErrs s p ecc [((s.xreg p rs1).toNat, 64)] = 0 → t = applyHandovers (eccCounts s p ecc 0) →
      d = (eccCounts s p ecc 0).recAt (storeBase p + (s.xreg p rs1).toNat) 512 → xferForm t p d = none →
      runsBad t p (xferRuns t d) = none → xferChans t p d = .inl cs →
      (fget d Xd.SRC_CHIP = chipNo t ∧ fget d Xd.DST_CHIP = chipNo t) ∨ outstanding t (plankLinkDie t p) ≠ 4096 →
      exec (.xfer p rs1 ecc) s = .next (xferTakes t p (rWord custom1 4 0 0 rs1 0) d cs (badLine ecc)))

/-- A transfer with nothing outstanding ends; a trapped core resets itself while Hjelper runs; a core that is asked to
suspend stops at a quiesce point; its context is written, and read back when it resumes (R206, R207, R208, R250). -/
def Obligations.TransferEndAndContextComplete : Prop :=
  ∀ (s : State) (p : PlankId),
    (∀ x t, findXfer s x = some t → t.num = x → t.writing = true → t.left = 0 →
      exec (.xferComplete x) s = .next (xferEnds s t)) ∧
    (coreState s p = CoreSt.trapped → s.rget Reg.HJ_STATUS_STATE = 1 →
      exec (.coreAutoReset p) s = .next (resetCore s p)) ∧
    (suspPend s p = true → coreActive s p = true → (s.plank p).quiesce = none →
      (s.rbit (Reg.WAIT_STATE_WAITING p) = true → qpOnly s p = false → exec (.coreQuiesce p) s = .next (coreStop s p 0)) ∧
      (∀ q, s.rbit (Reg.WAIT_STATE_WAITING p) = false → (s.plank p).held = some q → qpOnly s p = false ∨ q = 1 →
        exec (.coreQuiesce p) s = .next (coreStop s p q))) ∧
    (∀ q, (s.plank p).quiesce = some q → coreActive s p = true → (s.plank p).port2 = [] → (s.plank p).port3 = [] →
      (∀ x ∈ s.fab.xfers, x.plank ≠ p.val) → arrayQuiet s p = true → (s.plank p).ctxLost = false →
      firstBad s p [ownCells] [(ctxOff s p, ctxBytes)] = none →
      exec (.contextWriteComplete p) s = .next (contextWritten s p q)) ∧
    (coreState s p = CoreSt.quiesced → s.rbit (Reg.CORE_STATUS_CTX_VALID p) = true →
      (∀ n, (s.plank p).stream = some n → streamState s n = St.running) →
      firstBad s p [ownCells] [(ctxOff s p, ctxBytes)] = none →
      ∀ ecc, storeErrs s p ecc [(ctxOff s p, ctxBytes)] = 0 →
      exec (.coreResume p ecc) s = .next (coreResumed (eccCounts s p ecc 0) p))

/-- The writes of CORE_CTL, and one base instruction of a ready core: the word at the pc, of 4 bytes or the one that 2
bytes stand for, is executed, the register that it names takes the result (x0 takes none), and the pc moves past it or
to the target. The register-register, immediate, upper-immediate, jump, branch and fence forms, and the loads and
stores of the data memory; encodings and results are those of the standard that the spec names (assumption 32) (R202,
R209). -/
def Obligations.CoreControlAndBaseInstructionComplete : Prop :=
  ∀ (s : State) (p : PlankId) (w : Writer),
    (blockCause s (Reg.CORE_CTL_START p).off = 0 →
      exec (.coreStart p w) s = .next (coreStartOp p s) ∧
      exec (.coreReset p w) s = .next (resetCore s p) ∧
      exec (.coreDiscardCtx p w) s = .next (discardCtxOp p s)) ∧
    (∀ ecc w next (rd rs1 rs2 : XReg) (a b : Word64) (imm : BitVec 12), coreReady s p = true → ecc ≠ .imem → CoreWordAt s p w next →
      a = s.xreg p rs1 → b = s.xreg p rs2 →
      (∀ f3 f7 v, (f3, f7, v) ∈ [(0, 0, a + b), (0, 0x20, a - b), (1, 0, a <<< (b.toNat % 64)),
          (2, 0, BitVec.ofNat 64 (if a.slt b then 1 else 0)), (3, 0, BitVec.ofNat 64 (if a.ult b then 1 else 0)), (4, 0, a ^^^ b),
          (5, 0, a >>> (b.toNat % 64)), (5, 0x20, a.sshiftRight (b.toNat % 64)), (6, 0, a ||| b), (7, 0, a &&& b),
          (0, 1, a * b), (1, 1, BitVec.ofInt 64 (a.toInt * b.toInt / 2 ^ 64)), (2, 1, BitVec.ofInt 64 (a.toInt * b.toNat / 2 ^ 64)),
          (3, 1, BitVec.ofNat 64 (a.toNat * b.toNat / 2 ^ 64)), (4, 1, if b = 0 then BitVec.allOnes 64 else a.sdiv b),
          (5, 1, if b = 0 then BitVec.allOnes 64 else a / b), (6, 1, if b = 0 then a else a.srem b),
          (7, 1, if b = 0 then a else a % b)] → w = rWord 0x33 f3 f7 rd rs1 rs2 →
        exec (.coreBaseInstruction p ecc) s = .next (coreGoes (s.setX p rd v) p next)) ∧
      (∀ f3 f7 v, aluOp32 f3 f7 (a.truncate 32) (b.truncate 32) = some v → f3 < 8 → f7 < 128 → w = rWord 0x3B f3 f7 rd rs1 rs2 →
        exec (.coreBaseInstruction p ecc) s = .next (coreGoes (s.setX p rd (v.signExtend 64)) p next)) ∧
      (∀ f3 v, (f3, v) ∈ [(0, a + imm.signExtend 64), (2, BitVec.ofNat 64 (if a.slt (imm.signExtend 64) then 1 else 0)),
          (3, BitVec.ofNat 64 (if a.ult (imm.signExtend 64) then 1 else 0)), (4, a ^^^ imm.signExtend 64), (6, a ||| imm.signExtend 64),
          (7, a &&& imm.signExtend 64)] → w = encI 0x13 f3 rd rs1 imm.toNat →
        exec (.coreBaseInstruction p ecc) s = .next (coreGoes (s.setX p rd v) p next)) ∧
      (∀ n : BitVec 6, (w = encI 0x13 1 rd rs1 n.toNat →
          exec (.coreBaseInstruction p ecc) s = .next (coreGoes (s.setX p rd (a <<< n.toNat)) p next)) ∧
        (w = encI 0x13 5 rd rs1 n.toNat →
          exec (.coreBaseInstruction p ecc) s = .next (coreGoes (s.setX p rd (a >>> n.toNat)) p next)) ∧
        (w = encI 0x13 5 rd rs1 (0x400 + n.toNat) →
          exec (.coreBaseInstruction p ecc) s = .next (coreGoes (s.setX p rd (a.sshiftRight n.toNat)) p next))) ∧
      (w = encI 0x1B 0 rd rs1 imm.toNat →
        exec (.coreBaseInstruction p ecc) s = .next (coreGoes (s.setX p rd
          ((a.truncate 32 + imm.signExtend 32).signExtend 64)) p next)) ∧
      (∀ i : BitVec 20, (w = 0x37 + rd.val * 2 ^ 7 + i.toNat * 2 ^ 12 →
          exec (.coreBaseInstruction p ecc) s = .next (coreGoes (s.setX p rd ((i ++ 0#12).signExtend 64)) p next)) ∧
        (w = 0x17 + rd.val * 2 ^ 7 + i.toNat * 2 ^ 12 →
          exec (.coreBaseInstruction p ecc) s = .next (coreGoes (s.setX p rd
            (BitVec.ofNat 64 (s.pc p) + (i ++ 0#12).signExtend 64)) p next))) ∧
      (∀ i : BitVec 21, i.toNat % 2 = 0 → w = encJ i.toNat + rd.val * 2 ^ 7 →
        exec (.coreBaseInstruction p ecc) s = .next (coreGoes (s.setX p rd (BitVec.ofNat 64 next)) p
          (BitVec.ofNat 64 (s.pc p) + i.signExtend 64).toNat)) ∧
      (w = encI 0x67 0 rd rs1 imm.toNat →
        exec (.coreBaseInstruction p ecc) s = .next (coreGoes (s.setX p rd (BitVec.ofNat 64 next)) p
          ((a + imm.signExtend 64) &&& ~~~1).toNat)) ∧
      (∀ f3 taken (i : BitVec 13), (f3, taken) ∈ [(0, a == b), (1, a != b), (4, a.slt b), (5, !a.slt b), (6, a.ult b), (7, !a.ult b)] →
        i.toNat % 2 = 0 → w = encB f3 rs1 i.toNat + rs2.val * 2 ^ 20 →
        exec (.coreBaseInstruction p ecc) s = .next (coreGoes s p
          (if taken then (BitVec.ofNat 64 (s.pc p) + i.signExtend 64).toNat else next))) ∧
      (∀ f3, f3 < 2 → w = encI 0x0F f3 rd rs1 imm.toNat →
        exec (.coreBaseInstruction p ecc) s = .next (coreGoes s p next)) ∧
      (∀ f3 n o, n = 2 ^ (f3 % 4) → (a + imm.signExtend 64).toNat = dmemBase + o → o + n ≤ 0x10000 → o % n = 0 →
        (f3 < 7 → ecc ≠ .dmem → w = encI 0x03 f3 rd rs1 imm.toNat →
          exec (.coreBaseInstruction p ecc) s = .next (coreGoes (s.setX p rd
            (loadExtend f3 (leNat (kgets noByte (s.plank p).dmem o n)))) p next)) ∧
        (f3 < 4 → w = encS f3 rs1 rs2 imm.toNat →
          exec (.coreBaseInstruction p ecc) s = .next (coreGoes (s.modPlank p (fun k =>
            { k with dmem := kputs noByte k.dmem o (leBytes n b.toNat) })) p next))))

/-! ## The step transaction and integrity -/

/-- The check begins once every plank's part of Reduce is complete, folds the members' records when all are in, and an
attempt begins at a step boundary or after a verdict that asks for another (R156, R159, R160, R161, R163). -/
def Obligations.CheckCommandsComplete : Prop :=
  ∀ (s : State) (job : BitVec 16) (j : Job), findJob s job.toNat = some j →
    (∀ views, 1 ≤ j.phase → j.phase < 5 → j.final = false → (∀ p ∈ jobPlanks s job.toNat, partEnded s p = true) →
      exec (.checkBegin job views) s = .next (checkBegins s j views)) ∧
    (∀ mine others, j.own = some mine → j.phase = 5 → j.final = false → j.red = none →
      allContributed s (jobTree j) (others.map (fun o => o.chip.toNat)) = true →
      exec (.checkReductionComplete job others) s = .next (checkFolds s j mine others)) ∧
    (j.phase = 5 → j.final = true → j.verdict = Vd.reblock ∨ j.verdict = Vd.held → j.attempt < 15 →
      exec (.attemptBegin job) s = .next (replayAttempt s j)) ∧
    (j.phase = 0 → (∃ n ∈ stepStreams j, streamKind s n = 0 ∧ streamState s n = St.running) →
      exec (.attemptBegin job) s = .next (firstAttempt s j)) ∧
    (∀ slot : Fin 128, 1 ≤ j.phase → j.phase < 5 → exec (.seqLossNonfinite job slot) s = .next (seqNonfinite s j slot)) ∧
    (∀ slot, j.phase = 5 → j.final = false → j.verdict = Vd.suspect → slot = j.replayed → slot ∈ capsules s j →
      replayReady s (capsuleOff j slot) = true →
      exec (.suspectReplay job slot) s = .next (suspectOnce s j slot)) ∧
    (∀ c others, j.red = some c → j.phase = 5 → j.final = false → j.verdict = Vd.suspect →
      (capsules s j).length ≤ j.replayed → allContributed s (jobTree j) (others.map (fun o => o.chip.toNat)) = true →
      exec (.secondRoundReduction job others) s = .next (secondRound s j c others))

/-- The update's stages follow one another, each when the one before is done; a Void step ends at U3 without an
update; a stepless stream is evaluated once every member's part is in (R131, R172, R174, R176, R178, R180, R182). -/
def Obligations.UpdateStagesComplete : Prop :=
  ∀ (s : State) (job : BitVec 16) (j : Job), findJob s job.toNat = some j →
    (j.phase = 6 →
      (∀ rs, j.stage = 0 → ckptBusy s j = false → exec (.updateStageU1 job rs) s = .next (stageU1 s j rs)) ∧
      (j.stage = 1 → (∀ p, p < 160 → blocksDone s j p = true) → exec (.updateStageU2 job) s = .next (stageU2 s j)) ∧
      (j.stage = 2 → exec (.updateStageU3 job) s = .next (setStep s j.id.toNat (fun k => { k with stage := 3 }))) ∧
      (∀ plans, j.stage = 3 → (∀ t ∈ napTids s j, ∃ n ∈ plans, n.tid.toNat = t) →
        exec (.updateStageU4 job plans) s = .next (stageU4 s j plans)) ∧
      (∀ tids, j.stage = 4 → (∀ t ∈ updatedTids j, ∃ x ∈ tids, x.tid.toNat = t) →
        exec (.updateStageU5 job tids) s = .next (stageU5 s j (tids.filter (fun x => (updatedTids j).contains x.tid.toNat))))) ∧
    (j.phase = 5 → j.final = true → j.verdict = Vd.void →
      exec (.updateStageU3 job) s = .next (endStep s j.id.toNat j.stage)) ∧
    (∀ (n : StreamId) others, streamKind s n = 1 → fget (s.strm n) Strm.JOB = job.toNat →
      streamState s n = St.running ∨ streamState s n = St.suspending →
      (treeGroup s (streamTree j n) = [] ∧ others = []) ∨
        allContributed s (streamTree j n) (others.map (fun o => o.chip.toNat)) = true →
      (∀ i ∈ evalCapsules s j, replayReady s (capsuleOff j i) = true) →
      exec (.evaluationPoint job n others) s = .next (evaluate s j n others)) ∧
    ((∀ n ∈ jobStreams j, streamEnded s n = true ∨ streamState s n = St.idle) →
      exec (.jobUnload job) s = .next (unloadJob s j))

/-- Errors are filed; a sounding slice begins in an idle, powered plank and ends passed or failed; an overdue sounding
is reported; the writes of SOUND_WIN and INTEG_CTL act with no job loaded (R317, R319, R320, R324, R325, R327). -/
def Obligations.IntegrityCommandsComplete : Prop :=
  ∀ (s : State) (p : PlankId) (w : Writer),
    (∀ (cls : BitVec 8) (unit : BitVec 16) (code : BitVec 8), cls ≠ 0 ∨ unit.toNat < 160 →
      exec (.errorFiled cls unit code) s = .next (fileError s cls.toNat unit.toNat code.toNat 0 0
        (if cls.toNat = 0 then plankStep s unit.toNat else 0))) ∧
    (maySound s p = true → exec (.soundingSlice p) s = .next (sliceBegins s p)) ∧
    (∀ passed, s.rbit (Reg.SOUND_STATUS_RUNNING p) = true →
      exec (.soundingSliceEnd p passed) s = .next (sliceEnds s p passed)) ∧
    (maskedPlank s p = false → exec (.soundOverdue p) s = .next (noteOverdue s p)) ∧
    (∀ n : BitVec 8, blockCause s (Reg.SOUND_WIN_ARM p).off = 0 →
      exec (.soundWinArm p w n) s = .next (armSlices s p n.toNat)) ∧
    (blockCause s (Reg.INTEG_CTL_RESTORE p).off = 0 → s.jobs = [] →
      exec (.integRestore p w) s = .next (restorePlank s p) ∧ exec (.integUnmask p w) s = .next (unmaskPlank s p))

/-! ## Memory -/

/-- A slot of a pseudo-channel serves the oldest request of its owner. It passes idle in the calibration slice, on an
empty queue, for a bank under refresh, for a row to be opened within three slots of another, and once for an owner
whose request reverses the direction. Refresh closes a bank; calibration takes its slice; training ends with the eye
written (R217, R218, R220, R221, R222, R223, R224, R233). -/
def Obligations.StackCommandsComplete : Prop :=
  ∀ (s : State) (m : StackId) (c : PcId),
    (∀ (ecc : Ecc) q rest, stackServes s m = true → inSlice (getPc s m c) c = false →
      kget (fun _ => []) (getPc s m c).queues (shareOwner s m c ((getPc s m c).slot % 200)) = q :: rest →
      (∀ e ∈ (getPc s m c).refresh, e.1 ≠ hbmBank q.off) →
      (((getPc s m c).rows.find? (fun e => e.1 == hbmBank q.off)).map (·.2) = some (hbmRow q.off) ∨ 3 ≤ (getPc s m c).sinceAct) →
      ((getPc s m c).lastWrite = none ∨ (getPc s m c).lastWrite = some q.write ∨
        shareOwner s m c ((getPc s m c).slot % 200) ∈ (getPc s m c).turned) →
      exec (.slotServe m c ecc) s = .next (slotTakes s m c (shareOwner s m c ((getPc s m c).slot % 200)) q rest ecc)) ∧
    (∀ ecc : Ecc, stackServes s m = true →
      inSlice (getPc s m c) c = true ∨ kget (fun _ => []) (getPc s m c).queues (shareOwner s m c ((getPc s m c).slot % 200)) = [] →
      exec (.slotServe m c ecc) s = .next (setPcState s m c (slotPasses (getPc s m c)))) ∧
    (∀ (ecc : Ecc) q rest, stackServes s m = true → inSlice (getPc s m c) c = false →
      kget (fun _ => []) (getPc s m c).queues (shareOwner s m c ((getPc s m c).slot % 200)) = q :: rest →
      (((getPc s m c).lastWrite = none ∨ (getPc s m c).lastWrite = some q.write ∨
          shareOwner s m c ((getPc s m c).slot % 200) ∈ (getPc s m c).turned) →
        (∃ e ∈ (getPc s m c).refresh, e.1 = hbmBank q.off) ∨
          (((getPc s m c).rows.find? (fun e => e.1 == hbmBank q.off)).map (·.2) ≠ some (hbmRow q.off) ∧ (getPc s m c).sinceAct < 3) →
        exec (.slotServe m c ecc) s = .next (setPcState s m c (slotPasses (getPc s m c)))) ∧
      ((getPc s m c).lastWrite = some (!q.write) → shareOwner s m c ((getPc s m c).slot % 200) ∉ (getPc s m c).turned →
        exec (.slotServe m c ecc) s = .next (setPcState s m c { slotPasses (getPc s m c) with
          turned := shareOwner s m c ((getPc s m c).slot % 200) :: (getPc s m c).turned }))) ∧
    (∀ (bank : Fin 64) slots, stackServes s m = true →
      exec (.bankRefresh m c bank slots) s = .next (setPcState s m c { getPc s m c with
        rows := (getPc s m c).rows.filter (fun e => e.1 != bank.val)
        refresh := if slots = 0 then (getPc s m c).refresh
          else (bank.val, slots) :: (getPc s m c).refresh.filter (fun e => e.1 != bank.val) })) ∧
    (∀ ecc bits, stackServes s m = true → inSlice (getPc s m c) c = true →
      exec (.calibrationSlice m c ecc bits) s = .next (calSlice s m c ecc bits)) ∧
    (∀ ecc bits, stackServes s m = false → (getPc s m c).points ≠ [] →
      exec (.calibrationSlice m c ecc bits) s = .next (marginEnd (setPcState s m c (marginPoint (getPc s m c) bits)) m c)) ∧
    (stackServes s m = true → s.rget (Reg.CAL_CTL_CAL_PERIOD m) ≠ 0 → exec (.calPeriodExpiry m) s = .next (retrainAll s m)) ∧
    (∀ w, blockCause s (Reg.CAL_CTL_RETRAIN m).off = 0 → stackServes s m = true →
      exec (.calRetrain m w) s = .next (retrainAll s m)) ∧
    (∀ dqLo dqHi vrefLo vrefHi dq vref : BitVec 7, (getPc s m c).train = 1 →
      exec (.retrainComplete m c dqLo dqHi vrefLo vrefHi dq vref) s = .next (retrainDone s m c dqLo dqHi vrefLo vrefHi dq vref)) ∧
    (∀ temp, exec (.stackTempRead m temp) s = .next (stackTempOp s m temp))

/-- A write that arms a switch of a share table or of a plank's banks keeps the object and the target; when the object
has reached the target and nothing of a bank or share that changes is under way the switch applies; requests of a
masked plank, which are never served, hold nothing up (assumption 119) (R16, R216, R229, R230). -/
def Obligations.SwitchCommandsComplete : Prop :=
  ∀ (s : State) (m : StackId) (c : PcId) (p : PlankId) (w : Writer) (v : Word64),
    (blockCause s (Reg.PC_SWITCH_ARM m c).off = 0 → v.getLsbD 48 = false ∨ s.rbit (Reg.PC_STATUS_ARMED m c) = false →
      ∃ t, t = (s.rset (Reg.PC_SWITCH_OBJ m c) (fld v 14 0)).rset (Reg.PC_SWITCH_TARGET m c) (fld v 47 16) ∧
        exec (.pcSwitchArm m c w v) s = .next (if v.getLsbD 48 then t.rset (Reg.PC_STATUS_ARMED m c) 1 else t)) ∧
    (s.rbit (Reg.PC_STATUS_ARMED m c) = true → inSlice (getPc s m c) c = false →
      objReached s (s.rget (Reg.PC_SWITCH_OBJ m c)) (s.rget (Reg.PC_SWITCH_TARGET m c)) = true →
      (∀ i, i < 200 → tableOwner s m c (s.rget (Reg.PC_STATUS_ACTIVE m c)) i ≠
          tableOwner s m c (1 - s.rget (Reg.PC_STATUS_ACTIVE m c)) i →
        ownsNothing s (tableOwner s m c (s.rget (Reg.PC_STATUS_ACTIVE m c)) i) = true ∨ kget (fun _ => []) (getPc s m c).queues (tableOwner s m c (s.rget (Reg.PC_STATUS_ACTIVE m c)) i) = []) →
      exec (.shareSwitchApply m c) s = .next ((s.rset (Reg.PC_STATUS_ACTIVE m c)
        (1 - s.rget (Reg.PC_STATUS_ACTIVE m c))).rset (Reg.PC_STATUS_ARMED m c) 0)) ∧
    (blockCause s (Reg.BANK_SWITCH_ARM p).off = 0 → v.getLsbD 48 = false ∨ s.rbit (Reg.BANK_SWITCH_ARMED p) = false →
      ∃ t, t = (s.rset (Reg.BANK_SWITCH_OBJ p) (fld v 14 0)).rset (Reg.BANK_SWITCH_TARGET p) (fld v 47 16) ∧
        exec (.bankSwitchArm p w v) s = .next (if v.getLsbD 48 then t.rset (Reg.BANK_SWITCH_ARMED p) 1 else t)) ∧
    (s.rbit (Reg.BANK_SWITCH_ARMED p) = true → s.rbit (Reg.PLANK_STATUS_MASKED p) = false →
      objReached s (s.rget (Reg.BANK_SWITCH_OBJ p)) (s.rget (Reg.BANK_SWITCH_TARGET p)) = true →
      (∀ b, b < 32 → bankNext s p b ≠ bankOwner s p b → b ∉ heldBanks s p ∧ b ∉ busyBanks s p) →
      exec (.bankSwitchApply p) s = .next (bankSwitch s p)) ∧
    (blockCause s (Reg.PS_MAP_SPAN p).off = 0 →
      exec (.psMapWrite p w v) s = .next (psMapWrite s.drew p v (s.fresh.toNat % 2 ^ 32) (writerSrc w)).1)

/-! ## Links and the router -/

/-- A frame that a link in service takes in sequence is taken whole; training, identification and their failures move
the link through its states; the writes of LINK_CTL disable, retrain and test it (R239, R241, R242, R243, R244, R258). -/
def Obligations.LinkCommandsComplete : Prop :=
  ∀ (s : State) (l : LinkId) (w : Writer),
    (∀ f idle (c : BitVec 32) t, linkState s l = LinkSt.active → t = s.radd (Reg.LINK_FEC_CORR (l / 4) (l % 4)) c.toNat → fget f.ctl Ctl.CRC = (frameCrc f).toNat →
      idle = (List.range 4).all (fun i => slotLane f.ctl i == 7) →
      fget f.ctl Ctl.SEQ = (if idle then (getLink t l).rxSeq else ((getLink t l).rxSeq + 1) % 512) →
      exec (.frameReceive l f true c) s = .next (frameTaken t l f idle)) ∧
    (∀ t, isTraining s l = true → t = modLink (setLinkState s l LinkSt.identify) l (fun x => { x with failed := 0 }) →
      exec (.linkTrainingDone l) s = .next { t with out := .identity l (chipNo t) l :: t.out }) ∧
    (isTraining s l = true → (getLink s l).failed < 2 → exec (.linkTrainingTimeout l) s = .next
      (enterDown (modLink s l (fun x => { x with failed := (getLink s l).failed + 1 })) l)) ∧
    (isTraining s l = true → 2 ≤ (getLink s l).failed → exec (.linkTrainingTimeout l) s = .next
      (fileError ((setLinkState (modLink s l (fun x => { x with failed := (getLink s l).failed + 1 })) l
        LinkSt.failed).rsat (Reg.LINK_RETRY_FAILS (l / 4) (l % 4)) 1) 2 l 0 0 0 0)) ∧
    (∀ chip peer, linkState s l = LinkSt.identify → exec (.linkIdentify l chip peer) s = .next (identified s l chip peer)) ∧
    (linkState s l = LinkSt.active → exec (.codewordLockLost l) s = .next (enterTraining (leaveActive s l) l)) ∧
    ((getLink s l).lost = true → linkState s l ≠ LinkSt.active → exec (.linkLossTimeout l) s = .next (linkLost s l)) ∧
    (blockCause s (Reg.LINK_CTL_DISABLE (l / 4) (l % 4)).off = 0 →
      (∀ on, exec (.linkDisable l w on) s = .next (linkDisableOp l on s)) ∧
      exec (.linkRetrain l w) s = .next (linkRetrainOp l s) ∧
      (∀ on, exec (.linkTest l w on) s = .next (linkTestOp l on s))) ∧
    (∀ e es, (getLink s l).echoWait = e :: es → e.pools = [] → (∀ h ∈ s.fab.heads, h.id ∉ e.heads) →
      exec (.markerEcho l) s = .next (setLink s l { getLink s l with
        echoWait := es
        echoDue := (getLink s l).echoDue + 1 }))

/-- A packet head that is not held back takes its route; one that waits past the threshold crosses to the causeway
lane; a port of the router moves a flit, and in Test the patterns; a checker compares the bits that reach it; a fabric
with nothing under way reads Drained (R245, R255, R256, R257, R258, R264). -/
def Obligations.RouterCommandsComplete : Prop :=
  ∀ (s : State) (d : LinkDieId),
    (∀ i h, (dieHeads s d)[i]? = some h → h.granted = false → heldBack s h = false →
      (1 ≤ fget h.pkt.hdr Pk.TYPE → fget h.pkt.hdr Pk.TYPE ≤ 8 →
        (∀ l, h.link = some l → linkActive s l = true → exec (.packetHeadRoute d i) s = .next (crossHead s h l)) ∧
        ((∀ l, h.link = some l → linkActive s l = false) →
          exec (.packetHeadRoute d i) s = .next (takeRoute s h (routeHead s d h.pkt.hdr)))) ∧
      (fget h.pkt.hdr Pk.TYPE = 0 ∨ 8 < fget h.pkt.hdr Pk.TYPE → exec (.packetHeadRoute d i) s = .next
        ((freePool (dropHead s h.id) h (packetFlits h.pkt.hdr)).radd (Reg.ROUTER_DROP_BADPKT d) 1))) ∧
    (∀ i h hdr, (dieHeads s d)[i]? = some h → h.granted = false → heldBack s h = false → fget h.pkt.hdr Pk.LANE ≠ 4 →
      routeHead s d h.pkt.hdr = .wait → hdr = fset h.pkt.hdr Pk.LANE 4 →
      ∃ t, t = (modHead s h.id (fun h => { h with
          pkt := { h.pkt with hdr := hdr }
          link := none
          out := none })).radd (Reg.CW_COUNT_COUNT d) 1 ∧
        exec (.causewayThreshold d i) s = .next (takeRoute t { h with
          pkt := { h.pkt with hdr := hdr }
          link := none
          out := none } (routeHead t d hdr))) ∧
    (∀ k : LinkDieId, meshNeighbour d k = true →
      exec (.outputPortCycle d (.mesh k)) s = .next (meshCycle (tableTaken s d) d k)) ∧
    (∀ (j : Fin 4) t, t = tableTaken s d →
      (linkState t (4 * d.val + j.val) = LinkSt.test → exec (.outputPortCycle d (.link j)) s =
        .next (sendPattern (sendPattern t (4 * d.val + j.val) 0) (4 * d.val + j.val) 1)) ∧
      (linkActive t (4 * d.val + j.val) = true → exec (.outputPortCycle d (.link j)) s = .next (linkCycle t d j))) ∧
    (∀ (l : LinkId) (lane : Fin 2) bits x y t, linkState s l = LinkSt.test → s.rget (Reg.PAT_CTL_CHK (l / 4) (l % 4) lane) ≠ 0 →
      x = ({ fabricLane s l lane with
        lock := s.rbit (Reg.PAT_ERR_LOCK (l / 4) (l % 4) lane)
        errors := 0
        bits := 0 } : LaneTest) →
      y = bits.foldl (checkBit (s.rget (Reg.PAT_CTL_CHK (l / 4) (l % 4) lane))
        (s.word (Reg.PAT_USER_USER (l / 4) (l % 4) lane).off)) x →
      t = ((s.rset (Reg.PAT_ERR_LOCK (l / 4) (l % 4) lane) (boolNat y.lock)).radd
        (Reg.PAT_ERR_ERRORS (l / 4) (l % 4) lane) y.errors).radd (Reg.PAT_BITS_BITS (l / 4) (l % 4) lane) y.bits →
      exec (.patternCheckerLock l lane bits) s = .next (setFabricLane t l lane { y with
        lock := false
        errors := 0
        bits := 0 })) ∧
    (s.rget (Reg.FAB_STATUS_MODE 0) = 1 → (∀ l, l < 48 → linkActive s l = true → markBack (getLink s l) = true) →
      (∀ d, d < 12 → routerHolds s d = false) → (∀ x ∈ s.fab.xfers, awaits s x = false) → s.fab.dones = [] →
      s.fab.serves = [] → exec (.fabricDrained) s = .next (drained s)) ∧
    (∀ i x, (s.fab.dones.filter (fun x => x.die == d.val))[i]? = some x →
      exec (.doneRecordFlush d i) s = .next (sendDone (setDones s (s.fab.dones.erase x)) x))

/-- A packet for this chip is taken by its type; a flit of a tree is taken by its kind (R249, R250, R276, R278, R280,
R299). -/
def Obligations.PacketCommandsComplete : Prop :=
  ∀ (s : State) (d : LinkDieId) (pkt : Packet) (src : BitVec 14) (flit : BitVec 512),
    (forMe s 1 pkt = true → exec (.pktWrite d pkt) s = .next (writePacket (takeArrived s d pkt) d pkt)) ∧
    (forMe s 2 pkt = true → exec (.pktAccum d pkt) s = .next (accumPacket s d pkt)) ∧
    (forMe s 3 pkt = true → ∀ ecc, exec (.pktReadReq d pkt ecc) s = .next (readPacket s d pkt ecc)) ∧
    (forMe s 4 pkt = true → exec (.pktReadData d pkt) s = .next (dataPacket s d pkt)) ∧
    (forMe s 5 pkt = true → exec (.pktDone d pkt) s = .next (donePacket s d pkt)) ∧
    (forMe s 6 pkt = true → exec (.pktSignal d pkt) s = .next (signalArrives s d pkt)) ∧
    (forMe s 7 pkt = true → exec (.pktChunk d pkt) s = .next (writePacket (takeArrived s d pkt) d pkt)) ∧
    (fget flit Tf.KIND = 1 → exec (.treeArrive src flit) s = .next (treeArrive s src flit)) ∧
    (fget flit Tf.KIND = 2 → exec (.treeRelease flit) s = .next (treeRelease s flit)) ∧
    (fget flit Tf.KIND = 3 → exec (.treeOwnerMessage flit) s = .next (treeOwner s flit)) ∧
    (fget flit Tf.KIND = 4 → exec (.treeAbort flit) s = .next (treeAbort s flit))

/-- The two words of an object command: the first is kept for the writer, the second claims, re-arms or retires the
object once its conditions hold; waits, barriers, a step that is held and a check record that members have still to
fold are reported when they outlast their limits. The limit of the last two is BAR_WDOG.LIMIT, and their reports name
object 0 (assumption 106) (R160, R164, R269, R270, R282). -/
def Obligations.ObjectCommandsComplete : Prop :=
  ∀ (s : State) (w : Writer) (o : ObjId) (v : Word64) (t : State),
    (blockCause s (objCmdOff o 0) = 0 → exec (.objCmdWord0 w o v) s = .next (setLatch s w v)) ∧
    (blockCause s (objCmdOff o 1) = 0 → objCommand s w o v = some t →
      (fget v OCmd.CMD = 1 → exec (.objClaim w o v) s = .next t) ∧
      (fget v OCmd.CMD = 2 → exec (.objRearm w o v) s = .next t) ∧
      (fget v OCmd.CMD = 3 → exec (.objRetire w o v) s = .next t)) ∧
    (∀ p : PlankId, s.rbit (Reg.WAIT_STATE_WAITING p) = true → s.rget (Reg.WAIT_WDOG_LIMIT p) ≠ 0 →
      exec (.waitWatchdog (.plank p)) s = .next (waitReport s p)) ∧
    (∀ b : BarId, s.rbit (Reg.BAR_VALID b) = true → s.rget Reg.BAR_WDOG_LIMIT ≠ 0 → genBegun s b = true →
      exec (.barrierWatchdog (.barrier b)) s = .next (barrierReport s b)) ∧
    (∀ job j, findJob s job = some j → s.rget Reg.BAR_WDOG_LIMIT ≠ 0 →
      (∀ n : BitVec 16, n.toNat = job → stepHeld j = true →
        exec (.waitWatchdog (.held n)) s = .next (stepReport s j 0 0 0 0)) ∧
      (∀ (n : BitVec 16) arrived hums, n.toNat = job → checkWaits j = true →
        isLeader s (jobTree j) = true ∨ isRoot s (jobTree j) = true →
        exec (.barrierWatchdog (.check n arrived hums)) s = .next (checkReport s j arrived.toNat hums.toNat)))

/-! ## Power, pins and management -/

/-- What Hjelper samples: the input rail, the energy counters and the die sensors take each reading while the domain
that holds them has power. An island's rail more than 5 % off its target is logged and drives PG_OUT low (assumption
122) (R336, R340, R343, R344). -/
def Obligations.SamplesAreTaken : Prop :=
  ∀ s : State,
    (∀ mv cur, alwaysOn s = true → exec (.inputSample mv cur) s = .next (inputSampled s mv cur)) ∧
    (∀ nj, hjRuns s = true → exec (.energyRead nj) s = .next (energyAdded s nj)) ∧
    (∀ sensor temp, alwaysOn s = true → exec (.tempSensorRead sensor temp) s = .next (sensorRead s sensor temp)) ∧
    (alwaysOn s = true → s.rget Reg.VIN_MV < 32000 ∨ 40000 < s.rget Reg.VIN_MV →
      exec (.railOutOfRange .vin) s = .next (fileEvent (alert s 3) 1 0x0033 8 0 0 0)) ∧
    (∀ (i : Fin 192) (mv : BitVec 16), alwaysOn s = true →
      (20 * ((s.rget (Reg.VMON_TARGET i) : Int) - mv.toNat).natAbs ≤ s.rget (Reg.VMON_TARGET i) →
        exec (.railOutOfRange (.island i mv)) s = .next (railTaken s i mv.toNat)) ∧
      (∀ t, s.rget (Reg.VMON_TARGET i) < 20 * ((s.rget (Reg.VMON_TARGET i) : Int) - mv.toNat).natAbs → t = railTaken s i mv.toNat →
        exec (.railOutOfRange (.island i mv)) s = .next (fileEvent { t with board := { t.board with pgOut := false } } 1 0x0034
          (sensorUnit i).1 (sensorUnit i).2 0 0))) ∧
    (∀ mv : BitVec 16, 30500 ≤ mv.toNat → exec (.inputPathChange mv) s = .next (tryPowerOn { s with board := { s.board with
      vinOk := true } })) ∧
    (∀ mv : BitVec 16, mv.toNat < 28000 → s.board.inputClosed = true → modState s ≠ 0 →
      exec (.inputPathChange mv) s = .next (pathOpens (powerDown { s with board := { s.board with
        vinOk := false } })))

/-- The power cap, the backstop, the clocks and the trips: each acts when its condition holds (R334, R337, R338, R339,
R343, R345, R349). -/
def Obligations.PowerCommandsComplete : Prop :=
  ∀ (s : State) (w : Writer) (v : Word64),
    (hjRuns s = true → s.rbit Reg.POWER_CAP_EN = true →
      s.rget Reg.POWER_CAP_CAP_W * 1000 < s.rget Reg.INPUT_PWR_AVG_MW →
      exec (.capCompare) s = .next (setCapClock s (max 1350 (s.rget Reg.POWER_STATUS_CAP_MHZ - 27)))) ∧
    (hjRuns s = true → s.rbit Reg.POWER_CAP_EN = false →
      exec (.capCompare) s = .next (setCapClock s (min 2700 (s.rget Reg.POWER_STATUS_CAP_MHZ + 27)))) ∧
    (hjRuns s = true → s.rbit Reg.POWER_CAP_EN = true → s.rget Reg.POWER_STATUS_CAP_MHZ = 1350 →
      s.rbit Reg.POWER_STATUS_UNMET = false → s.rget Reg.POWER_CAP_CAP_W * 1000 < s.rget Reg.INPUT_PWR_AVG_MW →
      exec (.capUnmet) s = .next (fileEvent (alert (s.rset Reg.POWER_STATUS_UNMET 1) 4) 1 0x0022 6 0 0 0)) ∧
    (blockCause s Reg.POWER_CAP_CAP_W.off = 0 → exec (.powerCapWrite w v) s = .next (powerCapOp s v)) ∧
    (blockCause s Reg.THR_COMPUTE_WARN.off = 0 → exec (.thrComputeWrite w v) s = .next (thrComputeOp s v)) ∧
    (alwaysOn s = true → s.rbit Reg.POWER_STATUS_BACKSTOP = false → s.rget Reg.IIN_LIMIT_LIMIT < s.rget Reg.IIN_CUR →
      exec (.backstopEngage) s = .next (markIvs (fileEvent (alert (s.rset Reg.POWER_STATUS_BACKSTOP 1) 5) 1 0x0023 6 0 0 0)
        (fun v => { v with backstop := true }))) ∧
    (hjRuns s = true → s.rbit Reg.POWER_STATUS_BACKSTOP = true →
      s.rget Reg.INPUT_PWR_AVG_MW < s.rget Reg.POWER_CAP_CAP_W * 1000 →
      exec (.backstopRelease) s = .next (s.rset Reg.POWER_STATUS_BACKSTOP 0)) ∧
    (∀ c : DieId, hjRuns s = true →
      (∃ i, i < 20 ∧ (16 * s.rget Reg.THR_COMPUTE_THROTTLE : Int) ≤ sensorTemp s (20 * c.val + i)) →
      exec (.thermalClockStep c) s = .next (markIvs (setThermal s c.val (max 1350 (thermalMhz s c.val - 27)))
        (fun v => { v with throttled := true }))) ∧
    (∀ cause, modState s ≠ 0 → modState s ≠ 1 → modState s ≠ 8 → causeHolds s cause = true →
      exec (.trip cause) s = .next (tripNow s))

/-- A powered plank's clock moves by at most 27 MHz towards its target, and its rail with it (R104, R315, R334, R335). -/
def Obligations.ClockGlides : Prop :=
  ∀ (s : State) (p : PlankId) (new : Nat), powered s p = true →
    new = (if s.rget (Reg.PLANK_CLOCK_MHZ p) < targetMhz s p then min (targetMhz s p) (s.rget (Reg.PLANK_CLOCK_MHZ p) + 27)
      else max (targetMhz s p) (s.rget (Reg.PLANK_CLOCK_MHZ p) - 27)) →
    exec (.clockGlideStep p) s = .next ((s.rset (Reg.VMON_TARGET p) (targetMv s p new)).rset (Reg.PLANK_CLOCK_MHZ p) new)

/-- The inputs of the module: an accepted level acts for its pin; a pin leaves chatter; power is down at last (R345,
R346, R347, R348, R349, R423, R424). -/
def Obligations.PinCommandsComplete : Prop :=
  ∀ (s : State) (level : Bool),
    exec (.pwrEn level) s = .next (acceptLevel s PinNo.pwrEn level) ∧
    exec (.presentN level) s = .next (acceptLevel s PinNo.presentN level) ∧
    exec (.thermTripN level) s = .next (acceptLevel s PinNo.thermTripN level) ∧
    exec (.resetN level) s = .next (acceptLevel s PinNo.resetN level) ∧
    exec (.holdN level) s = .next (acceptLevel s PinNo.holdN level) ∧
    (∀ pin : Fin 5, modState s ≠ 0 → (kget pinReset s.board.pins pin.val).chatter = true →
      exec (.chatterExit pin level) s = .next (chatterEnds s pin level)) ∧
    (modState s = 0 → s.board.inputClosed = true → exec (.powerDownComplete) s = .next (tryPowerOn (pathOpens s)))

/-- Hjelper's watchdog, its restart and an activation that has to be undone; the references; the boot slot and the
bring-up of the compute dies (R332, R333, R352, R399, R405, R409, R410, R431). -/
def Obligations.ManagementCommandsComplete : Prop :=
  ∀ s : State,
    (hjRuns s = true → exec (.hjelperWatchdogKick) s = .next { s.tick with board := { s.board with wdogAt := s.hc } }) ∧
    (s.board.hjUp = true → exec (.hjelperWatchdogReset) s = .next (hjelperFalls s)) ∧
    (∀ read, hjMayRun s = true → exec (.hjelperRestart read) s = .next (hjelperRises s read)) ∧
    (∀ a, s.board.activation = some a → s.rget Reg.HJ_STATUS_STATE = 2 →
      exec (.activationRevert) s = .next (activationReverts s a)) ∧
    (∀ (x : Fin 2) ppm, modState s ≠ 0 → modState s ≠ 1 → s.rbit (refOk x) = true →
      exec (.refclkLoss x ppm) s = .next (refLost s x ppm)) ∧
    (∀ (x : Fin 2) (ppm : BitVec 16), modState s ≠ 0 → modState s ≠ 1 → s.rbit (refOk x) = false →
      (signed ppm.toNat 16).natAbs ≤ 500 → exec (.refclkReturn x ppm) s = .next (refBack s x ppm)) ∧
    (∀ straps, modState s = 2 → s.board.booted = false → s.board.recoveryFailed = false →
      exec (.slotSelect straps) s = .next (slotChosen s straps)) ∧
    (∀ (c : DieId) ok0 ok1 sweeps failed lists, s.board.booted = true → hjRuns s = true → s.board.calNext = c.val →
      modState s = 2 ∨ modState s = 4 ∨ modState s = 6 →
      exec (.dieCalibrationComplete c ok0 ok1 sweeps failed lists) s = .next (dieCalibrated s c ok0 ok1 sweeps failed lists))

/-! ## Host networks and sessions -/

/-- A host port comes up where it is served and out of test, and falls; a port that is up answers the requests of the
network for its own addresses, ICMP over IPv4 with DF set, and only counts a frame that it drops; which VLAN ids it
takes is the model's reading (assumption 124) (R356, R357). -/
def Obligations.NetworkCommandsComplete : Prop :=
  ∀ (s : State) (e : PortId),
    (portServed s e = true → portInTest s e = false → s.rbit Reg.REFCLK_STATUS_REF1_OK = true →
      exec (.ethPortUp e true) s = .next (((s.rset (Reg.PORT_STATUS_UP e) 1).rset (Reg.PORT_STATUS_FEC_LOCK e) 1).rset
        (Reg.PORT_STATUS_AN_DONE e) 1)) ∧
    (portIsUp s e = true → exec (.ethPortUp e false) s = .next (portGoesDown s e)) ∧
    (∀ x t, portIsUp s e = true → t = portRx s e x 1 →
      (frameDropped t e x = false →
        (∀ mac sip tip, tip ≠ 0 → tip = portIp4 t e →
          exec (.arpRequest e x mac sip tip) s = .next (portTx t e (.arpReply e (portVlan t e) (portMac t e) (portIp4 t e) mac sip) 1)) ∧
        (∀ src target, target = portIp6 t e →
          exec (.neighbourSolicitation e x src target) s = .next (portTx t e
            (.neighbourAdvert e (portVlan t e) (portMac t e) (portIp6 t e) src) 1)) ∧
        (∀ src target data, target = portIp6 t e →
          exec (.icmpEcho e x true src target data) s = .next (portTx t e
            (.echoReply e (portVlan t e) true false target src data) 1)) ∧
        (∀ src target data, portIp4 t e ≠ 0 → target = (portIp4 t e).setWidth 128 →
          exec (.icmpEcho e x false src target data) s = .next (portTx t e
            (.echoReply e (portVlan t e) false true target src data) 1))) ∧
      (frameDropped t e x = true → ∀ mac sip tip v6 src target data,
        exec (.arpRequest e x mac sip tip) s = .next t ∧ exec (.neighbourSolicitation e x src target) s = .next t ∧
        exec (.icmpEcho e x v6 src target data) s = .next t))

/-- A fragment of a frame that the port takes joins its message, a sealed one through its session; partial messages
and idle sessions time out; a host opens a session with HELLO and FINISH (R362, R363, R365, R366, R368). -/
def Obligations.SessionCommandsComplete : Prop :=
  ∀ (s : State) (e : PortId) (a : State),
    (∀ f peer head payload tag, portIsUp s e = true → a = endSpent (portRx s e f 1) → frameDropped a e f = false →
      headOk head (parseHead head) = true → kindAllowed (parseHead head) = true →
      ((parseHead head).kind ≠ 1 →
        exec (.sluiceFragment e f peer head payload tag) s = .next (fragmentArrives a e peer (parseHead head) head payload payload)) ∧
      ((parseHead head).kind = 1 →
        exec (.sluiceFragment e f peer head payload tag) s = .next (sealedFragment a e peer (parseHead head) head payload tag))) ∧
    (∀ n reqId, exec (.reassemblyTimeout n reqId) s = .next (setParts s (s.net.parts.filter (fun p =>
      !(p.session == n && p.reqId == reqId))))) ∧
    (∀ n, s.net.sessions.any (fun x => x.num == n) = true → exec (.sessionIdleTimeout n) s = .next (endSession s n)) ∧
    (∀ peer reqId payload role, netAnswers (endSpent s) e = true → a = helloTaken (endSpent s) reqId → payload.length = 1664 →
      (liveSessions a).find? (fun x => x.helloReq == reqId && x.hello == payload) = none → setupGate a = none → roleOf a (slice payload 32 64) = some role → (liveSessions a).length < 16 →
      exec (.hello e peer reqId payload) s = .next (sessionOpens a e peer reqId payload (slice payload 32 64) role)) ∧
    (∀ n peer reqId payload x, netAnswers (endSpent s) e = true → a = finishTaken (endSpent s) n reqId →
      findSession a n = some x → keptOf x reqId 0x02 = none → x.opened = false → payload.length = 7219 → setupGate a = none →
      exec (.finish e peer n reqId payload) s = .next (sessionFinish a e peer n reqId payload x))

/-! ## The verbs -/

/-- An accepted verb that only reads is answered at once: identity, status, attestation, words of the window, the
objects and the logs (R268, R283, R322, R369, R371, R381). -/
def Obligations.ReadingVerbsComplete : Prop :=
  ∀ (s : State) (rq : Req) (n : Nat) (x : Session) (a : State),
    (Accepted s rq { code := 1, inHold := true, inMire := true, inBoot := true, inTrip := true, enrol := true, cached := true }
        n x a →
      exec (.ident rq) s = .next (respond a rq 1 (.done (if hjelperUp a || a.net.cache.1.isEmpty then identPayload a
        else a.net.cache.1)))) ∧
    (Accepted s rq { code := 2, inHold := true, inMire := true, inBoot := true, inTrip := true, enrol := true, cached := true }
        n x a →
      (hjelperUp a = true ∨ a.net.cache.2 = [] →
        exec (.statusVerb rq) s = .next (respond a.tick rq 2 (.done (statusPayload a a.hc)))) ∧
      (hjelperUp a = false → a.net.cache.2 ≠ [] →
        exec (.statusVerb rq) s = .next (respond a rq 2 (.done a.net.cache.2)))) ∧
    (∀ nonce, Accepted s rq { code := 3, inHold := true, inMire := true, inBoot := true, inTrip := true, enrol := true } n x a →
      nonce.length = 32 →
      exec (.attest rq nonce) s = .next (respond (makeReport a nonce).2 rq 3 (.done (makeReport a nonce).1))) ∧
    (∀ (off : BitVec 64) (len : BitVec 32), Accepted s rq
        { code := 0x10, inHold := true, inMire := true, inBoot := true, inTrip := true } n x a →
      8 ≤ len.toNat → len.toNat ≤ 4096 → len.toNat % 8 = 0 → off.toNat % 8 = 0 → inWindow off.toNat = true →
      off.toNat + len.toNat ≤ 2 ^ 44 →
      exec (.peek rq off len) s = .next (respond a rq 0x10 (.done
        ((List.range (len.toNat / 8)).flatMap (fun i => leBytes 8 (peekWord a (off.toNat + 8 * i)).toNat))))) ∧
    (Accepted s rq { code := 0x40, inHold := true } n x a →
      exec (.syncDump rq) s = .next (respond a.tick.tick rq 0x40 (.done (syncDump a.tick a.hc a.tick.hc)))) ∧
    (∀ (first : BitVec 32) (count : BitVec 16), 1 ≤ count.toNat →
      (Accepted s rq { code := 0x41, inHold := true, inMire := true, inBoot := true, inTrip := true } n x a →
        count.toNat ≤ 63 → exec (.logRead rq first count) s = .next (respond a rq 0x41 (.done
          (seqRange first.toNat count.toNat (fun q =>
            (a.evlog.find? (fun e => fget e.2 (31, 0) == q)).map (fun e => leBytes 128 e.2.toNat)))))) ∧
      (Accepted s rq { code := 0x42, inHold := true, inMire := true, inBoot := true, inTrip := true } n x a →
        count.toNat ≤ 127 → exec (.peatRead rq first count) s = .next (respond a rq 0x42 (.done
          (seqRange first.toNat count.toNat (fun q =>
            (a.peat.find? (fun e => peatIntact e.2 && fget e.2 Peat.SEQ == q)).map (fun e => leBytes 64 e.2.toNat)))))))

/-- An accepted verb on a job or its streams acts and answers: loading, suspending, resuming and cancelling, holding a
step, releasing it and deciding it, and the checkpoint. A request for a whole job answers with the state of the stream
it names where that is the job's, else of the job's lowest (assumption 58) (R165, R166, R377, R378, R379, R388, R406). -/
def Obligations.JobVerbsComplete : Prop :=
  ∀ (s : State) (rq : Req) (n : Nat) (x : Session) (a : State) (job : BitVec 16),
    (∀ (source : BitVec 8) (off : BitVec 64) lists r, Accepted s rq { code := 0x20, operator := true } n x a →
      source.toNat ≤ 1 → off.toNat < 2 ^ 44 →
      r = (if source = 0 then loadConfigured a lists else loadJob a off.toNat lists) →
      (∀ d, r.1 = some d → exec (.jobLoad rq source off lists) s = .next (respond r.2 rq 0x20 (.refused d))) ∧
      (∀ j, r.1 = none → r.2.jobs.getLast? = some j →
        exec (.jobLoad rq source off lists) s = .next (respond r.2 rq 0x20 (.done (be 2 j.id.toNat))))) ∧
    (∀ (stream : BitVec 16) (flags : BitVec 8) ns b first shown, flags.toNat ≤ 1 →
      ns = namedStreams a stream flags job → ns.head? = some first →
      shown = (if ns.contains stream.toNat then stream.toNat else first) →
      (Accepted s rq { code := 0x21, operator := true } n x a →
        b = ns.foldl (fun s n => suspendStreamOp s n Susp.host) a →
        exec (.suspendStream rq stream flags job) s = .next (respond b rq 0x21 (.done (be 1 (streamState b shown))))) ∧
      (Accepted s rq { code := 0x22, operator := true } n x a → ns.any (namesMasked a) = false → b = ns.foldl resumeOne a →
        exec (.resumeStream rq stream flags job) s = .next (respond b rq 0x22 (.done (be 1 (streamState b shown))))) ∧
      (Accepted s rq { code := 0x23, operator := true } n x a → ns.all (streamEnded a) = false → b = ns.foldl cancelOne a →
        exec (.cancelStream rq stream flags job) s = .next (respond b rq 0x23 (.done (be 1 (streamState b shown)))))) ∧
    (∀ (step : BitVec 64) j, findJob a job.toNat = some j →
      (Accepted s rq { code := 0x24, operator := true } n x a →
        j.step < step.toNat ∨ (step.toNat = j.step ∧ j.final = false) →
        exec (.holdStep rq job step) s = .next (respond (modJob a job.toNat (fun j =>
          { j with holds := step.toNat :: j.holds.filter (· != step.toNat) })) rq 0x24 (.done []))) ∧
      (Accepted s rq { code := 0x25, operator := true } n x a → step.toNat ∈ j.holds →
        exec (.releaseStep rq job step) s = .next (respond (modJob a job.toNat (fun j =>
          { j with holds := j.holds.filter (· != step.toNat) })) rq 0x25 (.done []))) ∧
      (∀ (d : BitVec 8) others c, Accepted s rq { code := 0x26, operator := true } n x a → 1 ≤ d.toNat → d.toNat ≤ 3 →
        j.step = step.toNat → j.phase = 5 → j.verdict = Vd.held → j.final = false → j.red = some c →
        exec (.verdict rq job step d others) s = .next (respond
          (joinDecision a j c d.toNat others) rq 0x26 (.done [])))) ∧
    (∀ (stream : BitVec 16) j, Accepted s rq { code := 0x27, operator := true } n x a → findJob a job.toNat = some j →
      streamState a stream.toNat = St.queued ∨ streamState a stream.toNat = St.running → streamKind a stream.toNat = 5 →
      fget (a.strm stream.toNat) Strm.JOB = job.toNat → (a.data stream.toNat).isSome = true → j.ckpt = none →
      exec (.checkpoint rq job stream) s = .next (respond (modJob a job.toNat (fun j =>
        { j with ckpt := some (stream.toNat, false) })) rq 0x27
        (.done (be 8 (ckptStep j)))))

/-- An accepted verb on the fabric, the firmware slots, the keys or the streams of a host acts and answers.
DRAIN_FABRIC that meets a fabric out of service changes nothing, and UNDRAIN sets MODE 0 from any MODE (assumption 60)
(R224, R253, R258, R259, R264, R380, R382, R439, R444). -/
def Obligations.OtherVerbsComplete : Prop :=
  ∀ (s : State) (rq : Req) (n : Nat) (x : Session) (a : State),
    (∀ (off : BitVec 64) data r, Accepted s rq { code := 0x11, inHold := true, operator := true } n x a →
      8 ≤ data.length → data.length % 8 = 0 → off.toNat % 8 = 0 → inWindow off.toNat = true →
      off.toNat + data.length ≤ 2 ^ 44 →
      r = pokeWords (.host n (if rq.port.val < 4 then 0 else 1)) (a.fresh.toNat % 2 ^ 32) (payloadWords data) off.toNat 0
        (a.drew, none) →
      (r.2 = none → exec (.poke rq off data) s = .next (respond r.1 rq 0x11 (.done []))) ∧
      (∀ i, r.2 = some i → exec (.poke rq off data) s = .next (respond r.1 rq 0x11 (.refused i)))) ∧
    (Accepted s rq { code := 0x30, operator := true } n x a →
      ∃ b, b = (if a.rget (Reg.FAB_STATUS_MODE 0) = 0 then drainAgain.startDrain a else a) ∧
        exec (.drainFabric rq) s = .next (respond b rq 0x30 (.done (be 1 (b.rget (Reg.FAB_STATUS_MODE 0)))))) ∧
    (∀ image, Accepted s rq { code := 0x31, operator := true } n x a → image.length = 5184 →
      a.rget (Reg.FAB_STATUS_MODE 0) = 2 →
      routingOk image (a.rget Reg.CHIP_ID_HUMMOCK) (a.rget Reg.CHIP_ID_MEMBER) = true →
      exec (.tableLoad rq image) s = .next (respond (takeTable a image) rq 0x31 (.done []))) ∧
    (Accepted s rq { code := 0x32, operator := true } n x a → exec (.undrain rq) s = .next (respond
      ((List.range 12).foldl (fun s d => s.rset (Reg.FAB_STATUS_MODE d) 0) a) rq 0x32 (.done []))) ∧
    (∀ (lc : BitVec 8) (unit : BitVec 16) (lane gen chk : BitVec 8) (user : BitVec 64) (action : BitVec 8) r,
      Accepted s rq { code := 0x61, inHold := true, operator := true } n x a → lc.toNat < 4 → gen.toNat < 8 →
      chk.toNat < 8 → action.toNat < 3 → laneExists lc.toNat unit.toNat lane.toNat = true →
      r = (if lc = 0 then patternFabric unit.toNat lane.toNat gen.toNat chk.toNat user action.toNat a
        else patternOther lc.toNat unit.toNat lane.toNat gen.toNat chk.toNat user action.toNat a) →
      exec (.pattern rq lc unit lane gen chk user action) s = .next (respond r.2 rq 0x61 r.1)) ∧
    (∀ (m : BitVec 8) (pcs : BitVec 64) (param first last stride : BitVec 8),
      Accepted s rq { code := 0x60, inHold := true, inMire := true, operator := true } n x a → m.toNat < 16 →
      param.toNat < 4 → pcs ≠ 0 → sweepPoints first last stride ≠ [] → a.net.margin = none →
      exec (.margin rq m pcs param first last stride) s = .next (keep
        (startMargin rq m.toNat pcs param.toNat (sweepPoints first last stride) a) n rq.reqId none)) ∧
    (∀ (reportId : BitVec 64) ct entries r y, Accepted s rq { code := 0x70, operator := true } n x a → ct.length = 1568 →
      entries.length ≤ 65535 → (∀ e ∈ entries, e.length = 64) → a.net.report = some r → r.stale = false →
      r.id = reportId.toNat →
      y = entries.foldl (takeKey (Config.kmac256 (Config.kemDecaps r.dk ct) (Config.sha3_512 r.bytes) 256
        (ascii "EXM-T40 KEY WRAP"))) (0, a) →
      exec (.keyDeliver rq reportId ct entries) s = .next (respond y.2 rq 0x70 (.done (be 2 y.1)))) ∧
    (∀ payload, Accepted s rq { code := 0x71, operator := true } n x a → payload.length = 88 →
      (parseOpen payload).job = 0xFFFF ∨ (findJob a (parseOpen payload).job).isSome = true →
      openRefused a payload (parseOpen payload) = false →
      exec (.streamOpen rq payload) s = .next (respond (openStream a n (parseOpen payload)) rq 0x71 (.done []))) ∧
    (∀ stream : BitVec 16, Accepted s rq { code := 0x72, operator := true } n x a → streamEnded a stream.toNat = true →
      exec (.streamClose rq stream) s = .next (respond (closeStream a stream.toNat) rq 0x72 (.done [])))

/-- An accepted verb of a firmware update acts on the session's update and answers; a refusal is kept in LAST_REFUSAL;
a reload of Hjelper answers when it is over (R351, R395, R413, R414, R415, R416). -/
def Obligations.UpdateVerbsComplete : Prop :=
  ∀ (s : State) (rq : Req) (n : Nat) (x : Session) (a : State),
    (∀ (slot : BitVec 8) (len : BitVec 32) r,
      Accepted s rq { code := 0x50, inHold := true, inMire := true, inTrip := true, operator := true, enrol := true } n x a →
      slot.toNat ≤ 1 → r = updateBegin slot.toNat len.toNat n a →
      exec (.updateBegin rq slot len) s = .next (respond (noteRefusal r.2 r.1) rq 0x50 r.1)) ∧
    (∀ (off : BitVec 32) data r,
      Accepted s rq { code := 0x51, inHold := true, inMire := true, inTrip := true, operator := true, enrol := true } n x a →
      data.length ≤ 61440 → r = updateChunk off.toNat data n a →
      exec (.updateChunk rq off data) s = .next (respond (noteRefusal r.2 r.1) rq 0x51 r.1)) ∧
    (∀ r, Accepted s rq
        { code := 0x52, inHold := true, inMire := true, inTrip := true, operator := true, enrol := true } n x a →
      r = updateCommit n a →
      exec (.updateCommit rq) s = .next (respond (noteRefusal r.2 r.1) rq 0x52 r.1)) ∧
    (∀ (mask : BitVec 32) r v, v = ({ code := 0x53, inHold := true, inMire := true, operator := true, enrol := true } : Verb) →
      Accepted s rq { v with cached := s.board.activation.isSome } n x a →
      (modState a = 3 → r = activateMire rq mask.toNat a) →
      (modState a ≠ 3 → mask.toNat < 16 ∧ a.board.activation = none ∧ r = activateService rq mask.toNat a) →
      (r.1 = none → exec (.updateActivate rq mask) s = .next (keep r.2 n rq.reqId none)) ∧
      (∀ y, r.1 = some y → exec (.updateActivate rq mask) s = .next (respond r.2 rq 0x53 y)))

/-! ## Streams of the hosts -/

/-- Events are acknowledged and sent again; records of ingest, egress, checkpoint and load streams arrive, are written
and are read, in frames that the port takes, and an opcode that the module does not take is answered with a NAK;
credits, acknowledgements and congestion act on their queue pair (R359, R361, R372, R375, R385, R386, R387). -/
def Obligations.RecordCommandsComplete : Prop :=
  ∀ (s : State) (q : QpId) (n : StreamId) (d : DataStream),
    (∀ k reqId, exec (.eventAck k reqId) s = .next (modSession s k (fun x =>
      { x with events := x.events.filter (fun v => v.reqId != reqId) }))) ∧
    (∀ k reqId x v, findSession (endSpent s) k = some x → x.events.find? (fun v => v.reqId == reqId) = some v → v.tries ≤ 8 →
      exec (.eventResend k reqId) s = .next (sendMsg (modSession (endSpent s) k (fun x => { x with
        events := x.events.map (fun v => if v.reqId == reqId then { v with tries := v.tries + 1 } else v) }))
        x.port x.peer (eventMsg x reqId v.record))) ∧
    (∀ f message, qpDropped s q f = false → qpUp s q = true →
      (bit (parseRec message).flags 2 = false ∨ (parseRec message).len ≠ 0 →
        exec (.ingestRecord q f true message) s = .next (recordArrives (qpReceive s q f message.length) q message)) ∧
      exec (.ingestRecord q f false message) s = .next (qpSend (qpReceive s q f message.length) q (.invalidNak q))) ∧
    (s.data n = some d → d.moved = true → streamLive s n = true → streamKind s n ≠ 7 → qpUp s d.qp = true →
      exec (.egressRecordWrite n) s = .next (sendRecord (s.modData n (fun d => { d with moved := false })) n)) ∧
    (∀ w, s.data n = some d → d.moved = false → streamState s n = St.running → d.busy = false → qpUp s d.qp = true →
      d.next < d.remoteSlots + d.freed → keyHeld s n d = true → nextRecord s n d = some w →
      exec (.egressRecordWrite n) s = .next (sendRecord
        (hostQueue (s.modData n (fun d => { d with busy := true })) w []) n)) ∧
    (∀ f record, s.data n = some d → qpDropped s d.qp f = false → streamKind s n = 7 → d.busy = true → qpUp s d.qp = true →
      exec (.loadRecord n f record) s = .next (loadArrives (qpReceive s d.qp f record.length) n d record)) ∧
    (s.data n = some d → streamKind s n = 7 → streamState s n = St.running → d.busy = false → qpUp s d.qp = true →
      slotFree s d d.next = true → loadAllowed s d = true →
      exec (.loadReadIssue n) s = .next ((sendRead s d).modData n (fun d => { d with busy := true }))) ∧
    (∀ f kind, qpDropped s q f = false → s.data n = some d → d.qp = q.val → dataOut s n = true → qpUp s q = true →
      exec (.roceAck q f n kind) s = .next (ackArrives (qpReceive s q f 0) q n d kind)) ∧
    (qpUsable s q = true → (qpUsers s q).filter (dataOut s) ≠ [] →
      exec (.roceAckTimeout q) s = .next (qpRetry s q false ((qpUsers s q).filter (dataOut s)))) ∧
    (∀ f t, qpDropped s q f = false → qpUp s q = true → t = qpReceive s q f 0 →
      exec (.cnpReceive q f) s = .next ((t.radd Reg.ROCE_CNP_RECEIVED 1).setQp q { t.qp q with
        rate := max 1000000 ((t.qp q).rate / 2) })) ∧
    ((s.qp q).connected = true → exec (.rateIncrease q) s = .next (s.setQp q { s.qp q with
      rate := min 100000000 ((s.qp q).rate + 5000000) })) ∧
    (∀ f message t, qpDropped s q f = false → qpUp s q = true → bit (parseRec message).flags 2 = true → (parseRec message).len = 0 →
      t = qpAck (qpReceive s q f message.length) q message.length → t.data (parseRec message).stream = some d →
      boundTo d q = true → streamKind t (parseRec message).stream = 4 ∨ streamKind t (parseRec message).stream = 5 →
      exec (.creditRecord q f message) s = .next (t.setData (parseRec message).stream (some { d with
        freed := max d.freed (parseRec message).rseq })))

/-- A stream whose planks and records are quiet ends its cancelling or its suspending; the checkpoint that a job waits
for begins at the step boundary; a write of any register word acts by its module offset, and one that is not aligned
is counted, as cause 4 before every other (assumption 74) (R375, R377, R388, R441, R443). -/
def Obligations.StreamEndsAndRegisterWritesComplete : Prop :=
  ∀ (s : State) (n : StreamId) (w : Writer),
    (streamState s n = St.cancelling → exec (.streamQuiesced n) s = .next (cancelEnds s n)) ∧
    (streamState s n = St.suspending → dataBusy s n = false → (∀ p ∈ streamPlanks s n, plankQuiet s p = true) →
      ∃ t, t = streamTo s n St.suspended ∧ exec (.streamQuiesced n) s = .next
        (if fget (t.strm n) Strm.SUSP_SRC = 0 then streamRuns t n else t)) ∧
    (∀ job j k, findJob s job.toNat = some j → j.ckpt = some (k, false) → j.phase = 0 →
      exec (.checkpointWrite job) s = .next (checkpointBegins s job.toNat j k)) ∧
    (∀ (off v : BitVec 64), inWindow off.toNat = true →
      (off.toNat % 8 = 0 →
        exec (.registerWrite w off v) s = .next (writeWord s.drew w off.toNat v (s.fresh.toNat % 2 ^ 32)).1) ∧
      (off.toNat % 8 ≠ 0 → exec (.registerWrite w off v) s = .next (badStore s w off.toNat)))

/-! ## The queue and the invariant -/

/-- The block takes the command at the front of its queue and runs it with the rest of the queue in place. -/
def Obligations.StepRunsTheFrontCommand : Prop :=
  ∀ (c : Instr) (cs : List Instr) (s : State), step { s with pending := c :: cs } = exec c { s with pending := cs }

/-- With no command waiting the block idles (the model's choice, assumption 16). -/
def Obligations.EmptyQueueIdles : Prop := ∀ s : State, s.pending = [] → step s = .next s

/-- No word spells a command: the table gives no row bits (the model's reading, assumption 15). -/
def Obligations.NoWordSpellsACommand : Prop :=
  ∀ (nbits w : Nat) (s : State), decodeTableWord nbits w = none ∧ s.withFetchWord nbits w = s

/-- Every command, in every state, leads to a next state, and the commands that wait still wait in their order. A
command whose condition does not hold leads to the state it met (the model's choice, assumption 35). -/
def Obligations.EveryCommandAnswersANextState : Prop :=
  ∀ (c : Instr) (s : State), ∃ t, exec c s = .next t ∧ t.pending = s.pending

/-- However many commands wait, they are taken one a step, first in, first out, and none stops the block. A command
whose condition does not hold changes nothing, and a step on an empty queue changes nothing (the model's choices,
assumptions 35 and 16). -/
def Obligations.CommandsRunFirstInFirstOut : Prop :=
  ∀ (k : Nat) (s : State), ∃ t, State.run k s = .next t ∧ t.pending = s.pending.drop k

/-- After reset every table is canonical, nothing waits, and no job or session is there, and every plank is empty.
That memory reads 0 and that the registers of the cores start at 0 is the model's choice (assumptions 1 and 2) (R445). -/
def Obligations.ResetMeetsTheInvariant : Prop :=
  State.reset.Wf ∧ State.reset.pending = [] ∧ State.reset.jobs = [] ∧ State.reset.net.sessions = [] ∧
    (∀ a, State.reset.byte a = 0) ∧ ∀ p, State.reset.plank p = plankReset p

/-- From every state whose tables are canonical, a step leads to a state whose tables are canonical: register words,
memory and its poison, planks with their registers, objects, streams, logs, pseudo-channels. Equal contents stay equal
data. -/
def Obligations.EveryStepKeepsTheTables : Prop := ∀ s t : State, s.Wf → step s = .next t → t.Wf

/-! ## The register window -/

/-- A word that R443 hides reads 0, and a write of it only counts in WIN_ERR with cause 2; a write to a masked plank's
block is counted with cause 3, INTEG_CTL excepted, and its words read as they are; a reserved offset reads 0 and its
write counts with cause 1. A counted write changes no word but WIN_ERR and WIN_ERR_ADDR, and nothing else. That cause
3 goes before cause 1 for a reserved offset of a masked plank is the model's choice (assumption 74). A write in Off or
while RESET_N is low is lost (R443, R445, R447). -/
def Obligations.IgnoredWritesAreOnlyCounted : Prop :=
  ∀ (s : State) (w : Writer) (off v : BitVec 64), inWindow off.toNat = true → off.toNat % 8 = 0 →
    (modState s = 0 ∨ modState s = 1 → exec (.registerWrite w off v) s = .next s.drew) ∧
    (modState s ≠ 0 → modState s ≠ 1 →
    (∀ p : PlankId, plankBase p ≤ off.toNat → off.toNat < plankBase (p + 1) → powered s p = false →
      readWord s off.toNat = 0 ∧ exec (.registerWrite w off v) s = .next (winErr s.drew 2 (writerSrc w) off.toNat)) ∧
    (modState s = 3 → mireExcluded off.toNat = true →
      readWord s off.toNat = 0 ∧ exec (.registerWrite w off v) s = .next (winErr s.drew 2 (writerSrc w) off.toNat)) ∧
    (∀ p : PlankId, plankBase p ≤ off.toNat → off.toNat < plankBase (p + 1) → powered s p = true →
      s.rbit (Reg.PLANK_STATUS_MASKED p) = true → off.toNat ≠ (Reg.INTEG_CTL_RESTORE p).off →
      (wordExists off.toNat = true → readWord s off.toNat = shownWord s off.toNat) ∧
      exec (.registerWrite w off v) s = .next (winErr s.drew 3 (writerSrc w) off.toNat)) ∧
    (wordExists off.toNat = false → readWord s off.toNat = 0 ∧ (blockCause s off.toNat = 0 →
      exec (.registerWrite w off v) s = .next (winErr s.drew 1 (writerSrc w) off.toNat)))) ∧
    (∀ c, s.Wf → { winErr s.drew c (writerSrc w) off.toNat with
        win := s.win
        draws := s.draws } = s ∧
      ∀ i, i ≠ Reg.WIN_ERR_COUNT.off → i ≠ Reg.WIN_ERR_ADDR_OFFSET.off →
        (winErr s.drew c (writerSrc w) off.toNat).word i = s.word i)

/-- A write that Table 18-2 guards is ignored and counted with cause 3; a POKE applies its words in ascending order,
each as a write of its own, and answers with the index of the first that was ignored (R444). -/
def Obligations.GuardedWritesAreIgnored : Prop :=
  (∀ (s : State) (w : Writer) (off v : BitVec 64), blockCause s off.toNat = 0 → modState s ≠ 0 → modState s ≠ 1 →
    (∀ p : PlankId,
      (off.toNat = (Reg.SPILL_BASE_BASE p).off ∧ s.rbit (Reg.PLANK_STATUS_SPILL_VALID p) = true) ∨
      ((off.toNat = (Reg.CTX_BASE_BASE p).off ∨ off.toNat = (Reg.FTAB_BASE p).off) ∧
        s.rbit (Reg.CORE_STATUS_CTX_VALID p) = true) ∨
      (off.toNat = (Reg.EXC_RING_BASE p).off ∧ (s.rget (Reg.PLANK_STATUS_STATE p) = 1 ∨ s.rget (Reg.PLANK_STATUS_STATE p) = 2)) ∨
      (off.toNat = (Reg.CHK_BUF_BASE p).off ∧ (accState s p 0 ≠ AccSt.free ∨ accState s p 1 ≠ AccSt.free)) ∨
      (off.toNat = (Reg.FILL_RING_BASE p).off ∧ (s.rget (Reg.FILL_PTR_HEAD p) ≠ s.rget (Reg.FILL_PTR_TAIL p) ∨
        s.rbit (Reg.FILL_PTR_ITEM_HELD p) = true)) ∨
      (off.toNat = (Reg.CORE_ENTRY_ENTRY p).off ∧ s.rget (Reg.CORE_STATUS_STATE p) ≠ 0) ∨
      ((off.toNat = (Reg.BANK_NEXT_LO_NEXT p).off ∨ off.toNat = (Reg.BANK_NEXT_HI_NEXT p).off ∨
        (off.toNat = (Reg.BANK_SWITCH_ARM p).off ∧ v.getLsbD 48 = true)) ∧ s.rbit (Reg.BANK_SWITCH_ARMED p) = true) ∨
      (off.toNat = (Reg.INTEG_CTL_RESTORE p).off ∧ s.jobs ≠ []) →
      exec (.registerWrite w off v) s = .next (winErr s.drew 3 (writerSrc w) off.toNat)) ∧
    (∀ (m : StackId) (c : PcId),
      (∃ t i, t < 2 ∧ i < 25 ∧ off.toNat = shareOff m c t i ∧
        (s.rbit (Reg.PC_STATUS_ARMED m c) = true ∨ s.rget (Reg.PC_STATUS_ACTIVE m c) = t)) ∨
      (off.toNat = (Reg.PC_SWITCH_ARM m c).off ∧ v.getLsbD 48 = true ∧ s.rbit (Reg.PC_STATUS_ARMED m c) = true) →
      exec (.registerWrite w off v) s = .next (winErr s.drew 3 (writerSrc w) off.toNat)) ∧
    (∀ t i, t < 16 → (i < 128 ∧ off.toNat = treeMapOff t 0 + 8 * i) ∨ (i < 256 ∧ off.toNat = treeMaskOff t 0 + 8 * i) →
      treeNamed s t = true → exec (.registerWrite w off v) s = .next (winErr s.drew 3 (writerSrc w) off.toNat)) ∧
    (∀ b : BarId, (∃ i, i < 8 ∧ off.toNat = barOff b i) → s.rbit (Reg.BAR_VALID b) = true →
      exec (.registerWrite w off v) s = .next (winErr s.drew 3 (writerSrc w) off.toNat)) ∧
    (∀ (p : PlankId) (q : Nat), s.Wf → off.toNat = (Reg.PS_MAP_SPAN p).off → q < 8 →
      bits v.toNat (2 * q) 2 ≠ spanCode s p q → (∃ i, i < 4 ∧ bankOwner s p (4 * q + i) ≠ ownCore) →
      ∃ t, exec (.registerWrite w off v) s = .next t ∧ t.rget Reg.WIN_ERR_CAUSE = 3 ∧ spanCode t p q = spanCode s p q)) ∧
  (∀ (s : State) (rq : Req) (n : Nat) (x : Session) (a : State) (off : BitVec 64) (data : List Byte) (xs : Nat → State) (d : HostDie),
    Accepted s rq { code := 0x11, inHold := true, operator := true } n x a → 8 ≤ data.length → data.length % 8 = 0 →
    off.toNat % 8 = 0 → inWindow off.toNat = true → off.toNat + data.length ≤ 2 ^ 44 →
    d = (if rq.port.val < 4 then 0 else 1) → xs 0 = a.drew →
    (∀ i, i < data.length / 8 → xs (i + 1) = (writeWord (xs i) (.host n d) (off.toNat + 8 * i)
      (BitVec.ofNat 64 (leAt data (8 * i) 8)) (a.fresh.toNat % 2 ^ 32)).1) →
    ((∀ i, i < data.length / 8 → (writeWord (xs i) (.host n d) (off.toNat + 8 * i)
        (BitVec.ofNat 64 (leAt data (8 * i) 8)) (a.fresh.toNat % 2 ^ 32)).2 = false) →
      exec (.poke rq off data) s = .next (respond (xs (data.length / 8)) rq 0x11 (.done []))) ∧
    (∀ k, k < data.length / 8 → (∀ i, i < k → (writeWord (xs i) (.host n d) (off.toNat + 8 * i)
        (BitVec.ofNat 64 (leAt data (8 * i) 8)) (a.fresh.toNat % 2 ^ 32)).2 = false) →
      (writeWord (xs k) (.host n d) (off.toNat + 8 * k)
        (BitVec.ofNat 64 (leAt data (8 * k) 8)) (a.fresh.toNat % 2 ^ 32)).2 = true →
      exec (.poke rq off data) s = .next (respond (xs (data.length / 8)) rq 0x11 (.refused k))))

/-- A write of a word without behaviour of its own in the identity, Hjelper, sensor and peat-log blocks follows the
access codes of its fields: bits that may be written take the value, bits that a one clears clear where it has a one,
every other bit stays (R5, R6, R441). -/
def Obligations.PlainWritesFollowTheAccessCodes : Prop :=
  ∀ (s t : State) (w : Writer) (off v : BitVec 64) (r : RegRow), s.Wf → regRow off.toNat = some r →
    (identBase ≤ off.toNat ∧ off.toNat < sensorBase + 0x10000) ∨ (peatBase ≤ off.toNat ∧ off.toNat < peatBase + 0x100000) →
    off.toNat ≠ Reg.POWER_CAP_CAP_W.off → off.toNat ≠ Reg.THR_COMPUTE_WARN.off → modState s ≠ 0 → modState s ≠ 1 →
    modState s ≠ 3 ∨ mireExcluded off.toNat = false →
    exec (.registerWrite w off v) s = .next t →
    (∀ i, i < 64 → (t.word off.toNat).getLsbD i =
      (if r.rw.testBit i then v.getLsbD i || (s.word off.toNat).getLsbD i && r.w1c.testBit i && !v.getLsbD i
        else if r.w1c.testBit i then (s.word off.toNat).getLsbD i && !v.getLsbD i
        else (s.word off.toNat).getLsbD i)) ∧
    (∀ i, i ≠ off.toNat → t.word i = s.word i) ∧
    { t with
      win := s.win
      draws := s.draws } = s

/-- Where PS_MAP is written, a quad takes its new span code only when all four of its banks are the plank core's; a
quad that would change and may not counts the write in WIN_ERR with cause 3, and an active core traps with cause 26,
sub-code 1. That the quad keeps its code and the others of the write change is the model's reading (assumption 70)
(R229, R444). -/
def Obligations.PsMapChangesOwnedQuadsOnly : Prop :=
  ∀ (s : State) (p : PlankId) (w : Writer) (v : Word64), s.Wf → blockCause s (Reg.PS_MAP_SPAN p).off = 0 →
    ∃ t, exec (.psMapWrite p w v) s = .next t ∧
      (∀ q, q < 8 → spanCode t p q = (if ∀ i, i < 4 → bankOwner s p (4 * q + i) = ownCore then bits v.toNat (2 * q) 2
        else spanCode s p q)) ∧
      (∀ q, q < 8 → bits v.toNat (2 * q) 2 ≠ spanCode s p q → (∃ i, i < 4 ∧ bankOwner s p (4 * q + i) ≠ ownCore) →
        t.rget Reg.WIN_ERR_CAUSE = 3 ∧ (coreActive s p = true →
          coreState t p = CoreSt.trapped ∧ t.rget (Reg.TRAP_INFO_CAUSE p) = 26 ∧ t.rget (Reg.TRAP_INFO_SUB p) = 1))

/-! ## Objects -/

/-- An object has reached a target when (VALUE − t) mod 2^32 lies below 2^31. A wait on the chip's own object returns
success then; until then it holds and WAITERS counts it; another chip's object or a Retired one traps; a wait on an
Orphaned one returns 1, or 2 where its CAUSE is that of a cancel (R273). -/
def Obligations.WaitsFollowTheWindow : Prop :=
  ∀ (s : State) (p : PlankId) (rd rs1 rs2 : XReg) (o : ObjId) (target : Nat), s.Wf → coreReady s p = true → stopDue s p = false →
    (s.xreg p rs1).getLsbD 15 = false → o.val = bits (s.xreg p rs1).toNat 0 15 → target = bits (s.xreg p rs2).toNat 0 32 →
    (objReached s o target = true ↔
      ((fget (s.obj o) Obj.VALUE : Int) - target) % 2 ^ 32 < 2 ^ 31) ∧
    (bits (s.xreg p rs1).toNat 16 14 ≠ chipNo s ∨ fget (s.obj o) Obj.STATE = 0 →
      exec (.syncWait p rd rs1 rs2) s = .next (coreTrap s p 24 0x0A (c1 1 0 rd rs1 rs2) 0)) ∧
    (bits (s.xreg p rs1).toNat 16 14 = chipNo s → fget (s.obj o) Obj.STATE = 1 ∨ fget (s.obj o) Obj.STATE = 2 →
      (((fget (s.obj o) Obj.VALUE : Int) - target) % 2 ^ 32 < 2 ^ 31 →
        exec (.syncWait p rd rs1 rs2) s = .next (coreNext (s.setX p rd 0) p)) ∧
      (2 ^ 31 ≤ ((fget (s.obj o) Obj.VALUE : Int) - target) % 2 ^ 32 →
        ∃ t, exec (.syncWait p rd rs1 rs2) s = .next t ∧
          fget (t.obj o) Obj.WAITERS = (fget (s.obj o) Obj.WAITERS + 1) % 256 ∧
          t.rbit (Reg.WAIT_STATE_WAITING p) = true ∧ t.rget (Reg.WAIT_STATE_OBJ p) = o ∧
          t.rget (Reg.WAIT_STATE_TARGET p) = target ∧ coreState t p = CoreSt.waiting ∧ t.pc p = s.pc p)) ∧
    (bits (s.xreg p rs1).toNat 16 14 = chipNo s → fget (s.obj o) Obj.STATE = 3 →
      exec (.syncWait p rd rs1 rs2) s = .next (waitReturns s p rd (if fget (s.obj o) Obj.CAUSE = 2 then 2 else 1)) ∧
      ∃ t, exec (.syncWait p rd rs1 rs2) s = .next t ∧ ((∀ j, plankJob s p = some j → j.red = none) →
        t.pc p = (s.pc p + 4) % 2 ^ 64 ∧ (rd.val ≠ 0 → t.xreg p rd = (if fget (s.obj o) Obj.CAUSE = 2 then 2 else 1))))

/-- A claim, a re-arm or a retire of an object: its condition, what it sets, and what becomes of a command against its
condition. A claim and a re-arm are stated where no valid barrier has the object as its ARRIVE_OBJ, since such a
barrier may then arrive and signal other objects (R269, R270). -/
def Obligations.ObjectCommandsKeepTheirConditions : Prop :=
  ∀ (s : State) (w : Writer) (o : ObjId) (v : Word64) (r l : Word64) (c : ObjRec), s.Wf → blockCause s (objCmdOff o 1) = 0 →
    r = v &&& 0xFFFF0000800000C0#64 → l = latchOf s w → c = s.obj o → s.fab.selfSig = [] →
    (fget v OCmd.CMD = 1 →
      (r = 0 → fget c Obj.STATE = 0 → (∀ n d, w = .host n d → fget v OCmd.OWNER < 0xA0 ∨ fget v OCmd.OWNER = 0xB0 ∨
          fget v OCmd.OWNER = 0xB1) → (∀ b : BarId, s.rbit (Reg.BAR_VALID b) = true → s.rget (Reg.BAR_ARRIVE_OBJ b) ≠ o) →
        ∃ t, exec (.objClaim w o v) s = .next t ∧ (∀ i, i ≠ o.val → t.obj i = s.obj i) ∧
          fget (t.obj o) Obj.VALUE = fget l OCmd.VALUE ∧ fget (t.obj o) Obj.EPOCH = fget l OCmd.EPOCH ∧
          fget (t.obj o) Obj.OWNER_STREAM = fget l OCmd.STREAM ∧ fget (t.obj o) Obj.TREE = fget v OCmd.TREE ∧
          fget (t.obj o) Obj.PARTNER_CHIP = fget v OCmd.PARTNER_CHIP ∧ fget (t.obj o) Obj.PARTNER_EN = fget v OCmd.PARTNER_EN ∧
          fget (t.obj o) Obj.PARTNER_STREAM = fget v OCmd.PARTNER_STREAM ∧
          (∀ q, w = .plank q → fget (t.obj o) Obj.OWNER = q.val) ∧
          (∀ n d, w = .host n d → fget (t.obj o) Obj.OWNER = fget v OCmd.OWNER) ∧
          fget (t.obj o) Obj.WAITERS = 0 ∧ fget (t.obj o) Obj.CAUSE = 0 ∧ fget (t.obj o) Obj.PARTNER_SUSP = 0 ∧
          fget (t.obj o) Obj.SIGNALS = 0 ∧ fget (t.obj o) Obj.LAST_SRC = 0xFF ∧ fget (t.obj o) Obj.LAST_CHIP = 0 ∧
          fget (t.obj o) Obj.LAST_STEP = 0 ∧ fget (t.obj o) Obj.STATE = 1) ∧
      (r ≠ 0 ∨ fget c Obj.STATE ≠ 0 ∨ (∃ n d, w = .host n d ∧ 0xA0 ≤ fget v OCmd.OWNER ∧ fget v OCmd.OWNER ≠ 0xB0 ∧
          fget v OCmd.OWNER ≠ 0xB1) → exec (.objClaim w o v) s = .next (objRefused s w))) ∧
    (fget v OCmd.CMD = 2 →
      (r = 0 → ownsObj w c = true → fget c Obj.STATE = 1 → fget c Obj.WAITERS = 0 →
        (∀ b : BarId, s.rbit (Reg.BAR_VALID b) = true → s.rget (Reg.BAR_ARRIVE_OBJ b) ≠ o) →
        ∃ t, exec (.objRearm w o v) s = .next t ∧ (∀ i, i ≠ o.val → t.obj i = s.obj i) ∧
          t.obj o = fset (fset c Obj.VALUE (fget l OCmd.VALUE)) Obj.EPOCH (fget l OCmd.EPOCH)) ∧
      (r ≠ 0 ∨ ownsObj w c = false ∨ fget c Obj.STATE ≠ 1 ∨ fget c Obj.WAITERS ≠ 0 →
        exec (.objRearm w o v) s = .next (objRefused s w))) ∧
    (fget v OCmd.CMD = 3 →
      (r = 0 → fget c Obj.STATE = 3 ∨
          ((fget c Obj.STATE = 1 ∨ fget c Obj.STATE = 2) ∧ ownsObj w c = true ∧ fget c Obj.WAITERS = 0) →
        ∃ t, exec (.objRetire w o v) s = .next t ∧ (∀ i, i ≠ o.val → t.obj i = s.obj i) ∧
          fget (t.obj o) Obj.STATE = 0 ∧ fget (t.obj o) Obj.OWNER = 0xFF) ∧
      (r ≠ 0 ∨ fget c Obj.STATE = 0 ∨ (fget c Obj.STATE ≠ 3 ∧ (ownsObj w c = false ∨ fget c Obj.WAITERS ≠ 0)) →
        exec (.objRetire w o v) s = .next (objRefused s w))) ∧
    (∀ n d, objRefused s (.host n d) = s) ∧
    (∀ q, objRefused s (.plank q) =
      (if coreActive s q then coreTrap s.drew q 24 0x0B (s.fresh.toNat % 2 ^ 32) 0 else s))

/-! ## Arithmetic and the lanes -/

/-- Minimum, maximum and amax of binary32 numbers: a NaN operand gives NaN, −0 orders below +0, amax compares absolute
values; otherwise the result is the lesser or the greater operand by sign and magnitude (R47). -/
def Obligations.MinimumMaximumAndAmax : Prop :=
  ∀ a b : F32,
    (isNan32 a = true ∨ isNan32 b = true → minF a b = f32Nan ∧ maxF a b = f32Nan ∧ amaxF a b = f32Nan) ∧
    (isNan32 a = false → isNan32 b = false →
      (a.getLsbD 31 = true → b.getLsbD 31 = false → minF a b = a ∧ minF b a = a ∧ maxF a b = b ∧ maxF b a = b) ∧
      (a.getLsbD 31 = false → b.getLsbD 31 = false → a.toNat ≤ b.toNat →
        minF a b = a ∧ minF b a = a ∧ maxF a b = b ∧ maxF b a = b) ∧
      (a.getLsbD 31 = true → b.getLsbD 31 = true → b.toNat ≤ a.toNat →
        minF a b = a ∧ minF b a = a ∧ maxF a b = b ∧ maxF b a = b) ∧
      (a.toNat % 2 ^ 31 ≤ b.toNat % 2 ^ 31 → (amaxF a b).toNat = b.toNat % 2 ^ 31 ∧ (amaxF b a).toNat = b.toNat % 2 ^ 31)) ∧
    minF 0x80000000 0 = 0x80000000 ∧ maxF 0x80000000 0 = 0 ∧ amaxF 0x80000000 0x80000000 = 0

/-- What lane l of the destination register holds after an instruction of two operands that reads no register word
that cannot be corrected: the lane's own result, or, with PRED and a clear bit of VM, what it held (R189, R190, R191). -/
def Obligations.LanesTakeTheirOwnResults : Prop :=
  ∀ (s : State) (p : PlankId) (e : VecSlot) (es : List VecSlot) (l : Nat) (m : Rnd) (f : F32 → F32 → F32) (c : Instr)
    (ecc : CoreEcc), s.Wf → ecc ≠ .vreg → (s.plank p).port2 = e :: es → l < 512 → m = Rnd.ofCode (fget e.word Vec.RND) 0 0 →
    (c, fget e.word Vec.OPC, f) ∈ [(.addF32 p ecc, 0x01, addF m), (.subF32 p ecc, 0x02, subF m), (.mulF32 p ecc, 0x03, mulF m),
      (.minF32 p ecc, 0x05, minF), (.maxF32 p ecc, 0x06, maxF), (.divF32 p ecc, 0x09, divF m), (.andB32 p ecc, 0x10, fun a b => a &&& b),
      (.orB32 p ecc, 0x11, fun a b => a ||| b), (.xorB32 p ecc, 0x12, fun a b => a ^^^ b)] →
    ∃ t, exec c s = .next t ∧
      kget noF32 (t.plank p).v (fget e.word Vec.VD * 512 + l) =
        (if fget e.word Vec.PRED = 1 ∧ (s.plank p).vm.getLsbD l = false then kget noF32 (s.plank p).v (fget e.word Vec.VD * 512 + l)
          else f (kget noF32 (s.plank p).v (fget e.word Vec.VA * 512 + l)) (kget noF32 (s.plank p).v (fget e.word Vec.VB * 512 + l))) ∧
      (∀ i, i / 512 ≠ fget e.word Vec.VD → kget noF32 (t.plank p).v i = kget noF32 (s.plank p).v i) ∧
      (t.plank p).vm = (s.plank p).vm

/-- The instructions of port 2 that work on registers alone, reading none that cannot be corrected, change nothing but
the lanes of their own plank: no memory, no object, no register word but VEC_STATUS and VEC_CYCLES, nothing of another
plank (R185, R190, R191). -/
def Obligations.LaneInstructionsChangeOnlyTheirLanes : Prop :=
  ∀ (s t : State) (p : PlankId) (ecc : CoreEcc) (c : Instr), s.Wf → ecc ≠ .vreg →
    c ∈ [.vnop p, .addF32 p ecc, .subF32 p ecc, .mulF32 p ecc, .fmaF32 p ecc, .minF32 p ecc, .maxF32 p ecc, .absF32 p ecc,
      .negF32 p ecc, .divF32 p ecc, .sqrtF32 p ecc, .cmp p ecc, .sel p ecc, .andB32 p ecc, .orB32 p ecc, .xorB32 p ecc,
      .shlB32 p ecc, .shrB32 p ecc, .redAdd p ecc, .amaxV p ecc] →
    exec c s = .next t → OnlyLanes s t p

/-! ## The plank and its core -/

/-- A trap writes TRAP_INFO, enters Trapped and halts the core; the objects that the core owns become Orphaned, and
the fill list is discarded: here for sync.wait on a Retired object, cause 24, sub-code 0x0A, and for sync.wait and
sync.add with a reserved bit, sub-code 3. That the trap leaves the pc and every register as they are is the model's
reading (assumption 41) (R209). -/
def Obligations.ATrapHaltsTheCore : Prop :=
  ∀ (s t : State) (p : PlankId) (rd rs1 rs2 : XReg) (sub : Nat), s.Wf → coreReady s p = true → stopDue s p = false →
    (sub = 0x0A ∧ (s.xreg p rs1).getLsbD 15 = false ∧ fget (s.obj (bits (s.xreg p rs1).toNat 0 15)) Obj.STATE = 0 ∧
        exec (.syncWait p rd rs1 rs2) s = .next t) ∨
      (sub = 3 ∧ (s.xreg p rs1).getLsbD 15 = true ∧
        (exec (.syncWait p rd rs1 rs2) s = .next t ∨ exec (.syncAdd p rs1 rs2) s = .next t)) →
    coreState t p = CoreSt.trapped ∧ t.rget (Reg.TRAP_INFO_CAUSE p) = 24 ∧ t.rget (Reg.TRAP_INFO_SUB p) = sub ∧
      t.pc p = s.pc p ∧ (t.plank p).fillN = 0 ∧ (∀ r, t.xreg p r = s.xreg p r) ∧ SameMemory s t ∧
      ∀ o, fget (s.obj o) Obj.OWNER = p.val → fget (s.obj o) Obj.STATE ≠ 0 → fget (t.obj o) Obj.STATE = 3

/-- A pass that the array refuses at issue changes no cell, no accumulator, and neither the count of drains nor that
of K-blocks: rd takes the code and the core goes on; a spill that holds no accumulator is dropped at the issue all the
same. The descriptor's offset counts modulo 2^24 (assumption 85) (R89, R93). -/
def Obligations.ARefusedPassChangesNoAccumulator : Prop :=
  ∀ (s : State) (p : PlankId) (rd rs1 : XReg) (off : Nat) (ecc : CoreEcc), s.Wf → coreReady s p = true → stopDue s p = false →
    (s.xreg p rs1).toNat % 32 = 0 → slotFull s p = false → off = (s.xreg p rs1).toNat % 2 ^ 24 →
    (issuePass s p off none ecc).1 ≠ 0 →
    ∃ t, exec (.passIssue p rd rs1 ecc) s = .next t ∧
      (rd.val ≠ 0 → t.xreg p rd = BitVec.ofNat 64 (issuePass s p off none ecc).1) ∧
      (∃ x, t.plank p = { s.plank p with
        x := x
        held := none }) ∧
      (∀ q, q ≠ p.val → t.plank q = s.plank q) ∧ t.pc p = (s.pc p + 4) % 2 ^ 64 ∧
      (∀ f ∈ [Reg.PASS_COUNT_DRAINS p, Reg.KBLOCK_COUNT_KBLOCKS p, Reg.PLANK_STATUS_ACC0_STATE p, Reg.PLANK_STATUS_ACC1_STATE p], t.rget f = s.rget f) ∧
      ∃ d, d = s.recAt (storeBase p + off) 256 ∧
        (maskedPlank s p = true ∨ plankState s p = PlankSt.faulted ∨ fget d Desc.ACC = 2 ∨
            s.rbit (Reg.PLANK_STATUS_SPILL_VALID p) = false ∨ spillLive s p ≠ 0 →
          plankState t p = plankState s p ∧ t.rget (Reg.PLANK_STATUS_SPILL_VALID p) = s.rget (Reg.PLANK_STATUS_SPILL_VALID p)) ∧
        (maskedPlank s p = false → plankState s p ≠ PlankSt.faulted → fget d Desc.ACC ≠ 2 →
            s.rbit (Reg.PLANK_STATUS_SPILL_VALID p) = true → spillLive s p = 0 →
          t.rget (Reg.PLANK_STATUS_SPILL_VALID p) = 0 ∧
          plankState t p = (if plankState s p = PlankSt.suspended then PlankSt.idle else plankState s p))

/-! ## Memory -/

/-- Commands that store nothing leave every byte of memory and every poison mark as it was: lanes, power, clocks,
links and the instructions of a core that move registers. -/
def Obligations.CommandsThatStoreNothingLeaveMemory : Prop :=
  ∀ (s t : State) (c : Instr), exec c s = .next t →
    ((∃ (p : PlankId) (ecc : CoreEcc),
      c ∈ [.vnop p, .addF32 p ecc, .subF32 p ecc, .mulF32 p ecc, .fmaF32 p ecc, .minF32 p ecc, .maxF32 p ecc, .absF32 p ecc,
        .negF32 p ecc, .divF32 p ecc, .sqrtF32 p ecc, .cmp p ecc, .sel p ecc, .andB32 p ecc, .orB32 p ecc, .xorB32 p ecc,
        .shlB32 p ecc, .shrB32 p ecc, .redAdd p ecc, .amaxV p ecc, .rngV p, .cvtRegister p ecc, .vecFence p, .drainBegin p,
        .soundOverdue p, .clockGlideStep p, .coreAutoReset p] ∨
      (∃ rs1 rs2 : XReg, c ∈ [.vecIssue p rs1, .vecRun p rs1 rs2 ecc, .vecXi p rs1, .vecMvx p rs1 rs2 ecc, .passFence p rs1,
        .syncAdd p rs1 rs2, .syncSet p rs1 rs2])) ∨
      c ∈ [.capCompare, .capUnmet, .backstopEngage, .backstopRelease, .hjelperWatchdogKick, .fabricDrained] ∨
      (∃ l : LinkId, c ∈ [.linkTrainingDone l, .linkTrainingTimeout l, .codewordLockLost l, .markerEcho l]) ∨
      (∃ (q : QpId) (f : EthIn), c ∈ [.cnpReceive q f, .rateIncrease q]) ∨
      (∃ (w : Writer) (v : Word64), c ∈ [.powerCapWrite w v, .thrComputeWrite w v])) →
    SameMemory s t

/-- A WRITE or CHUNK packet for a plank store puts its lines where DST_OFS says when every bank there is the
transfers', and stores nothing else; one for HBM or for a bank that is not stores nothing yet or nothing at all (R249,
R250). -/
def Obligations.PacketsStoreOnlyTheirLines : Prop :=
  ∀ (s t : State) (d : LinkDieId) (pkt : Packet) (c : Instr) (off n : Nat), s.Wf → off = fget pkt.hdr Pk.DST_OFS →
    n = 64 * (payloadLines pkt).length → c = .pktWrite d pkt ∨ c = .pktChunk d pkt → exec c s = .next t →
    (∀ a, a < off ∨ off + n ≤ a → t.byte a = s.byte a) ∧
    (isHbm off = true → ∀ a, t.byte a = s.byte a) ∧
    (forMe s (if c = .pktWrite d pkt then 1 else 7) pkt = true → pkt.badTail = false → isHbm off = false →
      (checkTarget (takeArrived s d pkt) d pkt off n false).1 = 0 →
      ∀ k j, k < (payloadLines pkt).length → j < 64 →
        t.byte (off + 64 * k + j) = (((payloadLines pkt)[k]?.map (fun l => l.data)).getD []).getD j 0)

/-! ## Requests -/

/-- A request that comes by a port that is up and whose REQ_ID the session keeps is not carried out again: its answer
is sent again, SYNC_DUMP excepted (R364). -/
def Obligations.RepeatedRequestsAreOnlyAnswered : Prop :=
  ∀ (s : State) (c : Instr) (rq : Req) (v : Verb) (n : Nat) (x : Session) (k : Kept), requestOf c = some (rq, v) →
    v.code ≠ 0x40 → rq.session = some n → portIsUp (endSpent s) rq.port = true → modState (endSpent s) ≠ 0 → modState (endSpent s) ≠ 1 →
    findSession (endSpent s) n = some x → x.opened = true → x.kept.find? (fun k => k.reqId == rq.reqId) = some k →
    (∀ m, k.answer = some m → exec c s = .next (sendMsg (acceptReq (endSpent s) n rq) rq.port rq.peer m)) ∧
    (k.answer = none → exec c s = .next (acceptReq (endSpent s) n rq))

/-- A verb is turned away with STATUS 2 while Hjelper restarts (IDENT and STATUS excepted, and an UPDATE_ACTIVATE that
meets an activation) and outside its states in Hold, with STATUS 4 where the role does not have it, with STATUS 3
outside its states otherwise; nothing of it happens. The verb commands are requests that a host sent over its session
(assumption 57) (R367, R369, R370). -/
def Obligations.VerbsAreTurnedAway : Prop :=
  ∀ (s a : State) (c : Instr) (rq : Req) (v : Verb) (n : Nat) (x : Session) (st : Nat), requestOf c = some (rq, v) →
    rq.session = some n → modState (endSpent s) ≠ 0 → modState (endSpent s) ≠ 1 → portIsUp (endSpent s) rq.port = true →
    findSession (endSpent s) n = some x → x.opened = true → keptOf x rq.reqId v.code = none →
    a = acceptReq (endSpent s) n rq → st = modState a →
    (hjelperUp a = false → v.cached = false → (v.code = 0x53 → s.board.activation = none) → exec c s = .next (respond a rq v.code ⟨2, []⟩)) ∧
    (hjelperUp a = true →
      ((x.role = 2 ∧ v.operator = true) ∨ (x.role ≠ 1 ∧ x.role ≠ 2 ∧ v.enrol = false) →
        exec c s = .next (respond a rq v.code ⟨4, []⟩)) ∧
      (x.role = 1 ∨ (x.role = 2 ∧ v.operator = false) ∨ (x.role ≠ 1 ∧ x.role ≠ 2 ∧ v.enrol = true) →
        (st = 6 → v.inHold = false → exec c s = .next (respond a rq v.code ⟨2, []⟩)) ∧
        (st = 2 → v.inBoot = false → exec c s = .next (respond a rq v.code ⟨3, []⟩)) ∧
        (st = 3 → v.inMire = false → exec c s = .next (respond a rq v.code ⟨3, []⟩)) ∧
        (st = 8 → v.inTrip = false → exec c s = .next (respond a rq v.code ⟨3, []⟩))))

/-! ## Alerts and the trip -/

/-- VIN outside 32 to 40 V raises the voltage alert and logs kind 0x0033; an island rail more than 5 % from its target
logs kind 0x0034 against the island and drives PG_OUT low (assumption 122); inside neither is logged (R344, R349). -/
def Obligations.VoltagesOutOfRangeAreLogged : Prop :=
  ∀ s : State, alwaysOn s = true →
    (s.rget Reg.VIN_MV < 32000 ∨ 40000 < s.rget Reg.VIN_MV →
      exec (.railOutOfRange .vin) s = .next (fileEvent (alert s 3) 1 0x0033 8 0 0 0)) ∧
    (32000 ≤ s.rget Reg.VIN_MV → s.rget Reg.VIN_MV ≤ 40000 → exec (.railOutOfRange .vin) s = .next s) ∧
    (∀ (i : Fin 192) (mv : BitVec 16) (target : Nat), target = s.rget (Reg.VMON_TARGET i) →
      (∀ t, 5 * target < 100 * ((target : Int) - mv.toNat).natAbs → t = railTaken s i mv.toNat →
        exec (.railOutOfRange (.island i mv)) s = .next (fileEvent { t with board := { t.board with pgOut := false } } 1 0x0034
          (sensorUnit i).1 (sensorUnit i).2 0 0)) ∧
      (100 * ((target : Int) - mv.toNat).natAbs ≤ 5 * target →
        exec (.railOutOfRange (.island i mv)) s = .next (railTaken s i mv.toNat)))

/-- A trip whose cause holds brings the module to Tripped, out of service, and loses the contents of HBM and of the
plank stores; no packet, no request and no pass is left. That the lost bytes then read 0 is the model's choice
(assumption 1) (R345). -/
def Obligations.ATripLosesMemory : Prop :=
  ∀ (s t : State) (cause : TripCause), s.Wf → modState s ≠ 0 → modState s ≠ 1 → modState s ≠ 8 → causeHolds s cause = true →
    exec (.trip cause) s = .next t →
    modState t = 8 ∧ t.rget Reg.MODULE_STATE_SERVICE = 0 ∧ (∀ a, t.byte a = 0) ∧ t.poison = [] ∧ t.pcs = [] ∧ t.fab.heads = [] ∧
      t.fab.xfers = [] ∧ (∀ p, (t.plank p).run = none ∧ (t.plank p).wait = none) ∧ hjRuns t = hjRuns s
end

