-- ==== Sys2Proof/Laws/Calm.lean ====
section
/-! SUPPORT. One lemma per operation that stores nothing: the memory and its poison stay as they are. -/
namespace Sys2Proof.Machine

set_option linter.all false

variable {a a₀ s r : State}

/-- The memory and the poison of a state are those of another. -/
structure Calm (a s : State) : Prop where
  mem : s.mem = a.mem
  poison : s.poison = a.poison

theorem Calm.refl (a : State) : Calm a a := ⟨rfl, rfl⟩

theorem calm_foldl {β : Type} {f : State → β → State} {l : List β} (hf : ∀ s b, Calm a s → Calm a (f s b))
    (h : Calm a s) : Calm a (l.foldl f s) := by
  induction l generalizing s with
  | nil => exact h
  | cons b l ih => exact ih (hf _ _ h)

theorem calm_foldl_snd {β γ : Type} {f : γ × State → β → γ × State} {l : List β} {x : γ × State}
    (hf : ∀ x b, Calm a x.2 → Calm a (f x b).2) (h : Calm a x.2) : Calm a (l.foldl f x).2 := by
  induction l generalizing x with
  | nil => exact h
  | cons b l ih => exact ih (hf _ _ h)

theorem calm_foldl_fst {β γ : Type} {f : State × γ → β → State × γ} {l : List β} {x : State × γ}
    (hf : ∀ x b, Calm a x.1 → Calm a (f x b).1) (h : Calm a x.1) : Calm a (l.foldl f x).1 := by
  induction l generalizing x with
  | nil => exact h
  | cons b l ih => exact ih (hf _ _ h)

theorem calm_snd {γ : Type} {p : γ × State} {x : γ} {t : State} (e : p = (x, t)) (h : Calm a p.2) : Calm a t := by
  subst e; exact h
theorem calm_fst {γ : Type} {p : State × γ} {x : γ} {t : State} (e : p = (t, x)) (h : Calm a p.1) : Calm a t := by
  subst e; exact h

theorem calm_ite {c : Prop} [Decidable c] {t : State} (h : Calm a s) (h' : Calm a t) : Calm a (if c then s else t) := by
  split <;> assumption

/-- Every other part of the state may change in any way. -/
theorem calm_free (h : Calm a s) (win : List (Nat × Word64)) (planks : List (Nat × Plank)) (objs : List (Nat × ObjRec))
    (latch : List (Nat × Word64)) (streams : List (Nat × StreamRec)) (evlog : List (Nat × BitVec 1024)) (fifo : List Event)
    (errq : List ErrEntry) (peat : List (Nat × BitVec 512)) (count wall wallAt : BitVec 64) (jobs : List Job) (fab : Fabric)
    (pcs : List (Nat × Pc)) (board : Board) (net : Net) (out : List OutMsg) (stamps draws : Nat) (pending : List Instr) :
    Calm a { win := win, mem := s.mem, poison := s.poison, planks := planks, objs := objs, latch := latch,
             streams := streams, evlog := evlog, fifo := fifo, errq := errq, peat := peat, count := count, wall := wall,
             wallAt := wallAt, jobs := jobs, fab := fab, pcs := pcs, board := board, net := net, out := out,
             stamps := stamps, draws := draws, pending := pending } :=
  ⟨h.mem, h.poison⟩

theorem calm_evlog {k : Nat} {x : BitVec 1024} (h : Calm a s) : Calm a { s with evlog := kput (fun _ => 0) s.evlog k x } :=
  ⟨h.mem, h.poison⟩
theorem calm_setWord {off : Nat} {v : Word64} (h : Calm a s) : Calm a (s.setWord off v) := ⟨h.mem, h.poison⟩
theorem calm_modPlank {p : Nat} {f : Plank → Plank} (h : Calm a s) : Calm a (s.modPlank p f) := ⟨h.mem, h.poison⟩
theorem calm_setObj {o : Nat} {x : ObjRec} (h : Calm a s) : Calm a (s.setObj o x) := ⟨h.mem, h.poison⟩
theorem calm_setStrm {n : Nat} {x : StreamRec} (h : Calm a s) : Calm a (s.setStrm n x) := ⟨h.mem, h.poison⟩

theorem calm_rset {s : State} {f : RegF} {v : Nat} (h₀ : Calm a₀ s) :
    Calm a₀ (State.rset s f v) := by
  unfold State.rset
  repeat' with_reducible first
    | assumption | (intro x; first | (refine (fun (hx : Calm a₀ x) => ?_) ?_; clear_value x) | clear_value x)
    | lift_lets | subst x | apply calm_setWord | split

theorem calm_rsat {s : State} {f : RegF} {n : Nat} (h₀ : Calm a₀ s) :
    Calm a₀ (State.rsat s f n) := by
  unfold State.rsat
  repeat' with_reducible first
    | assumption | (intro x; first | (refine (fun (hx : Calm a₀ x) => ?_) ?_; clear_value x) | clear_value x)
    | lift_lets | subst x | apply calm_rset | split

theorem calm_radd {s : State} {f : RegF} {n : Nat} (h₀ : Calm a₀ s) :
    Calm a₀ (State.radd s f n) := by
  unfold State.radd
  repeat' with_reducible first
    | assumption | (intro x; first | (refine (fun (hx : Calm a₀ x) => ?_) ?_; clear_value x) | clear_value x)
    | lift_lets | subst x | apply calm_rset | split

theorem calm_tick {s : State} (h₀ : Calm a₀ s) :
    Calm a₀ (State.tick s) := by
  unfold State.tick
  repeat' with_reducible first
    | assumption | (intro x; first | (refine (fun (hx : Calm a₀ x) => ?_) ?_; clear_value x) | clear_value x)
    | lift_lets | subst x | split | fail_if_no_progress apply calm_free

theorem calm_drew {s : State} (h₀ : Calm a₀ s) :
    Calm a₀ (State.drew s) := by
  unfold State.drew
  repeat' with_reducible first
    | assumption | (intro x; first | (refine (fun (hx : Calm a₀ x) => ?_) ?_; clear_value x) | clear_value x)
    | lift_lets | subst x | split | fail_if_no_progress apply calm_free

theorem calm_modSession {s : State} {n : Nat} {f : Session → Session} (h₀ : Calm a₀ s) :
    Calm a₀ (modSession s n f) := by
  unfold modSession
  repeat' with_reducible first
    | assumption | (intro x; first | (refine (fun (hx : Calm a₀ x) => ?_) ?_; clear_value x) | clear_value x)
    | lift_lets | subst x | split | fail_if_no_progress apply calm_free

theorem calm_sendMsg {s : State} {e : Nat} {peer : Peer} {m : Msg} (h₀ : Calm a₀ s) :
    Calm a₀ (sendMsg s e peer m) := by
  unfold sendMsg
  repeat' with_reducible first
    | assumption | (intro x; first | (refine (fun (hx : Calm a₀ x) => ?_) ?_; clear_value x) | clear_value x)
    | lift_lets | subst x | apply calm_modSession | apply calm_radd | split
    | fail_if_no_progress apply calm_free | refine calm_snd (by assumption) ?_ | refine calm_fst (by assumption) ?_

theorem calm_sendEvent {s : State} {er : BitVec 1024} (h₀ : Calm a₀ s) :
    Calm a₀ (sendEvent s er) := by
  unfold sendEvent
  repeat' with_reducible first
    | assumption | (intro x; first | (refine (fun (hx : Calm a₀ x) => ?_) ?_; clear_value x) | clear_value x)
    | lift_lets | subst x | apply calm_modSession | apply calm_sendMsg | refine calm_foldl (fun _ _ _ => ?_) ?_
    | split

theorem calm_logEvent {s : State} {e : Event} (h₀ : Calm a₀ s) :
    Calm a₀ (logEvent s e) := by
  unfold logEvent
  repeat' with_reducible first
    | assumption | (intro x; first | (refine (fun (hx : Calm a₀ x) => ?_) ?_; clear_value x) | clear_value x)
    | lift_lets | subst x | apply calm_rset | apply calm_sendEvent | apply calm_evlog | split
    | fail_if_no_progress apply calm_free

theorem calm_fileEvent {s : State} {cls : Nat} {kind : Nat} {unitClass : Nat} {unit : Nat} {step : Nat} {payload : BitVec 512} (h₀ : Calm a₀ s) :
    Calm a₀ (fileEvent s cls kind unitClass unit step payload) := by
  unfold fileEvent
  repeat' with_reducible first
    | assumption | (intro x; first | (refine (fun (hx : Calm a₀ x) => ?_) ?_; clear_value x) | clear_value x)
    | lift_lets | subst x | apply calm_tick | apply calm_logEvent | apply calm_rsat | split
    | fail_if_no_progress apply calm_free

theorem calm_alert {s : State} {n : Nat} (h₀ : Calm a₀ s) :
    Calm a₀ (alert s n) := by
  unfold alert
  repeat' with_reducible first
    | assumption | (intro x; first | (refine (fun (hx : Calm a₀ x) => ?_) ?_; clear_value x) | clear_value x)
    | lift_lets | subst x | apply calm_rset | split

theorem calm_strmSet {s : State} {n : Nat} {f : Fd} {v : Nat} (h₀ : Calm a₀ s) :
    Calm a₀ (strmSet s n f v) := by
  unfold strmSet
  repeat' with_reducible first
    | assumption | (intro x; first | (refine (fun (hx : Calm a₀ x) => ?_) ?_; clear_value x) | clear_value x)
    | lift_lets | subst x | apply calm_setStrm | split

theorem calm_modJob {s : State} {id : Nat} {f : Job → Job} (h₀ : Calm a₀ s) :
    Calm a₀ (modJob s id f) := by
  unfold modJob
  repeat' with_reducible first
    | assumption | (intro x; first | (refine (fun (hx : Calm a₀ x) => ?_) ?_; clear_value x) | clear_value x)
    | lift_lets | subst x | split | fail_if_no_progress apply calm_free

theorem calm_jobFlag {s : State} {id : Nat} {f : StepFlag} (h₀ : Calm a₀ s) :
    Calm a₀ (jobFlag s id f) := by
  unfold jobFlag
  repeat' with_reducible first
    | assumption | (intro x; first | (refine (fun (hx : Calm a₀ x) => ?_) ?_; clear_value x) | clear_value x)
    | lift_lets | subst x | apply calm_modJob | split

theorem calm_streamTo {s : State} {n : Nat} {st : Nat} (h₀ : Calm a₀ s) :
    Calm a₀ (streamTo s n st) := by
  unfold streamTo
  repeat' with_reducible first
    | assumption | (intro x; first | (refine (fun (hx : Calm a₀ x) => ?_) ?_; clear_value x) | clear_value x)
    | lift_lets | subst x | apply calm_strmSet | apply calm_tick | apply calm_fileEvent | split

theorem calm_emit {s : State} {d : Nat} {pkt : Packet} (h₀ : Calm a₀ s) :
    Calm a₀ (emit s d pkt) := by
  unfold emit
  repeat' with_reducible first
    | assumption | (intro x; first | (refine (fun (hx : Calm a₀ x) => ?_) ?_; clear_value x) | clear_value x)
    | lift_lets | subst x | split | fail_if_no_progress apply calm_free

theorem calm_sendFlits {s : State} {dsts : List Nat} {flit : BitVec 512} (h₀ : Calm a₀ s) :
    Calm a₀ (sendFlits s dsts flit) := by
  unfold sendFlits
  repeat' with_reducible first
    | assumption | (intro x; first | (refine (fun (hx : Calm a₀ x) => ?_) ?_; clear_value x) | clear_value x)
    | lift_lets | subst x | apply calm_emit | refine calm_foldl (fun _ _ _ => ?_) ?_ | split

theorem calm_ownerMessage {s : State} {stream : Nat} {event : Nat} {cause : Nat} {tree : Nat} (h₀ : Calm a₀ s) :
    Calm a₀ (ownerMessage s stream event cause tree) := by
  unfold ownerMessage
  repeat' with_reducible first
    | assumption | (intro x; first | (refine (fun (hx : Calm a₀ x) => ?_) ?_; clear_value x) | clear_value x)
    | lift_lets | subst x | apply calm_sendFlits | split | fail_if_no_progress apply calm_free

theorem calm_breakBarrier {s : State} {b : Nat} (h₀ : Calm a₀ s) :
    Calm a₀ (breakBarrier s b) := by
  unfold breakBarrier
  repeat' with_reducible first
    | assumption | (intro x; first | (refine (fun (hx : Calm a₀ x) => ?_) ?_; clear_value x) | clear_value x)
    | lift_lets | subst x | apply calm_rset | apply calm_evlog | split
    | fail_if_no_progress apply calm_free

theorem calm_orphanOne {s : State} {o : Nat} {cause : Nat} (h₀ : Calm a₀ s) :
    Calm a₀ (orphanOne s o cause).1 := by
  unfold orphanOne
  repeat' with_reducible first
    | assumption | (intro x; first | (refine (fun (hx : Calm a₀ x) => ?_) ?_; clear_value x) | clear_value x)
    | lift_lets | subst x | apply calm_breakBarrier | apply calm_ownerMessage | apply calm_setObj
    | refine calm_foldl (fun _ _ _ => ?_) ?_ | split

theorem calm_orphanWork {fuel : Nat} {os : List Nat} {cause : Nat} {s : State} (h : Calm a₀ s) :
    Calm a₀ (orphanWork fuel os cause s) := by
  induction fuel generalizing os s with
  | zero => exact h
  | succ n ih =>
    cases os with
    | nil => exact h
    | cons o os => exact ih (calm_orphanOne h)

theorem calm_orphan {s : State} {os : List Nat} {cause : Nat} (h₀ : Calm a₀ s) :
    Calm a₀ (orphan s os cause) := by
  unfold orphan
  repeat' with_reducible first
    | assumption | (intro x; first | (refine (fun (hx : Calm a₀ x) => ?_) ?_; clear_value x) | clear_value x)
    | lift_lets | subst x | apply calm_orphanWork | split

theorem calm_barRelease {s : State} {b : Nat} {gen : Nat} (h₀ : Calm a₀ s) :
    Calm a₀ (barRelease s b gen).1 := by
  unfold barRelease
  repeat' with_reducible first
    | assumption | (intro x; first | (refine (fun (hx : Calm a₀ x) => ?_) ?_; clear_value x) | clear_value x)
    | lift_lets | subst x | apply calm_rset | apply calm_evlog | split
    | fail_if_no_progress apply calm_free

theorem calm_rootArrive {s : State} {b : Nat} {gen : Nat} (h₀ : Calm a₀ s) :
    Calm a₀ (rootArrive s b gen).1 := by
  unfold rootArrive
  repeat' with_reducible first
    | assumption | (intro x; first | (refine (fun (hx : Calm a₀ x) => ?_) ?_; clear_value x) | clear_value x)
    | lift_lets | subst x | apply calm_radd | apply calm_barRelease | apply calm_sendFlits
    | split

theorem calm_leaderArrive {s : State} {b : Nat} {gen : Nat} {member : Nat} (h₀ : Calm a₀ s) :
    Calm a₀ (leaderArrive s b gen member).1 := by
  unfold leaderArrive
  repeat' with_reducible first
    | assumption | (intro x; first | (refine (fun (hx : Calm a₀ x) => ?_) ?_; clear_value x) | clear_value x)
    | lift_lets | subst x | apply calm_rset | apply calm_radd | apply calm_rootArrive | apply calm_sendFlits
    | split

theorem calm_localArrive {s : State} {b : Nat} (h₀ : Calm a₀ s) :
    Calm a₀ (localArrive s b).1 := by
  unfold localArrive
  repeat' with_reducible first
    | assumption | (intro x; first | (refine (fun (hx : Calm a₀ x) => ?_) ?_; clear_value x) | clear_value x)
    | lift_lets | subst x | apply calm_leaderArrive | apply calm_sendFlits | split

theorem calm_arrivals {s : State} {o : Nat} {old : Option Nat} (h : Calm a₀ s) : Calm a₀ (arrivals s o old).1 := by
  unfold arrivals
  exact calm_foldl_fst (fun _ _ hs => calm_localArrive hs) h

theorem calm_barCheck {s : State} {b : Nat} (h : Calm a₀ s) : Calm a₀ (barCheck s b).1 := by
  unfold barCheck
  dsimp only
  split
  · exact calm_localArrive h
  · exact h

theorem calm_signalOne {s : State} {g : Signal} (h : Calm a₀ s) : Calm a₀ (signalOne s g).1 := by
  unfold signalOne
  dsimp only
  split
  · exact calm_rsat h
  · exact calm_arrivals (calm_setObj h)

theorem calm_signalWork {fuel : Nat} {gs : List SyncWork} {s : State} (h : Calm a₀ s) :
    Calm a₀ (signalWork fuel gs s) := by
  induction fuel generalizing gs s with
  | zero => unfold signalWork; exact calm_free h ..
  | succ n ih =>
    match gs with
    | [] => exact h
    | .sig g :: gs => exact ih (calm_signalOne h)
    | .check b :: gs => exact ih (calm_barCheck h)

theorem calm_freezeLane {s : State} {key : Nat} (h : Calm a₀ s) : Calm a₀ (freezeLane s key) := by
  unfold freezeLane
  dsimp only
  split
  · exact h
  · refine calm_free (?_ : Calm a₀ _) ..
    split
    · exact calm_drew (calm_drew (calm_drew h))
    · exact h

theorem calm_setChan {s : State} {n owner : Nat} (h : Calm a₀ s) : Calm a₀ (setChan s n owner) := by
  unfold setChan
  refine calm_ite h (calm_free (a := a₀) (?_ : Calm a₀ _) ..)
  exact calm_ite h (calm_foldl (fun _ _ hs => calm_freezeLane hs) h)

theorem calm_handWork {hs kept : List Handover} {s : State} (h : Calm a₀ s) : Calm a₀ (handWork hs kept s) := by
  induction hs generalizing kept s with
  | nil => exact calm_free h ..
  | cons g hs ih =>
    unfold handWork
    split
    · exact ih h
    · exact ih (calm_setChan h)

theorem calm_applyHandovers {s : State} (h : Calm a₀ s) : Calm a₀ (applyHandovers s) := calm_handWork h

theorem calm_syncWork {s : State} {gs : List SyncWork} (h : Calm a₀ s) : Calm a₀ (syncWork s gs) :=
  calm_applyHandovers (calm_signalWork (calm_free h ..))

theorem calm_signal {s : State} {g : Signal} (h : Calm a₀ s) : Calm a₀ (signal s g) := calm_syncWork h

theorem calm_signalChip {s : State} {die : Nat} {chip : Nat} {stream : Nat} {g : Signal} (h₀ : Calm a₀ s) :
    Calm a₀ (signalChip s die chip stream g) := by
  unfold signalChip
  repeat' with_reducible first
    | assumption | (intro x; first | (refine (fun (hx : Calm a₀ x) => ?_) ?_; clear_value x) | clear_value x)
    | lift_lets | subst x | apply calm_signal | apply calm_emit | split

theorem calm_plankSignal {s : State} {p : Nat} {chip : Nat} {obj : Nat} {val : Nat} {isSet : Bool} (h₀ : Calm a₀ s) :
    Calm a₀ (plankSignal s p chip obj val isSet) := by
  unfold plankSignal
  repeat' with_reducible first
    | assumption | (intro x; first | (refine (fun (hx : Calm a₀ x) => ?_) ?_; clear_value x) | clear_value x)
    | lift_lets | subst x | apply calm_signalChip | split | refine calm_snd (by assumption) ?_
    | refine calm_fst (by assumption) ?_

theorem calm_failStream {s : State} {n : Nat} {code : Nat} (h₀ : Calm a₀ s) :
    Calm a₀ (failStream s n code) := by
  unfold failStream
  repeat' with_reducible first
    | assumption | (intro x; first | (refine (fun (hx : Calm a₀ x) => ?_) ?_; clear_value x) | clear_value x)
    | lift_lets | subst x | apply calm_strmSet | apply calm_streamTo | apply calm_orphan
    | split

theorem calm_stepFault {s : State} {p : Nat} {f : StepFlag} {code : Nat} (h₀ : Calm a₀ s) :
    Calm a₀ (stepFault s p f code) := by
  unfold stepFault
  repeat' with_reducible first
    | assumption | (intro x; first | (refine (fun (hx : Calm a₀ x) => ?_) ?_; clear_value x) | clear_value x)
    | lift_lets | subst x | apply calm_failStream | apply calm_jobFlag | split
    | refine calm_snd (by assumption) ?_ | refine calm_fst (by assumption) ?_

theorem calm_violation {s : State} {cls : Nat} {unit : Nat} {index : Nat} {reqUnit : Nat} {reqChip : Nat} {tag : Nat} {step : Nat} (h₀ : Calm a₀ s) :
    Calm a₀ (violation s cls unit index reqUnit reqChip tag step) := by
  unfold violation
  repeat' with_reducible first
    | assumption | (intro x; first | (refine (fun (hx : Calm a₀ x) => ?_) ?_; clear_value x) | clear_value x)
    | lift_lets | subst x | apply calm_fileEvent | split

theorem calm_markUnlogged {s : State} {unitClass : Nat} {unit : Nat} {code : Nat} {on : Bool} (h₀ : Calm a₀ s) :
    Calm a₀ (markUnlogged s unitClass unit code on) := by
  unfold markUnlogged
  repeat' with_reducible first
    | assumption | (intro x; first | (refine (fun (hx : Calm a₀ x) => ?_) ?_; clear_value x) | clear_value x)
    | lift_lets | subst x | apply calm_modPlank | split | fail_if_no_progress apply calm_free

theorem calm_fileError {s : State} {unitClass : Nat} {unit : Nat} {code : Nat} {tag : Nat} {tid : Nat} {step : Nat} (h₀ : Calm a₀ s) :
    Calm a₀ (fileError s unitClass unit code tag tid step) := by
  unfold fileError
  repeat' with_reducible first
    | assumption | (intro x; first | (refine (fun (hx : Calm a₀ x) => ?_) ?_; clear_value x) | clear_value x)
    | lift_lets | subst x | apply calm_markUnlogged | apply calm_rset | apply calm_jobFlag | apply calm_rsat
    | apply calm_tick | split | fail_if_no_progress apply calm_free
    | refine calm_snd (by assumption) ?_ | refine calm_fst (by assumption) ?_

theorem calm_filePlank {s : State} {p : Nat} {code : Nat} {tag : Nat} {tid : Nat} (h₀ : Calm a₀ s) :
    Calm a₀ (filePlank s p code tag tid) := by
  unfold filePlank
  repeat' with_reducible first
    | assumption | (intro x; first | (refine (fun (hx : Calm a₀ x) => ?_) ?_; clear_value x) | clear_value x)
    | lift_lets | subst x | apply calm_fileError | split

theorem calm_setCore {s : State} {p : Nat} {st : Nat} (h₀ : Calm a₀ s) :
    Calm a₀ (setCore s p st) := by
  unfold setCore
  repeat' with_reducible first
    | assumption | (intro x; first | (refine (fun (hx : Calm a₀ x) => ?_) ?_; clear_value x) | clear_value x)
    | lift_lets | subst x | apply calm_rset | split

theorem calm_setX {s : State} {p : Nat} {r : Nat} {v : Word64} (h₀ : Calm a₀ s) :
    Calm a₀ (State.setX s p r v) := by
  unfold State.setX
  repeat' with_reducible first
    | assumption | (intro x; first | (refine (fun (hx : Calm a₀ x) => ?_) ?_; clear_value x) | clear_value x)
    | lift_lets | subst x | apply calm_modPlank | apply calm_evlog
    | exact fun _ h => ⟨kwf_kput h.1 _ _, h.2⟩ | split

theorem calm_setPc {s : State} {p : Nat} {v : Nat} (h₀ : Calm a₀ s) :
    Calm a₀ (State.setPc s p v) := by
  unfold State.setPc
  repeat' with_reducible first
    | assumption | (intro x; first | (refine (fun (hx : Calm a₀ x) => ?_) ?_; clear_value x) | clear_value x)
    | lift_lets | subst x | apply calm_rset | split

theorem calm_setCsr {s : State} {p : Nat} {c : Nat} {v : Word64} (h₀ : Calm a₀ s) :
    Calm a₀ (State.setCsr s p c v) := by
  unfold State.setCsr
  repeat' with_reducible first
    | assumption | (intro x; first | (refine (fun (hx : Calm a₀ x) => ?_) ?_; clear_value x) | clear_value x)
    | lift_lets | subst x | apply calm_modPlank | apply calm_evlog
    | exact fun _ h => ⟨h.1, kwf_kput h.2.1 _ _, h.2.2⟩ | split

theorem calm_endWait {s : State} {p : Nat} (h₀ : Calm a₀ s) :
    Calm a₀ (endWait s p) := by
  unfold endWait
  repeat' with_reducible first
    | assumption | (intro x; first | (refine (fun (hx : Calm a₀ x) => ?_) ?_; clear_value x) | clear_value x)
    | lift_lets | subst x | apply calm_modPlank | apply calm_setWord | apply calm_setObj
    | split

theorem calm_emptyFill {s : State} {p : Nat} (h₀ : Calm a₀ s) :
    Calm a₀ (emptyFill s p) := by
  unfold emptyFill
  repeat' with_reducible first
    | assumption | (intro x; first | (refine (fun (hx : Calm a₀ x) => ?_) ?_; clear_value x) | clear_value x)
    | lift_lets | subst x | apply calm_modPlank | apply calm_setWord | split

theorem calm_coreTrap {s : State} {p : Nat} {cause : Nat} {sub : Nat} {insn : Nat} {tval : Nat} (h₀ : Calm a₀ s) :
    Calm a₀ (coreTrap s p cause sub insn tval) := by
  unfold coreTrap
  repeat' with_reducible first
    | assumption | (intro x; first | (refine (fun (hx : Calm a₀ x) => ?_) ?_; clear_value x) | clear_value x)
    | lift_lets | subst x | apply calm_endWait | apply calm_rset | apply calm_setCsr | apply calm_setCore
    | apply calm_filePlank | apply calm_emptyFill | apply calm_orphan | apply calm_stepFault
    | apply calm_failStream | apply calm_modPlank | split | refine calm_snd (by assumption) ?_
    | refine calm_fst (by assumption) ?_

theorem calm_ownTrapFlag {s : State} {p : Nat} (h₀ : Calm a₀ s) :
    Calm a₀ (ownTrapFlag s p) := by
  unfold ownTrapFlag
  repeat' with_reducible first
    | assumption | (intro x; first | (refine (fun (hx : Calm a₀ x) => ?_) ?_; clear_value x) | clear_value x)
    | lift_lets | subst x | apply calm_stepFault | split

theorem calm_bankRefused {s : State} {p : Nat} {b : Nat} (h₀ : Calm a₀ s) :
    Calm a₀ (bankRefused s p b) := by
  unfold bankRefused
  repeat' with_reducible first
    | assumption | (intro x; first | (refine (fun (hx : Calm a₀ x) => ?_) ?_; clear_value x) | clear_value x)
    | lift_lets | subst x | apply calm_ownTrapFlag | apply calm_violation | split

theorem calm_coreNext {s : State} {p : Nat} (h₀ : Calm a₀ s) :
    Calm a₀ (coreNext s p) := by
  unfold coreNext
  repeat' with_reducible first
    | assumption | (intro x; first | (refine (fun (hx : Calm a₀ x) => ?_) ?_; clear_value x) | clear_value x)
    | lift_lets | subst x | apply calm_setCore | apply calm_setPc | apply calm_modPlank | split

theorem calm_coreHold {s : State} {p : Nat} {q : Option Nat} (h₀ : Calm a₀ s) :
    Calm a₀ (coreHold s p q) := by
  unfold coreHold
  repeat' with_reducible first
    | assumption | (intro x; first | (refine (fun (hx : Calm a₀ x) => ?_) ?_; clear_value x) | clear_value x)
    | lift_lets | subst x | apply calm_setCore | apply calm_modPlank | split

theorem calm_setModState {s : State} {v : Nat} (h₀ : Calm a₀ s) :
    Calm a₀ (setModState s v) := by
  unfold setModState
  repeat' with_reducible first
    | assumption | (intro x; first | (refine (fun (hx : Calm a₀ x) => ?_) ?_; clear_value x) | clear_value x)
    | lift_lets | subst x | apply calm_rset | apply calm_modPlank | apply calm_fileEvent
    | split | fail_if_no_progress apply calm_free

theorem calm_winErr {s : State} {cause : Nat} {src : Nat} {off : Nat} (h₀ : Calm a₀ s) :
    Calm a₀ (winErr s cause src off) := by
  unfold winErr
  repeat' with_reducible first
    | assumption | (intro x; first | (refine (fun (hx : Calm a₀ x) => ?_) ?_; clear_value x) | clear_value x)
    | lift_lets | subst x | apply calm_rsat | apply calm_rset | apply calm_modPlank | apply calm_fileEvent
    | split | fail_if_no_progress apply calm_free

theorem calm_regCommand {s : State} {w : Writer} {off : Nat} {act : State → State} (hact : ∀ s, Calm a₀ s → Calm a₀ (act s)) (h₀ : Calm a₀ s) :
    Calm a₀ (regCommand s w off act) := by
  unfold regCommand
  repeat' with_reducible first
    | assumption | (intro x; first | (refine (fun (hx : Calm a₀ x) => ?_) ?_; clear_value x) | clear_value x)
    | lift_lets | subst x | apply calm_winErr | apply hact | apply calm_rset | apply calm_modPlank
    | apply calm_fileEvent | split | fail_if_no_progress apply calm_free

theorem calm_setQp {s : State} {q : Nat} {x : Qp} (h₀ : Calm a₀ s) :
    Calm a₀ (State.setQp s q x) := by
  unfold State.setQp
  repeat' with_reducible first
    | assumption | (intro x; first | (refine (fun (hx : Calm a₀ x) => ?_) ?_; clear_value x) | clear_value x)
    | lift_lets | subst x | apply calm_evlog | apply calm_rset | apply calm_modPlank | apply calm_fileEvent
    | split | fail_if_no_progress apply calm_free

theorem calm_setAccState {s : State} {p : Nat} {sel : Nat} {st : Nat} (h₀ : Calm a₀ s) :
    Calm a₀ (setAccState s p sel st) := by
  unfold setAccState
  repeat' with_reducible first
    | assumption | (intro x; first | (refine (fun (hx : Calm a₀ x) => ?_) ?_; clear_value x) | clear_value x)
    | lift_lets | subst x | apply calm_rset | apply calm_modPlank | apply calm_fileEvent
    | split | fail_if_no_progress apply calm_free

theorem calm_setPlankState {s : State} {p : Nat} {st : Nat} (h₀ : Calm a₀ s) :
    Calm a₀ (setPlankState s p st) := by
  unfold setPlankState
  repeat' with_reducible first
    | assumption | (intro x; first | (refine (fun (hx : Calm a₀ x) => ?_) ?_; clear_value x) | clear_value x)
    | lift_lets | subst x | apply calm_rset | apply calm_modPlank | apply calm_fileEvent
    | split | fail_if_no_progress apply calm_free

theorem calm_refreshPlank {s : State} {p : Nat} (h₀ : Calm a₀ s) :
    Calm a₀ (refreshPlank s p) := by
  unfold refreshPlank
  repeat' with_reducible first
    | assumption | (intro x; first | (refine (fun (hx : Calm a₀ x) => ?_) ?_; clear_value x) | clear_value x)
    | lift_lets | subst x | apply calm_setPlankState | apply calm_rset | apply calm_modPlank | apply calm_fileEvent
    | split | fail_if_no_progress apply calm_free

theorem calm_addStats {s : State} {p : Nat} {tid : Nat} {r : StatRec} (h₀ : Calm a₀ s) :
    Calm a₀ (addStats s p tid r) := by
  unfold addStats
  repeat' with_reducible first
    | assumption | (intro x; first | (refine (fun (hx : Calm a₀ x) => ?_) ?_; clear_value x) | clear_value x)
    | lift_lets | subst x | apply calm_modPlank | apply calm_evlog | apply calm_rset | apply calm_fileEvent
    | split | fail_if_no_progress apply calm_free

theorem calm_resetCore {s : State} {p : Nat} (h₀ : Calm a₀ s) :
    Calm a₀ (resetCore s p) := by
  unfold resetCore
  repeat' with_reducible first
    | assumption | (intro x; first | (refine (fun (hx : Calm a₀ x) => ?_) ?_; clear_value x) | clear_value x)
    | lift_lets | subst x | apply calm_endWait | apply calm_setCore | apply calm_rset | apply calm_orphan
    | apply calm_emptyFill | apply calm_modPlank | apply calm_fileEvent | split
    | fail_if_no_progress apply calm_free

theorem calm_markIvs {s : State} {f : EnergyIv → EnergyIv} (h₀ : Calm a₀ s) :
    Calm a₀ (markIvs s f) := by
  unfold markIvs
  repeat' with_reducible first
    | assumption | (intro x; first | (refine (fun (hx : Calm a₀ x) => ?_) ?_; clear_value x) | clear_value x)
    | lift_lets | subst x | apply calm_rset | apply calm_modPlank | apply calm_fileEvent
    | split | fail_if_no_progress apply calm_free

theorem calm_setVreg {s : State} {p : Nat} {w : Word64} {outs : List F32} (h₀ : Calm a₀ s) :
    Calm a₀ (setVreg s p w outs) := by
  unfold setVreg
  repeat' with_reducible first
    | assumption
    | (intro x; first | (refine (fun (hx : Calm a₀ x) => ?_) ?_; clear_value x) | (refine (fun (hx : Calm a₀ x.2) => ?_) ?_; clear_value x) | (refine (fun (hx : Calm a₀ x.1) => ?_) ?_; clear_value x) | clear_value x)
    | lift_lets | subst x | apply calm_modPlank | apply calm_rset | apply calm_fileEvent
    | exact fun _ h => ⟨h.1, h.2.1, kwf_kputs h.2.2.1 _ _, h.2.2.2⟩ | split | fail_if_no_progress apply calm_free

theorem calm_noteInvalid {s : State} {p : Nat} {b : Bool} (h₀ : Calm a₀ s) :
    Calm a₀ (noteInvalid s p b) := by
  unfold noteInvalid
  repeat' with_reducible first
    | assumption | (intro x; first | (refine (fun (hx : Calm a₀ x) => ?_) ?_; clear_value x) | clear_value x)
    | lift_lets | subst x | apply calm_rset | apply calm_modPlank | apply calm_fileEvent
    | split | fail_if_no_progress apply calm_free

theorem calm_laneCycles {s : State} {p : Nat} {n : Nat} (h₀ : Calm a₀ s) :
    Calm a₀ (laneCycles s p n) := by
  unfold laneCycles
  repeat' with_reducible first
    | assumption | (intro x; first | (refine (fun (hx : Calm a₀ x) => ?_) ?_; clear_value x) | clear_value x)
    | lift_lets | subst x | apply calm_radd | apply calm_rset | apply calm_modPlank | apply calm_fileEvent
    | split | fail_if_no_progress apply calm_free

theorem calm_vecTrap {s : State} {p : Nat} {w : Word64} {cause sub : Nat} (h₀ : Calm a₀ s) :
    Calm a₀ (vecTrap s p w cause sub) := by
  unfold vecTrap
  repeat' with_reducible first
    | assumption | (intro x; first | (refine (fun (hx : Calm a₀ x) => ?_) ?_; clear_value x) | clear_value x)
    | lift_lets | subst x | apply calm_coreTrap  | split | fail_if_no_progress apply calm_free

theorem calm_mixMask {s : State} {p : Nat} (h₀ : Calm a₀ s) :
    Calm a₀ (mixMask s p) := by
  unfold mixMask
  repeat' with_reducible first
    | assumption | (intro x; first | (refine (fun (hx : Calm a₀ x) => ?_) ?_; clear_value x) | clear_value x)
    | lift_lets | subst x | apply calm_modPlank | apply calm_drew  | split | fail_if_no_progress apply calm_free

theorem calm_mixVreg {s : State} {p : Nat} {w : Word64} (h : Calm a₀ s) : Calm a₀ (mixVreg s p w) := by
  unfold mixVreg
  exact calm_drew (calm_setVreg h)

/-- The operation of port 2 that stores nothing, for opcodes that are no load or store. -/
theorem calm_mixDest {s : State} {p : Nat} {w : Word64} (hw : isLoadStore (fget w Vec.OPC) = false) (h : Calm a₀ s) :
    Calm a₀ (mixDest s p w) := by
  unfold mixDest
  simp only [hw, Bool.false_eq_true, if_false]
  exact calm_ite (calm_mixMask h) (calm_mixVreg h)

theorem calm_onPort2 {s : State} {p : Nat} {ops : List Nat} {ecc : CoreEcc} {act : State → VecSlot → State}
    (hops : ∀ o ∈ ops, isLoadStore o = false) (hact : ∀ s e, Calm a₀ s → Calm a₀ (act s e)) (h : Calm a₀ s) :
    Calm a₀ (onPort2 s p ops ecc act) := by
  unfold onPort2
  split
  · rename_i e es _
    split
    · exact h
    · rename_i hc
      have hw : isLoadStore (fget e.word Vec.OPC) = false := hops _ (by simpa using hc)
      dsimp only
      split
      · exact calm_vecTrap (calm_mixDest hw (calm_modPlank h))
      · exact hact _ _ (calm_modPlank h)
  · exact h

theorem calm_vecEnqueue {s : State} {p : Nat} {w : Word64} (h₀ : Calm a₀ s) :
    Calm a₀ (vecEnqueue s p w) := by
  unfold vecEnqueue
  repeat' with_reducible first
    | assumption | (intro x; first | (refine (fun (hx : Calm a₀ x) => ?_) ?_; clear_value x) | clear_value x)
    | lift_lets | subst x | apply calm_modPlank | apply calm_rset | apply calm_fileEvent
    | (refine fun k h => ?_; dsimp only; split <;> exact h) | split | fail_if_no_progress apply calm_free

theorem calm_sendDone {s : State} {r : DoneRec} (h₀ : Calm a₀ s) :
    Calm a₀ (sendDone s r) := by
  unfold sendDone
  repeat' with_reducible first
    | assumption | (intro x; first | (refine (fun (hx : Calm a₀ x) => ?_) ?_; clear_value x) | clear_value x)
    | lift_lets | subst x | apply calm_emit | apply calm_rset | apply calm_modPlank | apply calm_fileEvent
    | split | fail_if_no_progress apply calm_free

theorem calm_setDones {s : State} {ds : List DoneRec} (h₀ : Calm a₀ s) :
    Calm a₀ (setDones s ds) := by
  unfold setDones
  repeat' with_reducible first
    | assumption | (intro x; first | (refine (fun (hx : Calm a₀ x) => ?_) ?_; clear_value x) | clear_value x)
    | lift_lets | subst x | apply calm_rset | apply calm_modPlank | apply calm_fileEvent
    | split | fail_if_no_progress apply calm_free

theorem calm_setLink {s : State} {l : Nat} {x : Link} (h₀ : Calm a₀ s) :
    Calm a₀ (setLink s l x) := by
  unfold setLink
  repeat' with_reducible first
    | assumption | (intro x; first | (refine (fun (hx : Calm a₀ x) => ?_) ?_; clear_value x) | clear_value x)
    | lift_lets | subst x | apply calm_evlog | apply calm_rset | apply calm_modPlank | apply calm_fileEvent
    | split | fail_if_no_progress apply calm_free

theorem calm_modLink {s : State} {l : Nat} {f : Link → Link} (h₀ : Calm a₀ s) :
    Calm a₀ (modLink s l f) := by
  unfold modLink
  repeat' with_reducible first
    | assumption | (intro x; first | (refine (fun (hx : Calm a₀ x) => ?_) ?_; clear_value x) | clear_value x)
    | lift_lets | subst x | apply calm_setLink | apply calm_rset | apply calm_modPlank | apply calm_fileEvent
    | split | fail_if_no_progress apply calm_free

theorem calm_setLinkState {s : State} {l : Nat} {st : Nat} (h₀ : Calm a₀ s) :
    Calm a₀ (setLinkState s l st) := by
  unfold setLinkState
  repeat' with_reducible first
    | assumption | (intro x; first | (refine (fun (hx : Calm a₀ x) => ?_) ?_; clear_value x) | clear_value x)
    | lift_lets | subst x | apply calm_rset | apply calm_modPlank | apply calm_fileEvent
    | split | fail_if_no_progress apply calm_free

theorem calm_enterTraining {s : State} {l : Nat} (h₀ : Calm a₀ s) :
    Calm a₀ (enterTraining s l) := by
  unfold enterTraining
  repeat' with_reducible first
    | assumption | (intro x; first | (refine (fun (hx : Calm a₀ x) => ?_) ?_; clear_value x) | clear_value x)
    | lift_lets | subst x | apply calm_rsat | apply calm_setLinkState | apply calm_rset | apply calm_modPlank
    | apply calm_fileEvent | split | fail_if_no_progress apply calm_free

theorem calm_enterDown {s : State} {l : Nat} (h₀ : Calm a₀ s) :
    Calm a₀ (enterDown s l) := by
  unfold enterDown
  repeat' with_reducible first
    | assumption | (intro x; first | (refine (fun (hx : Calm a₀ x) => ?_) ?_; clear_value x) | clear_value x)
    | lift_lets | subst x | apply calm_setLinkState | apply calm_enterTraining | apply calm_rset
    | apply calm_modPlank | apply calm_fileEvent | split | fail_if_no_progress apply calm_free

theorem calm_unbegun {s : State} {l : Nat} (h : Calm a₀ s) : Calm a₀ (unbegun s l) := calm_free h ..

theorem calm_leaveActive {s : State} {l : Nat} (h₀ : Calm a₀ s) :
    Calm a₀ (leaveActive s l) := by
  unfold leaveActive
  repeat' with_reducible first
    | assumption | (intro x; first | (refine (fun (hx : Calm a₀ x) => ?_) ?_; clear_value x) | clear_value x)
    | lift_lets | subst x | apply calm_modLink | apply calm_unbegun | apply calm_rset | apply calm_modPlank
    | apply calm_fileEvent | split | fail_if_no_progress apply calm_free

theorem calm_setCapClock {s : State} {mhz : Nat} (h₀ : Calm a₀ s) :
    Calm a₀ (setCapClock s mhz) := by
  unfold setCapClock
  repeat' with_reducible first
    | assumption | (intro x; first | (refine (fun (hx : Calm a₀ x) => ?_) ?_; clear_value x) | clear_value x)
    | lift_lets | subst x | apply calm_rset | apply calm_markIvs | apply calm_fileEvent | apply calm_modPlank
    | split | fail_if_no_progress apply calm_free

theorem calm_setIinLimit {s : State} (h₀ : Calm a₀ s) :
    Calm a₀ (setIinLimit s) := by
  unfold setIinLimit
  repeat' with_reducible first
    | assumption | (intro x; first | (refine (fun (hx : Calm a₀ x) => ?_) ?_; clear_value x) | clear_value x)
    | lift_lets | subst x | apply calm_rset | apply calm_modPlank | apply calm_fileEvent
    | split | fail_if_no_progress apply calm_free

theorem calm_uncapRelease {s : State} (h₀ : Calm a₀ s) :
    Calm a₀ (uncapRelease s) := by
  unfold uncapRelease
  repeat' with_reducible first
    | assumption | (intro x; first | (refine (fun (hx : Calm a₀ x) => ?_) ?_; clear_value x) | clear_value x)
    | lift_lets | subst x | apply calm_rset  | split | fail_if_no_progress apply calm_free

theorem calm_powerCapOp {s : State} {v : Word64} (h₀ : Calm a₀ s) :
    Calm a₀ (powerCapOp s v) := by
  unfold powerCapOp
  repeat' with_reducible first
    | assumption | (intro x; first | (refine (fun (hx : Calm a₀ x) => ?_) ?_; clear_value x) | clear_value x)
    | lift_lets | subst x | apply calm_uncapRelease | apply calm_rset | apply calm_setIinLimit | apply calm_modPlank | apply calm_fileEvent
    | split | fail_if_no_progress apply calm_free

theorem calm_thrComputeOp {s : State} {v : Word64} (h : Calm a₀ s) : Calm a₀ (thrComputeOp s v) := by
  unfold thrComputeOp
  dsimp only
  exact calm_ite (calm_rset (calm_ite (calm_rset (calm_ite (calm_rset h) h)) (calm_ite (calm_rset h) h)))
    (calm_ite (calm_rset (calm_ite (calm_rset h) h)) (calm_ite (calm_rset h) h))

theorem calm_noteOverdue {s : State} {p : Nat} (h₀ : Calm a₀ s) :
    Calm a₀ (noteOverdue s p) := by
  unfold noteOverdue
  repeat' with_reducible first
    | assumption | (intro x; first | (refine (fun (hx : Calm a₀ x) => ?_) ?_; clear_value x) | clear_value x)
    | lift_lets | subst x | apply calm_fileEvent | apply calm_modPlank | apply calm_rset
    | split | fail_if_no_progress apply calm_free

theorem calm_chanRefused {s : State} {p n insn : Nat} (h : Calm a₀ s) : Calm a₀ (chanRefused s p n insn) :=
  calm_coreTrap (calm_ownTrapFlag (calm_violation h))

theorem calm_syncSignal {s : State} {p : Nat} {rs1 : XReg} {rs2 : XReg} {isSet : Bool} (h₀ : Calm a₀ s) :
    Calm a₀ (syncSignal s p rs1 rs2 isSet) := by
  unfold syncSignal
  repeat' with_reducible first
    | assumption | (intro x; first | (refine (fun (hx : Calm a₀ x) => ?_) ?_; clear_value x) | clear_value x)
    | lift_lets | subst x | apply calm_chanRefused | apply calm_applyHandovers | apply calm_coreTrap | apply calm_coreNext | apply calm_plankSignal | apply calm_rset
    | apply calm_modPlank | apply calm_fileEvent | split | fail_if_no_progress apply calm_free

theorem calm_vecRunLoop {p addr n insn f i : Nat} {ecc : CoreEcc} {s : State} (h : Calm a₀ s) :
    Calm a₀ (vecRunLoop p addr n insn ecc f i s) := by
  induction f generalizing i s with
  | zero => exact calm_coreHold (calm_modPlank h)
  | succ f ih =>
    unfold vecRunLoop
    dsimp only
    split
    · exact calm_coreNext (calm_modPlank h)
    · split
      · exact calm_coreTrap (calm_modPlank h)
      · split
        · exact calm_coreTrap (calm_modPlank h)
        · split
          · exact calm_coreTrap (calm_modPlank h)
          · split
            · exact calm_coreHold (calm_modPlank h)
            · exact ih (calm_vecEnqueue h)

theorem calm_laneOp1 {s : State} {p : Nat} {e : VecSlot} {cyc : Nat} {f : Rnd → F32 → F32} (h₀ : Calm a₀ s) :
    Calm a₀ (laneOp1 s p e cyc f) := by
  unfold laneOp1
  repeat' with_reducible first
    | assumption
    | (intro x; first | (refine (fun (hx : Calm a₀ x) => ?_) ?_; clear_value x) | (refine (fun (hx : Calm a₀ x.2) => ?_) ?_; clear_value x) | (refine (fun (hx : Calm a₀ x.1) => ?_) ?_; clear_value x) | clear_value x)
    | lift_lets | subst x | apply calm_laneCycles | apply calm_noteInvalid | apply calm_setVreg | apply calm_rset
    | apply calm_modPlank | apply calm_fileEvent | split | fail_if_no_progress apply calm_free

theorem calm_laneOp2 {s : State} {p : Nat} {e : VecSlot} {cyc : Nat} {f : Rnd → F32 → F32 → F32} (h₀ : Calm a₀ s) :
    Calm a₀ (laneOp2 s p e cyc f) := by
  unfold laneOp2
  repeat' with_reducible first
    | assumption
    | (intro x; first | (refine (fun (hx : Calm a₀ x) => ?_) ?_; clear_value x) | (refine (fun (hx : Calm a₀ x.2) => ?_) ?_; clear_value x) | (refine (fun (hx : Calm a₀ x.1) => ?_) ?_; clear_value x) | clear_value x)
    | lift_lets | subst x | apply calm_laneCycles | apply calm_noteInvalid | apply calm_setVreg | apply calm_rset
    | apply calm_modPlank | apply calm_fileEvent | split | fail_if_no_progress apply calm_free

theorem calm_laneBits {s : State} {p : Nat} {e : VecSlot} {f : F32 → F32 → F32} (h₀ : Calm a₀ s) :
    Calm a₀ (laneBits s p e f) := by
  unfold laneBits
  repeat' with_reducible first
    | assumption
    | (intro x; first | (refine (fun (hx : Calm a₀ x) => ?_) ?_; clear_value x) | (refine (fun (hx : Calm a₀ x.2) => ?_) ?_; clear_value x) | (refine (fun (hx : Calm a₀ x.1) => ?_) ?_; clear_value x) | clear_value x)
    | lift_lets | subst x | apply calm_laneCycles | apply calm_setVreg | apply calm_rset | apply calm_modPlank
    | apply calm_fileEvent | split | fail_if_no_progress apply calm_free

theorem calm_laneFma {s : State} {p : Nat} {e : VecSlot} (h₀ : Calm a₀ s) :
    Calm a₀ (laneFma s p e) := by
  unfold laneFma
  repeat' with_reducible first
    | assumption
    | (intro x; first | (refine (fun (hx : Calm a₀ x) => ?_) ?_; clear_value x) | (refine (fun (hx : Calm a₀ x.2) => ?_) ?_; clear_value x) | (refine (fun (hx : Calm a₀ x.1) => ?_) ?_; clear_value x) | clear_value x)
    | lift_lets | subst x | apply calm_laneCycles | apply calm_noteInvalid | apply calm_setVreg | apply calm_rset
    | apply calm_modPlank | apply calm_fileEvent | split | fail_if_no_progress apply calm_free

theorem calm_laneCmp {s : State} {p : Nat} {e : VecSlot} (h₀ : Calm a₀ s) :
    Calm a₀ (laneCmp s p e) := by
  unfold laneCmp
  repeat' with_reducible first
    | assumption
    | (intro x; first | (refine (fun (hx : Calm a₀ x) => ?_) ?_; clear_value x) | (refine (fun (hx : Calm a₀ x.2) => ?_) ?_; clear_value x) | (refine (fun (hx : Calm a₀ x.1) => ?_) ?_; clear_value x) | clear_value x)
    | lift_lets | subst x | apply calm_laneCycles | apply calm_noteInvalid | apply calm_modPlank | apply calm_rset
    | apply calm_fileEvent | split | fail_if_no_progress apply calm_free

theorem calm_laneSel {s : State} {p : Nat} {e : VecSlot} (h₀ : Calm a₀ s) :
    Calm a₀ (laneSel s p e) := by
  unfold laneSel
  repeat' with_reducible first
    | assumption
    | (intro x; first | (refine (fun (hx : Calm a₀ x) => ?_) ?_; clear_value x) | (refine (fun (hx : Calm a₀ x.2) => ?_) ?_; clear_value x) | (refine (fun (hx : Calm a₀ x.1) => ?_) ?_; clear_value x) | clear_value x)
    | lift_lets | subst x | apply calm_laneCycles | apply calm_setVreg | apply calm_rset | apply calm_modPlank
    | apply calm_fileEvent | split | fail_if_no_progress apply calm_free

theorem calm_laneCvt {s : State} {p : Nat} {e : VecSlot} (h₀ : Calm a₀ s) :
    Calm a₀ (laneCvt s p e) := by
  unfold laneCvt
  repeat' with_reducible first
    | assumption
    | (intro x; first | (refine (fun (hx : Calm a₀ x) => ?_) ?_; clear_value x) | (refine (fun (hx : Calm a₀ x.2) => ?_) ?_; clear_value x) | (refine (fun (hx : Calm a₀ x.1) => ?_) ?_; clear_value x) | clear_value x)
    | lift_lets | subst x | apply calm_setVreg | apply calm_addStats | apply calm_laneCycles
    | apply calm_noteInvalid | refine calm_foldl (fun _ _ _ => ?_) ?_ | refine calm_foldl_fst (fun _ _ _ => ?_) ?_
    | refine calm_foldl_snd (fun _ _ _ => ?_) ?_ | apply calm_rset | apply calm_modPlank | apply calm_fileEvent
    | split | fail_if_no_progress apply calm_free

theorem calm_laneFoldOp {s : State} {p : Nat} {e : VecSlot} {f : F32 → F32 → F32} {g : F32 → F32} (h₀ : Calm a₀ s) :
    Calm a₀ (laneFoldOp s p e f g) := by
  unfold laneFoldOp
  repeat' with_reducible first
    | assumption | (intro x; first | (refine (fun (hx : Calm a₀ x) => ?_) ?_; clear_value x) | clear_value x)
    | lift_lets | subst x | apply calm_laneCycles | apply calm_noteInvalid | apply calm_setVreg | apply calm_rset
    | apply calm_modPlank | apply calm_fileEvent | split | fail_if_no_progress apply calm_free

theorem calm_laneRng {s : State} {p : Nat} {e : VecSlot} (h₀ : Calm a₀ s) :
    Calm a₀ (laneRng s p e) := by
  unfold laneRng
  repeat' with_reducible first
    | assumption | (intro x; first | (refine (fun (hx : Calm a₀ x) => ?_) ?_; clear_value x) | clear_value x)
    | lift_lets | subst x | apply calm_laneCycles | apply calm_setVreg | apply calm_rset | apply calm_modPlank
    | apply calm_fileEvent | split | fail_if_no_progress apply calm_free

theorem calm_drained {s : State} (h₀ : Calm a₀ s) :
    Calm a₀ (drained s) := by
  unfold drained
  repeat' with_reducible first
    | assumption | (intro x; first | (refine (fun (hx : Calm a₀ x) => ?_) ?_; clear_value x) | clear_value x)
    | lift_lets | subst x | apply calm_rset | apply calm_fileEvent | refine calm_foldl (fun _ _ _ => ?_) ?_
    | apply calm_modPlank | split | fail_if_no_progress apply calm_free

end Sys2Proof.Machine
end

