-- ==== Sys2Proof/Laws/Fields.lean ====
section
/-! SUPPORT. The laws of bit fields: a field reads as it was written, and every field apart from it as before. -/
namespace Sys2Proof.Machine

theorem bits_testBit (x lo w i : Nat) : (bits x lo w).testBit i = (decide (i < w) && x.testBit (lo + i)) := by
  simp [bits, Nat.testBit_mod_two_pow, Nat.testBit_shiftRight]

theorem bits_lt (x lo w : Nat) : bits x lo w < 2 ^ w := Nat.mod_lt _ (Nat.two_pow_pos w)

theorem fld_testBit {n : Nat} (x : BitVec n) (hi lo i : Nat) :
    (fld x hi lo).testBit i = (decide (i < hi + 1 - lo) && x.getLsbD (lo + i)) := by
  simp [fld, bits_testBit, BitVec.testBit_toNat]

theorem fld_lt {n : Nat} (x : BitVec n) (hi lo : Nat) : fld x hi lo < 2 ^ (hi + 1 - lo) := bits_lt _ _ _

/-- Bits of a word after a write of one field. -/
theorem setFld_getLsbD {n : Nat} (x : BitVec n) {hi lo : Nat} (v i : Nat) (hn : hi < n) :
    (setFld x hi lo v).getLsbD i = if lo ≤ i ∧ i ≤ hi then v.testBit (i - lo) else x.getLsbD i := by
  have hm : ∀ k, ((2 ^ (hi + 1 - lo) - 1) <<< lo).testBit k = decide (lo ≤ k ∧ k ≤ hi) := by
    intro k
    rw [Nat.testBit_shiftLeft, Nat.testBit_two_pow_sub_one]
    by_cases h1 : lo ≤ k <;> by_cases h2 : k ≤ hi <;> simp [h1, h2] <;> omega
  have hv : ∀ k, ((v % 2 ^ (hi + 1 - lo)) <<< lo).testBit k = (decide (lo ≤ k ∧ k ≤ hi) && v.testBit (k - lo)) := by
    intro k
    rw [Nat.testBit_shiftLeft, Nat.testBit_mod_two_pow]
    by_cases h1 : lo ≤ k <;> by_cases h2 : k ≤ hi <;> simp [h1, h2] <;> omega
  simp only [setFld, BitVec.getLsbD_or, BitVec.getLsbD_and, BitVec.getLsbD_not, BitVec.getLsbD_ofNat, hm, hv]
  by_cases hi' : i < n
  · by_cases h : lo ≤ i ∧ i ≤ hi <;> simp [h, hi']
  · have h1 : ¬ (lo ≤ i ∧ i ≤ hi) := by omega
    have h2 : x.getLsbD i = false := BitVec.getLsbD_of_ge _ _ (by omega)
    simp [h1, hi', h2]

/-- A field reads the low bits of what was written. -/
theorem fld_setFld {n : Nat} (x : BitVec n) {hi lo : Nat} (v : Nat) (hn : hi < n) :
    fld (setFld x hi lo v) hi lo = v % 2 ^ (hi + 1 - lo) := by
  apply Nat.eq_of_testBit_eq
  intro i
  rw [fld_testBit, setFld_getLsbD _ _ _ hn, Nat.testBit_mod_two_pow]
  by_cases h : i < hi + 1 - lo
  · have : lo ≤ lo + i ∧ lo + i ≤ hi := by omega
    simp [h, this]
  · simp [h]

/-- A field apart from the one written reads as before. -/
theorem fld_setFld_apart {n : Nat} (x : BitVec n) {hi lo hi' lo' : Nat} (v : Nat) (hn : hi < n) (h : hi' < lo ∨ hi < lo') :
    fld (setFld x hi lo v) hi' lo' = fld x hi' lo' := by
  apply Nat.eq_of_testBit_eq
  intro i
  rw [fld_testBit, fld_testBit, setFld_getLsbD _ _ _ hn]
  by_cases hi1 : i < hi' + 1 - lo'
  · have : ¬ (lo ≤ lo' + i ∧ lo' + i ≤ hi) := by omega
    simp [this]
  · simp [hi1]

theorem fget_fset {n : Nat} (x : BitVec n) (f : Fd) (v : Nat) (hn : f.1 < n) :
    fget (fset x f v) f = v % 2 ^ (f.1 + 1 - f.2) := fld_setFld x v hn

theorem fget_fset_apart {n : Nat} (x : BitVec n) (f g : Fd) (v : Nat) (hn : f.1 < n) (h : g.1 < f.2 ∨ f.1 < g.2) :
    fget (fset x f v) g = fget x g := fld_setFld_apart x v hn h

end Sys2Proof.Machine
end

