-- ==== Sys2Proof/Laws/Map.lean ====
section
/-! SUPPORT. The laws of the sparse maps: what a write changes, and that every operation keeps the canonical form. -/
namespace Sys2Proof.Machine

variable {α : Type}

@[simp] theorem kget_nil (d : Nat → α) (k : Nat) : kget d [] k = d k := rfl

theorem kabove_mono {lo lo' : Nat} (h : lo ≤ lo') {m : List (Nat × α)} (hm : kabove lo' m = true) : kabove lo m = true := by
  cases m with
  | nil => rfl
  | cons e m =>
    simp only [kabove, Bool.and_eq_true, decide_eq_true_eq] at hm ⊢
    exact ⟨h.trans hm.1, hm.2⟩

/-- A key below all that are listed reads as the default. -/
theorem kget_below {d : Nat → α} {m : List (Nat × α)} {lo k : Nat} (hm : kabove lo m = true) (h : k < lo) : kget d m k = d k := by
  induction m generalizing lo with
  | nil => rfl
  | cons e m ih =>
    simp only [kabove, Bool.and_eq_true, decide_eq_true_eq] at hm
    rw [kget, if_neg (by omega), ih hm.2 (by omega)]

variable [DecidableEq α]

theorem kabove_kput {d : Nat → α} {m : List (Nat × α)} {lo k : Nat} {v : α} (hm : kabove lo m = true) (h : lo ≤ k) :
    kabove lo (kput d m k v) = true := by
  induction m generalizing lo with
  | nil => unfold kput; split <;> simp [kabove, h]
  | cons e m ih =>
    obtain ⟨j, u⟩ := e
    simp only [kabove, Bool.and_eq_true, decide_eq_true_eq] at hm
    unfold kput
    split_ifs
    · simp [kabove, hm]
    · simp only [kabove, Bool.and_eq_true, decide_eq_true_eq]
      exact ⟨h, by omega, hm.2⟩
    · exact kabove_mono (by omega) hm.2
    · simp only [kabove, Bool.and_eq_true, decide_eq_true_eq]
      exact ⟨h, by subst_vars; exact hm.2⟩
    · simp only [kabove, Bool.and_eq_true, decide_eq_true_eq]
      exact ⟨hm.1, ih hm.2 (by omega)⟩

/-- What a key reads after a write: the value written at its own key, what it read before at every other. -/
theorem kget_kput {d : Nat → α} {m : List (Nat × α)} {lo : Nat} (hm : kabove lo m = true) (k : Nat) (v : α) (i : Nat) :
    kget d (kput d m k v) i = if i = k then v else kget d m i := by
  induction m generalizing lo with
  | nil =>
    unfold kput
    by_cases hi : i = k
    · subst hi
      rw [if_pos rfl]
      split_ifs with h1
      · exact h1.symm
      · simp [kget]
    · rw [if_neg hi]
      split_ifs
      · rfl
      · simp [kget, Ne.symm hi]
  | cons e m ih =>
    obtain ⟨j, u⟩ := e
    simp only [kabove, Bool.and_eq_true, decide_eq_true_eq] at hm
    have below : ∀ i, i ≤ j → kget d m i = d i := fun i hi => kget_below hm.2 (by omega)
    unfold kput
    by_cases hi : i = k
    · subst hi
      rw [if_pos rfl]
      split_ifs with h1 h2 h3 h4
      · rw [kget, if_neg (by omega), below _ (by omega), h2]
      · rw [kget, if_pos rfl]
      · subst h3; rw [below _ (Nat.le_refl _), h4]
      · rw [kget, if_pos rfl]
      · rw [kget, if_neg h3, ih hm.2, if_pos rfl]
    · rw [if_neg hi]
      split_ifs with h1 h2 h3 h4
      · rfl
      · simp [kget, Ne.symm hi]
      · subst h3; rw [kget, if_neg (fun h => hi h.symm)]
      · subst h3; rw [kget, kget, if_neg (fun h => hi h.symm), if_neg (fun h => hi h.symm)]
      · rw [kget, kget, ih hm.2, if_neg hi]

/-- A write keeps the canonical form. -/
theorem kwf_kput {d : Nat → α} {m : List (Nat × α)} (hm : kwf d m = true) (k : Nat) (v : α) : kwf d (kput d m k v) = true := by
  simp only [kwf, Bool.and_eq_true] at hm ⊢
  refine ⟨kabove_kput hm.1 (Nat.zero_le _), ?_⟩
  have hall := hm.2
  clear hm
  induction m with
  | nil => unfold kput; split <;> simp_all
  | cons e m ih =>
    obtain ⟨j, u⟩ := e
    simp only [List.all_cons, Bool.and_eq_true] at hall
    unfold kput
    split_ifs <;> simp_all

theorem kwf_nil (d : Nat → α) : kwf d ([] : List (Nat × α)) = true := rfl

theorem kwf_kputs {d : Nat → α} {m : List (Nat × α)} (hm : kwf d m = true) (k : Nat) (vs : List α) :
    kwf d (kputs d m k vs) = true := by
  induction vs generalizing m k with
  | nil => exact hm
  | cons v vs ih => exact ih (kwf_kput hm k v) (k + 1)

theorem kwf_above {d : Nat → α} {m : List (Nat × α)} (hm : kwf d m = true) : kabove 0 m = true := by
  simp only [kwf, Bool.and_eq_true] at hm; exact hm.1

/-- A read after a write of a run: the run inside it, what was there before outside. -/
theorem kget_kputs {d : Nat → α} {m : List (Nat × α)} (hm : kwf d m = true) (k : Nat) (vs : List α) (i : Nat) :
    kget d (kputs d m k vs) i = if h : k ≤ i ∧ i < k + vs.length then vs[i - k]'(by omega) else kget d m i := by
  induction vs generalizing m k with
  | nil => rw [dif_neg (by simp)]; rfl
  | cons v vs ih =>
    rw [kputs, ih (kwf_kput hm k v) (k + 1), kget_kput (kwf_above hm)]
    by_cases hi : i = k
    · subst hi; simp
    · by_cases h : k + 1 ≤ i ∧ i < k + 1 + vs.length
      · rw [dif_pos h, dif_pos (by simp only [List.length_cons]; omega)]
        obtain ⟨n, rfl⟩ : ∃ n, i = k + 1 + n := ⟨i - (k + 1), by omega⟩
        simp [show k + 1 + n - k = n + 1 by omega]
      · rw [dif_neg h, dif_neg (by simp only [List.length_cons]; omega), if_neg hi]

omit [DecidableEq α] in
theorem kgets_length (d : Nat → α) (m : List (Nat × α)) (k n : Nat) : (kgets d m k n).length = n := by
  induction n generalizing k with
  | zero => rfl
  | succ n ih => simp [kgets, ih]

omit [DecidableEq α] in
theorem kgets_getElem (d : Nat → α) (m : List (Nat × α)) (k n i : Nat) (h : i < (kgets d m k n).length) :
    (kgets d m k n)[i] = kget d m (k + i) := by
  induction n generalizing k i with
  | zero => simp [kgets] at h
  | succ n ih =>
    cases i with
    | zero => rfl
    | succ i =>
      simp only [kgets, List.getElem_cons_succ]
      rw [ih (k + 1) i (by simpa [kgets] using h)]
      congr 1
      omega

/-- A run reads back as it was written. -/
theorem kgets_kputs {d : Nat → α} {m : List (Nat × α)} (hm : kwf d m = true) (k : Nat) (vs : List α) :
    kgets d (kputs d m k vs) k vs.length = vs := by
  apply List.ext_getElem (kgets_length _ _ _ _)
  intro i h1 h2
  rw [kgets_getElem, kget_kputs hm, dif_pos (by omega)]
  simp

/-- Entries kept or dropped with their keys, none of them at its default, stay in canonical form. -/
theorem kwf_filterMap {d : Nat → α} {m : List (Nat × α)} (hm : kwf d m = true) (f : Nat × α → Option (Nat × α))
    (hf : ∀ e ∈ m, e.2 ≠ d e.1 → ∀ e', f e = some e' → e'.1 = e.1 ∧ e'.2 ≠ d e.1) : kwf d (m.filterMap f) = true := by
  simp only [kwf, Bool.and_eq_true] at hm ⊢
  obtain ⟨ha, hall⟩ := hm
  generalize 0 = lo at ha ⊢
  induction m generalizing lo with
  | nil => exact ⟨rfl, rfl⟩
  | cons e m ih =>
    obtain ⟨j, u⟩ := e
    simp only [kabove, Bool.and_eq_true, decide_eq_true_eq] at ha
    simp only [List.all_cons, Bool.and_eq_true] at hall
    have ih' := fun lo h => ih (fun e he => hf e (List.mem_cons_of_mem _ he)) hall.2 lo h
    simp only [List.filterMap_cons]
    cases hfe : f (j, u) with
    | none => exact ih' lo (kabove_mono (by omega) ha.2)
    | some e' =>
      have h0 := hf (j, u) (List.mem_cons_self ..) (by simpa using hall.1) e' hfe
      obtain ⟨h1, h2⟩ := ih' (j + 1) ha.2
      obtain ⟨j', u'⟩ := e'
      simp only at h0
      obtain ⟨rfl, h0⟩ := h0
      simp only [kabove, List.all_cons, Bool.and_eq_true, decide_eq_true_eq]
      exact ⟨⟨ha.1, h1⟩, by simpa using h0, h2⟩

theorem kwf_filter {d : Nat → α} {m : List (Nat × α)} (hm : kwf d m = true) (f : Nat × α → Bool) : kwf d (m.filter f) = true := by
  have : m.filter f = m.filterMap (fun e => if f e then some e else none) := by
    rw [← List.filterMap_eq_filter]
    congr
  rw [this]
  exact kwf_filterMap hm _ (fun e _ h e' he => by
    split at he
    · cases he; exact ⟨rfl, h⟩
    · cases he)

theorem kwf_map {d : Nat → α} {m : List (Nat × α)} (hm : kwf d m = true) (f : Nat × α → Nat × α)
    (hf : ∀ e ∈ m, e.2 ≠ d e.1 → (f e).1 = e.1 ∧ (f e).2 ≠ d e.1) : kwf d (m.map f) = true := by
  have : m.map f = m.filterMap (fun e => some (f e)) := by simp
  rw [this]
  exact kwf_filterMap hm _ (fun e he h e' h' => by cases h'; exact hf e he h)

theorem kwf_foldl {d : Nat → α} {β : Type} (g : List (Nat × α) → β → List (Nat × α)) (l : List β) {m : List (Nat × α)}
    (hm : kwf d m = true) (hg : ∀ m b, kwf d m = true → kwf d (g m b) = true) : kwf d (l.foldl g m) = true := by
  induction l generalizing m with
  | nil => exact hm
  | cons b l ih => exact ih (hg _ _ hm)

/-- Canonical maps with the same contents are the same data. -/
theorem kwf_ext {d : Nat → α} {m n : List (Nat × α)} (hm : kwf d m = true) (hn : kwf d n = true)
    (h : ∀ k, kget d m k = kget d n k) : m = n := by
  simp only [kwf, Bool.and_eq_true] at hm hn
  obtain ⟨ham, hdm⟩ := hm
  obtain ⟨han, hdn⟩ := hn
  generalize 0 = lo at ham han
  induction m generalizing n lo with
  | nil =>
    cases n with
    | nil => rfl
    | cons e n =>
      exfalso
      simp only [List.all_cons, Bool.and_eq_true] at hdn
      have := h e.1
      simp only [kget, if_true] at this
      simp [this] at hdn
  | cons e m ih =>
    obtain ⟨j, u⟩ := e
    simp only [kabove, Bool.and_eq_true, decide_eq_true_eq] at ham
    simp only [List.all_cons, Bool.and_eq_true] at hdm
    have hu : u ≠ d j := by simpa using hdm.1
    cases n with
    | nil =>
      exfalso
      have := h j
      simp only [kget, if_true] at this
      exact hu this
    | cons e' n =>
      obtain ⟨i, v⟩ := e'
      simp only [kabove, Bool.and_eq_true, decide_eq_true_eq] at han
      simp only [List.all_cons, Bool.and_eq_true] at hdn
      have hv : v ≠ d i := by simpa using hdn.1
      have hji : j = i := by
        rcases Nat.lt_trichotomy j i with hlt | heq | hgt
        · exfalso
          have := h j
          rw [kget, if_pos rfl, kget, if_neg (by omega), kget_below han.2 (by omega)] at this
          exact hu this
        · exact heq
        · exfalso
          have := h i
          rw [kget, if_neg (by omega), kget, if_pos rfl, kget_below ham.2 (by omega)] at this
          exact hv this.symm
      subst hji
      have huv : u = v := by
        have := h j
        simpa [kget] using this
      subst huv
      congr 1
      refine ih ?_ hdm.2 hdn.2 (j + 1) ham.2 han.2
      intro k
      by_cases hk : j = k
      · subst hk
        rw [kget_below ham.2 (by omega), kget_below han.2 (by omega)]
      · have := h k
        rwa [kget, if_neg hk, kget, if_neg hk] at this

end Sys2Proof.Machine
end

