-- ==== Sys2Proof/Laws/Keeps.lean ====
section
/-! SUPPORT. Every change of state that the primitive operations make keeps the tables canonical and the queue as it is. -/
namespace Sys2Proof.Machine

variable {a s r : State}

theorem Keeps.refl (a : State) : Keeps a a := ⟨id, rfl⟩

theorem Keeps.trans {b c : State} (h : Keeps a b) (h' : Keeps b c) : Keeps a c :=
  ⟨fun w => h'.wf (h.wf w), h'.queue.trans h.queue⟩

theorem keeps_foldl {β : Type} {f : State → β → State} {l : List β} (hf : ∀ s b, Keeps a s → Keeps a (f s b))
    (h : Keeps a s) : Keeps a (l.foldl f s) := by
  induction l generalizing s with
  | nil => exact h
  | cons b l ih => exact ih (hf _ _ h)

/-- A fold whose second part is the state. -/
theorem keeps_foldl_snd {β γ : Type} {f : γ × State → β → γ × State} {l : List β} {x : γ × State}
    (hf : ∀ x b, Keeps a x.2 → Keeps a (f x b).2) (h : Keeps a x.2) : Keeps a (l.foldl f x).2 := by
  induction l generalizing x with
  | nil => exact h
  | cons b l ih => exact ih (hf _ _ h)

/-- A fold whose first part is the state. -/
theorem keeps_foldl_fst {β γ : Type} {f : State × γ → β → State × γ} {l : List β} {x : State × γ}
    (hf : ∀ x b, Keeps a x.1 → Keeps a (f x b).1) (h : Keeps a x.1) : Keeps a (l.foldl f x).1 := by
  induction l generalizing x with
  | nil => exact h
  | cons b l ih => exact ih (hf _ _ h)

theorem keeps_snd {γ : Type} {p : γ × State} {x : γ} {t : State} (e : p = (x, t)) (h : Keeps a p.2) : Keeps a t := by
  subst e; exact h
theorem keeps_fst {γ : Type} {p : State × γ} {x : γ} {t : State} (e : p = (t, x)) (h : Keeps a p.1) : Keeps a t := by
  subst e; exact h

/-- An answer that may hold a state: the state, when there is one. -/
def KeepsOpt (a : State) (o : Option State) : Prop := ∀ t, o = some t → Keeps a t

theorem keepsOpt_none : KeepsOpt a none := fun _ e => by cases e
theorem keepsOpt_some (h : Keeps a s) : KeepsOpt a (some s) := fun _ e => by cases e; exact h
theorem keepsOpt_of {o : Option State} (h : KeepsOpt a o) (e : o = some s) : Keeps a s := h _ e
theorem keeps_getD {o : Option State} (h : KeepsOpt a o) (hr : Keeps a r) : Keeps a (o.getD r) := by
  cases o with
  | none => exact hr
  | some t => exact h _ rfl

/-- Fields that are no table may change in any way. -/
theorem keeps_free (h : Keeps a s) (fifo : List Event) (errq : List ErrEntry) (count wall wallAt : BitVec 64) (jobs : List Job)
    (fab : Fabric) (board : Board) (net : Net) (out : List OutMsg) (stamps draws : Nat) :
    Keeps a { win := s.win, mem := s.mem, poison := s.poison, planks := s.planks, objs := s.objs, latch := s.latch,
              streams := s.streams, evlog := s.evlog, fifo := fifo, errq := errq, peat := s.peat, count := count, wall := wall,
              wallAt := wallAt, jobs := jobs, fab := fab, pcs := s.pcs, board := board, net := net, out := out,
              stamps := stamps, draws := draws, pending := s.pending } :=
  ⟨fun w => let w := h.wf w; ⟨w.win, w.mem, w.poison, w.planks, w.objs, w.latch, w.streams, w.evlog, w.peat, w.pcs, w.cores⟩, h.queue⟩

theorem keeps_setWord {off : Nat} {v : Word64} (h : Keeps a s) : Keeps a (s.setWord off v) :=
  ⟨fun w => let w := h.wf w; { w with win := kwf_kput w.win _ _ }, h.queue⟩

theorem canonical_reset (p : Nat) : (plankReset p).Canonical := ⟨rfl, rfl, rfl, rfl, rfl⟩

theorem keeps_setPlank {p : Nat} {x : Plank} (h : Keeps a s) (hx : (∀ q, (s.plank q).Canonical) → x.Canonical) :
    Keeps a (s.setPlank p x) :=
  ⟨fun w =>
    let w := h.wf w
    { w with
      planks := kwf_kput w.planks _ _
      cores := fun q => by
        show (kget plankReset (kput plankReset s.planks p x) q).Canonical
        rw [kget_kput (kwf_above w.planks)]
        split
        · exact hx w.cores
        · exact w.cores q },
   h.queue⟩

/-- A change of one plank that leaves its registers and memories canonical. -/
theorem keeps_modPlank {p : Nat} {f : Plank → Plank} (h : Keeps a s)
    (hf : ∀ k : Plank, k.Canonical → (f k).Canonical := by exact fun _ h => h) : Keeps a (s.modPlank p f) :=
  keeps_setPlank h (fun hs => hf _ (hs p))

theorem keeps_store {o : Nat} {bs : List Byte} (h : Keeps a s) : Keeps a (s.store o bs) :=
  ⟨fun w => let w := h.wf w; { w with mem := kwf_kputs w.mem _ _, poison := kwf_filter w.poison _ }, h.queue⟩

theorem keeps_storeKeep {o : Nat} {bs : List Byte} (h : Keeps a s) : Keeps a (s.storeKeep o bs) :=
  ⟨fun w => let w := h.wf w; { w with mem := kwf_kputs w.mem _ _ }, h.queue⟩

theorem keeps_addPoison {o n : Nat} (h : Keeps a s) : Keeps a (s.addPoison o n) := by
  unfold State.addPoison
  split
  · exact h
  · exact ⟨fun w => let w := h.wf w; { w with poison := kwf_foldl _ _ w.poison (fun _ _ hm => kwf_kput hm _ _) }, h.queue⟩

theorem keeps_setObj {o : Nat} {x : ObjRec} (h : Keeps a s) : Keeps a (s.setObj o x) :=
  ⟨fun w => let w := h.wf w; { w with objs := kwf_kput w.objs _ _ }, h.queue⟩

theorem keeps_setStrm {n : Nat} {x : StreamRec} (h : Keeps a s) : Keeps a (s.setStrm n x) :=
  ⟨fun w => let w := h.wf w; { w with streams := kwf_kput w.streams _ _ }, h.queue⟩

theorem keeps_setLatch {k : Writer} {v : Word64} (h : Keeps a s) : Keeps a (setLatch s k v) :=
  ⟨fun w => let w := h.wf w; { w with latch := kwf_kput w.latch _ _ }, h.queue⟩

theorem keeps_setPcState {m c : Nat} {x : Pc} (h : Keeps a s) : Keeps a (setPcState s m c x) :=
  ⟨fun w => let w := h.wf w; { w with pcs := kwf_kput w.pcs _ _ }, h.queue⟩

theorem keeps_pcs {k : Nat} {x : Pc} (h : Keeps a s) : Keeps a { s with pcs := kput pcReset s.pcs k x } :=
  ⟨fun w => let w := h.wf w; { w with pcs := kwf_kput w.pcs _ _ }, h.queue⟩

theorem keeps_evlog {k : Nat} {x : BitVec 1024} (h : Keeps a s) : Keeps a { s with evlog := kput (fun _ => 0) s.evlog k x } :=
  ⟨fun w => let w := h.wf w; { w with evlog := kwf_kput w.evlog _ _ }, h.queue⟩

theorem keeps_peat {k : Nat} {x : BitVec 512} (h : Keeps a s) (hr : Keeps a r) :
    Keeps a { s with peat := kput noPeat r.peat k x } :=
  ⟨fun w => let w' := hr.wf w; let w := h.wf w; { w with peat := kwf_kput w'.peat _ _ }, h.queue⟩

theorem keeps_peat_filter {f : Nat × BitVec 512 → Bool} (h : Keeps a s) : Keeps a { s with peat := s.peat.filter f } :=
  ⟨fun w => let w := h.wf w; { w with peat := kwf_filter w.peat _ }, h.queue⟩

/-- The reset of register words keeps the canonical form. -/
theorem kwf_resetWords {hit : Nat → Bool} {m : List (Nat × Word64)} (h : kwf winReset m = true) :
    kwf winReset (resetWords hit m) = true := by
  unfold resetWords
  refine kwf_filterMap h _ (fun e _ hd e' he => ?_)
  split at he
  · cases he; exact ⟨rfl, hd⟩
  · dsimp only at he
    split at he
    · cases he
    · cases he; exact ⟨rfl, by assumption⟩

theorem keeps_win {m : List (Nat × Word64)} (h : Keeps a s) (hm : kwf winReset s.win = true → kwf winReset m = true) :
    Keeps a { s with win := m } :=
  ⟨fun w => let w := h.wf w; { w with win := hm w.win }, h.queue⟩

/-- Either of two states. -/
theorem keeps_ite {c : Prop} [Decidable c] {t : State} (h : Keeps a s) (h' : Keeps a t) : Keeps a (if c then s else t) := by
  split <;> assumption

theorem keepsOpt_ite {c : Prop} [Decidable c] {x y : Option State} (h : KeepsOpt a x) (h' : KeepsOpt a y) :
    KeepsOpt a (if c then x else y) := by
  split <;> assumption

end Sys2Proof.Machine
end

