-- ==== Sys2Proof/Laws/KeepsOps.lean ====
section
/-! SUPPORT. One lemma per operation and per meaning: it keeps the tables canonical and the queue as it is; here the shared operations, register access and verbs. -/
namespace Sys2Proof.Machine

set_option linter.all false

variable {a₀ : State}

/-! ## Ops -/

theorem keeps_rset {s : State} {f : RegF} {v : ℕ} (h₀ : Keeps a₀ s) :
    Keeps a₀ (State.rset s f v) := by
  unfold State.rset
  repeat' with_reducible first
    | assumption | (intro x; first | (refine (fun (hx : Keeps a₀ x) => ?_) ?_; clear_value x) | clear_value x)
    | lift_lets | subst x | apply keeps_setWord | exact fun _ h => h | split

theorem keeps_rsat {s : State} {f : RegF} {n : ℕ} (h₀ : Keeps a₀ s) :
    Keeps a₀ (State.rsat s f n) := by
  unfold State.rsat
  repeat' with_reducible first
    | assumption | (intro x; first | (refine (fun (hx : Keeps a₀ x) => ?_) ?_; clear_value x) | clear_value x)
    | lift_lets | subst x | apply keeps_rset | exact fun _ h => h | split

theorem keeps_radd {s : State} {f : RegF} {n : ℕ} (h₀ : Keeps a₀ s) :
    Keeps a₀ (State.radd s f n) := by
  unfold State.radd
  repeat' with_reducible first
    | assumption | (intro x; first | (refine (fun (hx : Keeps a₀ x) => ?_) ?_; clear_value x) | clear_value x)
    | lift_lets | subst x | apply keeps_rset | exact fun _ h => h | split

theorem keeps_rmax {s : State} {f : RegF} {n : ℕ} (h₀ : Keeps a₀ s) :
    Keeps a₀ (State.rmax s f n) := by
  unfold State.rmax
  repeat' with_reducible first
    | assumption | (intro x; first | (refine (fun (hx : Keeps a₀ x) => ?_) ?_; clear_value x) | clear_value x)
    | lift_lets | subst x | apply keeps_rset | exact fun _ h => h | split

theorem keeps_tick {s : State} (h₀ : Keeps a₀ s) :
    Keeps a₀ (State.tick s) := by
  unfold State.tick
  repeat' with_reducible first
    | assumption | (intro x; first | (refine (fun (hx : Keeps a₀ x) => ?_) ?_; clear_value x) | clear_value x)
    | lift_lets | subst x | exact fun _ h => h | split | fail_if_no_progress apply keeps_free

theorem keeps_drew {s : State} (h₀ : Keeps a₀ s) :
    Keeps a₀ (State.drew s) := by
  unfold State.drew
  repeat' with_reducible first
    | assumption | (intro x; first | (refine (fun (hx : Keeps a₀ x) => ?_) ?_; clear_value x) | clear_value x)
    | lift_lets | subst x | exact fun _ h => h | split | fail_if_no_progress apply keeps_free

theorem keeps_storeRec {s : State} {a : ℕ} {x : BitVec w} (h₀ : Keeps a₀ s) :
    Keeps a₀ (State.storeRec s a x) := by
  unfold State.storeRec
  repeat' with_reducible first
    | assumption | (intro x; first | (refine (fun (hx : Keeps a₀ x) => ?_) ?_; clear_value x) | clear_value x)
    | lift_lets | subst x | apply keeps_store | exact fun _ h => h | split

theorem keeps_modSession {s : State} {n : ℕ} {f : Session → Session} (h₀ : Keeps a₀ s) :
    Keeps a₀ (modSession s n f) := by
  unfold modSession
  repeat' with_reducible first
    | assumption | (intro x; first | (refine (fun (hx : Keeps a₀ x) => ?_) ?_; clear_value x) | clear_value x)
    | lift_lets | subst x | exact fun _ h => h | split | fail_if_no_progress apply keeps_free

theorem keeps_sendMsg {s : State} {e : ℕ} {peer : Peer} {m : Msg} (h₀ : Keeps a₀ s) :
    Keeps a₀ (sendMsg s e peer m) := by
  unfold sendMsg
  repeat' with_reducible first
    | assumption | (intro x; first | (refine (fun (hx : Keeps a₀ x) => ?_) ?_; clear_value x) | clear_value x)
    | lift_lets | subst x | apply keeps_modSession | apply keeps_radd | exact fun _ h => h | split
    | fail_if_no_progress apply keeps_free | refine keeps_snd (by assumption) ?_ | refine keeps_fst (by assumption) ?_

theorem keeps_sendEvent {s : State} {er : BitVec 1024} (h₀ : Keeps a₀ s) :
    Keeps a₀ (sendEvent s er) := by
  unfold sendEvent
  repeat' with_reducible first
    | assumption | (intro x; first | (refine (fun (hx : Keeps a₀ x) => ?_) ?_; clear_value x) | clear_value x)
    | lift_lets | subst x | apply keeps_modSession | apply keeps_sendMsg | refine keeps_foldl (fun _ _ _ => ?_) ?_
    | exact fun _ h => h | split

theorem keeps_logEvent {s : State} {e : Event} (h : Keeps a₀ s) : Keeps a₀ (logEvent s e) := by
  have h1 : ∀ k x b, Keeps a₀ { s with evlog := kput (fun _ => 0) s.evlog k x, board := b } :=
    fun _ _ _ => keeps_free (keeps_evlog h) ..
  unfold logEvent
  dsimp only
  exact keeps_ite (keeps_sendEvent (keeps_rset (keeps_rset (keeps_rset (h1 _ _ _))))) (keeps_rset (keeps_rset (keeps_rset (h1 _ _ _))))

theorem keeps_fileEvent {s : State} {cls : ℕ} {kind : ℕ} {unitClass : ℕ} {unit : ℕ} {step : ℕ} {payload : BitVec 512} (h₀ : Keeps a₀ s) :
    Keeps a₀ (fileEvent s cls kind unitClass unit step payload) := by
  unfold fileEvent
  repeat' with_reducible first
    | assumption | (intro x; first | (refine (fun (hx : Keeps a₀ x) => ?_) ?_; clear_value x) | clear_value x)
    | lift_lets | subst x | apply keeps_tick | apply keeps_logEvent | apply keeps_rsat | exact fun _ h => h | split
    | fail_if_no_progress apply keeps_free

theorem keeps_alert {s : State} {n : ℕ} (h₀ : Keeps a₀ s) :
    Keeps a₀ (alert s n) := by
  unfold alert
  repeat' with_reducible first
    | assumption | (intro x; first | (refine (fun (hx : Keeps a₀ x) => ?_) ?_; clear_value x) | clear_value x)
    | lift_lets | subst x | apply keeps_rset | exact fun _ h => h | split

theorem keeps_strmSet {s : State} {n : ℕ} {f : Fd} {v : ℕ} (h₀ : Keeps a₀ s) :
    Keeps a₀ (strmSet s n f v) := by
  unfold strmSet
  repeat' with_reducible first
    | assumption | (intro x; first | (refine (fun (hx : Keeps a₀ x) => ?_) ?_; clear_value x) | clear_value x)
    | lift_lets | subst x | apply keeps_setStrm | exact fun _ h => h | split

theorem keeps_modJob {s : State} {id : ℕ} {f : Job → Job} (h₀ : Keeps a₀ s) :
    Keeps a₀ (modJob s id f) := by
  unfold modJob
  repeat' with_reducible first
    | assumption | (intro x; first | (refine (fun (hx : Keeps a₀ x) => ?_) ?_; clear_value x) | clear_value x)
    | lift_lets | subst x | exact fun _ h => h | split | fail_if_no_progress apply keeps_free

theorem keeps_jobFlag {s : State} {id : ℕ} {f : StepFlag} (h₀ : Keeps a₀ s) :
    Keeps a₀ (jobFlag s id f) := by
  unfold jobFlag
  repeat' with_reducible first
    | assumption | (intro x; first | (refine (fun (hx : Keeps a₀ x) => ?_) ?_; clear_value x) | clear_value x)
    | lift_lets | subst x | apply keeps_modJob | exact fun _ h => h | split

theorem keeps_streamTo {s : State} {n : ℕ} {st : ℕ} (h₀ : Keeps a₀ s) :
    Keeps a₀ (streamTo s n st) := by
  unfold streamTo
  repeat' with_reducible first
    | assumption | (intro x; first | (refine (fun (hx : Keeps a₀ x) => ?_) ?_; clear_value x) | clear_value x)
    | lift_lets | subst x | apply keeps_strmSet | apply keeps_tick | apply keeps_fileEvent | exact fun _ h => h | split

theorem keeps_emit {s : State} {d : ℕ} {pkt : Packet} (h₀ : Keeps a₀ s) :
    Keeps a₀ (emit s d pkt) := by
  unfold emit
  repeat' with_reducible first
    | assumption | (intro x; first | (refine (fun (hx : Keeps a₀ x) => ?_) ?_; clear_value x) | clear_value x)
    | lift_lets | subst x | exact fun _ h => h | split | fail_if_no_progress apply keeps_free

theorem keeps_sendFlits {s : State} {dsts : List ℕ} {flit : BitVec 512} (h₀ : Keeps a₀ s) :
    Keeps a₀ (sendFlits s dsts flit) := by
  unfold sendFlits
  repeat' with_reducible first
    | assumption | (intro x; first | (refine (fun (hx : Keeps a₀ x) => ?_) ?_; clear_value x) | clear_value x)
    | lift_lets | subst x | apply keeps_emit | refine keeps_foldl (fun _ _ _ => ?_) ?_ | exact fun _ h => h | split

theorem keeps_ownerMessage {s : State} {stream : ℕ} {event : ℕ} {cause : ℕ} {tree : ℕ} (h₀ : Keeps a₀ s) :
    Keeps a₀ (ownerMessage s stream event cause tree) := by
  unfold ownerMessage
  repeat' with_reducible first
    | assumption | (intro x; first | (refine (fun (hx : Keeps a₀ x) => ?_) ?_; clear_value x) | clear_value x)
    | lift_lets | subst x | apply keeps_sendFlits | exact fun _ h => h | split | fail_if_no_progress apply keeps_free

theorem keeps_sampleCounts {s : State} (h₀ : Keeps a₀ s) :
    Keeps a₀ (sampleCounts s).2 := by
  unfold sampleCounts
  repeat' with_reducible first
    | assumption | (intro x; first | (refine (fun (hx : Keeps a₀ x) => ?_) ?_; clear_value x) | clear_value x)
    | lift_lets | subst x | apply keeps_drew | exact fun _ h => h | split

theorem keeps_freezeLane {s : State} {key : ℕ} (h₀ : Keeps a₀ s) :
    Keeps a₀ (freezeLane s key) := by
  unfold freezeLane
  repeat' with_reducible first
    | assumption
    | (intro x; first | (refine (fun (hx : Keeps a₀ x) => ?_) ?_; clear_value x) | (refine (fun (hx : Keeps a₀ x.2) => ?_) ?_; clear_value x) | (refine (fun (hx : Keeps a₀ x.1) => ?_) ?_; clear_value x) | clear_value x)
    | lift_lets | subst x | apply keeps_sampleCounts | apply keeps_drew | apply keeps_evlog | exact fun _ h => h
    | split | fail_if_no_progress apply keeps_free

theorem keeps_setChan {s : State} {n : ℕ} {owner : ℕ} (h₀ : Keeps a₀ s) :
    Keeps a₀ (setChan s n owner) := by
  unfold setChan
  repeat' with_reducible first
    | assumption
    | (intro x; first | (refine (fun (hx : Keeps a₀ x) => ?_) ?_; clear_value x) | (refine (fun (hx : Keeps a₀ x.2) => ?_) ?_; clear_value x) | (refine (fun (hx : Keeps a₀ x.1) => ?_) ?_; clear_value x) | clear_value x)
    | lift_lets | subst x | apply keeps_freezeLane | apply keeps_evlog | refine keeps_foldl (fun _ _ _ => ?_) ?_
    | refine keeps_foldl_fst (fun _ _ _ => ?_) ?_ | refine keeps_foldl_snd (fun _ _ _ => ?_) ?_ | exact fun _ h => h
    | split | fail_if_no_progress apply keeps_free

theorem keeps_handWork {hs kept : List Handover} {s : State} (h : Keeps a₀ s) : Keeps a₀ (handWork hs kept s) := by
  induction hs generalizing kept s with
  | nil => exact keeps_free h ..
  | cons g hs ih =>
    unfold handWork
    split
    · exact ih h
    · exact ih (keeps_setChan h)

theorem keeps_applyHandovers {s : State} (h₀ : Keeps a₀ s) :
    Keeps a₀ (applyHandovers s) := by
  unfold applyHandovers
  repeat' with_reducible first
    | assumption | (intro x; first | (refine (fun (hx : Keeps a₀ x) => ?_) ?_; clear_value x) | clear_value x)
    | lift_lets | subst x | apply keeps_handWork | exact fun _ h => h | split

theorem keeps_dropChans {s : State} {owner : ℕ} (h₀ : Keeps a₀ s) :
    Keeps a₀ (dropChans s owner) := by
  unfold dropChans
  repeat' with_reducible first
    | assumption
    | (intro x; first | (refine (fun (hx : Keeps a₀ x) => ?_) ?_; clear_value x) | (refine (fun (hx : Keeps a₀ x.2) => ?_) ?_; clear_value x) | (refine (fun (hx : Keeps a₀ x.1) => ?_) ?_; clear_value x) | clear_value x)
    | lift_lets | subst x | exact fun _ h => h | split | fail_if_no_progress apply keeps_free

theorem keeps_breakBarrier {s : State} {b : ℕ} (h₀ : Keeps a₀ s) :
    Keeps a₀ (breakBarrier s b) := by
  unfold breakBarrier
  repeat' with_reducible first
    | assumption | (intro x; first | (refine (fun (hx : Keeps a₀ x) => ?_) ?_; clear_value x) | clear_value x)
    | lift_lets | subst x | apply keeps_rset | apply keeps_evlog | exact fun _ h => h | split
    | fail_if_no_progress apply keeps_free

theorem keeps_orphanOne {s : State} {o : ℕ} {cause : ℕ} (h₀ : Keeps a₀ s) :
    Keeps a₀ (orphanOne s o cause).1 := by
  unfold orphanOne
  repeat' with_reducible first
    | assumption
    | (intro x; first | (refine (fun (hx : Keeps a₀ x) => ?_) ?_; clear_value x) | (refine (fun (hx : Keeps a₀ x.2) => ?_) ?_; clear_value x) | (refine (fun (hx : Keeps a₀ x.1) => ?_) ?_; clear_value x) | clear_value x)
    | lift_lets | subst x | apply keeps_breakBarrier | apply keeps_ownerMessage | apply keeps_setObj
    | refine keeps_foldl (fun _ _ _ => ?_) ?_ | refine keeps_foldl_fst (fun _ _ _ => ?_) ?_
    | refine keeps_foldl_snd (fun _ _ _ => ?_) ?_ | exact fun _ h => h | split

theorem keeps_orphanWork {fuel : Nat} {os : List Nat} {cause : Nat} {s : State} (h : Keeps a₀ s) :
    Keeps a₀ (orphanWork fuel os cause s) := by
  induction fuel generalizing os s with
  | zero => exact h
  | succ n ih =>
    cases os with
    | nil => exact h
    | cons o os => exact ih (keeps_orphanOne h)

theorem keeps_orphan {s : State} {os : List ℕ} {cause : ℕ} (h₀ : Keeps a₀ s) :
    Keeps a₀ (orphan s os cause) := by
  unfold orphan
  repeat' with_reducible first
    | assumption | (intro x; first | (refine (fun (hx : Keeps a₀ x) => ?_) ?_; clear_value x) | clear_value x)
    | lift_lets | subst x | apply keeps_orphanWork | exact fun _ h => h | split

theorem keeps_barRelease {s : State} {b : ℕ} {gen : ℕ} (h₀ : Keeps a₀ s) :
    Keeps a₀ (barRelease s b gen).1 := by
  unfold barRelease
  repeat' with_reducible first
    | assumption | (intro x; first | (refine (fun (hx : Keeps a₀ x) => ?_) ?_; clear_value x) | clear_value x)
    | lift_lets | subst x | apply keeps_rset | apply keeps_evlog | exact fun _ h => h | split
    | fail_if_no_progress apply keeps_free

theorem keeps_rootArrive {s : State} {b : ℕ} {gen : ℕ} (h₀ : Keeps a₀ s) :
    Keeps a₀ (rootArrive s b gen).1 := by
  unfold rootArrive
  repeat' with_reducible first
    | assumption | (intro x; first | (refine (fun (hx : Keeps a₀ x) => ?_) ?_; clear_value x) | clear_value x)
    | lift_lets | subst x | apply keeps_radd | apply keeps_barRelease | apply keeps_sendFlits | exact fun _ h => h
    | split

theorem keeps_leaderArrive {s : State} {b : ℕ} {gen : ℕ} {member : ℕ} (h₀ : Keeps a₀ s) :
    Keeps a₀ (leaderArrive s b gen member).1 := by
  unfold leaderArrive
  repeat' with_reducible first
    | assumption | (intro x; first | (refine (fun (hx : Keeps a₀ x) => ?_) ?_; clear_value x) | clear_value x)
    | lift_lets | subst x | apply keeps_rset | apply keeps_radd | apply keeps_rootArrive | apply keeps_sendFlits
    | exact fun _ h => h | split

theorem keeps_localArrive {s : State} {b : ℕ} (h₀ : Keeps a₀ s) :
    Keeps a₀ (localArrive s b).1 := by
  unfold localArrive
  repeat' with_reducible first
    | assumption | (intro x; first | (refine (fun (hx : Keeps a₀ x) => ?_) ?_; clear_value x) | clear_value x)
    | lift_lets | subst x | apply keeps_leaderArrive | apply keeps_sendFlits | exact fun _ h => h | split

theorem keeps_arrivals {s : State} {o : ℕ} {old : Option ℕ} (h₀ : Keeps a₀ s) :
    Keeps a₀ (arrivals s o old).1 := by
  unfold arrivals
  repeat' with_reducible first
    | assumption
    | (intro x; first | (refine (fun (hx : Keeps a₀ x) => ?_) ?_; clear_value x) | (refine (fun (hx : Keeps a₀ x.2) => ?_) ?_; clear_value x) | (refine (fun (hx : Keeps a₀ x.1) => ?_) ?_; clear_value x) | clear_value x)
    | lift_lets | subst x | apply keeps_localArrive | refine keeps_foldl (fun _ _ _ => ?_) ?_
    | refine keeps_foldl_fst (fun _ _ _ => ?_) ?_ | refine keeps_foldl_snd (fun _ _ _ => ?_) ?_ | exact fun _ h => h
    | split

theorem keeps_barCheck {s : State} {b : ℕ} (h₀ : Keeps a₀ s) :
    Keeps a₀ (barCheck s b).1 := by
  unfold barCheck
  repeat' with_reducible first
    | assumption | (intro x; first | (refine (fun (hx : Keeps a₀ x) => ?_) ?_; clear_value x) | clear_value x)
    | lift_lets | subst x | apply keeps_localArrive | exact fun _ h => h | split

theorem keeps_signalOne {s : State} {g : Signal} (h₀ : Keeps a₀ s) :
    Keeps a₀ (signalOne s g).1 := by
  unfold signalOne
  repeat' with_reducible first
    | assumption | (intro x; first | (refine (fun (hx : Keeps a₀ x) => ?_) ?_; clear_value x) | clear_value x)
    | lift_lets | subst x | apply keeps_rsat | apply keeps_arrivals | apply keeps_setObj | exact fun _ h => h | split

theorem keeps_signalWork {fuel : Nat} {gs : List SyncWork} {s : State} (h : Keeps a₀ s) :
    Keeps a₀ (signalWork fuel gs s) := by
  induction fuel generalizing gs s with
  | zero => unfold signalWork; exact keeps_free h ..
  | succ n ih =>
    match gs with
    | [] => exact h
    | .sig g :: gs => exact ih (keeps_signalOne h)
    | .check b :: gs => exact ih (keeps_barCheck h)

theorem keeps_syncWork {s : State} {gs : List SyncWork} (h : Keeps a₀ s) : Keeps a₀ (syncWork s gs) :=
  keeps_applyHandovers (keeps_signalWork (keeps_free h ..))

theorem keeps_signal {s : State} {g : Signal} (h₀ : Keeps a₀ s) :
    Keeps a₀ (signal s g) := by
  unfold signal
  repeat' with_reducible first
    | assumption | (intro x; first | (refine (fun (hx : Keeps a₀ x) => ?_) ?_; clear_value x) | clear_value x)
    | lift_lets | subst x | apply keeps_syncWork | exact fun _ h => h | split

theorem keeps_objSet {s : State} {o : ℕ} {r : ObjRec} {old : Option ℕ} (h₀ : Keeps a₀ s) :
    Keeps a₀ (objSet s o r old) := by
  unfold objSet
  repeat' with_reducible first
    | assumption
    | (intro x; first | (refine (fun (hx : Keeps a₀ x) => ?_) ?_; clear_value x) | (refine (fun (hx : Keeps a₀ x.2) => ?_) ?_; clear_value x) | (refine (fun (hx : Keeps a₀ x.1) => ?_) ?_; clear_value x) | clear_value x)
    | lift_lets | subst x | apply keeps_arrivals | apply keeps_syncWork | apply keeps_setObj | exact fun _ h => h
    | split

theorem keeps_signalChip {s : State} {die : ℕ} {chip : ℕ} {stream : ℕ} {g : Signal} (h₀ : Keeps a₀ s) :
    Keeps a₀ (signalChip s die chip stream g) := by
  unfold signalChip
  repeat' with_reducible first
    | assumption | (intro x; first | (refine (fun (hx : Keeps a₀ x) => ?_) ?_; clear_value x) | clear_value x)
    | lift_lets | subst x | apply keeps_signal | apply keeps_emit | exact fun _ h => h | split

theorem keeps_plankSignal {s : State} {p : ℕ} {chip : ℕ} {obj : ℕ} {val : ℕ} {isSet : Bool} (h₀ : Keeps a₀ s) :
    Keeps a₀ (plankSignal s p chip obj val isSet) := by
  unfold plankSignal
  repeat' with_reducible first
    | assumption | (intro x; first | (refine (fun (hx : Keeps a₀ x) => ?_) ?_; clear_value x) | clear_value x)
    | lift_lets | subst x | apply keeps_signalChip | exact fun _ h => h | split | refine keeps_snd (by assumption) ?_
    | refine keeps_fst (by assumption) ?_

theorem keeps_failStream {s : State} {n : ℕ} {code : ℕ} (h₀ : Keeps a₀ s) :
    Keeps a₀ (failStream s n code) := by
  unfold failStream
  repeat' with_reducible first
    | assumption | (intro x; first | (refine (fun (hx : Keeps a₀ x) => ?_) ?_; clear_value x) | clear_value x)
    | lift_lets | subst x | apply keeps_strmSet | apply keeps_streamTo | apply keeps_orphan | exact fun _ h => h
    | split

theorem keeps_stepFault {s : State} {p : ℕ} {f : StepFlag} {code : ℕ} (h₀ : Keeps a₀ s) :
    Keeps a₀ (stepFault s p f code) := by
  unfold stepFault
  repeat' with_reducible first
    | assumption | (intro x; first | (refine (fun (hx : Keeps a₀ x) => ?_) ?_; clear_value x) | clear_value x)
    | lift_lets | subst x | apply keeps_failStream | apply keeps_jobFlag | exact fun _ h => h | split
    | refine keeps_snd (by assumption) ?_ | refine keeps_fst (by assumption) ?_

theorem keeps_violation {s : State} {cls : ℕ} {unit : ℕ} {index : ℕ} {reqUnit : ℕ} {reqChip : ℕ} {tag : ℕ} {step : ℕ} (h₀ : Keeps a₀ s) :
    Keeps a₀ (violation s cls unit index reqUnit reqChip tag step) := by
  unfold violation
  repeat' with_reducible first
    | assumption | (intro x; first | (refine (fun (hx : Keeps a₀ x) => ?_) ?_; clear_value x) | clear_value x)
    | lift_lets | subst x | apply keeps_fileEvent | exact fun _ h => h | split

theorem keeps_bankViolation {s : State} {p : ℕ} {b : ℕ} {tag : ℕ} (h₀ : Keeps a₀ s) :
    Keeps a₀ (bankViolation s p b tag) := by
  unfold bankViolation
  repeat' with_reducible first
    | assumption | (intro x; first | (refine (fun (hx : Keeps a₀ x) => ?_) ?_; clear_value x) | clear_value x)
    | lift_lets | subst x | apply keeps_stepFault | apply keeps_violation | exact fun _ h => h | split

theorem keeps_markUnlogged {s : State} {unitClass : ℕ} {unit : ℕ} {code : ℕ} {on : Bool} (h₀ : Keeps a₀ s) :
    Keeps a₀ (markUnlogged s unitClass unit code on) := by
  unfold markUnlogged
  repeat' with_reducible first
    | assumption | (intro x; first | (refine (fun (hx : Keeps a₀ x) => ?_) ?_; clear_value x) | clear_value x)
    | lift_lets | subst x | apply keeps_modPlank | exact fun _ h => h | split | fail_if_no_progress apply keeps_free
    | refine keeps_snd (by assumption) ?_ | refine keeps_fst (by assumption) ?_

theorem keeps_fileError {s : State} {unitClass : ℕ} {unit : ℕ} {code : ℕ} {tag : ℕ} {tid : ℕ} {step : ℕ} (h₀ : Keeps a₀ s) :
    Keeps a₀ (fileError s unitClass unit code tag tid step) := by
  unfold fileError
  repeat' with_reducible first
    | assumption | (intro x; first | (refine (fun (hx : Keeps a₀ x) => ?_) ?_; clear_value x) | clear_value x)
    | lift_lets | subst x | apply keeps_markUnlogged | apply keeps_rset | apply keeps_jobFlag | apply keeps_rsat
    | apply keeps_tick | exact fun _ h => h | split | fail_if_no_progress apply keeps_free
    | refine keeps_snd (by assumption) ?_ | refine keeps_fst (by assumption) ?_

theorem keeps_filePlank {s : State} {p : ℕ} {code : ℕ} {tag : ℕ} {tid : ℕ} (h₀ : Keeps a₀ s) :
    Keeps a₀ (filePlank s p code tag tid) := by
  unfold filePlank
  repeat' with_reducible first
    | assumption | (intro x; first | (refine (fun (hx : Keeps a₀ x) => ?_) ?_; clear_value x) | clear_value x)
    | lift_lets | subst x | apply keeps_fileError | exact fun _ h => h | split

theorem keeps_excRecord {s : State} {p : ℕ} {e : Exc} (h₀ : Keeps a₀ s) :
    Keeps a₀ (excRecord s p e) := by
  unfold excRecord
  repeat' with_reducible first
    | assumption | (intro x; first | (refine (fun (hx : Keeps a₀ x) => ?_) ?_; clear_value x) | clear_value x)
    | lift_lets | subst x | apply keeps_rsat | apply keeps_bankViolation | apply keeps_tick | apply keeps_storeRec
    | apply keeps_rset | exact fun _ h => h | split | refine keeps_snd (by assumption) ?_
    | refine keeps_fst (by assumption) ?_

theorem keeps_setCore {s : State} {p : ℕ} {st : ℕ} (h₀ : Keeps a₀ s) :
    Keeps a₀ (setCore s p st) := by
  unfold setCore
  repeat' with_reducible first
    | assumption | (intro x; first | (refine (fun (hx : Keeps a₀ x) => ?_) ?_; clear_value x) | clear_value x)
    | lift_lets | subst x | apply keeps_rset | exact fun _ h => h | split

theorem keeps_setX {s : State} {p : ℕ} {r : ℕ} {v : Word64} (h₀ : Keeps a₀ s) :
    Keeps a₀ (State.setX s p r v) := by
  unfold State.setX
  repeat' with_reducible first
    | assumption | (intro x; first | (refine (fun (hx : Keeps a₀ x) => ?_) ?_; clear_value x) | clear_value x)
    | lift_lets | subst x | apply keeps_modPlank | apply keeps_evlog | exact fun _ h => h
    | exact fun _ h => ⟨kwf_kput h.1 _ _, h.2⟩ | split

theorem keeps_setPc {s : State} {p : ℕ} {v : ℕ} (h₀ : Keeps a₀ s) :
    Keeps a₀ (State.setPc s p v) := by
  unfold State.setPc
  repeat' with_reducible first
    | assumption | (intro x; first | (refine (fun (hx : Keeps a₀ x) => ?_) ?_; clear_value x) | clear_value x)
    | lift_lets | subst x | apply keeps_rset | exact fun _ h => h | split

theorem keeps_setCsr {s : State} {p : ℕ} {c : ℕ} {v : Word64} (h₀ : Keeps a₀ s) :
    Keeps a₀ (State.setCsr s p c v) := by
  unfold State.setCsr
  repeat' with_reducible first
    | assumption | (intro x; first | (refine (fun (hx : Keeps a₀ x) => ?_) ?_; clear_value x) | clear_value x)
    | lift_lets | subst x | apply keeps_modPlank | apply keeps_evlog | exact fun _ h => h
    | exact fun _ h => ⟨h.1, kwf_kput h.2.1 _ _, h.2.2⟩ | split

theorem keeps_endWait {s : State} {p : ℕ} (h₀ : Keeps a₀ s) :
    Keeps a₀ (endWait s p) := by
  unfold endWait
  repeat' with_reducible first
    | assumption | (intro x; first | (refine (fun (hx : Keeps a₀ x) => ?_) ?_; clear_value x) | clear_value x)
    | lift_lets | subst x | apply keeps_modPlank | apply keeps_setWord | apply keeps_setObj | exact fun _ h => h
    | split

theorem keeps_emptyFill {s : State} {p : ℕ} (h₀ : Keeps a₀ s) :
    Keeps a₀ (emptyFill s p) := by
  unfold emptyFill
  repeat' with_reducible first
    | assumption | (intro x; first | (refine (fun (hx : Keeps a₀ x) => ?_) ?_; clear_value x) | clear_value x)
    | lift_lets | subst x | apply keeps_modPlank | apply keeps_setWord | exact fun _ h => h | split

theorem keeps_noteInvalid {s : State} {p : ℕ} {b : Bool} (h₀ : Keeps a₀ s) :
    Keeps a₀ (noteInvalid s p b) := by
  unfold noteInvalid
  repeat' with_reducible first
    | assumption | (intro x; first | (refine (fun (hx : Keeps a₀ x) => ?_) ?_; clear_value x) | clear_value x)
    | lift_lets | subst x | apply keeps_rset | exact fun _ h => h | split

theorem keeps_laneCycles {s : State} {p : ℕ} {n : ℕ} (h₀ : Keeps a₀ s) :
    Keeps a₀ (laneCycles s p n) := by
  unfold laneCycles
  repeat' with_reducible first
    | assumption | (intro x; first | (refine (fun (hx : Keeps a₀ x) => ?_) ?_; clear_value x) | clear_value x)
    | lift_lets | subst x | apply keeps_radd | exact fun _ h => h | split

theorem keeps_coreTrap {s : State} {p : ℕ} {cause : ℕ} {sub : ℕ} {insn : ℕ} {tval : ℕ} (h₀ : Keeps a₀ s) :
    Keeps a₀ (coreTrap s p cause sub insn tval) := by
  unfold coreTrap
  repeat' with_reducible first
    | assumption | (intro x; first | (refine (fun (hx : Keeps a₀ x) => ?_) ?_; clear_value x) | clear_value x)
    | lift_lets | subst x | apply keeps_endWait | apply keeps_rset | apply keeps_setCsr | apply keeps_setCore
    | apply keeps_filePlank | apply keeps_emptyFill | apply keeps_orphan | apply keeps_stepFault
    | apply keeps_failStream | apply keeps_modPlank | exact fun _ h => h | split | refine keeps_snd (by assumption) ?_
    | refine keeps_fst (by assumption) ?_

theorem keeps_ownTrapFlag {s : State} {p : ℕ} (h₀ : Keeps a₀ s) :
    Keeps a₀ (ownTrapFlag s p) := by
  unfold ownTrapFlag
  repeat' with_reducible first
    | assumption | (intro x; first | (refine (fun (hx : Keeps a₀ x) => ?_) ?_; clear_value x) | clear_value x)
    | lift_lets | subst x | apply keeps_stepFault | exact fun _ h => h | split

theorem keeps_bankRefused {s : State} {p : ℕ} {b : ℕ} (h₀ : Keeps a₀ s) :
    Keeps a₀ (bankRefused s p b) := by
  unfold bankRefused
  repeat' with_reducible first
    | assumption | (intro x; first | (refine (fun (hx : Keeps a₀ x) => ?_) ?_; clear_value x) | clear_value x)
    | lift_lets | subst x | apply keeps_ownTrapFlag | apply keeps_violation | exact fun _ h => h | split

theorem keeps_chanRefused {s : State} {p : ℕ} {n : ℕ} {insn : ℕ} (h₀ : Keeps a₀ s) :
    Keeps a₀ (chanRefused s p n insn) := by
  unfold chanRefused
  repeat' with_reducible first
    | assumption | (intro x; first | (refine (fun (hx : Keeps a₀ x) => ?_) ?_; clear_value x) | clear_value x)
    | lift_lets | subst x | apply keeps_coreTrap | apply keeps_ownTrapFlag | apply keeps_violation | exact fun _ h => h
    | split

theorem keeps_coreNext {s : State} {p : ℕ} (h₀ : Keeps a₀ s) :
    Keeps a₀ (coreNext s p) := by
  unfold coreNext
  repeat' with_reducible first
    | assumption | (intro x; first | (refine (fun (hx : Keeps a₀ x) => ?_) ?_; clear_value x) | clear_value x)
    | lift_lets | subst x | apply keeps_setCore | apply keeps_setPc | apply keeps_modPlank | exact fun _ h => h | split

theorem keeps_coreHold {s : State} {p : ℕ} {q : Option ℕ} (h₀ : Keeps a₀ s) :
    Keeps a₀ (coreHold s p q) := by
  unfold coreHold
  repeat' with_reducible first
    | assumption | (intro x; first | (refine (fun (hx : Keeps a₀ x) => ?_) ?_; clear_value x) | clear_value x)
    | lift_lets | subst x | apply keeps_setCore | apply keeps_modPlank | exact fun _ h => h | split

/-! ## Access -/

theorem keeps_setModState {s : State} {v : ℕ} (h₀ : Keeps a₀ s) :
    Keeps a₀ (setModState s v) := by
  unfold setModState
  repeat' with_reducible first
    | assumption | (intro x; first | (refine (fun (hx : Keeps a₀ x) => ?_) ?_; clear_value x) | clear_value x)
    | lift_lets | subst x | apply keeps_rset | apply keeps_modPlank | apply keeps_fileEvent | exact fun _ h => h
    | split | fail_if_no_progress apply keeps_free

theorem keeps_winErr {s : State} {cause : ℕ} {src : ℕ} {off : ℕ} (h₀ : Keeps a₀ s) :
    Keeps a₀ (winErr s cause src off) := by
  unfold winErr
  repeat' with_reducible first
    | assumption | (intro x; first | (refine (fun (hx : Keeps a₀ x) => ?_) ?_; clear_value x) | clear_value x)
    | lift_lets | subst x | apply keeps_rsat | apply keeps_rset | apply keeps_modPlank | apply keeps_fileEvent
    | exact fun _ h => h | split | fail_if_no_progress apply keeps_free

theorem keeps_regCommand {s : State} {w : Writer} {off : ℕ} {act : State → State} (hact : ∀ s, Keeps a₀ s → Keeps a₀ (act s)) (h₀ : Keeps a₀ s) :
    Keeps a₀ (regCommand s w off act) := by
  unfold regCommand
  repeat' with_reducible first
    | assumption | (intro x; first | (refine (fun (hx : Keeps a₀ x) => ?_) ?_; clear_value x) | clear_value x)
    | lift_lets | subst x | apply keeps_winErr | apply hact | apply keeps_rset | apply keeps_modPlank
    | apply keeps_fileEvent | exact fun _ h => h | split | fail_if_no_progress apply keeps_free

theorem keeps_guardedCommand {s : State} {w : Writer} {off : ℕ} {ignored : Bool} {act : State → State} (hact : ∀ s, Keeps a₀ s → Keeps a₀ (act s)) (h₀ : Keeps a₀ s) :
    Keeps a₀ (guardedCommand s w off ignored act) := by
  unfold guardedCommand
  repeat' with_reducible first
    | assumption | (intro x; first | (refine (fun (hx : Keeps a₀ x) => ?_) ?_; clear_value x) | clear_value x)
    | lift_lets | subst x | refine keeps_regCommand (fun _ _ => ?_) ?_ | apply keeps_winErr | apply hact
    | apply keeps_rset | apply keeps_modPlank | apply keeps_fileEvent | exact fun _ h => h | split
    | fail_if_no_progress apply keeps_free

/-! ## Sluice -/

theorem keeps_setQp {s : State} {q : ℕ} {x : Qp} (h₀ : Keeps a₀ s) :
    Keeps a₀ (State.setQp s q x) := by
  unfold State.setQp
  repeat' with_reducible first
    | assumption | (intro x; first | (refine (fun (hx : Keeps a₀ x) => ?_) ?_; clear_value x) | clear_value x)
    | lift_lets | subst x | apply keeps_evlog | apply keeps_rset | apply keeps_modPlank | apply keeps_fileEvent
    | exact fun _ h => h | split | fail_if_no_progress apply keeps_free

theorem keeps_setData {s : State} {n : ℕ} {x : Option DataStream} (h₀ : Keeps a₀ s) :
    Keeps a₀ (State.setData s n x) := by
  unfold State.setData
  repeat' with_reducible first
    | assumption | (intro x; first | (refine (fun (hx : Keeps a₀ x) => ?_) ?_; clear_value x) | clear_value x)
    | lift_lets | subst x | apply keeps_evlog | apply keeps_rset | apply keeps_modPlank | apply keeps_fileEvent
    | exact fun _ h => h | split | fail_if_no_progress apply keeps_free

theorem keeps_modData {s : State} {n : ℕ} {f : DataStream → DataStream} (h₀ : Keeps a₀ s) :
    Keeps a₀ (State.modData s n f) := by
  unfold State.modData
  repeat' with_reducible first
    | assumption | (intro x; first | (refine (fun (hx : Keeps a₀ x) => ?_) ?_; clear_value x) | clear_value x)
    | lift_lets | subst x | apply keeps_setData | apply keeps_rset | apply keeps_modPlank | apply keeps_fileEvent
    | exact fun _ h => h | split | fail_if_no_progress apply keeps_free

theorem keeps_idleData {s : State} {n : ℕ} (h₀ : Keeps a₀ s) :
    Keeps a₀ (idleData s n) := by
  unfold idleData
  repeat' with_reducible first
    | assumption | (intro x; first | (refine (fun (hx : Keeps a₀ x) => ?_) ?_; clear_value x) | clear_value x)
    | lift_lets | subst x | apply keeps_modData | apply keeps_rset | apply keeps_modPlank | apply keeps_fileEvent
    | exact fun _ h => h | split | fail_if_no_progress apply keeps_free

theorem keeps_orphanStream {s : State} {n : ℕ} (h₀ : Keeps a₀ s) :
    Keeps a₀ (orphanStream s n) := by
  unfold orphanStream
  repeat' with_reducible first
    | assumption | (intro x; first | (refine (fun (hx : Keeps a₀ x) => ?_) ?_; clear_value x) | clear_value x)
    | lift_lets | subst x | apply keeps_idleData | apply keeps_orphan | apply keeps_streamTo | apply keeps_rset
    | apply keeps_modPlank | apply keeps_fileEvent | exact fun _ h => h | split | fail_if_no_progress apply keeps_free

theorem keeps_closeUpdate {s : State} (h₀ : Keeps a₀ s) :
    Keeps a₀ (closeUpdate s) := by
  unfold closeUpdate
  repeat' with_reducible first
    | assumption | (intro x; first | (refine (fun (hx : Keeps a₀ x) => ?_) ?_; clear_value x) | clear_value x)
    | lift_lets | subst x | apply keeps_rset | apply keeps_modPlank | apply keeps_fileEvent | exact fun _ h => h
    | split | fail_if_no_progress apply keeps_free

theorem keeps_endSession {s : State} {n : ℕ} (h₀ : Keeps a₀ s) :
    Keeps a₀ (endSession s n) := by
  unfold endSession
  repeat' with_reducible first
    | assumption | (intro x; first | (refine (fun (hx : Keeps a₀ x) => ?_) ?_; clear_value x) | clear_value x)
    | lift_lets | subst x | apply keeps_orphanStream | apply keeps_closeUpdate
    | refine keeps_foldl (fun _ _ _ => ?_) ?_ | apply keeps_rset | apply keeps_modPlank | apply keeps_fileEvent
    | exact fun _ h => h | split | fail_if_no_progress apply keeps_free | refine keeps_snd (by assumption) ?_
    | refine keeps_fst (by assumption) ?_

theorem keeps_endSpent {s : State} (h₀ : Keeps a₀ s) :
    Keeps a₀ (endSpent s) := by
  unfold endSpent
  repeat' with_reducible first
    | assumption | (intro x; first | (refine (fun (hx : Keeps a₀ x) => ?_) ?_; clear_value x) | clear_value x)
    | lift_lets | subst x | apply keeps_endSession | refine keeps_foldl (fun _ _ _ => ?_) ?_ | apply keeps_rset
    | apply keeps_modPlank | apply keeps_fileEvent | exact fun _ h => h | split | fail_if_no_progress apply keeps_free

theorem keeps_countReject {s : State} (h₀ : Keeps a₀ s) :
    Keeps a₀ (countReject s) := by
  unfold countReject
  repeat' with_reducible first
    | assumption | (intro x; first | (refine (fun (hx : Keeps a₀ x) => ?_) ?_; clear_value x) | clear_value x)
    | lift_lets | subst x | apply keeps_rsat | apply keeps_rset | apply keeps_modPlank | apply keeps_fileEvent
    | exact fun _ h => h | split | fail_if_no_progress apply keeps_free

theorem keeps_keep {s : State} {n : ℕ} {reqId : BitVec 32} {m : Option Msg} (h₀ : Keeps a₀ s) :
    Keeps a₀ (keep s n reqId m) := by
  unfold keep
  repeat' with_reducible first
    | assumption | (intro x; first | (refine (fun (hx : Keeps a₀ x) => ?_) ?_; clear_value x) | clear_value x)
    | lift_lets | subst x | apply keeps_modSession | apply keeps_rset | apply keeps_modPlank | apply keeps_fileEvent
    | exact fun _ h => h | split | fail_if_no_progress apply keeps_free

theorem keeps_respond {s : State} {rq : Req} {code : ℕ} {a : Answer} (h₀ : Keeps a₀ s) :
    Keeps a₀ (respond s rq code a) := by
  unfold respond
  repeat' with_reducible first
    | assumption | (intro x; first | (refine (fun (hx : Keeps a₀ x) => ?_) ?_; clear_value x) | clear_value x)
    | lift_lets | subst x | apply keeps_keep | apply keeps_sendMsg | apply keeps_rset | apply keeps_modPlank
    | apply keeps_fileEvent | exact fun _ h => h | split | fail_if_no_progress apply keeps_free
    | refine keeps_snd (by assumption) ?_ | refine keeps_fst (by assumption) ?_

theorem keeps_sendKept {s : State} {rq : Req} {k : Kept} (h₀ : Keeps a₀ s) :
    Keeps a₀ (sendKept s rq k) := by
  unfold sendKept
  repeat' with_reducible first
    | assumption | (intro x; first | (refine (fun (hx : Keeps a₀ x) => ?_) ?_; clear_value x) | clear_value x)
    | lift_lets | subst x | apply keeps_sendMsg | apply keeps_rset | apply keeps_modPlank | apply keeps_fileEvent
    | exact fun _ h => h | split | fail_if_no_progress apply keeps_free | refine keeps_snd (by assumption) ?_
    | refine keeps_fst (by assumption) ?_

theorem keeps_acceptReq {s : State} {n : ℕ} {rq : Req} (h₀ : Keeps a₀ s) :
    Keeps a₀ (acceptReq s n rq) := by
  unfold acceptReq
  repeat' with_reducible first
    | assumption | (intro x; first | (refine (fun (hx : Keeps a₀ x) => ?_) ?_; clear_value x) | clear_value x)
    | lift_lets | subst x | apply keeps_modSession | apply keeps_rset | apply keeps_modPlank | apply keeps_fileEvent
    | exact fun _ h => h | split | fail_if_no_progress apply keeps_free

theorem keeps_runVerb {s : State} {rq : Req} {v : Verb} {act : State → Option Answer × State} (hact : ∀ s, Keeps a₀ s → Keeps a₀ (act s).2) (h₀ : Keeps a₀ s) :
    Keeps a₀ (runVerb s rq v act) := by
  unfold runVerb
  repeat' with_reducible first
    | assumption
    | (intro x; first | (refine (fun (hx : Keeps a₀ x) => ?_) ?_; clear_value x) | (refine (fun (hx : Keeps a₀ x.2) => ?_) ?_; clear_value x) | (refine (fun (hx : Keeps a₀ x.1) => ?_) ?_; clear_value x) | clear_value x)
    | lift_lets | subst x | apply keeps_endSpent | apply keeps_countReject | apply keeps_respond
    | apply keeps_acceptReq | apply keeps_sendKept | apply keeps_keep | apply hact | apply keeps_rset
    | apply keeps_modPlank | apply keeps_fileEvent | exact fun _ h => h | split | fail_if_no_progress apply keeps_free
    | refine keeps_snd (by assumption) ?_ | refine keeps_fst (by assumption) ?_

theorem keeps_answerVerb {s : State} {rq : Req} {v : Verb} {act : State → Answer × State} (hact : ∀ s, Keeps a₀ s → Keeps a₀ (act s).2) (h₀ : Keeps a₀ s) :
    Keeps a₀ (answerVerb s rq v act) := by
  unfold answerVerb
  repeat' with_reducible first
    | assumption
    | (intro x; first | (refine (fun (hx : Keeps a₀ x) => ?_) ?_; clear_value x) | (refine (fun (hx : Keeps a₀ x.2) => ?_) ?_; clear_value x) | (refine (fun (hx : Keeps a₀ x.1) => ?_) ?_; clear_value x) | clear_value x)
    | lift_lets | subst x | refine keeps_runVerb (fun _ _ => ?_) ?_ | apply hact | apply keeps_rset
    | apply keeps_modPlank | apply keeps_fileEvent | exact fun _ h => h | split | fail_if_no_progress apply keeps_free

theorem keeps_makeStale {s : State} (h₀ : Keeps a₀ s) :
    Keeps a₀ (makeStale s) := by
  unfold makeStale
  repeat' with_reducible first
    | assumption | (intro x; first | (refine (fun (hx : Keeps a₀ x) => ?_) ?_; clear_value x) | clear_value x)
    | lift_lets | subst x | apply keeps_rset | apply keeps_modPlank | apply keeps_fileEvent | exact fun _ h => h
    | split | fail_if_no_progress apply keeps_free

/-! ## QueuePair -/

theorem keeps_qpMove {s : State} {n : ℕ} (h₀ : Keeps a₀ s) :
    Keeps a₀ (qpMove s n) := by
  unfold qpMove
  repeat' with_reducible first
    | assumption | (intro x; first | (refine (fun (hx : Keeps a₀ x) => ?_) ?_; clear_value x) | clear_value x)
    | lift_lets | subst x | apply keeps_setData | apply keeps_idleData | apply keeps_strmSet | apply keeps_fileEvent
    | apply keeps_failStream | apply keeps_rset | apply keeps_modPlank | exact fun _ h => h | split
    | fail_if_no_progress apply keeps_free | refine keeps_snd (by assumption) ?_ | refine keeps_fst (by assumption) ?_

theorem keeps_qpError {s : State} {q : ℕ} (h₀ : Keeps a₀ s) :
    Keeps a₀ (qpError s q) := by
  unfold qpError
  repeat' with_reducible first
    | assumption | (intro x; first | (refine (fun (hx : Keeps a₀ x) => ?_) ?_; clear_value x) | clear_value x)
    | lift_lets | subst x | apply keeps_setQp | apply keeps_qpMove | refine keeps_foldl (fun _ _ _ => ?_) ?_
    | apply keeps_rset | apply keeps_modPlank | apply keeps_fileEvent | exact fun _ h => h | split
    | fail_if_no_progress apply keeps_free

/-! ## Status -/

theorem keeps_takeCache {s : State} (h₀ : Keeps a₀ s) :
    Keeps a₀ (takeCache s) := by
  unfold takeCache
  repeat' with_reducible first
    | assumption | (intro x; first | (refine (fun (hx : Keeps a₀ x) => ?_) ?_; clear_value x) | clear_value x)
    | lift_lets | subst x | apply keeps_tick | apply keeps_rset | apply keeps_modPlank | apply keeps_fileEvent
    | exact fun _ h => h | split | fail_if_no_progress apply keeps_free

end Sys2Proof.Machine
end

