-- ==== Sys2Proof/Laws/KeepsArray.lean ====
section
/-! SUPPORT. One lemma per operation and per meaning: it keeps the tables canonical and the queue as it is; here the array, integrity, streams and transfers. -/
namespace Sys2Proof.Machine

set_option linter.all false

variable {a₀ : State}

/-! ## Array -/

theorem keeps_setAccState {s : State} {p : ℕ} {sel : ℕ} {st : ℕ} (h₀ : Keeps a₀ s) :
    Keeps a₀ (setAccState s p sel st) := by
  unfold setAccState
  repeat' with_reducible first
    | assumption | (intro x; first | (refine (fun (hx : Keeps a₀ x) => ?_) ?_; clear_value x) | clear_value x)
    | lift_lets | subst x | apply keeps_rset | apply keeps_modPlank | apply keeps_fileEvent | exact fun _ h => h
    | split | fail_if_no_progress apply keeps_free

theorem keeps_setAcc {s : State} {p : ℕ} {sel : ℕ} {a : Accum} (h₀ : Keeps a₀ s) :
    Keeps a₀ (setAcc s p sel a) := by
  unfold setAcc
  repeat' with_reducible first
    | assumption | (intro x; first | (refine (fun (hx : Keeps a₀ x) => ?_) ?_; clear_value x) | clear_value x)
    | lift_lets | subst x | apply keeps_modPlank | apply keeps_rset | apply keeps_fileEvent | exact fun _ h => h
    | split | fail_if_no_progress apply keeps_free

theorem keeps_setPlankState {s : State} {p : ℕ} {st : ℕ} (h₀ : Keeps a₀ s) :
    Keeps a₀ (setPlankState s p st) := by
  unfold setPlankState
  repeat' with_reducible first
    | assumption | (intro x; first | (refine (fun (hx : Keeps a₀ x) => ?_) ?_; clear_value x) | clear_value x)
    | lift_lets | subst x | apply keeps_rset | apply keeps_modPlank | apply keeps_fileEvent | exact fun _ h => h
    | split | fail_if_no_progress apply keeps_free

theorem keeps_refreshPlank {s : State} {p : ℕ} (h₀ : Keeps a₀ s) :
    Keeps a₀ (refreshPlank s p) := by
  unfold refreshPlank
  repeat' with_reducible first
    | assumption | (intro x; first | (refine (fun (hx : Keeps a₀ x) => ?_) ?_; clear_value x) | clear_value x)
    | lift_lets | subst x | apply keeps_setPlankState | apply keeps_rset | apply keeps_modPlank | apply keeps_fileEvent
    | exact fun _ h => h | split | fail_if_no_progress apply keeps_free

theorem keeps_freeAcc {s : State} {p : ℕ} {sel : ℕ} (h₀ : Keeps a₀ s) :
    Keeps a₀ (freeAcc s p sel) := by
  unfold freeAcc
  repeat' with_reducible first
    | assumption | (intro x; first | (refine (fun (hx : Keeps a₀ x) => ?_) ?_; clear_value x) | clear_value x)
    | lift_lets | subst x | apply keeps_setAccState | apply keeps_setAcc | apply keeps_rset | apply keeps_modPlank
    | apply keeps_fileEvent | exact fun _ h => h | split | fail_if_no_progress apply keeps_free

theorem keeps_eccCounts {s : State} {p : ℕ} {ecc : CoreEcc} {n : ℕ} (h₀ : Keeps a₀ s) :
    Keeps a₀ (eccCounts s p ecc n) := by
  unfold eccCounts
  repeat' with_reducible first
    | assumption | (intro x; first | (refine (fun (hx : Keeps a₀ x) => ?_) ?_; clear_value x) | clear_value x)
    | lift_lets | subst x | apply keeps_rsat | apply keeps_rset | apply keeps_modPlank | apply keeps_fileEvent
    | exact fun _ h => h | split | fail_if_no_progress apply keeps_free

theorem keeps_fillDone {s : State} {p : ℕ} (h₀ : Keeps a₀ s) :
    Keeps a₀ (fillDone s p) := by
  unfold fillDone
  repeat' with_reducible first
    | assumption | (intro x; first | (refine (fun (hx : Keeps a₀ x) => ?_) ?_; clear_value x) | clear_value x)
    | lift_lets | subst x | apply keeps_rset | apply keeps_modPlank | apply keeps_fileEvent | exact fun _ h => h
    | split | fail_if_no_progress apply keeps_free

theorem keeps_fillDrop {s : State} {p : ℕ} (h₀ : Keeps a₀ s) :
    Keeps a₀ (fillDrop s p) := by
  unfold fillDrop
  repeat' with_reducible first
    | assumption | (intro x; first | (refine (fun (hx : Keeps a₀ x) => ?_) ?_; clear_value x) | clear_value x)
    | lift_lets | subst x | apply keeps_rset | apply keeps_fillDone | apply keeps_modPlank | apply keeps_fileEvent
    | exact fun _ h => h | split | fail_if_no_progress apply keeps_free

theorem keeps_fillForget {s : State} {p : ℕ} (h₀ : Keeps a₀ s) :
    Keeps a₀ (fillForget s p) := by
  unfold fillForget
  repeat' with_reducible first
    | assumption | (intro x; first | (refine (fun (hx : Keeps a₀ x) => ?_) ?_; clear_value x) | clear_value x)
    | lift_lets | subst x | apply keeps_fillDrop | refine keeps_foldl (fun _ _ _ => ?_) ?_ | apply keeps_rset
    | apply keeps_modPlank | apply keeps_fileEvent | exact fun _ h => h | split | fail_if_no_progress apply keeps_free

theorem keeps_clearArray {s : State} {p : ℕ} (h₀ : Keeps a₀ s) :
    Keeps a₀ (clearArray s p) := by
  unfold clearArray
  repeat' with_reducible first
    | assumption | (intro x; first | (refine (fun (hx : Keeps a₀ x) => ?_) ?_; clear_value x) | clear_value x)
    | lift_lets | subst x | apply keeps_freeAcc | apply keeps_rset | apply keeps_modPlank | apply keeps_fileEvent
    | exact fun _ h => h | split | fail_if_no_progress apply keeps_free

theorem keeps_abandonRecord {s : State} {code : ℕ} {p : ℕ} {o : OpenPass} (h₀ : Keeps a₀ s) :
    Keeps a₀ (abandonRecord code s p o) := by
  unfold abandonRecord
  repeat' with_reducible first
    | assumption | (intro x; first | (refine (fun (hx : Keeps a₀ x) => ?_) ?_; clear_value x) | clear_value x)
    | lift_lets | subst x | apply keeps_excRecord | apply keeps_rset | apply keeps_modPlank | apply keeps_fileEvent
    | exact fun _ h => h | split | fail_if_no_progress apply keeps_free

theorem keeps_countBlocks {s : State} {p : ℕ} {d : BitVec 256} {n : ℕ} (h₀ : Keeps a₀ s) :
    Keeps a₀ (countBlocks s p d n) := by
  unfold countBlocks
  repeat' with_reducible first
    | assumption | (intro x; first | (refine (fun (hx : Keeps a₀ x) => ?_) ?_; clear_value x) | clear_value x)
    | lift_lets | subst x | apply keeps_radd | apply keeps_modPlank | apply keeps_rset | apply keeps_fileEvent
    | exact fun _ h => h | split | fail_if_no_progress apply keeps_free

theorem keeps_feedStops {s : State} {p : ℕ} (h₀ : Keeps a₀ s) :
    Keeps a₀ (feedStops s p) := by
  unfold feedStops
  repeat' with_reducible first
    | assumption | (intro x; first | (refine (fun (hx : Keeps a₀ x) => ?_) ?_; clear_value x) | clear_value x)
    | lift_lets | subst x | apply keeps_countBlocks | apply keeps_drew | apply keeps_setAcc | apply keeps_rset
    | apply keeps_modPlank | apply keeps_fileEvent | exact fun _ h => h | split | fail_if_no_progress apply keeps_free
    | refine keeps_snd (by assumption) ?_ | refine keeps_fst (by assumption) ?_

theorem keeps_loseSpill {s : State} {p : ℕ} (h₀ : Keeps a₀ s) :
    Keeps a₀ (loseSpill s p) := by
  unfold loseSpill
  repeat' with_reducible first
    | assumption | (intro x; first | (refine (fun (hx : Keeps a₀ x) => ?_) ?_; clear_value x) | clear_value x)
    | lift_lets | subst x | apply keeps_rset | apply keeps_modPlank | apply keeps_storeKeep | apply keeps_fileEvent
    | exact fun _ h => h | split | fail_if_no_progress apply keeps_free

theorem keeps_plankFaultOp {s : State} {p : ℕ} {code : ℕ} (h₀ : Keeps a₀ s) :
    Keeps a₀ (plankFaultOp s p code) := by
  unfold plankFaultOp
  repeat' with_reducible first
    | assumption | (intro x; first | (refine (fun (hx : Keeps a₀ x) => ?_) ?_; clear_value x) | clear_value x)
    | lift_lets | subst x | apply keeps_rsat | apply keeps_feedStops | apply keeps_abandonRecord
    | apply keeps_fillForget | apply keeps_clearArray | apply keeps_loseSpill | apply keeps_rset
    | apply keeps_filePlank | apply keeps_setPlankState | apply keeps_stepFault | apply keeps_failStream
    | apply keeps_modPlank | refine keeps_foldl (fun _ _ _ => ?_) ?_ | apply keeps_fileEvent | exact fun _ h => h
    | split | fail_if_no_progress apply keeps_free | refine keeps_snd (by assumption) ?_
    | refine keeps_fst (by assumption) ?_

theorem keeps_spillViolation {s : State} {p : ℕ} {b : ℕ} {tag : ℕ} (h₀ : Keeps a₀ s) :
    Keeps a₀ (spillViolation s p b tag) := by
  unfold spillViolation
  repeat' with_reducible first
    | assumption | (intro x; first | (refine (fun (hx : Keeps a₀ x) => ?_) ?_; clear_value x) | clear_value x)
    | lift_lets | subst x | apply keeps_violation | apply keeps_stepFault | apply keeps_rset | apply keeps_modPlank
    | apply keeps_fileEvent | exact fun _ h => h | split | fail_if_no_progress apply keeps_free

theorem keeps_bankFault {s : State} {p : ℕ} {b : ℕ} {tag : ℕ} (h₀ : Keeps a₀ s) :
    Keeps a₀ (bankFault s p b tag) := by
  unfold bankFault
  repeat' with_reducible first
    | assumption | (intro x; first | (refine (fun (hx : Keeps a₀ x) => ?_) ?_; clear_value x) | clear_value x)
    | lift_lets | subst x | apply keeps_plankFaultOp | apply keeps_spillViolation | apply keeps_bankViolation
    | apply keeps_rset | apply keeps_modPlank | apply keeps_fileEvent | exact fun _ h => h | split
    | fail_if_no_progress apply keeps_free

theorem keeps_feedFault {s : State} {p : ℕ} {n : ℕ} (h₀ : Keeps a₀ s) :
    Keeps a₀ (feedFault s p n) := by
  unfold feedFault
  repeat' with_reducible first
    | assumption | (intro x; first | (refine (fun (hx : Keeps a₀ x) => ?_) ?_; clear_value x) | clear_value x)
    | lift_lets | subst x | apply keeps_plankFaultOp | apply keeps_rsat | apply keeps_rset | apply keeps_modPlank
    | apply keeps_fileEvent | exact fun _ h => h | split | fail_if_no_progress apply keeps_free

theorem keeps_refusePass {s : State} {p : ℕ} {code : ℕ} {tag : ℕ} {tid : ℕ} {sel : ℕ} {fillTag : ℕ} (h₀ : Keeps a₀ s) :
    Keeps a₀ (refusePass s p code tag tid sel fillTag) := by
  unfold refusePass
  repeat' with_reducible first
    | assumption | (intro x; first | (refine (fun (hx : Keeps a₀ x) => ?_) ?_; clear_value x) | clear_value x)
    | lift_lets | subst x | apply keeps_stepFault | apply keeps_excRecord | apply keeps_rset | apply keeps_modPlank
    | apply keeps_fileEvent | exact fun _ h => h | split | fail_if_no_progress apply keeps_free

theorem keeps_dropIdleSpill {s : State} {p : ℕ} (h₀ : Keeps a₀ s) :
    Keeps a₀ (dropIdleSpill s p) := by
  unfold dropIdleSpill
  repeat' with_reducible first
    | assumption | (intro x; first | (refine (fun (hx : Keeps a₀ x) => ?_) ?_; clear_value x) | clear_value x)
    | lift_lets | subst x | apply keeps_rset | apply keeps_setPlankState | apply keeps_modPlank | apply keeps_fileEvent
    | exact fun _ h => h | split | fail_if_no_progress apply keeps_free

theorem keeps_issueDesc {s : State} {p : ℕ} {d : BitVec 256} {off : ℕ} {fill : Option ℕ} {ecc : CoreEcc} (h₀ : Keeps a₀ s) :
    Keeps a₀ (issueDesc s p d off fill ecc).2 := by
  unfold issueDesc
  repeat' with_reducible first
    | assumption | (intro x; first | (refine (fun (hx : Keeps a₀ x) => ?_) ?_; clear_value x) | clear_value x)
    | lift_lets | subst x | apply keeps_dropIdleSpill | apply keeps_bankFault | apply keeps_eccCounts
    | apply keeps_feedFault | apply keeps_refusePass | apply keeps_refreshPlank | apply keeps_setPlankState
    | apply keeps_modPlank | apply keeps_rset | apply keeps_fileEvent | exact fun _ h => h | split
    | fail_if_no_progress apply keeps_free | refine keeps_snd (by assumption) ?_ | refine keeps_fst (by assumption) ?_

theorem keeps_issuePass {s : State} {p : ℕ} {off : ℕ} {fill : Option ℕ} {ecc : CoreEcc} (h₀ : Keeps a₀ s) :
    Keeps a₀ (issuePass s p off fill ecc).2 := by
  unfold issuePass
  repeat' with_reducible first
    | assumption | (intro x; first | (refine (fun (hx : Keeps a₀ x) => ?_) ?_; clear_value x) | clear_value x)
    | lift_lets | subst x | apply keeps_issueDesc | apply keeps_bankFault | apply keeps_feedFault | apply keeps_rset
    | apply keeps_modPlank | apply keeps_fileEvent | exact fun _ h => h | split | fail_if_no_progress apply keeps_free
    | refine keeps_snd (by assumption) ?_ | refine keeps_fst (by assumption) ?_

theorem keeps_unsample {s : State} {p : ℕ} (h₀ : Keeps a₀ s) :
    Keeps a₀ (unsample s p) := by
  unfold unsample
  repeat' with_reducible first
    | assumption | (intro x; first | (refine (fun (hx : Keeps a₀ x) => ?_) ?_; clear_value x) | clear_value x)
    | lift_lets | subst x | apply keeps_rset | apply keeps_modPlank | apply keeps_fileEvent | exact fun _ h => h
    | split | fail_if_no_progress apply keeps_free

theorem keeps_enterPass {s : State} {p : ℕ} {r : PassRun} (h₀ : Keeps a₀ s) :
    Keeps a₀ (enterPass s p r) := by
  unfold enterPass
  repeat' with_reducible first
    | assumption | (intro x; first | (refine (fun (hx : Keeps a₀ x) => ?_) ?_; clear_value x) | clear_value x)
    | lift_lets | subst x | apply keeps_setAccState | apply keeps_rsat | apply keeps_setAcc | apply keeps_unsample
    | apply keeps_modPlank | apply keeps_rset | apply keeps_fileEvent | exact fun _ h => h | split
    | fail_if_no_progress apply keeps_free

theorem keeps_runBlocks {s : State} {p : ℕ} {r : PassRun} {lo : ℕ} {hi : ℕ} (h₀ : Keeps a₀ s) :
    Keeps a₀ (runBlocks s p r lo hi) := by
  unfold runBlocks
  repeat' with_reducible first
    | assumption
    | (intro x; first | (refine (fun (hx : Keeps a₀ x) => ?_) ?_; clear_value x) | (refine (fun (hx : Keeps a₀ x.2) => ?_) ?_; clear_value x) | (refine (fun (hx : Keeps a₀ x.1) => ?_) ?_; clear_value x) | clear_value x)
    | lift_lets | subst x | apply keeps_countBlocks | apply keeps_setAcc | apply keeps_evlog | apply keeps_store
    | refine keeps_foldl (fun _ _ _ => ?_) ?_ | refine keeps_foldl_fst (fun _ _ _ => ?_) ?_
    | refine keeps_foldl_snd (fun _ _ _ => ?_) ?_ | apply keeps_rset | apply keeps_modPlank | apply keeps_fileEvent
    | exact fun _ h => h | split | fail_if_no_progress apply keeps_free

theorem keeps_runSeg {s : State} {p : ℕ} {j : SegJob} (h₀ : Keeps a₀ s) :
    Keeps a₀ (runSeg s p j) := by
  unfold runSeg
  repeat' with_reducible first
    | assumption
    | (intro x; first | (refine (fun (hx : Keeps a₀ x) => ?_) ?_; clear_value x) | (refine (fun (hx : Keeps a₀ x.2) => ?_) ?_; clear_value x) | (refine (fun (hx : Keeps a₀ x.1) => ?_) ?_; clear_value x) | clear_value x)
    | lift_lets | subst x | apply keeps_laneCycles | apply keeps_noteInvalid | apply keeps_setAcc
    | apply keeps_storeKeep | refine keeps_foldl (fun _ _ _ => ?_) ?_ | refine keeps_foldl_fst (fun _ _ _ => ?_) ?_
    | refine keeps_foldl_snd (fun _ _ _ => ?_) ?_ | apply keeps_rset | apply keeps_modPlank | apply keeps_fileEvent
    | exact fun _ h => h | split | fail_if_no_progress apply keeps_free

theorem keeps_writeRow {s : State} {p : ℕ} {a : Accum} {r : ℕ} {o : RowOut} (h₀ : Keeps a₀ s) :
    Keeps a₀ (writeRow s p a r o) := by
  unfold writeRow
  repeat' with_reducible first
    | assumption
    | (intro x; first | (refine (fun (hx : Keeps a₀ x) => ?_) ?_; clear_value x) | (refine (fun (hx : Keeps a₀ x.2) => ?_) ?_; clear_value x) | (refine (fun (hx : Keeps a₀ x.1) => ?_) ?_; clear_value x) | clear_value x)
    | lift_lets | subst x | apply keeps_store | refine keeps_foldl (fun _ _ _ => ?_) ?_
    | refine keeps_foldl_fst (fun _ _ _ => ?_) ?_ | refine keeps_foldl_snd (fun _ _ _ => ?_) ?_ | apply keeps_rset
    | apply keeps_modPlank | apply keeps_fileEvent | exact fun _ h => h | split | fail_if_no_progress apply keeps_free

theorem keeps_chkFinish {s : State} {p : ℕ} {a : Accum} (h₀ : Keeps a₀ s) :
    Keeps a₀ (chkFinish s p a) := by
  unfold chkFinish
  repeat' with_reducible first
    | assumption | (intro x; first | (refine (fun (hx : Keeps a₀ x) => ?_) ?_; clear_value x) | clear_value x)
    | lift_lets | subst x | apply keeps_rsat | apply keeps_modPlank | apply keeps_store | apply keeps_rset
    | apply keeps_fileEvent | exact fun _ h => h | split | fail_if_no_progress apply keeps_free

theorem keeps_addStats {s : State} {p : ℕ} {tid : ℕ} {r : StatRec} (h₀ : Keeps a₀ s) :
    Keeps a₀ (addStats s p tid r) := by
  unfold addStats
  repeat' with_reducible first
    | assumption | (intro x; first | (refine (fun (hx : Keeps a₀ x) => ?_) ?_; clear_value x) | clear_value x)
    | lift_lets | subst x | apply keeps_modPlank | apply keeps_evlog | apply keeps_rset | apply keeps_fileEvent
    | exact fun _ h => h | split | fail_if_no_progress apply keeps_free

theorem keeps_fillComplete {s : State} {p : ℕ} (h₀ : Keeps a₀ s) :
    Keeps a₀ (fillComplete s p) := by
  unfold fillComplete
  repeat' with_reducible first
    | assumption | (intro x; first | (refine (fun (hx : Keeps a₀ x) => ?_) ?_; clear_value x) | clear_value x)
    | lift_lets | subst x | apply keeps_fillDrop | apply keeps_plankSignal | apply keeps_rset | apply keeps_modPlank
    | apply keeps_fileEvent | exact fun _ h => h | split | fail_if_no_progress apply keeps_free

theorem keeps_releaseAcc {s : State} {p : ℕ} {sel : ℕ} (h₀ : Keeps a₀ s) :
    Keeps a₀ (releaseAcc s p sel) := by
  unfold releaseAcc
  repeat' with_reducible first
    | assumption | (intro x; first | (refine (fun (hx : Keeps a₀ x) => ?_) ?_; clear_value x) | clear_value x)
    | lift_lets | subst x | apply keeps_freeAcc | apply keeps_enterPass | apply keeps_rset | apply keeps_modPlank
    | apply keeps_fileEvent | exact fun _ h => h | split | fail_if_no_progress apply keeps_free
    | refine keeps_snd (by assumption) ?_ | refine keeps_fst (by assumption) ?_

theorem keeps_finishDrain {s : State} {p : ℕ} {sel : ℕ} {ecc : CoreEcc} (h₀ : Keeps a₀ s) :
    Keeps a₀ (finishDrain s p sel ecc) := by
  unfold finishDrain
  repeat' with_reducible first
    | assumption
    | (intro x; first | (refine (fun (hx : Keeps a₀ x) => ?_) ?_; clear_value x) | (refine (fun (hx : Keeps a₀ x.2) => ?_) ?_; clear_value x) | (refine (fun (hx : Keeps a₀ x.1) => ?_) ?_; clear_value x) | clear_value x)
    | lift_lets | subst x | apply keeps_eccCounts | apply keeps_writeRow | apply keeps_laneCycles
    | apply keeps_noteInvalid | apply keeps_bankFault | apply keeps_feedFault | apply keeps_addStats
    | apply keeps_excRecord | apply keeps_chkFinish | apply keeps_radd | apply keeps_releaseAcc
    | apply keeps_fillComplete | apply keeps_refreshPlank | refine keeps_foldl (fun _ _ _ => ?_) ?_
    | refine keeps_foldl_fst (fun _ _ _ => ?_) ?_ | refine keeps_foldl_snd (fun _ _ _ => ?_) ?_ | apply keeps_rset
    | apply keeps_modPlank | apply keeps_fileEvent | exact fun _ h => h | split | fail_if_no_progress apply keeps_free
    | refine keeps_snd (by assumption) ?_ | refine keeps_fst (by assumption) ?_

theorem keeps_fillWithdraw {s : State} {p : ℕ} (h₀ : Keeps a₀ s) :
    Keeps a₀ (fillWithdraw s p) := by
  unfold fillWithdraw
  repeat' with_reducible first
    | assumption | (intro x; first | (refine (fun (hx : Keeps a₀ x) => ?_) ?_; clear_value x) | clear_value x)
    | lift_lets | subst x | apply keeps_fillDone | apply keeps_modPlank | apply keeps_rset | apply keeps_fileEvent
    | exact fun _ h => h | split | fail_if_no_progress apply keeps_free | refine keeps_snd (by assumption) ?_
    | refine keeps_fst (by assumption) ?_

theorem keeps_suspendArray {s : State} {p : ℕ} (h₀ : Keeps a₀ s) :
    Keeps a₀ (suspendArray s p) := by
  unfold suspendArray
  repeat' with_reducible first
    | assumption | (intro x; first | (refine (fun (hx : Keeps a₀ x) => ?_) ?_; clear_value x) | clear_value x)
    | lift_lets | subst x | apply keeps_setPlankState | apply keeps_rset | apply keeps_modPlank | apply keeps_fileEvent
    | exact fun _ h => h | split | fail_if_no_progress apply keeps_free

theorem keeps_coreStop {s : State} {p : ℕ} {q : ℕ} (h₀ : Keeps a₀ s) :
    Keeps a₀ (coreStop s p q) := by
  unfold coreStop
  repeat' with_reducible first
    | assumption | (intro x; first | (refine (fun (hx : Keeps a₀ x) => ?_) ?_; clear_value x) | clear_value x)
    | lift_lets | subst x | apply keeps_endWait | apply keeps_setCore | apply keeps_suspendArray | apply keeps_modPlank
    | apply keeps_rset | apply keeps_fileEvent | exact fun _ h => h | split | fail_if_no_progress apply keeps_free

theorem keeps_suspendCore {s : State} {p : ℕ} (h₀ : Keeps a₀ s) :
    Keeps a₀ (suspendCore s p) := by
  unfold suspendCore
  repeat' with_reducible first
    | assumption | (intro x; first | (refine (fun (hx : Keeps a₀ x) => ?_) ?_; clear_value x) | clear_value x)
    | lift_lets | subst x | apply keeps_rset | apply keeps_modPlank | apply keeps_fileEvent | exact fun _ h => h
    | split | fail_if_no_progress apply keeps_free

theorem keeps_spillAcc {s : State} {p : ℕ} {sel : ℕ} (h₀ : Keeps a₀ s) :
    Keeps a₀ (spillAcc s p sel) := by
  unfold spillAcc
  repeat' with_reducible first
    | assumption | (intro x; first | (refine (fun (hx : Keeps a₀ x) => ?_) ?_; clear_value x) | clear_value x)
    | lift_lets | subst x | apply keeps_storeRec | apply keeps_store | apply keeps_rset | apply keeps_modPlank
    | apply keeps_fileEvent | exact fun _ h => h | split | fail_if_no_progress apply keeps_free
    | refine keeps_snd (by assumption) ?_ | refine keeps_fst (by assumption) ?_

theorem keeps_reloadAcc {s : State} {p : ℕ} {sel : ℕ} (h₀ : Keeps a₀ s) :
    Keeps a₀ (reloadAcc s p sel) := by
  unfold reloadAcc
  repeat' with_reducible first
    | assumption | (intro x; first | (refine (fun (hx : Keeps a₀ x) => ?_) ?_; clear_value x) | clear_value x)
    | lift_lets | subst x | apply keeps_setAcc | apply keeps_setAccState | apply keeps_evlog
    | refine keeps_foldl (fun _ _ _ => ?_) ?_ | apply keeps_rset | apply keeps_modPlank | apply keeps_fileEvent
    | exact fun _ h => h | split | fail_if_no_progress apply keeps_free | refine keeps_snd (by assumption) ?_
    | refine keeps_fst (by assumption) ?_

/-! ## Hbm -/

theorem keeps_enqueue {s : State} {owner : Nat} {q : HbmReq} (h : Keeps a₀ s) : Keeps a₀ (enqueue s owner q) :=
  keeps_pcs h

theorem keeps_eccBad {s : State} {m : ℕ} {c : ℕ} {off : ℕ} (h₀ : Keeps a₀ s) :
    Keeps a₀ (eccBad s m c off) := by
  unfold eccBad
  repeat' with_reducible first
    | assumption | (intro x; first | (refine (fun (hx : Keeps a₀ x) => ?_) ?_; clear_value x) | clear_value x)
    | lift_lets | subst x | apply keeps_radd | apply keeps_rset | apply keeps_fileError | apply keeps_modPlank
    | apply keeps_fileEvent | exact fun _ h => h | split | fail_if_no_progress apply keeps_free

theorem keeps_hbmNote {s : State} {a : ℕ} {n : ℕ} (h₀ : Keeps a₀ s) :
    Keeps a₀ (hbmNote s a n) := by
  unfold hbmNote
  repeat' with_reducible first
    | assumption
    | (intro x; first | (refine (fun (hx : Keeps a₀ x) => ?_) ?_; clear_value x) | (refine (fun (hx : Keeps a₀ x.2) => ?_) ?_; clear_value x) | (refine (fun (hx : Keeps a₀ x.1) => ?_) ?_; clear_value x) | clear_value x)
    | lift_lets | subst x | apply keeps_eccBad | refine keeps_foldl (fun _ _ _ => ?_) ?_
    | refine keeps_foldl_fst (fun _ _ _ => ?_) ?_ | refine keeps_foldl_snd (fun _ _ _ => ?_) ?_ | apply keeps_rset
    | apply keeps_modPlank | apply keeps_fileEvent | exact fun _ h => h | split | fail_if_no_progress apply keeps_free

theorem keeps_hbmNotes {s : State} {rs : List (ℕ × ℕ)} (h₀ : Keeps a₀ s) :
    Keeps a₀ (hbmNotes s rs) := by
  unfold hbmNotes
  repeat' with_reducible first
    | assumption
    | (intro x; first | (refine (fun (hx : Keeps a₀ x) => ?_) ?_; clear_value x) | (refine (fun (hx : Keeps a₀ x.2) => ?_) ?_; clear_value x) | (refine (fun (hx : Keeps a₀ x.1) => ?_) ?_; clear_value x) | clear_value x)
    | lift_lets | subst x | apply keeps_hbmNote | refine keeps_foldl (fun _ _ _ => ?_) ?_
    | refine keeps_foldl_fst (fun _ _ _ => ?_) ?_ | refine keeps_foldl_snd (fun _ _ _ => ?_) ?_ | apply keeps_rset
    | apply keeps_modPlank | apply keeps_fileEvent | exact fun _ h => h | split | fail_if_no_progress apply keeps_free

theorem keeps_dropRewrites {s : State} {a n : Nat} (h : Keeps a₀ s) : Keeps a₀ (dropRewrites s a n) :=
  ⟨fun w => let w := h.wf w; { w with pcs := kwf_foldl _ _ w.pcs (fun _ _ hm => kwf_kput hm _ _) }, h.queue⟩

theorem keeps_hbmStore {s : State} {a : ℕ} {bs : List Byte} (h₀ : Keeps a₀ s) :
    Keeps a₀ (hbmStore s a bs) := by
  unfold hbmStore
  repeat' with_reducible first
    | assumption | (intro x; first | (refine (fun (hx : Keeps a₀ x) => ?_) ?_; clear_value x) | clear_value x)
    | lift_lets | subst x | apply keeps_hbmNote | apply keeps_dropRewrites | apply keeps_store | apply keeps_rset
    | apply keeps_modPlank | apply keeps_fileEvent | exact fun _ h => h | split | fail_if_no_progress apply keeps_free

theorem keeps_hbmStoreRec {s : State} {a : ℕ} {x : BitVec w} (h₀ : Keeps a₀ s) :
    Keeps a₀ (hbmStoreRec s a x) := by
  unfold hbmStoreRec
  repeat' with_reducible first
    | assumption | (intro x; first | (refine (fun (hx : Keeps a₀ x) => ?_) ?_; clear_value x) | clear_value x)
    | lift_lets | subst x | apply keeps_hbmStore | apply keeps_rset | apply keeps_modPlank | apply keeps_fileEvent
    | exact fun _ h => h | split | fail_if_no_progress apply keeps_free

/-! ## Integrity -/

theorem keeps_peatPut {s : State} {kind : ℕ} {cls : ℕ} {unit : ℕ} {n : PeatNote} (h₀ : Keeps a₀ s) :
    Keeps a₀ (peatPut s kind cls unit n) := by
  unfold peatPut
  repeat' with_reducible first
    | assumption | (intro x; first | (refine (fun (hx : Keeps a₀ x) => ?_) ?_; clear_value x) | clear_value x)
    | lift_lets | subst x | apply keeps_tick | apply keeps_rset | apply keeps_evlog | apply keeps_peat
    | apply keeps_modPlank | apply keeps_fileEvent | exact fun _ h => h | split | fail_if_no_progress apply keeps_free

theorem keeps_peatErase {s : State} (h : Keeps a₀ s) : Keeps a₀ (peatErase s) := by
  unfold peatErase
  dsimp only
  split
  · exact h
  · exact keeps_rset (keeps_peat_filter (keeps_foldl (fun _ _ hs => keeps_peatPut hs) h))

theorem keeps_peatAdd {s : State} {kind : ℕ} {cls : ℕ} {unit : ℕ} {n : PeatNote} (h₀ : Keeps a₀ s) :
    Keeps a₀ (peatAdd s kind cls unit n) := by
  unfold peatAdd
  repeat' with_reducible first
    | assumption | (intro x; first | (refine (fun (hx : Keeps a₀ x) => ?_) ?_; clear_value x) | clear_value x)
    | lift_lets | subst x | apply keeps_peatErase | apply keeps_peatPut | apply keeps_fileEvent | apply keeps_peatErase
    | apply keeps_rset | apply keeps_modPlank | exact fun _ h => h | split | fail_if_no_progress apply keeps_free

theorem keeps_peatRecord {s : State} {kind : ℕ} {cls : ℕ} {unit : ℕ} {n : PeatNote} (h₀ : Keeps a₀ s) :
    Keeps a₀ (peatRecord s kind cls unit n) := by
  unfold peatRecord
  repeat' with_reducible first
    | assumption | (intro x; first | (refine (fun (hx : Keeps a₀ x) => ?_) ?_; clear_value x) | clear_value x)
    | lift_lets | subst x | apply keeps_peatAdd | apply keeps_drew | apply keeps_rset | apply keeps_modPlank
    | apply keeps_fileEvent | exact fun _ h => h | split | fail_if_no_progress apply keeps_free

theorem keeps_disown {s : State} {p : ℕ} (h₀ : Keeps a₀ s) :
    Keeps a₀ (disown s p) := by
  unfold disown
  repeat' with_reducible first
    | assumption | (intro x; first | (refine (fun (hx : Keeps a₀ x) => ?_) ?_; clear_value x) | clear_value x)
    | lift_lets | subst x | apply keeps_dropChans | apply keeps_rset | apply keeps_modPlank | apply keeps_fileEvent
    | exact fun _ h => h | split | fail_if_no_progress apply keeps_free

theorem keeps_resetCore {s : State} {p : ℕ} (h₀ : Keeps a₀ s) :
    Keeps a₀ (resetCore s p) := by
  unfold resetCore
  repeat' with_reducible first
    | assumption | (intro x; first | (refine (fun (hx : Keeps a₀ x) => ?_) ?_; clear_value x) | clear_value x)
    | lift_lets | subst x | apply keeps_endWait | apply keeps_setCore | apply keeps_rset | apply keeps_orphan
    | apply keeps_emptyFill | apply keeps_modPlank | apply keeps_fileEvent | exact fun _ h => h | split
    | fail_if_no_progress apply keeps_free

theorem keeps_maskFlag {s : State} {job : ℕ} (h₀ : Keeps a₀ s) :
    Keeps a₀ (maskFlag s job) := by
  unfold maskFlag
  repeat' with_reducible first
    | assumption | (intro x; first | (refine (fun (hx : Keeps a₀ x) => ?_) ?_; clear_value x) | clear_value x)
    | lift_lets | subst x | apply keeps_jobFlag | apply keeps_rset | apply keeps_modPlank | apply keeps_fileEvent
    | exact fun _ h => h | split | fail_if_no_progress apply keeps_free | refine keeps_snd (by assumption) ?_
    | refine keeps_fst (by assumption) ?_

theorem keeps_maskPlank {s : State} {p : ℕ} (h₀ : Keeps a₀ s) :
    Keeps a₀ (maskPlank s p) := by
  unfold maskPlank
  repeat' with_reducible first
    | assumption | (intro x; first | (refine (fun (hx : Keeps a₀ x) => ?_) ?_; clear_value x) | clear_value x)
    | lift_lets | subst x | apply keeps_clearArray | apply keeps_feedStops | apply keeps_rset | apply keeps_resetCore
    | apply keeps_disown | apply keeps_setPlankState | apply keeps_peatRecord | apply keeps_failStream
    | apply keeps_modJob | apply keeps_maskFlag | apply keeps_modPlank | apply keeps_fileEvent | exact fun _ h => h
    | split | fail_if_no_progress apply keeps_free | refine keeps_snd (by assumption) ?_
    | refine keeps_fst (by assumption) ?_

theorem keeps_decideMask {s : State} {p : ℕ} (h₀ : Keeps a₀ s) :
    Keeps a₀ (decideMask s p) := by
  unfold decideMask
  repeat' with_reducible first
    | assumption | (intro x; first | (refine (fun (hx : Keeps a₀ x) => ?_) ?_; clear_value x) | clear_value x)
    | lift_lets | subst x | apply keeps_maskPlank | apply keeps_modPlank | apply keeps_rset | apply keeps_fileEvent
    | exact fun _ h => h | split | fail_if_no_progress apply keeps_free | refine keeps_snd (by assumption) ?_
    | refine keeps_fst (by assumption) ?_

theorem keeps_charge {s : State} {p : ℕ} {kind : ℕ} {n : PeatNote} (h₀ : Keeps a₀ s) :
    Keeps a₀ (charge s p kind n) := by
  unfold charge
  repeat' with_reducible first
    | assumption | (intro x; first | (refine (fun (hx : Keeps a₀ x) => ?_) ?_; clear_value x) | clear_value x)
    | lift_lets | subst x | apply keeps_peatRecord | apply keeps_rset | apply keeps_rsat | apply keeps_decideMask
    | apply keeps_modPlank | apply keeps_fileEvent | exact fun _ h => h | split | fail_if_no_progress apply keeps_free

theorem keeps_applyCharge {s : State} {e : ErrEntry} (h₀ : Keeps a₀ s) :
    Keeps a₀ (applyCharge s e) := by
  unfold applyCharge
  repeat' with_reducible first
    | assumption | (intro x; first | (refine (fun (hx : Keeps a₀ x) => ?_) ?_; clear_value x) | clear_value x)
    | lift_lets | subst x | apply keeps_peatRecord | apply keeps_charge | apply keeps_rset | apply keeps_modPlank
    | apply keeps_fileEvent | exact fun _ h => h | split | fail_if_no_progress apply keeps_free

theorem keeps_chargeSoon {s : State} {p : ℕ} {code : ℕ} {tag : ℕ} {tid : ℕ} (h₀ : Keeps a₀ s) :
    Keeps a₀ (chargeSoon s p code tag tid) := by
  unfold chargeSoon
  repeat' with_reducible first
    | assumption | (intro x; first | (refine (fun (hx : Keeps a₀ x) => ?_) ?_; clear_value x) | clear_value x)
    | lift_lets | subst x | apply keeps_applyCharge | apply keeps_tick | apply keeps_rset | apply keeps_modPlank
    | apply keeps_fileEvent | exact fun _ h => h | split | fail_if_no_progress apply keeps_free
    | refine keeps_snd (by assumption) ?_ | refine keeps_fst (by assumption) ?_

theorem keeps_handleError {s : State} {e : ErrEntry} (h₀ : Keeps a₀ s) :
    Keeps a₀ (handleError s e) := by
  unfold handleError
  repeat' with_reducible first
    | assumption | (intro x; first | (refine (fun (hx : Keeps a₀ x) => ?_) ?_; clear_value x) | clear_value x)
    | lift_lets | subst x | apply keeps_charge | apply keeps_peatRecord | apply keeps_rset | apply keeps_modPlank
    | apply keeps_fileEvent | exact fun _ h => h | split | fail_if_no_progress apply keeps_free
    | refine keeps_snd (by assumption) ?_ | refine keeps_fst (by assumption) ?_

theorem keeps_workErrors {s : State} (h₀ : Keeps a₀ s) :
    Keeps a₀ (workErrors s) := by
  unfold workErrors
  repeat' with_reducible first
    | assumption | (intro x; first | (refine (fun (hx : Keeps a₀ x) => ?_) ?_; clear_value x) | clear_value x)
    | lift_lets | subst x | apply keeps_peatRecord | apply keeps_handleError | refine keeps_foldl (fun _ _ _ => ?_) ?_
    | apply keeps_rset | apply keeps_modPlank | apply keeps_fileEvent | exact fun _ h => h | split
    | fail_if_no_progress apply keeps_free

theorem keeps_closeEntries {s : State} {ps : List ℕ} (h₀ : Keeps a₀ s) :
    Keeps a₀ (closeEntries s ps) := by
  unfold closeEntries
  repeat' with_reducible first
    | assumption | (intro x; first | (refine (fun (hx : Keeps a₀ x) => ?_) ?_; clear_value x) | clear_value x)
    | lift_lets | subst x | apply keeps_handleError | refine keeps_foldl (fun _ _ _ => ?_) ?_ | apply keeps_rset
    | apply keeps_modPlank | apply keeps_fileEvent | exact fun _ h => h | split | fail_if_no_progress apply keeps_free

theorem keeps_execPlankMask {s : State} {p : PlankId} (h₀ : Keeps a₀ s) {t₀ : State}
    (e : execPlankMask p s = .next t₀) : Keeps a₀ t₀ := by
  unfold execPlankMask at e
  injection e with e
  subst e
  repeat' with_reducible first
    | assumption | (intro x; first | (refine (fun (hx : Keeps a₀ x) => ?_) ?_; clear_value x) | clear_value x)
    | lift_lets | subst x | apply keeps_decideMask | apply keeps_rset | apply keeps_modPlank | apply keeps_fileEvent
    | exact fun _ h => h | split | fail_if_no_progress apply keeps_free

theorem keeps_execErrorFiled {s : State} {cls : BitVec 8} {unit : BitVec 16} {code : BitVec 8} (h₀ : Keeps a₀ s) {t₀ : State}
    (e : execErrorFiled cls unit code s = .next t₀) : Keeps a₀ t₀ := by
  unfold execErrorFiled at e
  injection e with e
  subst e
  repeat' with_reducible first
    | assumption | (intro x; first | (refine (fun (hx : Keeps a₀ x) => ?_) ?_; clear_value x) | clear_value x)
    | lift_lets | subst x | apply keeps_fileError | apply keeps_rset | apply keeps_modPlank | apply keeps_fileEvent
    | exact fun _ h => h | split | fail_if_no_progress apply keeps_free

/-! ## Energy -/

theorem keeps_markIvs {s : State} {f : EnergyIv → EnergyIv} (h₀ : Keeps a₀ s) :
    Keeps a₀ (markIvs s f) := by
  unfold markIvs
  repeat' with_reducible first
    | assumption | (intro x; first | (refine (fun (hx : Keeps a₀ x) => ?_) ?_; clear_value x) | clear_value x)
    | lift_lets | subst x | apply keeps_rset | apply keeps_modPlank | apply keeps_fileEvent | exact fun _ h => h
    | split | fail_if_no_progress apply keeps_free

theorem keeps_markSuspended {s : State} {n : ℕ} (h₀ : Keeps a₀ s) :
    Keeps a₀ (markSuspended s n) := by
  unfold markSuspended
  repeat' with_reducible first
    | assumption | (intro x; first | (refine (fun (hx : Keeps a₀ x) => ?_) ?_; clear_value x) | clear_value x)
    | lift_lets | subst x | apply keeps_markIvs | apply keeps_rset | apply keeps_modPlank | apply keeps_fileEvent
    | exact fun _ h => h | split | fail_if_no_progress apply keeps_free

theorem keeps_energyBegin {s : State} {job : ℕ} {stream : Option ℕ} {step : ℕ} (h₀ : Keeps a₀ s) :
    Keeps a₀ (energyBegin s job stream step) := by
  unfold energyBegin
  repeat' with_reducible first
    | assumption | (intro x; first | (refine (fun (hx : Keeps a₀ x) => ?_) ?_; clear_value x) | clear_value x)
    | lift_lets | subst x | apply keeps_tick | apply keeps_rset | apply keeps_modPlank | apply keeps_fileEvent
    | exact fun _ h => h | split | fail_if_no_progress apply keeps_free | refine keeps_snd (by assumption) ?_
    | refine keeps_fst (by assumption) ?_

theorem keeps_energyWrite {s : State} {off : ℕ} {job : ℕ} {x : BitVec 512} (h₀ : Keeps a₀ s) :
    Keeps a₀ (energyWrite s off job x) := by
  unfold energyWrite
  repeat' with_reducible first
    | assumption | (intro x; first | (refine (fun (hx : Keeps a₀ x) => ?_) ?_; clear_value x) | clear_value x)
    | lift_lets | subst x | apply keeps_hbmStoreRec | apply keeps_fileEvent | apply keeps_setWord
    | refine keeps_foldl (fun _ _ _ => ?_) ?_ | apply keeps_rset | apply keeps_modPlank | exact fun _ h => h | split
    | fail_if_no_progress apply keeps_free

theorem keeps_energyEnd {s : State} {job : Nat} {stream : Option Nat} {attempts verdict : Nat} (h : Keeps a₀ s) :
    Keeps a₀ (energyEnd s job stream attempts verdict) := by
  unfold energyEnd
  split
  · dsimp only
    split
    · exact h
    · split
      · exact keeps_energyWrite (keeps_free (keeps_tick h) ..)
      · exact keeps_free (keeps_tick h) ..
  · exact h

/-! ## Verdict -/

theorem keeps_putStepRec {s : State} {id : ℕ} (h₀ : Keeps a₀ s) :
    Keeps a₀ (putStepRec s id) := by
  unfold putStepRec
  repeat' with_reducible first
    | assumption | (intro x; first | (refine (fun (hx : Keeps a₀ x) => ?_) ?_; clear_value x) | clear_value x)
    | lift_lets | subst x | apply keeps_hbmStoreRec | apply keeps_rset | apply keeps_modPlank | apply keeps_fileEvent
    | exact fun _ h => h | split | fail_if_no_progress apply keeps_free | refine keeps_snd (by assumption) ?_
    | refine keeps_fst (by assumption) ?_

theorem keeps_setStep {s : State} {id : ℕ} {f : Job → Job} (h₀ : Keeps a₀ s) :
    Keeps a₀ (setStep s id f) := by
  unfold setStep
  repeat' with_reducible first
    | assumption | (intro x; first | (refine (fun (hx : Keeps a₀ x) => ?_) ?_; clear_value x) | clear_value x)
    | lift_lets | subst x | apply keeps_putStepRec | apply keeps_modJob | apply keeps_rset | apply keeps_modPlank
    | apply keeps_fileEvent | exact fun _ h => h | split | fail_if_no_progress apply keeps_free

theorem keeps_setTensorRec {s : State} {j : Job} {tid : ℕ} {r : BitVec 512} (h₀ : Keeps a₀ s) :
    Keeps a₀ (setTensorRec s j tid r) := by
  unfold setTensorRec
  repeat' with_reducible first
    | assumption | (intro x; first | (refine (fun (hx : Keeps a₀ x) => ?_) ?_; clear_value x) | clear_value x)
    | lift_lets | subst x | apply keeps_hbmStoreRec | apply keeps_rset | apply keeps_modPlank | apply keeps_fileEvent
    | exact fun _ h => h | split | fail_if_no_progress apply keeps_free

theorem keeps_setLadder {s : State} {j : Job} {tid : ℕ} {r : BitVec 512} (h₀ : Keeps a₀ s) :
    Keeps a₀ (setLadder s j tid r) := by
  unfold setLadder
  repeat' with_reducible first
    | assumption | (intro x; first | (refine (fun (hx : Keeps a₀ x) => ?_) ?_; clear_value x) | clear_value x)
    | lift_lets | subst x | apply keeps_hbmStoreRec | apply keeps_rset | apply keeps_modPlank | apply keeps_fileEvent
    | exact fun _ h => h | split | fail_if_no_progress apply keeps_free

theorem keeps_setRef {s : State} {j : Job} {tid : ℕ} {ref : F32} (h₀ : Keeps a₀ s) :
    Keeps a₀ (setRef s j tid ref) := by
  unfold setRef
  repeat' with_reducible first
    | assumption | (intro x; first | (refine (fun (hx : Keeps a₀ x) => ?_) ?_; clear_value x) | clear_value x)
    | lift_lets | subst x | apply keeps_setTensorRec | apply keeps_rset | apply keeps_modPlank | apply keeps_fileEvent
    | exact fun _ h => h | split | fail_if_no_progress apply keeps_free

theorem keeps_resetRung {s : State} {j : Job} {tid : ℕ} (h₀ : Keeps a₀ s) :
    Keeps a₀ (resetRung s j tid) := by
  unfold resetRung
  repeat' with_reducible first
    | assumption | (intro x; first | (refine (fun (hx : Keeps a₀ x) => ?_) ?_; clear_value x) | clear_value x)
    | lift_lets | subst x | apply keeps_setLadder | apply keeps_rset | apply keeps_modPlank | apply keeps_fileEvent
    | exact fun _ h => h | split | fail_if_no_progress apply keeps_free

theorem keeps_firstRefs {s : State} {j : Job} (h₀ : Keeps a₀ s) :
    Keeps a₀ (firstRefs s j) := by
  unfold firstRefs
  repeat' with_reducible first
    | assumption | (intro x; first | (refine (fun (hx : Keeps a₀ x) => ?_) ?_; clear_value x) | clear_value x)
    | lift_lets | subst x | apply keeps_resetRung | apply keeps_setRef | refine keeps_foldl (fun _ _ _ => ?_) ?_
    | apply keeps_rset | apply keeps_modPlank | apply keeps_fileEvent | exact fun _ h => h | split
    | fail_if_no_progress apply keeps_free

theorem keeps_clearStats {s : State} {id : ℕ} (h₀ : Keeps a₀ s) :
    Keeps a₀ (clearStats s id) := by
  unfold clearStats
  repeat' with_reducible first
    | assumption | (intro x; first | (refine (fun (hx : Keeps a₀ x) => ?_) ?_; clear_value x) | clear_value x)
    | lift_lets | subst x | apply keeps_modPlank | refine keeps_foldl (fun _ _ _ => ?_) ?_ | apply keeps_rset
    | apply keeps_fileEvent | exact fun _ h => h | split | fail_if_no_progress apply keeps_free

theorem keeps_writeStatTable {s : State} {j : Job} {rs : List (ℕ × StatRec)} (h₀ : Keeps a₀ s) :
    Keeps a₀ (writeStatTable s j rs) := by
  unfold writeStatTable
  repeat' with_reducible first
    | assumption
    | (intro x; first | (refine (fun (hx : Keeps a₀ x) => ?_) ?_; clear_value x) | (refine (fun (hx : Keeps a₀ x.2) => ?_) ?_; clear_value x) | (refine (fun (hx : Keeps a₀ x.1) => ?_) ?_; clear_value x) | clear_value x)
    | lift_lets | subst x | apply keeps_hbmStoreRec | refine keeps_foldl (fun _ _ _ => ?_) ?_
    | refine keeps_foldl_fst (fun _ _ _ => ?_) ?_ | refine keeps_foldl_snd (fun _ _ _ => ?_) ?_ | apply keeps_rset
    | apply keeps_modPlank | apply keeps_fileEvent | exact fun _ h => h | split | fail_if_no_progress apply keeps_free

theorem keeps_clearStatTable {s : State} {id : ℕ} (h₀ : Keeps a₀ s) :
    Keeps a₀ (clearStatTable s id) := by
  unfold clearStatTable
  repeat' with_reducible first
    | assumption | (intro x; first | (refine (fun (hx : Keeps a₀ x) => ?_) ?_; clear_value x) | clear_value x)
    | lift_lets | subst x | apply keeps_writeStatTable | apply keeps_rset | apply keeps_modPlank
    | apply keeps_fileEvent | exact fun _ h => h | split | fail_if_no_progress apply keeps_free
    | refine keeps_snd (by assumption) ?_ | refine keeps_fst (by assumption) ?_

theorem keeps_formNext {s : State} {id : ℕ} (h₀ : Keeps a₀ s) :
    Keeps a₀ (formNext s id) := by
  unfold formNext
  repeat' with_reducible first
    | assumption | (intro x; first | (refine (fun (hx : Keeps a₀ x) => ?_) ?_; clear_value x) | clear_value x)
    | lift_lets | subst x | apply keeps_clearStats | apply keeps_strmSet | apply keeps_firstRefs | apply keeps_hbmNotes
    | apply keeps_modJob | refine keeps_foldl (fun _ _ _ => ?_) ?_ | apply keeps_rset | apply keeps_modPlank
    | apply keeps_fileEvent | exact fun _ h => h | split | fail_if_no_progress apply keeps_free
    | refine keeps_snd (by assumption) ?_ | refine keeps_fst (by assumption) ?_

theorem keeps_finalVerdict {s : State} {id : ℕ} {v : ℕ} {c : CheckRec} (h₀ : Keeps a₀ s) :
    Keeps a₀ (finalVerdict s id v c) := by
  unfold finalVerdict
  repeat' with_reducible first
    | assumption | (intro x; first | (refine (fun (hx : Keeps a₀ x) => ?_) ?_; clear_value x) | clear_value x)
    | lift_lets | subst x | apply keeps_setStep | apply keeps_fileEvent | apply keeps_radd | apply keeps_rset
    | apply keeps_workErrors | apply keeps_closeEntries | refine keeps_foldl (fun _ _ _ => ?_) ?_
    | apply keeps_modPlank | exact fun _ h => h | split | fail_if_no_progress apply keeps_free
    | refine keeps_snd (by assumption) ?_ | refine keeps_fst (by assumption) ?_

theorem keeps_voidStep {s : State} {id : ℕ} {c : CheckRec} (h₀ : Keeps a₀ s) :
    Keeps a₀ (voidStep s id c) := by
  unfold voidStep
  repeat' with_reducible first
    | assumption | (intro x; first | (refine (fun (hx : Keeps a₀ x) => ?_) ?_; clear_value x) | clear_value x)
    | lift_lets | subst x | apply keeps_clearStatTable | apply keeps_formNext | apply keeps_finalVerdict
    | apply keeps_modJob | apply keeps_rset | apply keeps_modPlank | apply keeps_fileEvent | exact fun _ h => h | split
    | fail_if_no_progress apply keeps_free

theorem keeps_phaseBegun {s : State} {p : ℕ} {n : ℕ} (h₀ : Keeps a₀ s) :
    Keeps a₀ (phaseBegun s p n) := by
  unfold phaseBegun
  repeat' with_reducible first
    | assumption | (intro x; first | (refine (fun (hx : Keeps a₀ x) => ?_) ?_; clear_value x) | clear_value x)
    | lift_lets | subst x | apply keeps_setStep | apply keeps_rset | apply keeps_modPlank | apply keeps_fileEvent
    | exact fun _ h => h | split | fail_if_no_progress apply keeps_free | refine keeps_snd (by assumption) ?_
    | refine keeps_fst (by assumption) ?_

theorem keeps_releasedStep {s : State} {id : ℕ} {f : StepFlag} (h₀ : Keeps a₀ s) :
    Keeps a₀ (releasedStep s id f) := by
  unfold releasedStep
  repeat' with_reducible first
    | assumption | (intro x; first | (refine (fun (hx : Keeps a₀ x) => ?_) ?_; clear_value x) | clear_value x)
    | lift_lets | subst x | apply keeps_jobFlag | apply keeps_voidStep | apply keeps_rset | apply keeps_modPlank
    | apply keeps_fileEvent | exact fun _ h => h | split | fail_if_no_progress apply keeps_free
    | refine keeps_snd (by assumption) ?_ | refine keeps_fst (by assumption) ?_

theorem keeps_cancelStep {s : State} {id : ℕ} (h₀ : Keeps a₀ s) :
    Keeps a₀ (cancelStep s id) := by
  unfold cancelStep
  repeat' with_reducible first
    | assumption | (intro x; first | (refine (fun (hx : Keeps a₀ x) => ?_) ?_; clear_value x) | clear_value x)
    | lift_lets | subst x | apply keeps_voidStep | apply keeps_rset | apply keeps_modPlank | apply keeps_fileEvent
    | exact fun _ h => h | split | fail_if_no_progress apply keeps_free | refine keeps_snd (by assumption) ?_
    | refine keeps_fst (by assumption) ?_

/-! ## Streams -/

theorem keeps_objectsTo {s : State} {n src dst : Nat} (hd : dst % 8 ≠ 0) (h : Keeps a₀ s) : Keeps a₀ (objectsTo s n src dst) :=
  ⟨fun w => let w := h.wf w; { w with objs := kwf_map w.objs _ (fun e _ he => by
      split
      · refine ⟨rfl, fun hc => hd ?_⟩
        have := congrArg (fget · Obj.STATE) hc
        simp only [fget_fset e.2 Obj.STATE dst (by decide)] at this
        have h0 : fget (objReset e.1) Obj.STATE = 0 := by unfold objReset; decide
        rw [h0] at this
        exact this
      · exact ⟨rfl, he⟩) }, h.queue⟩

theorem keeps_partnerFlag {s : State} {chip n : Nat} {on : Bool} (h : Keeps a₀ s) : Keeps a₀ (partnerFlag s chip n on) :=
  ⟨fun w => let w := h.wf w; { w with objs := kwf_map w.objs _ (fun e _ he => by
      split
      · rename_i hb
        refine ⟨rfl, fun hc => ?_⟩
        have := congrArg (fget · Obj.PARTNER_EN) hc
        simp only [fget_fset_apart e.2 Obj.PARTNER_SUSP Obj.PARTNER_EN (boolNat on) (by decide) (by decide)] at this
        simp only [Bool.and_eq_true, beq_iff_eq] at hb
        have h0 : fget (objReset e.1) Obj.PARTNER_EN = 0 := by unfold objReset; decide
        rw [hb.1.1, h0] at this
        exact absurd this (by decide)
      · exact ⟨rfl, he⟩) }, h.queue⟩

theorem keeps_stallReport {s : State} {reason : ℕ} {unit : ℕ} {obj : Option ℕ} {barrier : ℕ} {target : ℕ} {value : ℕ} {arrived : ℕ} {waited : ℕ} {step : ℕ} (h₀ : Keeps a₀ s) :
    Keeps a₀ (stallReport s reason unit obj barrier target value arrived waited step) := by
  unfold stallReport
  repeat' with_reducible first
    | assumption | (intro x; first | (refine (fun (hx : Keeps a₀ x) => ?_) ?_; clear_value x) | clear_value x)
    | lift_lets | subst x | apply keeps_rsat | apply keeps_fileEvent | apply keeps_tick | apply keeps_rset
    | apply keeps_modPlank | exact fun _ h => h | split | fail_if_no_progress apply keeps_free
    | refine keeps_snd (by assumption) ?_ | refine keeps_fst (by assumption) ?_

theorem keeps_partnerSuspended {s : State} {chip : ℕ} {n : ℕ} (h₀ : Keeps a₀ s) :
    Keeps a₀ (partnerSuspended s chip n) := by
  unfold partnerSuspended
  repeat' with_reducible first
    | assumption | (intro x; first | (refine (fun (hx : Keeps a₀ x) => ?_) ?_; clear_value x) | clear_value x)
    | lift_lets | subst x | apply keeps_stallReport | apply keeps_rsat | apply keeps_partnerFlag
    | refine keeps_foldl (fun _ _ _ => ?_) ?_ | apply keeps_rset | apply keeps_modPlank | apply keeps_fileEvent
    | exact fun _ h => h | split | fail_if_no_progress apply keeps_free

theorem keeps_partnerEvent {s : State} {chip : ℕ} {n : ℕ} {event : ℕ} (h₀ : Keeps a₀ s) :
    Keeps a₀ (partnerEvent s chip n event) := by
  unfold partnerEvent
  repeat' with_reducible first
    | assumption | (intro x; first | (refine (fun (hx : Keeps a₀ x) => ?_) ?_; clear_value x) | clear_value x)
    | lift_lets | subst x | apply keeps_partnerSuspended | apply keeps_partnerFlag | apply keeps_rset
    | apply keeps_modPlank | apply keeps_fileEvent | exact fun _ h => h | split | fail_if_no_progress apply keeps_free

theorem keeps_streamMessages {s : State} {n : ℕ} {event : ℕ} (h₀ : Keeps a₀ s) :
    Keeps a₀ (streamMessages s n event) := by
  unfold streamMessages
  repeat' with_reducible first
    | assumption | (intro x; first | (refine (fun (hx : Keeps a₀ x) => ?_) ?_; clear_value x) | clear_value x)
    | lift_lets | subst x | apply keeps_ownerMessage | apply keeps_partnerEvent
    | refine keeps_foldl (fun _ _ _ => ?_) ?_ | apply keeps_rset | apply keeps_modPlank | apply keeps_fileEvent
    | exact fun _ h => h | split | fail_if_no_progress apply keeps_free

theorem keeps_coreStartOp {s : State} {p : ℕ} (h₀ : Keeps a₀ s) :
    Keeps a₀ (coreStartOp p s) := by
  unfold coreStartOp
  repeat' with_reducible first
    | assumption | (intro x; first | (refine (fun (hx : Keeps a₀ x) => ?_) ?_; clear_value x) | clear_value x)
    | lift_lets | subst x | apply keeps_setPc | apply keeps_setCore | apply keeps_modPlank | apply keeps_rset
    | apply keeps_fileEvent | exact fun _ h => h | split | fail_if_no_progress apply keeps_free

theorem keeps_startCores {s : State} {n : ℕ} (h₀ : Keeps a₀ s) :
    Keeps a₀ (startCores s n) := by
  unfold startCores
  repeat' with_reducible first
    | assumption | (intro x; first | (refine (fun (hx : Keeps a₀ x) => ?_) ?_; clear_value x) | clear_value x)
    | lift_lets | subst x | apply keeps_coreStartOp | refine keeps_foldl (fun _ _ _ => ?_) ?_ | apply keeps_rset
    | apply keeps_modPlank | apply keeps_fileEvent | exact fun _ h => h | split | fail_if_no_progress apply keeps_free

theorem keeps_streamRuns {s : State} {n : ℕ} (h₀ : Keeps a₀ s) :
    Keeps a₀ (streamRuns s n) := by
  unfold streamRuns
  repeat' with_reducible first
    | assumption | (intro x; first | (refine (fun (hx : Keeps a₀ x) => ?_) ?_; clear_value x) | clear_value x)
    | lift_lets | subst x | apply keeps_streamTo | apply keeps_startCores | apply keeps_streamMessages
    | refine keeps_objectsTo (by decide) ?_ | apply keeps_rset | apply keeps_modPlank | apply keeps_fileEvent
    | exact fun _ h => h | split | fail_if_no_progress apply keeps_free

theorem keeps_streamStops {s : State} {n : ℕ} (h₀ : Keeps a₀ s) :
    Keeps a₀ (streamStops s n) := by
  unfold streamStops
  repeat' with_reducible first
    | assumption | (intro x; first | (refine (fun (hx : Keeps a₀ x) => ?_) ?_; clear_value x) | clear_value x)
    | lift_lets | subst x | apply keeps_streamMessages | refine keeps_objectsTo (by decide) ?_ | apply keeps_rset
    | apply keeps_modPlank | apply keeps_fileEvent | exact fun _ h => h | split | fail_if_no_progress apply keeps_free

theorem keeps_suspendStreamOp {s : State} {n : ℕ} {src : ℕ} (h₀ : Keeps a₀ s) :
    Keeps a₀ (suspendStreamOp s n src) := by
  unfold suspendStreamOp
  repeat' with_reducible first
    | assumption | (intro x; first | (refine (fun (hx : Keeps a₀ x) => ?_) ?_; clear_value x) | clear_value x)
    | lift_lets | subst x | apply keeps_strmSet | apply keeps_streamStops | apply keeps_streamTo
    | apply keeps_markSuspended | apply keeps_suspendCore | refine keeps_foldl (fun _ _ _ => ?_) ?_ | apply keeps_rset
    | apply keeps_modPlank | apply keeps_fileEvent | exact fun _ h => h | split | fail_if_no_progress apply keeps_free

theorem keeps_resumeStreamOp {s : State} {n : ℕ} {src : ℕ} (h₀ : Keeps a₀ s) :
    Keeps a₀ (resumeStreamOp s n src) := by
  unfold resumeStreamOp
  repeat' with_reducible first
    | assumption | (intro x; first | (refine (fun (hx : Keeps a₀ x) => ?_) ?_; clear_value x) | clear_value x)
    | lift_lets | subst x | apply keeps_strmSet | apply keeps_streamRuns | apply keeps_rset | apply keeps_modPlank
    | apply keeps_fileEvent | exact fun _ h => h | split | fail_if_no_progress apply keeps_free

theorem keeps_streamDone {s : State} {n : ℕ} {outcome : ℕ} (h₀ : Keeps a₀ s) :
    Keeps a₀ (streamDone s n outcome) := by
  unfold streamDone
  repeat' with_reducible first
    | assumption | (intro x; first | (refine (fun (hx : Keeps a₀ x) => ?_) ?_; clear_value x) | clear_value x)
    | lift_lets | subst x | apply keeps_strmSet | apply keeps_streamTo | apply keeps_orphan | apply keeps_setObj
    | refine keeps_foldl (fun _ _ _ => ?_) ?_ | apply keeps_rset | apply keeps_modPlank | apply keeps_fileEvent
    | exact fun _ h => h | split | fail_if_no_progress apply keeps_free

theorem keeps_discardContexts {s : State} {n : ℕ} (h₀ : Keeps a₀ s) :
    Keeps a₀ (discardContexts s n) := by
  unfold discardContexts
  repeat' with_reducible first
    | assumption | (intro x; first | (refine (fun (hx : Keeps a₀ x) => ?_) ?_; clear_value x) | clear_value x)
    | lift_lets | subst x | apply keeps_rset | apply keeps_freeAcc | apply keeps_setPlankState
    | refine keeps_foldl (fun _ _ _ => ?_) ?_ | apply keeps_modPlank | apply keeps_fileEvent | exact fun _ h => h
    | split | fail_if_no_progress apply keeps_free

theorem keeps_contextLost {s : State} {p : ℕ} (h₀ : Keeps a₀ s) :
    Keeps a₀ (contextLost s p) := by
  unfold contextLost
  repeat' with_reducible first
    | assumption | (intro x; first | (refine (fun (hx : Keeps a₀ x) => ?_) ?_; clear_value x) | clear_value x)
    | lift_lets | subst x | apply keeps_orphan | apply keeps_streamTo | apply keeps_rset | apply keeps_modPlank
    | apply keeps_fileEvent | exact fun _ h => h | split | fail_if_no_progress apply keeps_free
    | refine keeps_snd (by assumption) ?_ | refine keeps_fst (by assumption) ?_

theorem keeps_cancelEnds {s : State} {n : ℕ} (h₀ : Keeps a₀ s) :
    Keeps a₀ (cancelEnds s n) := by
  unfold cancelEnds
  repeat' with_reducible first
    | assumption | (intro x; first | (refine (fun (hx : Keeps a₀ x) => ?_) ?_; clear_value x) | clear_value x)
    | lift_lets | subst x | apply keeps_streamDone | apply keeps_rset | apply keeps_modPlank | apply keeps_fileEvent
    | exact fun _ h => h | split | fail_if_no_progress apply keeps_free

theorem keeps_cancelNow {s : State} {n : ℕ} (h₀ : Keeps a₀ s) :
    Keeps a₀ (cancelNow s n) := by
  unfold cancelNow
  repeat' with_reducible first
    | assumption | (intro x; first | (refine (fun (hx : Keeps a₀ x) => ?_) ?_; clear_value x) | clear_value x)
    | lift_lets | subst x | apply keeps_streamTo | apply keeps_orphan | apply keeps_cancelStep
    | apply keeps_discardContexts | apply keeps_rset | apply keeps_modPlank | apply keeps_fileEvent
    | exact fun _ h => h | split | fail_if_no_progress apply keeps_free

theorem keeps_cancelOp {s : State} {n : ℕ} (h₀ : Keeps a₀ s) :
    Keeps a₀ (cancelOp s n) := by
  unfold cancelOp
  repeat' with_reducible first
    | assumption | (intro x; first | (refine (fun (hx : Keeps a₀ x) => ?_) ?_; clear_value x) | clear_value x)
    | lift_lets | subst x | apply keeps_modJob | apply keeps_cancelNow | apply keeps_rset | apply keeps_modPlank
    | apply keeps_fileEvent | exact fun _ h => h | split | fail_if_no_progress apply keeps_free
    | refine keeps_snd (by assumption) ?_ | refine keeps_fst (by assumption) ?_

theorem keeps_boundarySuspends {s : State} {j : Job} (h₀ : Keeps a₀ s) :
    Keeps a₀ (boundarySuspends s j) := by
  unfold boundarySuspends
  repeat' with_reducible first
    | assumption | (intro x; first | (refine (fun (hx : Keeps a₀ x) => ?_) ?_; clear_value x) | clear_value x)
    | lift_lets | subst x | apply keeps_suspendStreamOp | apply keeps_modJob | refine keeps_foldl (fun _ _ _ => ?_) ?_
    | apply keeps_rset | apply keeps_modPlank | apply keeps_fileEvent | exact fun _ h => h | split
    | fail_if_no_progress apply keeps_free

/-! ## Transfer -/

theorem keeps_countPoison {s : State} {off : ℕ} {n : ℕ} (h₀ : Keeps a₀ s) :
    Keeps a₀ (countPoison s off n) := by
  unfold countPoison
  repeat' with_reducible first
    | assumption | (intro x; first | (refine (fun (hx : Keeps a₀ x) => ?_) ?_; clear_value x) | clear_value x)
    | lift_lets | subst x | apply keeps_rsat | apply keeps_rset | apply keeps_modPlank | apply keeps_fileEvent
    | exact fun _ h => h | split | fail_if_no_progress apply keeps_free | refine keeps_snd (by assumption) ?_
    | refine keeps_fst (by assumption) ?_

theorem keeps_countLine {s : State} {off : ℕ} {bad : Bool} (h₀ : Keeps a₀ s) :
    Keeps a₀ (countLine s off bad) := by
  unfold countLine
  repeat' with_reducible first
    | assumption | (intro x; first | (refine (fun (hx : Keeps a₀ x) => ?_) ?_; clear_value x) | clear_value x)
    | lift_lets | subst x | apply keeps_rsat | apply keeps_countPoison | apply keeps_rset | apply keeps_modPlank
    | apply keeps_fileEvent | exact fun _ h => h | split | fail_if_no_progress apply keeps_free
    | refine keeps_snd (by assumption) ?_ | refine keeps_fst (by assumption) ?_

theorem keeps_putLine {s : State} {off : ℕ} {l : Line} (h₀ : Keeps a₀ s) :
    Keeps a₀ (putLine s off l) := by
  unfold putLine
  repeat' with_reducible first
    | assumption | (intro x; first | (refine (fun (hx : Keeps a₀ x) => ?_) ?_; clear_value x) | clear_value x)
    | lift_lets | subst x | apply keeps_store | apply keeps_addPoison | apply keeps_rset | apply keeps_modPlank
    | apply keeps_fileEvent | exact fun _ h => h | split | fail_if_no_progress apply keeps_free

theorem keeps_accumulate {s : State} {off : ℕ} {ty : ℕ} {bs : List Byte} {poison : List ℕ} (h₀ : Keeps a₀ s) :
    Keeps a₀ (accumulate s off ty bs poison) := by
  unfold accumulate
  repeat' with_reducible first
    | assumption | (intro x; first | (refine (fun (hx : Keeps a₀ x) => ?_) ?_; clear_value x) | clear_value x)
    | lift_lets | subst x | apply keeps_storeKeep | apply keeps_addPoison | refine keeps_foldl (fun _ _ _ => ?_) ?_
    | apply keeps_rset | apply keeps_modPlank | apply keeps_fileEvent | exact fun _ h => h | split
    | fail_if_no_progress apply keeps_free

theorem keeps_putRun {s : State} {o : ℕ × List Byte × List Bool} (h₀ : Keeps a₀ s) :
    Keeps a₀ (putRun s o) := by
  unfold putRun
  repeat' with_reducible first
    | assumption
    | (intro x; first | (refine (fun (hx : Keeps a₀ x) => ?_) ?_; clear_value x) | (refine (fun (hx : Keeps a₀ x.2) => ?_) ?_; clear_value x) | (refine (fun (hx : Keeps a₀ x.1) => ?_) ?_; clear_value x) | clear_value x)
    | lift_lets | subst x | apply keeps_store | apply keeps_addPoison | refine keeps_foldl (fun _ _ _ => ?_) ?_
    | refine keeps_foldl_fst (fun _ _ _ => ?_) ?_ | refine keeps_foldl_snd (fun _ _ _ => ?_) ?_ | apply keeps_rset
    | apply keeps_modPlank | apply keeps_fileEvent | exact fun _ h => h | split | fail_if_no_progress apply keeps_free

theorem keeps_modXfer {s : State} {num : ℕ} {f : Xfer → Xfer} (h₀ : Keeps a₀ s) :
    Keeps a₀ (modXfer s num f) := by
  unfold modXfer
  repeat' with_reducible first
    | assumption | (intro x; first | (refine (fun (hx : Keeps a₀ x) => ?_) ?_; clear_value x) | clear_value x)
    | lift_lets | subst x | apply keeps_rset | apply keeps_modPlank | apply keeps_fileEvent | exact fun _ h => h
    | split | fail_if_no_progress apply keeps_free

theorem keeps_xferRefuse {s : State} {p insn : Nat} {b : XferBad} (h : Keeps a₀ s) : Keeps a₀ (xferRefuse s p insn b) := by
  have h1 : ∀ t sub, Keeps a₀ t → Keeps a₀ (if coreActive (ownTrapFlag t p) p then coreTrap (ownTrapFlag t p) p 26 sub insn 0
      else ownTrapFlag t p) :=
    fun _ _ ht => keeps_ite (keeps_coreTrap (keeps_ownTrapFlag ht)) (keeps_ownTrapFlag ht)
  unfold xferRefuse
  cases b <;> exact h1 _ _ (keeps_violation h)

theorem keeps_xferPuts {s : State} {x : Xfer} {out : List (ℕ × List Byte × List Bool)} (h₀ : Keeps a₀ s) :
    Keeps a₀ (xferPuts s x out) := by
  unfold xferPuts
  repeat' with_reducible first
    | assumption
    | (intro x; first | (refine (fun (hx : Keeps a₀ x) => ?_) ?_; clear_value x) | (refine (fun (hx : Keeps a₀ x.2) => ?_) ?_; clear_value x) | (refine (fun (hx : Keeps a₀ x.1) => ?_) ?_; clear_value x) | clear_value x)
    | lift_lets | subst x | apply keeps_modXfer | apply keeps_accumulate | apply keeps_putRun | apply keeps_enqueue
    | refine keeps_foldl (fun _ _ _ => ?_) ?_ | refine keeps_foldl_fst (fun _ _ _ => ?_) ?_
    | refine keeps_foldl_snd (fun _ _ _ => ?_) ?_ | apply keeps_rset | apply keeps_modPlank | apply keeps_fileEvent
    | exact fun _ h => h | split | fail_if_no_progress apply keeps_free | refine keeps_snd (by assumption) ?_
    | refine keeps_fst (by assumption) ?_

theorem keeps_xferWrite {s : State} {x : Xfer} (h₀ : Keeps a₀ s) :
    Keeps a₀ (xferWrite s x) := by
  unfold xferWrite
  repeat' with_reducible first
    | assumption
    | (intro x; first | (refine (fun (hx : Keeps a₀ x) => ?_) ?_; clear_value x) | (refine (fun (hx : Keeps a₀ x.2) => ?_) ?_; clear_value x) | (refine (fun (hx : Keeps a₀ x.1) => ?_) ?_; clear_value x) | clear_value x)
    | lift_lets | subst x | apply keeps_modXfer | apply keeps_emit | apply keeps_xferRefuse | apply keeps_xferPuts
    | refine keeps_foldl (fun _ _ _ => ?_) ?_ | refine keeps_foldl_fst (fun _ _ _ => ?_) ?_
    | refine keeps_foldl_snd (fun _ _ _ => ?_) ?_ | apply keeps_rset | apply keeps_modPlank | apply keeps_fileEvent
    | exact fun _ h => h | split | fail_if_no_progress apply keeps_free | refine keeps_snd (by assumption) ?_
    | refine keeps_fst (by assumption) ?_

theorem keeps_xferRead {s : State} {x : Xfer} {bad : Option ℕ} (h₀ : Keeps a₀ s) :
    Keeps a₀ (xferRead s x bad) := by
  unfold xferRead
  repeat' with_reducible first
    | assumption
    | (intro x; first | (refine (fun (hx : Keeps a₀ x) => ?_) ?_; clear_value x) | (refine (fun (hx : Keeps a₀ x.2) => ?_) ?_; clear_value x) | (refine (fun (hx : Keeps a₀ x.1) => ?_) ?_; clear_value x) | clear_value x)
    | lift_lets | subst x | apply keeps_countLine | apply keeps_modXfer | apply keeps_enqueue | apply keeps_xferWrite
    | refine keeps_foldl (fun _ _ _ => ?_) ?_ | refine keeps_foldl_fst (fun _ _ _ => ?_) ?_
    | refine keeps_foldl_snd (fun _ _ _ => ?_) ?_ | apply keeps_rset | apply keeps_modPlank | apply keeps_fileEvent
    | exact fun _ h => h | split | fail_if_no_progress apply keeps_free

theorem keeps_xferLine {s : State} {num : ℕ} {place : ℕ} {l : Line} (h₀ : Keeps a₀ s) :
    Keeps a₀ (xferLine s num place l) := by
  unfold xferLine
  repeat' with_reducible first
    | assumption | (intro x; first | (refine (fun (hx : Keeps a₀ x) => ?_) ?_; clear_value x) | clear_value x)
    | lift_lets | subst x | apply keeps_modXfer | apply keeps_xferWrite | apply keeps_evlog | apply keeps_rset
    | apply keeps_modPlank | apply keeps_fileEvent | exact fun _ h => h | split | fail_if_no_progress apply keeps_free
    | refine keeps_snd (by assumption) ?_ | refine keeps_fst (by assumption) ?_

theorem keeps_xferDone {s : State} {num : ℕ} {n : ℕ} {status : ℕ} (h₀ : Keeps a₀ s) :
    Keeps a₀ (xferDone s num n status) := by
  unfold xferDone
  repeat' with_reducible first
    | assumption | (intro x; first | (refine (fun (hx : Keeps a₀ x) => ?_) ?_; clear_value x) | clear_value x)
    | lift_lets | subst x | apply keeps_modXfer | apply keeps_rset | apply keeps_modPlank | apply keeps_fileEvent
    | exact fun _ h => h | split | fail_if_no_progress apply keeps_free

theorem keeps_xferTakes {s : State} {p : ℕ} {insn : ℕ} {d : BitVec 512} {chans : List ℕ} {bad : Option ℕ} (h₀ : Keeps a₀ s) :
    Keeps a₀ (xferTakes s p insn d chans bad) := by
  unfold xferTakes
  repeat' with_reducible first
    | assumption | (intro x; first | (refine (fun (hx : Keeps a₀ x) => ?_) ?_; clear_value x) | clear_value x)
    | lift_lets | subst x | apply keeps_coreHold | apply keeps_coreNext | apply keeps_phaseBegun | apply keeps_xferRead
    | apply keeps_modXfer | apply keeps_emit | refine keeps_foldl (fun _ _ _ => ?_) ?_ | apply keeps_rset
    | apply keeps_modPlank | apply keeps_fileEvent | exact fun _ h => h | split | fail_if_no_progress apply keeps_free

theorem keeps_xferStart {s : State} {p : ℕ} {insn : ℕ} {d : BitVec 512} {ecc : CoreEcc} (h₀ : Keeps a₀ s) :
    Keeps a₀ (xferStart s p insn d ecc) := by
  unfold xferStart
  repeat' with_reducible first
    | assumption | (intro x; first | (refine (fun (hx : Keeps a₀ x) => ?_) ?_; clear_value x) | clear_value x)
    | lift_lets | subst x | apply keeps_coreTrap | apply keeps_xferRefuse | apply keeps_chanRefused
    | apply keeps_xferTakes | apply keeps_rset | apply keeps_modPlank | apply keeps_fileEvent | exact fun _ h => h
    | split | fail_if_no_progress apply keeps_free | refine keeps_snd (by assumption) ?_
    | refine keeps_fst (by assumption) ?_

theorem keeps_execXfer {s : State} {p : PlankId} {rs1 : XReg} {ecc : CoreEcc} (h₀ : Keeps a₀ s) {t₀ : State}
    (e : execXfer p rs1 ecc s = .next t₀) : Keeps a₀ t₀ := by
  unfold execXfer at e
  injection e with e
  subst e
  repeat' with_reducible first
    | assumption | (intro x; first | (refine (fun (hx : Keeps a₀ x) => ?_) ?_; clear_value x) | clear_value x)
    | lift_lets | subst x | apply keeps_coreTrap | apply keeps_bankRefused | apply keeps_eccCounts
    | apply keeps_xferStart | apply keeps_applyHandovers | apply keeps_rset | apply keeps_modPlank
    | apply keeps_fileEvent | exact fun _ h => h | split | fail_if_no_progress apply keeps_free
    | refine keeps_snd (by assumption) ?_ | refine keeps_fst (by assumption) ?_

theorem keeps_xferEnds {s : State} {t : Xfer} (h₀ : Keeps a₀ s) :
    Keeps a₀ (xferEnds s t) := by
  unfold xferEnds
  repeat' with_reducible first
    | assumption | (intro x; first | (refine (fun (hx : Keeps a₀ x) => ?_) ?_; clear_value x) | clear_value x)
    | lift_lets | subst x | apply keeps_signalChip | apply keeps_applyHandovers | apply keeps_coreTrap
    | apply keeps_rset | apply keeps_modPlank | apply keeps_fileEvent | exact fun _ h => h | split
    | fail_if_no_progress apply keeps_free | refine keeps_snd (by assumption) ?_ | refine keeps_fst (by assumption) ?_

theorem keeps_execXferComplete {s : State} {x : ℕ} (h₀ : Keeps a₀ s) {t₀ : State}
    (e : execXferComplete x s = .next t₀) : Keeps a₀ t₀ := by
  unfold execXferComplete at e
  injection e with e
  subst e
  repeat' with_reducible first
    | assumption | (intro x; first | (refine (fun (hx : Keeps a₀ x) => ?_) ?_; clear_value x) | clear_value x)
    | lift_lets | subst x | apply keeps_xferEnds | apply keeps_rset | apply keeps_modPlank | apply keeps_fileEvent
    | exact fun _ h => h | split | fail_if_no_progress apply keeps_free | refine keeps_snd (by assumption) ?_
    | refine keeps_fst (by assumption) ?_

/-! ## Vector -/

theorem keeps_setVreg {s : State} {p : ℕ} {w : Word64} {outs : List F32} (h₀ : Keeps a₀ s) :
    Keeps a₀ (setVreg s p w outs) := by
  unfold setVreg
  repeat' with_reducible first
    | assumption
    | (intro x; first | (refine (fun (hx : Keeps a₀ x) => ?_) ?_; clear_value x) | (refine (fun (hx : Keeps a₀ x.2) => ?_) ?_; clear_value x) | (refine (fun (hx : Keeps a₀ x.1) => ?_) ?_; clear_value x) | clear_value x)
    | lift_lets | subst x | apply keeps_modPlank | apply keeps_rset | apply keeps_fileEvent | exact fun _ h => h
    | exact fun _ h => ⟨h.1, h.2.1, kwf_kputs h.2.2.1 _ _, h.2.2.2⟩ | split | fail_if_no_progress apply keeps_free

theorem keeps_mixVreg {s : State} {p : ℕ} {w : Word64} (h₀ : Keeps a₀ s) :
    Keeps a₀ (mixVreg s p w) := by
  unfold mixVreg
  repeat' with_reducible first
    | assumption | (intro x; first | (refine (fun (hx : Keeps a₀ x) => ?_) ?_; clear_value x) | clear_value x)
    | lift_lets | subst x | apply keeps_drew | apply keeps_setVreg | apply keeps_rset | apply keeps_modPlank
    | apply keeps_fileEvent | exact fun _ h => h | split | fail_if_no_progress apply keeps_free

theorem keeps_mixMask {s : State} {p : ℕ} (h₀ : Keeps a₀ s) :
    Keeps a₀ (mixMask s p) := by
  unfold mixMask
  repeat' with_reducible first
    | assumption | (intro x; first | (refine (fun (hx : Keeps a₀ x) => ?_) ?_; clear_value x) | clear_value x)
    | lift_lets | subst x | apply keeps_drew | apply keeps_modPlank | apply keeps_rset | apply keeps_fileEvent
    | exact fun _ h => h | split | fail_if_no_progress apply keeps_free

theorem keeps_mixStore {s : State} {p : ℕ} {codes : List ℕ} {r : ℕ × ℕ} (h₀ : Keeps a₀ s) :
    Keeps a₀ (mixStore s p codes r) := by
  unfold mixStore
  repeat' with_reducible first
    | assumption
    | (intro x; first | (refine (fun (hx : Keeps a₀ x) => ?_) ?_; clear_value x) | (refine (fun (hx : Keeps a₀ x.2) => ?_) ?_; clear_value x) | (refine (fun (hx : Keeps a₀ x.1) => ?_) ?_; clear_value x) | clear_value x)
    | lift_lets | subst x | apply keeps_drew | apply keeps_store | refine keeps_foldl (fun _ _ _ => ?_) ?_
    | refine keeps_foldl_fst (fun _ _ _ => ?_) ?_ | refine keeps_foldl_snd (fun _ _ _ => ?_) ?_ | apply keeps_rset
    | apply keeps_modPlank | apply keeps_fileEvent | exact fun _ h => h | split | fail_if_no_progress apply keeps_free

theorem keeps_vecTrap {s : State} {p : ℕ} {w : Word64} {cause : ℕ} {sub : ℕ} (h₀ : Keeps a₀ s) :
    Keeps a₀ (vecTrap s p w cause sub) := by
  unfold vecTrap
  repeat' with_reducible first
    | assumption | (intro x; first | (refine (fun (hx : Keeps a₀ x) => ?_) ?_; clear_value x) | clear_value x)
    | lift_lets | subst x | apply keeps_coreTrap | apply keeps_rset | apply keeps_modPlank | apply keeps_fileEvent
    | exact fun _ h => h | split | fail_if_no_progress apply keeps_free

theorem keeps_mixDest {s : State} {p : ℕ} {w : Word64} (h₀ : Keeps a₀ s) :
    Keeps a₀ (mixDest s p w) := by
  unfold mixDest
  repeat' with_reducible first
    | assumption | (intro x; first | (refine (fun (hx : Keeps a₀ x) => ?_) ?_; clear_value x) | clear_value x)
    | lift_lets | subst x | apply keeps_mixMask | apply keeps_mixStore | apply keeps_mixVreg | apply keeps_rset
    | apply keeps_modPlank | apply keeps_fileEvent | exact fun _ h => h | split | fail_if_no_progress apply keeps_free

theorem keeps_onPort2 {s : State} {p : ℕ} {ops : List ℕ} {ecc : CoreEcc} {act : State → VecSlot → State} (hact : ∀ s x1, Keeps a₀ s → Keeps a₀ (act s x1)) (h₀ : Keeps a₀ s) :
    Keeps a₀ (onPort2 s p ops ecc act) := by
  unfold onPort2
  repeat' with_reducible first
    | assumption | (intro x; first | (refine (fun (hx : Keeps a₀ x) => ?_) ?_; clear_value x) | clear_value x)
    | lift_lets | subst x | apply keeps_vecTrap | apply keeps_mixDest | apply keeps_modPlank | apply hact
    | apply keeps_rset | apply keeps_fileEvent | exact fun _ h => h | split | fail_if_no_progress apply keeps_free
    | refine keeps_snd (by assumption) ?_ | refine keeps_fst (by assumption) ?_

theorem keeps_onPort3 {s : State} {p : ℕ} {ops : List ℕ} {act : State → Word64 → State} (hact : ∀ s x1, Keeps a₀ s → Keeps a₀ (act s x1)) (h₀ : Keeps a₀ s) :
    Keeps a₀ (onPort3 s p ops act) := by
  unfold onPort3
  repeat' with_reducible first
    | assumption | (intro x; first | (refine (fun (hx : Keeps a₀ x) => ?_) ?_; clear_value x) | clear_value x)
    | lift_lets | subst x | apply keeps_modPlank | apply hact | apply keeps_rset | apply keeps_fileEvent
    | exact fun _ h => h | split | fail_if_no_progress apply keeps_free | refine keeps_snd (by assumption) ?_
    | refine keeps_fst (by assumption) ?_

theorem keeps_vecEnqueue {s : State} {p : ℕ} {w : Word64} (h₀ : Keeps a₀ s) :
    Keeps a₀ (vecEnqueue s p w) := by
  unfold vecEnqueue
  repeat' with_reducible first
    | assumption | (intro x; first | (refine (fun (hx : Keeps a₀ x) => ?_) ?_; clear_value x) | clear_value x)
    | lift_lets | subst x | apply keeps_modPlank | apply keeps_rset | apply keeps_fileEvent | exact fun _ h => h
    | (refine fun k h => ?_; dsimp only; split <;> exact h) | split | fail_if_no_progress apply keeps_free

theorem keeps_updateLost {s : State} {p : ℕ} (h₀ : Keeps a₀ s) :
    Keeps a₀ (updateLost s p) := by
  unfold updateLost
  repeat' with_reducible first
    | assumption | (intro x; first | (refine (fun (hx : Keeps a₀ x) => ?_) ?_; clear_value x) | clear_value x)
    | lift_lets | subst x | apply keeps_failStream | apply keeps_rset | apply keeps_modPlank | apply keeps_fileEvent
    | exact fun _ h => h | split | fail_if_no_progress apply keeps_free | refine keeps_snd (by assumption) ?_
    | refine keeps_fst (by assumption) ?_

theorem keeps_streamGuard {s : State} {p : ℕ} {w : Word64} {ecc : CoreEcc} {reads : List (ℕ × ℕ)} {writes : List (ℕ × ℕ)} {act : State → State} (hact : ∀ s, Keeps a₀ s → Keeps a₀ (act s)) (h₀ : Keeps a₀ s) :
    Keeps a₀ (streamGuard s p w ecc reads writes act) := by
  unfold streamGuard
  repeat' with_reducible first
    | assumption | (intro x; first | (refine (fun (hx : Keeps a₀ x) => ?_) ?_; clear_value x) | subst x) | lift_lets
    | subst x | fail_if_no_progress beta_reduce | apply keeps_mixStore | apply keeps_vecTrap | apply keeps_bankRefused
    | apply keeps_eccCounts | apply keeps_updateLost | apply hact | refine keeps_foldl (fun _ _ _ => ?_) ?_
    | apply keeps_rset | apply keeps_modPlank | apply keeps_fileEvent | exact fun _ h => h | split
    | fail_if_no_progress apply keeps_free | refine keeps_snd (by assumption) ?_ | refine keeps_fst (by assumption) ?_

theorem keeps_putChannel {s : State} {f : Fmt} {words : ℕ} {ch : ℕ} {len : ℕ} {mode : ℕ} {named : Bool} {codes : ℕ} {shifts : ℕ} {scales : ℕ} {j : ℕ} {r : ChanOut} (h₀ : Keeps a₀ s) :
    Keeps a₀ (putChannel s f words ch len mode named codes shifts scales j r) := by
  unfold putChannel
  repeat' with_reducible first
    | assumption | (intro x; first | (refine (fun (hx : Keeps a₀ x) => ?_) ?_; clear_value x) | clear_value x)
    | lift_lets | subst x | apply keeps_hbmStore | refine keeps_foldl (fun _ _ _ => ?_) ?_ | apply keeps_rset
    | apply keeps_modPlank | apply keeps_fileEvent | exact fun _ h => h | split | fail_if_no_progress apply keeps_free

theorem keeps_writeChannel {s : State} {p : ℕ} {o : StreamOp} {outl : Bool} {j : ℕ} {r : ChanOut} (h₀ : Keeps a₀ s) :
    Keeps a₀ (writeChannel s p o outl j r) := by
  unfold writeChannel
  repeat' with_reducible first
    | assumption | (intro x; first | (refine (fun (hx : Keeps a₀ x) => ?_) ?_; clear_value x) | clear_value x)
    | lift_lets | subst x | apply keeps_putChannel | apply keeps_store | apply keeps_rset | apply keeps_modPlank
    | apply keeps_fileEvent | exact fun _ h => h | split | fail_if_no_progress apply keeps_free

theorem keeps_streamConvert {s : State} {p : ℕ} {o : StreamOp} {outl : Bool} {src : ℕ → List Val} (h₀ : Keeps a₀ s) :
    Keeps a₀ (streamConvert s p o outl src) := by
  unfold streamConvert
  repeat' with_reducible first
    | assumption
    | (intro x; first | (refine (fun (hx : Keeps a₀ x) => ?_) ?_; clear_value x) | (refine (fun (hx : Keeps a₀ x.2) => ?_) ?_; clear_value x) | (refine (fun (hx : Keeps a₀ x.1) => ?_) ?_; clear_value x) | clear_value x)
    | lift_lets | subst x | apply keeps_writeChannel | apply keeps_addStats | refine keeps_foldl (fun _ _ _ => ?_) ?_
    | refine keeps_foldl_fst (fun _ _ _ => ?_) ?_ | refine keeps_foldl_snd (fun _ _ _ => ?_) ?_ | apply keeps_rset
    | apply keeps_modPlank | apply keeps_fileEvent | exact fun _ h => h | split | fail_if_no_progress apply keeps_free

end Sys2Proof.Machine
end

