-- ==== Sys2Proof/Laws/KeepsPower.lean ====
section
/-! SUPPORT. One lemma per operation and per meaning: it keeps the tables canonical and the queue as it is; here memory, links, power and images. -/
namespace Sys2Proof.Machine

set_option linter.all false

variable {a₀ : State}

/-! ## Memory -/

theorem keeps_eccFixed {s : State} {m : ℕ} {c : ℕ} {off : ℕ} (h₀ : Keeps a₀ s) :
    Keeps a₀ (eccFixed s m c off) := by
  unfold eccFixed
  repeat' with_reducible first
    | assumption | (intro x; first | (refine (fun (hx : Keeps a₀ x) => ?_) ?_; clear_value x) | clear_value x)
    | lift_lets | subst x | apply keeps_radd | apply keeps_setPcState | apply keeps_rset | apply keeps_modPlank
    | apply keeps_fileEvent | exact fun _ h => h | split | fail_if_no_progress apply keeps_free

theorem keeps_readSector {s : State} {m : ℕ} {c : ℕ} {off : ℕ} {e : Ecc} (h₀ : Keeps a₀ s) :
    Keeps a₀ (readSector s m c off e).2 := by
  unfold readSector
  repeat' with_reducible first
    | assumption | (intro x; first | (refine (fun (hx : Keeps a₀ x) => ?_) ?_; clear_value x) | clear_value x)
    | lift_lets | subst x | apply keeps_eccBad | apply keeps_eccFixed | apply keeps_rset | apply keeps_modPlank
    | apply keeps_fileEvent | exact fun _ h => h | split | fail_if_no_progress apply keeps_free

theorem keeps_sendReadData {s : State} {die : ℕ} {pkt : Packet} {status : ℕ} {data : List Byte} (h₀ : Keeps a₀ s) :
    Keeps a₀ (sendReadData s die pkt status data) := by
  unfold sendReadData
  repeat' with_reducible first
    | assumption | (intro x; first | (refine (fun (hx : Keeps a₀ x) => ?_) ?_; clear_value x) | clear_value x)
    | lift_lets | subst x | apply keeps_emit | apply keeps_rset | apply keeps_modPlank | apply keeps_fileEvent
    | exact fun _ h => h | split | fail_if_no_progress apply keeps_free

theorem keeps_sendDone {s : State} {r : DoneRec} (h₀ : Keeps a₀ s) :
    Keeps a₀ (sendDone s r) := by
  unfold sendDone
  repeat' with_reducible first
    | assumption | (intro x; first | (refine (fun (hx : Keeps a₀ x) => ?_) ?_; clear_value x) | clear_value x)
    | lift_lets | subst x | apply keeps_emit | apply keeps_rset | apply keeps_modPlank | apply keeps_fileEvent
    | exact fun _ h => h | split | fail_if_no_progress apply keeps_free

theorem keeps_setDones {s : State} {ds : List DoneRec} (h₀ : Keeps a₀ s) :
    Keeps a₀ (setDones s ds) := by
  unfold setDones
  repeat' with_reducible first
    | assumption | (intro x; first | (refine (fun (hx : Keeps a₀ x) => ?_) ?_; clear_value x) | clear_value x)
    | lift_lets | subst x | apply keeps_rset | apply keeps_modPlank | apply keeps_fileEvent | exact fun _ h => h
    | split | fail_if_no_progress apply keeps_free

theorem keeps_countDone {s : State} {die : ℕ} {pkt : Packet} {status : ℕ} (h₀ : Keeps a₀ s) :
    Keeps a₀ (countDone s die pkt status) := by
  unfold countDone
  repeat' with_reducible first
    | assumption | (intro x; first | (refine (fun (hx : Keeps a₀ x) => ?_) ?_; clear_value x) | clear_value x)
    | lift_lets | subst x | apply keeps_sendDone | apply keeps_setDones | apply keeps_rset | apply keeps_modPlank
    | apply keeps_fileEvent | exact fun _ h => h | split | fail_if_no_progress apply keeps_free
    | refine keeps_snd (by assumption) ?_ | refine keeps_fst (by assumption) ?_

theorem keeps_modServe {s : State} {num : ℕ} {f : Serve → Serve} (h₀ : Keeps a₀ s) :
    Keeps a₀ (modServe s num f) := by
  unfold modServe
  repeat' with_reducible first
    | assumption | (intro x; first | (refine (fun (hx : Keeps a₀ x) => ?_) ?_; clear_value x) | clear_value x)
    | lift_lets | subst x | apply keeps_rset | apply keeps_modPlank | apply keeps_fileEvent | exact fun _ h => h
    | split | fail_if_no_progress apply keeps_free

theorem keeps_servePart {s : State} {num place : Nat} {l : Option Line} (h : Keeps a₀ s) :
    Keeps a₀ (servePart s num place l) := by
  unfold servePart
  split
  · exact h
  · dsimp only
    split
    · exact keeps_modServe h
    · split
      · exact keeps_sendReadData (keeps_free h ..)
      · exact keeps_countDone (keeps_free h ..)

theorem keeps_execBankRefresh {s : State} {m : StackId} {c : PcId} {bank : Fin 64} {slots : ℕ} (h₀ : Keeps a₀ s) {t₀ : State}
    (e : execBankRefresh m c bank slots s = .next t₀) : Keeps a₀ t₀ := by
  unfold execBankRefresh at e
  injection e with e
  subst e
  repeat' with_reducible first
    | assumption
    | (intro x; first | (refine (fun (hx : Keeps a₀ x) => ?_) ?_; clear_value x) | (refine (fun (hx : Keeps a₀ x.2) => ?_) ?_; clear_value x) | (refine (fun (hx : Keeps a₀ x.1) => ?_) ?_; clear_value x) | clear_value x)
    | lift_lets | subst x | apply keeps_setPcState | apply keeps_rset | apply keeps_modPlank | apply keeps_fileEvent
    | exact fun _ h => h | split | fail_if_no_progress apply keeps_free

theorem keeps_startRetrain {s : State} {m : ℕ} {c : ℕ} (h₀ : Keeps a₀ s) :
    Keeps a₀ (startRetrain s m c) := by
  unfold startRetrain
  repeat' with_reducible first
    | assumption | (intro x; first | (refine (fun (hx : Keeps a₀ x) => ?_) ?_; clear_value x) | clear_value x)
    | lift_lets | subst x | apply keeps_rset | apply keeps_setPcState | apply keeps_modPlank | apply keeps_fileEvent
    | exact fun _ h => h | split | fail_if_no_progress apply keeps_free

theorem keeps_retrainAll {s : State} {m : ℕ} (h₀ : Keeps a₀ s) :
    Keeps a₀ (retrainAll s m) := by
  unfold retrainAll
  repeat' with_reducible first
    | assumption | (intro x; first | (refine (fun (hx : Keeps a₀ x) => ?_) ?_; clear_value x) | clear_value x)
    | lift_lets | subst x | apply keeps_startRetrain | refine keeps_foldl (fun _ _ _ => ?_) ?_ | apply keeps_rset
    | apply keeps_modPlank | apply keeps_fileEvent | exact fun _ h => h | split | fail_if_no_progress apply keeps_free

theorem keeps_scrub {s : State} {m : ℕ} {c : ℕ} {es : List Ecc} (h₀ : Keeps a₀ s) :
    Keeps a₀ (scrub s m c es) := by
  unfold scrub
  repeat' with_reducible first
    | assumption
    | (intro x; first | (refine (fun (hx : Keeps a₀ x) => ?_) ?_; clear_value x) | (refine (fun (hx : Keeps a₀ x.2) => ?_) ?_; clear_value x) | (refine (fun (hx : Keeps a₀ x.1) => ?_) ?_; clear_value x) | clear_value x)
    | lift_lets | subst x | apply keeps_readSector | apply keeps_addPoison | apply keeps_setPcState
    | refine keeps_foldl (fun _ _ _ => ?_) ?_ | refine keeps_foldl_fst (fun _ _ _ => ?_) ?_
    | refine keeps_foldl_snd (fun _ _ _ => ?_) ?_ | apply keeps_rset | apply keeps_modPlank | apply keeps_fileEvent
    | exact fun _ h => h | split | fail_if_no_progress apply keeps_free

theorem keeps_marginAnswer {s : State} (h₀ : Keeps a₀ s) :
    Keeps a₀ (marginAnswer s) := by
  unfold marginAnswer
  repeat' with_reducible first
    | assumption | (intro x; first | (refine (fun (hx : Keeps a₀ x) => ?_) ?_; clear_value x) | clear_value x)
    | lift_lets | subst x | apply keeps_respond | apply keeps_setPcState | refine keeps_foldl (fun _ _ _ => ?_) ?_
    | apply keeps_rset | apply keeps_modPlank | apply keeps_fileEvent | exact fun _ h => h | split
    | fail_if_no_progress apply keeps_free | refine keeps_snd (by assumption) ?_ | refine keeps_fst (by assumption) ?_

theorem keeps_marginEnd {s : State} {m : ℕ} {c : ℕ} (h₀ : Keeps a₀ s) :
    Keeps a₀ (marginEnd s m c) := by
  unfold marginEnd
  repeat' with_reducible first
    | assumption | (intro x; first | (refine (fun (hx : Keeps a₀ x) => ?_) ?_; clear_value x) | clear_value x)
    | lift_lets | subst x | apply keeps_rset | apply keeps_marginAnswer | apply keeps_modPlank | apply keeps_fileEvent
    | exact fun _ h => h | split | fail_if_no_progress apply keeps_free

theorem keeps_calSlice {s : State} {m c : Nat} {ecc : List Ecc} {laneBits : BitVec 32} (h : Keeps a₀ s) :
    Keeps a₀ (calSlice s m c ecc laneBits) := by
  unfold calSlice
  dsimp only
  have h1 : ∀ x, Keeps a₀ (setPcState s m c x) := fun _ => keeps_setPcState h
  split
  · exact h1 _
  · split
    · exact keeps_marginEnd (h1 _)
    · split
      · exact keeps_scrub (h1 _)
      · exact h1 _

theorem keeps_execCalibrationSlice {s : State} {m : StackId} {c : PcId} {ecc : List Ecc} {laneBits : BitVec 32} (h : Keeps a₀ s)
    {t₀ : State} (e : execCalibrationSlice m c ecc laneBits s = .next t₀) : Keeps a₀ t₀ := by
  unfold execCalibrationSlice at e
  injection e with e
  subst e
  dsimp only
  split
  · split
    · exact h
    · exact keeps_marginEnd (keeps_setPcState h)
  · split
    · exact h
    · exact keeps_calSlice h

theorem keeps_execCalPeriodExpiry {s : State} {m : StackId} (h₀ : Keeps a₀ s) {t₀ : State}
    (e : execCalPeriodExpiry m s = .next t₀) : Keeps a₀ t₀ := by
  unfold execCalPeriodExpiry at e
  injection e with e
  subst e
  repeat' with_reducible first
    | assumption | (intro x; first | (refine (fun (hx : Keeps a₀ x) => ?_) ?_; clear_value x) | clear_value x)
    | lift_lets | subst x | apply keeps_retrainAll | apply keeps_rset | apply keeps_modPlank | apply keeps_fileEvent
    | exact fun _ h => h | split | fail_if_no_progress apply keeps_free

theorem keeps_execCalRetrain {s : State} {m : StackId} {w : Writer} (h₀ : Keeps a₀ s) {t₀ : State}
    (e : execCalRetrain m w s = .next t₀) : Keeps a₀ t₀ := by
  unfold execCalRetrain at e
  injection e with e
  subst e
  repeat' with_reducible first
    | assumption | (intro x; first | (refine (fun (hx : Keeps a₀ x) => ?_) ?_; clear_value x) | clear_value x)
    | lift_lets | subst x | refine keeps_regCommand (fun _ _ => ?_) ?_ | apply keeps_retrainAll | apply keeps_rset
    | apply keeps_modPlank | apply keeps_fileEvent | exact fun _ h => h | split | fail_if_no_progress apply keeps_free

theorem keeps_eyeMeasured {s : State} {m : ℕ} {c : ℕ} {dqLo : BitVec 7} {dqHi : BitVec 7} {vrefLo : BitVec 7} {vrefHi : BitVec 7} {dq : BitVec 7} {vref : BitVec 7} (h₀ : Keeps a₀ s) :
    Keeps a₀ (eyeMeasured s m c dqLo dqHi vrefLo vrefHi dq vref) := by
  unfold eyeMeasured
  repeat' with_reducible first
    | assumption | (intro x; first | (refine (fun (hx : Keeps a₀ x) => ?_) ?_; clear_value x) | clear_value x)
    | lift_lets | subst x | apply keeps_rset | apply keeps_fileEvent | apply keeps_modPlank | exact fun _ h => h
    | split | fail_if_no_progress apply keeps_free

theorem keeps_retrainDone {s : State} {m : ℕ} {c : ℕ} {dqLo : BitVec 7} {dqHi : BitVec 7} {vrefLo : BitVec 7} {vrefHi : BitVec 7} {dq : BitVec 7} {vref : BitVec 7} (h₀ : Keeps a₀ s) :
    Keeps a₀ (retrainDone s m c dqLo dqHi vrefLo vrefHi dq vref) := by
  unfold retrainDone
  repeat' with_reducible first
    | assumption | (intro x; first | (refine (fun (hx : Keeps a₀ x) => ?_) ?_; clear_value x) | clear_value x)
    | lift_lets | subst x | apply keeps_rset | apply keeps_eyeMeasured | apply keeps_setPcState | apply keeps_modPlank
    | apply keeps_fileEvent | exact fun _ h => h | split | fail_if_no_progress apply keeps_free

theorem keeps_execRetrainComplete {s : State} {m : StackId} {c : PcId} {dqLo : BitVec 7} {dqHi : BitVec 7} {vrefLo : BitVec 7} {vrefHi : BitVec 7} {dq : BitVec 7} {vref : BitVec 7} (h₀ : Keeps a₀ s) {t₀ : State}
    (e : execRetrainComplete m c dqLo dqHi vrefLo vrefHi dq vref s = .next t₀) : Keeps a₀ t₀ := by
  unfold execRetrainComplete at e
  injection e with e
  subst e
  repeat' with_reducible first
    | assumption | (intro x; first | (refine (fun (hx : Keeps a₀ x) => ?_) ?_; clear_value x) | clear_value x)
    | lift_lets | subst x | apply keeps_retrainDone | apply keeps_rset | apply keeps_modPlank | apply keeps_fileEvent
    | exact fun _ h => h | split | fail_if_no_progress apply keeps_free

theorem keeps_heatMark {s : State} {m : ℕ} (h₀ : Keeps a₀ s) :
    Keeps a₀ (heatMark s m) := by
  unfold heatMark
  repeat' with_reducible first
    | assumption | (intro x; first | (refine (fun (hx : Keeps a₀ x) => ?_) ?_; clear_value x) | clear_value x)
    | lift_lets | subst x | apply keeps_suspendStreamOp | refine keeps_foldl (fun _ _ _ => ?_) ?_ | apply keeps_rset
    | apply keeps_modPlank | apply keeps_fileEvent | exact fun _ h => h | split | fail_if_no_progress apply keeps_free

theorem keeps_heatRelease {s : State} {m : ℕ} (h₀ : Keeps a₀ s) :
    Keeps a₀ (heatRelease s m) := by
  unfold heatRelease
  repeat' with_reducible first
    | assumption
    | (intro x; first | (refine (fun (hx : Keeps a₀ x) => ?_) ?_; clear_value x) | (refine (fun (hx : Keeps a₀ x.2) => ?_) ?_; clear_value x) | (refine (fun (hx : Keeps a₀ x.1) => ?_) ?_; clear_value x) | clear_value x)
    | lift_lets | subst x | apply keeps_resumeStreamOp | refine keeps_foldl (fun _ _ _ => ?_) ?_
    | refine keeps_foldl_fst (fun _ _ _ => ?_) ?_ | refine keeps_foldl_snd (fun _ _ _ => ?_) ?_ | apply keeps_rset
    | apply keeps_modPlank | apply keeps_fileEvent | exact fun _ h => h | split | fail_if_no_progress apply keeps_free

theorem keeps_stackTempOp {s : State} {m : ℕ} {temp : BitVec 16} (h₀ : Keeps a₀ s) :
    Keeps a₀ (stackTempOp s m temp) := by
  unfold stackTempOp
  repeat' with_reducible first
    | assumption | (intro x; first | (refine (fun (hx : Keeps a₀ x) => ?_) ?_; clear_value x) | clear_value x)
    | lift_lets | subst x | apply keeps_rset | apply keeps_rsat | apply keeps_heatMark | apply keeps_heatRelease
    | apply keeps_startRetrain | refine keeps_foldl (fun _ _ _ => ?_) ?_ | apply keeps_modPlank | apply keeps_fileEvent
    | exact fun _ h => h | split | fail_if_no_progress apply keeps_free

theorem keeps_execStackTempRead {s : State} {m : StackId} {temp : BitVec 16} (h₀ : Keeps a₀ s) {t₀ : State}
    (e : execStackTempRead m temp s = .next t₀) : Keeps a₀ t₀ := by
  unfold execStackTempRead at e
  injection e with e
  subst e
  repeat' with_reducible first
    | assumption | (intro x; first | (refine (fun (hx : Keeps a₀ x) => ?_) ?_; clear_value x) | clear_value x)
    | lift_lets | subst x | apply keeps_stackTempOp | apply keeps_rset | apply keeps_modPlank | apply keeps_fileEvent
    | exact fun _ h => h | split | fail_if_no_progress apply keeps_free

theorem keeps_execPcSwitchArm_pcSwitchWrite {s : State} {m : ℕ} {c : ℕ} {v : Word64} {w : Writer} (h₀ : Keeps a₀ s) :
    Keeps a₀ (execPcSwitchArm.pcSwitchWrite m c v w s) := by
  unfold execPcSwitchArm.pcSwitchWrite
  repeat' with_reducible first
    | assumption
    | (intro x; first | (refine (fun (hx : Keeps a₀ x) => ?_) ?_; clear_value x) | (refine (fun (hx : Keeps a₀ x.2) => ?_) ?_; clear_value x) | (refine (fun (hx : Keeps a₀ x.1) => ?_) ?_; clear_value x) | clear_value x)
    | lift_lets | subst x | refine keeps_guardedCommand (fun _ _ => ?_) ?_ | apply keeps_rset | apply keeps_modPlank
    | apply keeps_fileEvent | exact fun _ h => h | split | fail_if_no_progress apply keeps_free
    | refine keeps_snd (by assumption) ?_ | refine keeps_fst (by assumption) ?_

theorem keeps_execPcSwitchArm {s : State} {m : StackId} {c : PcId} {w : Writer} {v : Word64} (h₀ : Keeps a₀ s) {t₀ : State}
    (e : execPcSwitchArm m c w v s = .next t₀) : Keeps a₀ t₀ := by
  unfold execPcSwitchArm at e
  injection e with e
  subst e
  repeat' with_reducible first
    | assumption | (intro x; first | (refine (fun (hx : Keeps a₀ x) => ?_) ?_; clear_value x) | clear_value x)
    | lift_lets | subst x | apply keeps_execPcSwitchArm_pcSwitchWrite | apply keeps_rset | apply keeps_modPlank
    | apply keeps_fileEvent | exact fun _ h => h | split | fail_if_no_progress apply keeps_free

theorem keeps_execShareSwitchApply {s : State} {m : StackId} {c : PcId} (h₀ : Keeps a₀ s) {t₀ : State}
    (e : execShareSwitchApply m c s = .next t₀) : Keeps a₀ t₀ := by
  unfold execShareSwitchApply at e
  injection e with e
  subst e
  repeat' with_reducible first
    | assumption | (intro x; first | (refine (fun (hx : Keeps a₀ x) => ?_) ?_; clear_value x) | clear_value x)
    | lift_lets | subst x | apply keeps_rset | apply keeps_modPlank | apply keeps_fileEvent | exact fun _ h => h
    | split | fail_if_no_progress apply keeps_free

theorem keeps_execBankSwitchArm_bankSwitchWrite {s : State} {p : ℕ} {v : Word64} {w : Writer} (h₀ : Keeps a₀ s) :
    Keeps a₀ (execBankSwitchArm.bankSwitchWrite p v w s) := by
  unfold execBankSwitchArm.bankSwitchWrite
  repeat' with_reducible first
    | assumption
    | (intro x; first | (refine (fun (hx : Keeps a₀ x) => ?_) ?_; clear_value x) | (refine (fun (hx : Keeps a₀ x.2) => ?_) ?_; clear_value x) | (refine (fun (hx : Keeps a₀ x.1) => ?_) ?_; clear_value x) | clear_value x)
    | lift_lets | subst x | refine keeps_guardedCommand (fun _ _ => ?_) ?_ | apply keeps_rset | apply keeps_modPlank
    | apply keeps_fileEvent | exact fun _ h => h | split | fail_if_no_progress apply keeps_free
    | refine keeps_snd (by assumption) ?_ | refine keeps_fst (by assumption) ?_

theorem keeps_execBankSwitchArm {s : State} {p : PlankId} {w : Writer} {v : Word64} (h₀ : Keeps a₀ s) {t₀ : State}
    (e : execBankSwitchArm p w v s = .next t₀) : Keeps a₀ t₀ := by
  unfold execBankSwitchArm at e
  injection e with e
  subst e
  repeat' with_reducible first
    | assumption | (intro x; first | (refine (fun (hx : Keeps a₀ x) => ?_) ?_; clear_value x) | clear_value x)
    | lift_lets | subst x | apply keeps_execBankSwitchArm_bankSwitchWrite | apply keeps_rset | apply keeps_modPlank
    | apply keeps_fileEvent | exact fun _ h => h | split | fail_if_no_progress apply keeps_free

theorem keeps_bankSwitch {s : State} {p : ℕ} (h₀ : Keeps a₀ s) :
    Keeps a₀ (bankSwitch s p) := by
  unfold bankSwitch
  repeat' with_reducible first
    | assumption | (intro x; first | (refine (fun (hx : Keeps a₀ x) => ?_) ?_; clear_value x) | clear_value x)
    | lift_lets | subst x | apply keeps_rset | refine keeps_foldl (fun _ _ _ => ?_) ?_ | apply keeps_modPlank
    | apply keeps_fileEvent | exact fun _ h => h | split | fail_if_no_progress apply keeps_free

theorem keeps_execBankSwitchApply {s : State} {p : PlankId} (h₀ : Keeps a₀ s) {t₀ : State}
    (e : execBankSwitchApply p s = .next t₀) : Keeps a₀ t₀ := by
  unfold execBankSwitchApply at e
  injection e with e
  subst e
  repeat' with_reducible first
    | assumption | (intro x; first | (refine (fun (hx : Keeps a₀ x) => ?_) ?_; clear_value x) | clear_value x)
    | lift_lets | subst x | apply keeps_bankSwitch | apply keeps_rset | apply keeps_modPlank | apply keeps_fileEvent
    | exact fun _ h => h | split | fail_if_no_progress apply keeps_free

theorem kwf_remapped {α : Type} [DecidableEq α] {d : Nat → α} {old new : State} {p : Nat} {m : List (Nat × α)}
    (h : kwf d m = true) : kwf d (remapped d old new p m) = true :=
  kwf_foldl _ _ (kwf_filter h _) (fun _ _ hm => kwf_kput hm _ _)

theorem keeps_setSpans {s : State} {p map : Nat} (h : Keeps a₀ s) : Keeps a₀ (setSpans s p map) := by
  unfold setSpans
  split
  · exact h
  · exact ⟨fun w => let w := h.wf w; ⟨kwf_kput w.win _ _, kwf_remapped w.mem, kwf_remapped w.poison, w.planks, w.objs, w.latch,
      w.streams, w.evlog, w.peat, w.pcs, w.cores⟩, h.queue⟩

theorem keeps_psMapWrite {s : State} {p : ℕ} {v : Word64} {insn : ℕ} {src : ℕ} (h₀ : Keeps a₀ s) :
    Keeps a₀ (psMapWrite s p v insn src).1 := by
  unfold psMapWrite
  repeat' with_reducible first
    | assumption | (intro x; first | (refine (fun (hx : Keeps a₀ x) => ?_) ?_; clear_value x) | clear_value x)
    | lift_lets | subst x | apply keeps_setSpans | apply keeps_winErr | apply keeps_coreTrap
    | refine keeps_foldl (fun _ _ _ => ?_) ?_ | apply keeps_rset | apply keeps_modPlank | apply keeps_fileEvent
    | exact fun _ h => h | split | fail_if_no_progress apply keeps_free

theorem keeps_execPsMapWrite {s : State} {p : PlankId} {w : Writer} {v : Word64} (h₀ : Keeps a₀ s) {t₀ : State}
    (e : execPsMapWrite p w v s = .next t₀) : Keeps a₀ t₀ := by
  unfold execPsMapWrite at e
  injection e with e
  subst e
  repeat' with_reducible first
    | assumption
    | (intro x; first | (refine (fun (hx : Keeps a₀ x) => ?_) ?_; clear_value x) | (refine (fun (hx : Keeps a₀ x.2) => ?_) ?_; clear_value x) | (refine (fun (hx : Keeps a₀ x.1) => ?_) ?_; clear_value x) | clear_value x)
    | lift_lets | subst x | refine keeps_regCommand (fun _ _ => ?_) ?_ | apply keeps_psMapWrite | apply keeps_drew
    | apply keeps_rset | apply keeps_modPlank | apply keeps_fileEvent | exact fun _ h => h | split
    | fail_if_no_progress apply keeps_free

/-! ## Link -/

theorem keeps_setLink {s : State} {l : ℕ} {x : Link} (h₀ : Keeps a₀ s) :
    Keeps a₀ (setLink s l x) := by
  unfold setLink
  repeat' with_reducible first
    | assumption | (intro x; first | (refine (fun (hx : Keeps a₀ x) => ?_) ?_; clear_value x) | clear_value x)
    | lift_lets | subst x | apply keeps_evlog | apply keeps_rset | apply keeps_modPlank | apply keeps_fileEvent
    | exact fun _ h => h | split | fail_if_no_progress apply keeps_free

theorem keeps_modLink {s : State} {l : ℕ} {f : Link → Link} (h₀ : Keeps a₀ s) :
    Keeps a₀ (modLink s l f) := by
  unfold modLink
  repeat' with_reducible first
    | assumption | (intro x; first | (refine (fun (hx : Keeps a₀ x) => ?_) ?_; clear_value x) | clear_value x)
    | lift_lets | subst x | apply keeps_setLink | apply keeps_rset | apply keeps_modPlank | apply keeps_fileEvent
    | exact fun _ h => h | split | fail_if_no_progress apply keeps_free

theorem keeps_setLinkState {s : State} {l : ℕ} {st : ℕ} (h₀ : Keeps a₀ s) :
    Keeps a₀ (setLinkState s l st) := by
  unfold setLinkState
  repeat' with_reducible first
    | assumption | (intro x; first | (refine (fun (hx : Keeps a₀ x) => ?_) ?_; clear_value x) | clear_value x)
    | lift_lets | subst x | apply keeps_rset | apply keeps_modPlank | apply keeps_fileEvent | exact fun _ h => h
    | split | fail_if_no_progress apply keeps_free

theorem keeps_freePool {s : State} {h : Head} {n : ℕ} (h₀ : Keeps a₀ s) :
    Keeps a₀ (freePool s h n) := by
  unfold freePool
  repeat' with_reducible first
    | assumption | (intro x; first | (refine (fun (hx : Keeps a₀ x) => ?_) ?_; clear_value x) | clear_value x)
    | lift_lets | subst x | apply keeps_modLink | apply keeps_evlog | apply keeps_rset | apply keeps_modPlank
    | apply keeps_fileEvent | exact fun _ h => h | split | fail_if_no_progress apply keeps_free

theorem keeps_wireOf {s : State} {l : Nat} {pkt : Packet} (h : Keeps a₀ s) {x : List (BitVec 512 × Bool) × State}
    (e : wireOf s l pkt = some x) : Keeps a₀ x.2 := by
  unfold wireOf at e
  dsimp only at e
  repeat' split at e
  all_goals first
    | (cases e; exact h)
    | (cases e; exact keeps_free h ..)
    | cases e

theorem keeps_packetFrom {s : State} {l : ℕ} {fs : List (BitVec 512 × Bool)} (h₀ : Keeps a₀ s) :
    Keeps a₀ (packetFrom s l fs).2 := by
  unfold packetFrom
  repeat' with_reducible first
    | assumption
    | (intro x; first | (refine (fun (hx : Keeps a₀ x) => ?_) ?_; clear_value x) | (refine (fun (hx : Keeps a₀ x.2) => ?_) ?_; clear_value x) | (refine (fun (hx : Keeps a₀ x.1) => ?_) ?_; clear_value x) | clear_value x)
    | lift_lets | subst x | apply keeps_radd | apply keeps_fileError | apply keeps_fileEvent | apply keeps_rset
    | apply keeps_modPlank | exact fun _ h => h | split | fail_if_no_progress apply keeps_free
    | refine keeps_snd (by assumption) ?_ | refine keeps_fst (by assumption) ?_

theorem keeps_clearOldKeys {s : State} {die : ℕ} (h₀ : Keeps a₀ s) :
    Keeps a₀ (clearOldKeys s die) := by
  unfold clearOldKeys
  repeat' with_reducible first
    | assumption | (intro x; first | (refine (fun (hx : Keeps a₀ x) => ?_) ?_; clear_value x) | clear_value x)
    | lift_lets | subst x | apply keeps_rset | apply keeps_evlog | refine keeps_foldl (fun _ _ _ => ?_) ?_
    | apply keeps_modPlank | apply keeps_fileEvent | exact fun _ h => h | split | fail_if_no_progress apply keeps_free

theorem keeps_enterTraining {s : State} {l : ℕ} (h₀ : Keeps a₀ s) :
    Keeps a₀ (enterTraining s l) := by
  unfold enterTraining
  repeat' with_reducible first
    | assumption | (intro x; first | (refine (fun (hx : Keeps a₀ x) => ?_) ?_; clear_value x) | clear_value x)
    | lift_lets | subst x | apply keeps_rsat | apply keeps_setLinkState | apply keeps_rset | apply keeps_modPlank
    | apply keeps_fileEvent | exact fun _ h => h | split | fail_if_no_progress apply keeps_free

theorem keeps_enterDown {s : State} {l : ℕ} (h₀ : Keeps a₀ s) :
    Keeps a₀ (enterDown s l) := by
  unfold enterDown
  repeat' with_reducible first
    | assumption | (intro x; first | (refine (fun (hx : Keeps a₀ x) => ?_) ?_; clear_value x) | clear_value x)
    | lift_lets | subst x | apply keeps_setLinkState | apply keeps_enterTraining | apply keeps_rset
    | apply keeps_modPlank | apply keeps_fileEvent | exact fun _ h => h | split | fail_if_no_progress apply keeps_free

theorem keeps_unbegun {s : State} {l : ℕ} (h₀ : Keeps a₀ s) :
    Keeps a₀ (unbegun s l) := by
  unfold unbegun
  repeat' with_reducible first
    | assumption | (intro x; first | (refine (fun (hx : Keeps a₀ x) => ?_) ?_; clear_value x) | clear_value x)
    | lift_lets | subst x | apply keeps_rset | apply keeps_modPlank | apply keeps_fileEvent | exact fun _ h => h
    | split | fail_if_no_progress apply keeps_free

theorem keeps_leaveActive {s : State} {l : ℕ} (h₀ : Keeps a₀ s) :
    Keeps a₀ (leaveActive s l) := by
  unfold leaveActive
  repeat' with_reducible first
    | assumption | (intro x; first | (refine (fun (hx : Keeps a₀ x) => ?_) ?_; clear_value x) | clear_value x)
    | lift_lets | subst x | apply keeps_unbegun | apply keeps_modLink | apply keeps_rset | apply keeps_modPlank
    | apply keeps_fileEvent | exact fun _ h => h | split | fail_if_no_progress apply keeps_free

theorem keeps_linksTrain {s : State} (h₀ : Keeps a₀ s) :
    Keeps a₀ (linksTrain s) := by
  unfold linksTrain
  repeat' with_reducible first
    | assumption | (intro x; first | (refine (fun (hx : Keeps a₀ x) => ?_) ?_; clear_value x) | clear_value x)
    | lift_lets | subst x | apply keeps_enterDown | refine keeps_foldl (fun _ _ _ => ?_) ?_ | apply keeps_rset
    | apply keeps_modPlank | apply keeps_fileEvent | exact fun _ h => h | split | fail_if_no_progress apply keeps_free

theorem keeps_execLinkTrainingDone {s : State} {l : LinkId} (h₀ : Keeps a₀ s) {t₀ : State}
    (e : execLinkTrainingDone l s = .next t₀) : Keeps a₀ t₀ := by
  unfold execLinkTrainingDone at e
  injection e with e
  subst e
  repeat' with_reducible first
    | assumption | (intro x; first | (refine (fun (hx : Keeps a₀ x) => ?_) ?_; clear_value x) | clear_value x)
    | lift_lets | subst x | apply keeps_modLink | apply keeps_setLinkState | apply keeps_rset | apply keeps_modPlank
    | apply keeps_fileEvent | exact fun _ h => h | split | fail_if_no_progress apply keeps_free

theorem keeps_execLinkTrainingTimeout {s : State} {l : LinkId} (h₀ : Keeps a₀ s) {t₀ : State}
    (e : execLinkTrainingTimeout l s = .next t₀) : Keeps a₀ t₀ := by
  unfold execLinkTrainingTimeout at e
  injection e with e
  subst e
  repeat' with_reducible first
    | assumption | (intro x; first | (refine (fun (hx : Keeps a₀ x) => ?_) ?_; clear_value x) | clear_value x)
    | lift_lets | subst x | apply keeps_modLink | apply keeps_setLinkState | apply keeps_rsat | apply keeps_fileError
    | apply keeps_enterDown | apply keeps_rset | apply keeps_modPlank | apply keeps_fileEvent | exact fun _ h => h
    | split | fail_if_no_progress apply keeps_free

theorem keeps_identified {s : State} {l : ℕ} {chip : BitVec 14} {peer : BitVec 6} (h₀ : Keeps a₀ s) :
    Keeps a₀ (identified s l chip peer) := by
  unfold identified
  repeat' with_reducible first
    | assumption | (intro x; first | (refine (fun (hx : Keeps a₀ x) => ?_) ?_; clear_value x) | clear_value x)
    | lift_lets | subst x | apply keeps_rset | apply keeps_setLinkState | apply keeps_modLink | apply keeps_modPlank
    | apply keeps_fileEvent | exact fun _ h => h | split | fail_if_no_progress apply keeps_free
    | refine keeps_snd (by assumption) ?_ | refine keeps_fst (by assumption) ?_

theorem keeps_execLinkIdentify {s : State} {l : LinkId} {chip : BitVec 14} {peer : BitVec 6} (h₀ : Keeps a₀ s) {t₀ : State}
    (e : execLinkIdentify l chip peer s = .next t₀) : Keeps a₀ t₀ := by
  unfold execLinkIdentify at e
  injection e with e
  subst e
  repeat' with_reducible first
    | assumption | (intro x; first | (refine (fun (hx : Keeps a₀ x) => ?_) ?_; clear_value x) | clear_value x)
    | lift_lets | subst x | apply keeps_identified | apply keeps_rset | apply keeps_modPlank | apply keeps_fileEvent
    | exact fun _ h => h | split | fail_if_no_progress apply keeps_free

theorem keeps_execCodewordLockLost {s : State} {l : LinkId} (h₀ : Keeps a₀ s) {t₀ : State}
    (e : execCodewordLockLost l s = .next t₀) : Keeps a₀ t₀ := by
  unfold execCodewordLockLost at e
  injection e with e
  subst e
  repeat' with_reducible first
    | assumption | (intro x; first | (refine (fun (hx : Keeps a₀ x) => ?_) ?_; clear_value x) | clear_value x)
    | lift_lets | subst x | apply keeps_enterTraining | apply keeps_leaveActive | apply keeps_rset
    | apply keeps_modPlank | apply keeps_fileEvent | exact fun _ h => h | split | fail_if_no_progress apply keeps_free

theorem keeps_answerLost {s : State} {die : ℕ} {h : BitVec 512} {status : ℕ} (h₀ : Keeps a₀ s) :
    Keeps a₀ (answerLost s die h status) := by
  unfold answerLost
  repeat' with_reducible first
    | assumption | (intro x; first | (refine (fun (hx : Keeps a₀ x) => ?_) ?_; clear_value x) | clear_value x)
    | lift_lets | subst x | apply keeps_sendReadData | apply keeps_sendDone | apply keeps_rset | apply keeps_modPlank
    | apply keeps_fileEvent | exact fun _ h => h | split | fail_if_no_progress apply keeps_free

theorem keeps_dropHead {s : State} {id : ℕ} (h₀ : Keeps a₀ s) :
    Keeps a₀ (dropHead s id) := by
  unfold dropHead
  repeat' with_reducible first
    | assumption | (intro x; first | (refine (fun (hx : Keeps a₀ x) => ?_) ?_; clear_value x) | clear_value x)
    | lift_lets | subst x | apply keeps_rset | apply keeps_modPlank | apply keeps_fileEvent | exact fun _ h => h
    | split | fail_if_no_progress apply keeps_free

theorem keeps_addHead {s : State} {die : ℕ} {inp : ℕ} {pool : ℕ} {pkt : Packet} (h₀ : Keeps a₀ s) :
    Keeps a₀ (addHead s die inp pool pkt) := by
  unfold addHead
  repeat' with_reducible first
    | assumption | (intro x; first | (refine (fun (hx : Keeps a₀ x) => ?_) ?_; clear_value x) | clear_value x)
    | lift_lets | subst x | apply keeps_rset | apply keeps_modPlank | apply keeps_fileEvent | exact fun _ h => h
    | split | fail_if_no_progress apply keeps_free

theorem keeps_poisonTails {s : State} {l : Nat} (h : Keeps a₀ s) : Keeps a₀ (poisonTails s l) := by
  unfold poisonTails
  refine keeps_foldl (fun s e hs => ?_) (keeps_modLink h)
  split
  · exact hs
  · dsimp only
    refine keeps_addHead ?_
    split
    · exact keeps_packetFrom hs
    · exact keeps_packetFrom hs

theorem keeps_linkLost {s : State} {l : ℕ} (h₀ : Keeps a₀ s) :
    Keeps a₀ (linkLost s l) := by
  unfold linkLost
  repeat' with_reducible first
    | assumption
    | (intro x; first | (refine (fun (hx : Keeps a₀ x) => ?_) ?_; clear_value x) | (refine (fun (hx : Keeps a₀ x.2) => ?_) ?_; clear_value x) | (refine (fun (hx : Keeps a₀ x.1) => ?_) ?_; clear_value x) | clear_value x)
    | lift_lets | subst x | apply keeps_poisonTails | apply keeps_answerLost | apply keeps_freePool
    | apply keeps_dropHead | apply keeps_rsat | apply keeps_fileError | apply keeps_setLink
    | refine keeps_foldl (fun _ _ _ => ?_) ?_ | refine keeps_foldl_fst (fun _ _ _ => ?_) ?_
    | refine keeps_foldl_snd (fun _ _ _ => ?_) ?_ | apply keeps_rset | apply keeps_modPlank | apply keeps_fileEvent
    | exact fun _ h => h | split | fail_if_no_progress apply keeps_free

theorem keeps_execLinkLossTimeout {s : State} {l : LinkId} (h₀ : Keeps a₀ s) {t₀ : State}
    (e : execLinkLossTimeout l s = .next t₀) : Keeps a₀ t₀ := by
  unfold execLinkLossTimeout at e
  injection e with e
  subst e
  repeat' with_reducible first
    | assumption | (intro x; first | (refine (fun (hx : Keeps a₀ x) => ?_) ?_; clear_value x) | clear_value x)
    | lift_lets | subst x | apply keeps_linkLost | apply keeps_rset | apply keeps_modPlank | apply keeps_fileEvent
    | exact fun _ h => h | split | fail_if_no_progress apply keeps_free

theorem keeps_linkCtl {s : State} {w : Writer} {l : ℕ} {act : State → State} (hact : ∀ s, Keeps a₀ s → Keeps a₀ (act s)) (h₀ : Keeps a₀ s) :
    Keeps a₀ (linkCtl s w l act) := by
  unfold linkCtl
  repeat' with_reducible first
    | assumption | (intro x; first | (refine (fun (hx : Keeps a₀ x) => ?_) ?_; clear_value x) | clear_value x)
    | lift_lets | subst x | refine keeps_regCommand (fun _ _ => ?_) ?_ | apply hact | apply keeps_rset
    | apply keeps_modPlank | apply keeps_fileEvent | exact fun _ h => h | split | fail_if_no_progress apply keeps_free

theorem keeps_linkDisableOp {s : State} {l : ℕ} {on : Bool} (h₀ : Keeps a₀ s) :
    Keeps a₀ (linkDisableOp l on s) := by
  unfold linkDisableOp
  repeat' with_reducible first
    | assumption | (intro x; first | (refine (fun (hx : Keeps a₀ x) => ?_) ?_; clear_value x) | clear_value x)
    | lift_lets | subst x | apply keeps_rset | apply keeps_setLinkState | apply keeps_leaveActive
    | apply keeps_enterDown | apply keeps_modPlank | apply keeps_fileEvent | exact fun _ h => h | split
    | fail_if_no_progress apply keeps_free

theorem keeps_linkRetrainOp {s : State} {l : ℕ} (h₀ : Keeps a₀ s) :
    Keeps a₀ (linkRetrainOp l s) := by
  unfold linkRetrainOp
  repeat' with_reducible first
    | assumption | (intro x; first | (refine (fun (hx : Keeps a₀ x) => ?_) ?_; clear_value x) | clear_value x)
    | lift_lets | subst x | apply keeps_enterTraining | apply keeps_modLink | apply keeps_leaveActive
    | apply keeps_rset | apply keeps_modPlank | apply keeps_fileEvent | exact fun _ h => h | split
    | fail_if_no_progress apply keeps_free

theorem keeps_linkTestOp {s : State} {l : ℕ} {on : Bool} (h₀ : Keeps a₀ s) :
    Keeps a₀ (linkTestOp l on s) := by
  unfold linkTestOp
  repeat' with_reducible first
    | assumption | (intro x; first | (refine (fun (hx : Keeps a₀ x) => ?_) ?_; clear_value x) | clear_value x)
    | lift_lets | subst x | apply keeps_rset | apply keeps_setLinkState | apply keeps_enterDown | apply keeps_modPlank
    | apply keeps_fileEvent | exact fun _ h => h | split | fail_if_no_progress apply keeps_free

theorem keeps_execLinkDisable {s : State} {l : LinkId} {w : Writer} {on : Bool} (h₀ : Keeps a₀ s) {t₀ : State}
    (e : execLinkDisable l w on s = .next t₀) : Keeps a₀ t₀ := by
  unfold execLinkDisable at e
  injection e with e
  subst e
  repeat' with_reducible first
    | assumption | (intro x; first | (refine (fun (hx : Keeps a₀ x) => ?_) ?_; clear_value x) | clear_value x)
    | lift_lets | subst x | refine keeps_linkCtl (fun _ _ => ?_) ?_ | apply keeps_linkDisableOp | apply keeps_rset
    | apply keeps_modPlank | apply keeps_fileEvent | exact fun _ h => h | split | fail_if_no_progress apply keeps_free

theorem keeps_execLinkRetrain {s : State} {l : LinkId} {w : Writer} (h₀ : Keeps a₀ s) {t₀ : State}
    (e : execLinkRetrain l w s = .next t₀) : Keeps a₀ t₀ := by
  unfold execLinkRetrain at e
  injection e with e
  subst e
  repeat' with_reducible first
    | assumption | (intro x; first | (refine (fun (hx : Keeps a₀ x) => ?_) ?_; clear_value x) | clear_value x)
    | lift_lets | subst x | refine keeps_linkCtl (fun _ _ => ?_) ?_ | apply keeps_linkRetrainOp | apply keeps_rset
    | apply keeps_modPlank | apply keeps_fileEvent | exact fun _ h => h | split | fail_if_no_progress apply keeps_free

theorem keeps_execLinkTest {s : State} {l : LinkId} {w : Writer} {on : Bool} (h₀ : Keeps a₀ s) {t₀ : State}
    (e : execLinkTest l w on s = .next t₀) : Keeps a₀ t₀ := by
  unfold execLinkTest at e
  injection e with e
  subst e
  repeat' with_reducible first
    | assumption | (intro x; first | (refine (fun (hx : Keeps a₀ x) => ?_) ?_; clear_value x) | clear_value x)
    | lift_lets | subst x | refine keeps_linkCtl (fun _ _ => ?_) ?_ | apply keeps_linkTestOp | apply keeps_rset
    | apply keeps_modPlank | apply keeps_fileEvent | exact fun _ h => h | split | fail_if_no_progress apply keeps_free

theorem keeps_setFabricLane {s : State} {l : ℕ} {i : ℕ} {x : LaneTest} (h₀ : Keeps a₀ s) :
    Keeps a₀ (setFabricLane s l i x) := by
  unfold setFabricLane
  repeat' with_reducible first
    | assumption | (intro x; first | (refine (fun (hx : Keeps a₀ x) => ?_) ?_; clear_value x) | clear_value x)
    | lift_lets | subst x | apply keeps_evlog | apply keeps_rset | apply keeps_modPlank | apply keeps_fileEvent
    | exact fun _ h => h | split | fail_if_no_progress apply keeps_free

theorem keeps_execPatternCheckerLock {s : State} {l : LinkId} {lane : Fin 2} {bits : List Bool} (h₀ : Keeps a₀ s) {t₀ : State}
    (e : execPatternCheckerLock l lane bits s = .next t₀) : Keeps a₀ t₀ := by
  unfold execPatternCheckerLock at e
  injection e with e
  subst e
  repeat' with_reducible first
    | assumption | (intro x; first | (refine (fun (hx : Keeps a₀ x) => ?_) ?_; clear_value x) | clear_value x)
    | lift_lets | subst x | apply keeps_radd | apply keeps_rset | apply keeps_setFabricLane
    | refine keeps_foldl (fun _ _ _ => ?_) ?_ | apply keeps_modPlank | apply keeps_fileEvent | exact fun _ h => h
    | split | fail_if_no_progress apply keeps_free

theorem keeps_sendPattern {s : State} {l : ℕ} {i : ℕ} (h₀ : Keeps a₀ s) :
    Keeps a₀ (sendPattern s l i) := by
  unfold sendPattern
  repeat' with_reducible first
    | assumption
    | (intro x; first | (refine (fun (hx : Keeps a₀ x) => ?_) ?_; clear_value x) | (refine (fun (hx : Keeps a₀ x.2) => ?_) ?_; clear_value x) | (refine (fun (hx : Keeps a₀ x.1) => ?_) ?_; clear_value x) | clear_value x)
    | lift_lets | subst x | apply keeps_drew | apply keeps_setFabricLane | apply keeps_rset | apply keeps_modPlank
    | apply keeps_fileEvent | exact fun _ h => h | split | fail_if_no_progress apply keeps_free

theorem keeps_takeFlit {s : State} {l : ℕ} {c : ℕ} {f : BitVec 512 × Bool} (h₀ : Keeps a₀ s) :
    Keeps a₀ (takeFlit s l c f) := by
  unfold takeFlit
  repeat' with_reducible first
    | assumption
    | (intro x; first | (refine (fun (hx : Keeps a₀ x) => ?_) ?_; clear_value x) | (refine (fun (hx : Keeps a₀ x.2) => ?_) ?_; clear_value x) | (refine (fun (hx : Keeps a₀ x.1) => ?_) ?_; clear_value x) | clear_value x)
    | lift_lets | subst x | apply keeps_radd | apply keeps_setLink | apply keeps_packetFrom | apply keeps_addHead
    | apply keeps_evlog | apply keeps_rset | apply keeps_modPlank | apply keeps_fileEvent | exact fun _ h => h | split
    | fail_if_no_progress apply keeps_free

theorem keeps_takeMarker {s : State} {l : ℕ} (h₀ : Keeps a₀ s) :
    Keeps a₀ (takeMarker s l) := by
  unfold takeMarker
  repeat' with_reducible first
    | assumption
    | (intro x; first | (refine (fun (hx : Keeps a₀ x) => ?_) ?_; clear_value x) | (refine (fun (hx : Keeps a₀ x.2) => ?_) ?_; clear_value x) | (refine (fun (hx : Keeps a₀ x.1) => ?_) ?_; clear_value x) | clear_value x)
    | lift_lets | subst x | apply keeps_modLink | apply keeps_rset | apply keeps_modPlank | apply keeps_fileEvent
    | exact fun _ h => h | split | fail_if_no_progress apply keeps_free

theorem keeps_noteEchoes {s : State} {d : ℕ} (h₀ : Keeps a₀ s) :
    Keeps a₀ (noteEchoes s d) := by
  unfold noteEchoes
  repeat' with_reducible first
    | assumption | (intro x; first | (refine (fun (hx : Keeps a₀ x) => ?_) ?_; clear_value x) | clear_value x)
    | lift_lets | subst x | apply keeps_rset | apply keeps_modPlank | apply keeps_fileEvent | exact fun _ h => h
    | split | fail_if_no_progress apply keeps_free

theorem keeps_drainAgain_startDrain {s : State} (h₀ : Keeps a₀ s) :
    Keeps a₀ (drainAgain.startDrain s) := by
  unfold drainAgain.startDrain
  repeat' with_reducible first
    | assumption
    | (intro x; first | (refine (fun (hx : Keeps a₀ x) => ?_) ?_; clear_value x) | (refine (fun (hx : Keeps a₀ x.2) => ?_) ?_; clear_value x) | (refine (fun (hx : Keeps a₀ x.1) => ?_) ?_; clear_value x) | clear_value x)
    | lift_lets | subst x | apply keeps_rset | apply keeps_modLink | refine keeps_foldl (fun _ _ _ => ?_) ?_
    | refine keeps_foldl_fst (fun _ _ _ => ?_) ?_ | refine keeps_foldl_snd (fun _ _ _ => ?_) ?_ | apply keeps_modPlank
    | apply keeps_fileEvent | exact fun _ h => h | split | fail_if_no_progress apply keeps_free
    | refine keeps_snd (by assumption) ?_ | refine keeps_fst (by assumption) ?_

theorem keeps_drainAgain {s : State} (h₀ : Keeps a₀ s) :
    Keeps a₀ (drainAgain s) := by
  unfold drainAgain
  repeat' with_reducible first
    | assumption | (intro x; first | (refine (fun (hx : Keeps a₀ x) => ?_) ?_; clear_value x) | clear_value x)
    | lift_lets | subst x | apply keeps_drainAgain_startDrain | apply keeps_rset | apply keeps_modPlank
    | apply keeps_fileEvent | exact fun _ h => h | split | fail_if_no_progress apply keeps_free

theorem keeps_frameTaken {s : State} {l : ℕ} {f : Frame} {idle : Bool} (h₀ : Keeps a₀ s) :
    Keeps a₀ (frameTaken s l f idle) := by
  unfold frameTaken
  repeat' with_reducible first
    | assumption | (intro x; first | (refine (fun (hx : Keeps a₀ x) => ?_) ?_; clear_value x) | clear_value x)
    | lift_lets | subst x | apply keeps_setLink | apply keeps_drainAgain | apply keeps_takeFlit
    | apply keeps_takeMarker | apply keeps_clearOldKeys | apply keeps_noteEchoes | apply keeps_modLink
    | refine keeps_foldl (fun _ _ _ => ?_) ?_ | apply keeps_rset | apply keeps_modPlank | apply keeps_fileEvent
    | exact fun _ h => h | split | fail_if_no_progress apply keeps_free

theorem keeps_execFrameReceive {s : State} {l : LinkId} {f : Frame} {fecOk : Bool} {corrected : BitVec 32} (h₀ : Keeps a₀ s) {t₀ : State}
    (e : execFrameReceive l f fecOk corrected s = .next t₀) : Keeps a₀ t₀ := by
  unfold execFrameReceive at e
  injection e with e
  subst e
  repeat' with_reducible first
    | assumption | (intro x; first | (refine (fun (hx : Keeps a₀ x) => ?_) ?_; clear_value x) | subst x) | lift_lets
    | subst x | fail_if_no_progress beta_reduce | apply keeps_radd | apply keeps_modLink | apply keeps_frameTaken
    | apply keeps_rset | apply keeps_modPlank | apply keeps_fileEvent | exact fun _ h => h | split
    | fail_if_no_progress apply keeps_free

theorem keeps_execMarkerEcho {s : State} {l : LinkId} (h₀ : Keeps a₀ s) {t₀ : State}
    (e : execMarkerEcho l s = .next t₀) : Keeps a₀ t₀ := by
  unfold execMarkerEcho at e
  injection e with e
  subst e
  repeat' with_reducible first
    | assumption | (intro x; first | (refine (fun (hx : Keeps a₀ x) => ?_) ?_; clear_value x) | clear_value x)
    | lift_lets | subst x | apply keeps_setLink | apply keeps_rset | apply keeps_modPlank | apply keeps_fileEvent
    | exact fun _ h => h | split | fail_if_no_progress apply keeps_free | refine keeps_snd (by assumption) ?_
    | refine keeps_fst (by assumption) ?_

/-! ## Power -/

theorem keeps_inputSampled {s : State} {mv : BitVec 16} {cur : BitVec 16} (h₀ : Keeps a₀ s) :
    Keeps a₀ (inputSampled s mv cur) := by
  unfold inputSampled
  repeat' with_reducible first
    | assumption | (intro x; first | (refine (fun (hx : Keeps a₀ x) => ?_) ?_; clear_value x) | clear_value x)
    | lift_lets | subst x | apply keeps_rset | apply keeps_rmax | refine keeps_foldl (fun _ _ _ => ?_) ?_
    | apply keeps_modPlank | apply keeps_fileEvent | exact fun _ h => h | split | fail_if_no_progress apply keeps_free

theorem keeps_execInputSample {s : State} {mv : BitVec 16} {cur : BitVec 16} (h₀ : Keeps a₀ s) {t₀ : State}
    (e : execInputSample mv cur s = .next t₀) : Keeps a₀ t₀ := by
  unfold execInputSample at e
  injection e with e
  subst e
  repeat' with_reducible first
    | assumption | (intro x; first | (refine (fun (hx : Keeps a₀ x) => ?_) ?_; clear_value x) | clear_value x)
    | lift_lets | subst x | apply keeps_inputSampled | apply keeps_rset | apply keeps_modPlank | apply keeps_fileEvent
    | exact fun _ h => h | split | fail_if_no_progress apply keeps_free

theorem keeps_setCapClock {s : State} {mhz : ℕ} (h₀ : Keeps a₀ s) :
    Keeps a₀ (setCapClock s mhz) := by
  unfold setCapClock
  repeat' with_reducible first
    | assumption | (intro x; first | (refine (fun (hx : Keeps a₀ x) => ?_) ?_; clear_value x) | clear_value x)
    | lift_lets | subst x | apply keeps_rset | apply keeps_markIvs | apply keeps_fileEvent | apply keeps_modPlank
    | exact fun _ h => h | split | fail_if_no_progress apply keeps_free

theorem keeps_execCapCompare {s : State} (h₀ : Keeps a₀ s) {t₀ : State}
    (e : execCapCompare s = .next t₀) : Keeps a₀ t₀ := by
  unfold execCapCompare at e
  injection e with e
  subst e
  repeat' with_reducible first
    | assumption | (intro x; first | (refine (fun (hx : Keeps a₀ x) => ?_) ?_; clear_value x) | clear_value x)
    | lift_lets | subst x | apply keeps_setCapClock | apply keeps_rset | apply keeps_modPlank | apply keeps_fileEvent
    | exact fun _ h => h | split | fail_if_no_progress apply keeps_free

theorem keeps_execCapUnmet {s : State} (h₀ : Keeps a₀ s) {t₀ : State}
    (e : execCapUnmet s = .next t₀) : Keeps a₀ t₀ := by
  unfold execCapUnmet at e
  injection e with e
  subst e
  repeat' with_reducible first
    | assumption | (intro x; first | (refine (fun (hx : Keeps a₀ x) => ?_) ?_; clear_value x) | clear_value x)
    | lift_lets | subst x | apply keeps_fileEvent | apply keeps_alert | apply keeps_rset | apply keeps_modPlank
    | exact fun _ h => h | split | fail_if_no_progress apply keeps_free

theorem keeps_setIinLimit {s : State} (h₀ : Keeps a₀ s) :
    Keeps a₀ (setIinLimit s) := by
  unfold setIinLimit
  repeat' with_reducible first
    | assumption | (intro x; first | (refine (fun (hx : Keeps a₀ x) => ?_) ?_; clear_value x) | clear_value x)
    | lift_lets | subst x | apply keeps_rset | apply keeps_modPlank | apply keeps_fileEvent | exact fun _ h => h
    | split | fail_if_no_progress apply keeps_free

theorem keeps_uncapRelease {s : State} (h₀ : Keeps a₀ s) :
    Keeps a₀ (uncapRelease s) := by
  unfold uncapRelease
  repeat' with_reducible first
    | assumption | (intro x; first | (refine (fun (hx : Keeps a₀ x) => ?_) ?_; clear_value x) | clear_value x)
    | lift_lets | subst x | apply keeps_rset | apply keeps_modPlank | apply keeps_fileEvent | exact fun _ h => h
    | split | fail_if_no_progress apply keeps_free

theorem keeps_powerCapOp {s : State} {v : Word64} (h₀ : Keeps a₀ s) :
    Keeps a₀ (powerCapOp s v) := by
  unfold powerCapOp
  repeat' with_reducible first
    | assumption | (intro x; first | (refine (fun (hx : Keeps a₀ x) => ?_) ?_; clear_value x) | clear_value x)
    | lift_lets | subst x | apply keeps_rset | apply keeps_uncapRelease | apply keeps_setIinLimit
    | apply keeps_modPlank | apply keeps_fileEvent | exact fun _ h => h | split | fail_if_no_progress apply keeps_free

theorem keeps_execPowerCapWrite {s : State} {w : Writer} {v : Word64} (h₀ : Keeps a₀ s) {t₀ : State}
    (e : execPowerCapWrite w v s = .next t₀) : Keeps a₀ t₀ := by
  unfold execPowerCapWrite at e
  injection e with e
  subst e
  repeat' with_reducible first
    | assumption | (intro x; first | (refine (fun (hx : Keeps a₀ x) => ?_) ?_; clear_value x) | clear_value x)
    | lift_lets | subst x | refine keeps_regCommand (fun _ _ => ?_) ?_ | apply keeps_powerCapOp | apply keeps_rset
    | apply keeps_modPlank | apply keeps_fileEvent | exact fun _ h => h | split | fail_if_no_progress apply keeps_free

theorem keeps_execBackstopEngage {s : State} (h₀ : Keeps a₀ s) {t₀ : State}
    (e : execBackstopEngage s = .next t₀) : Keeps a₀ t₀ := by
  unfold execBackstopEngage at e
  injection e with e
  subst e
  repeat' with_reducible first
    | assumption | (intro x; first | (refine (fun (hx : Keeps a₀ x) => ?_) ?_; clear_value x) | clear_value x)
    | lift_lets | subst x | apply keeps_alert | apply keeps_rset | apply keeps_markIvs | apply keeps_fileEvent
    | apply keeps_modPlank | exact fun _ h => h | split | fail_if_no_progress apply keeps_free

theorem keeps_execBackstopRelease {s : State} (h₀ : Keeps a₀ s) {t₀ : State}
    (e : execBackstopRelease s = .next t₀) : Keeps a₀ t₀ := by
  unfold execBackstopRelease at e
  injection e with e
  subst e
  repeat' with_reducible first
    | assumption | (intro x; first | (refine (fun (hx : Keeps a₀ x) => ?_) ?_; clear_value x) | clear_value x)
    | lift_lets | subst x | apply keeps_rset | apply keeps_modPlank | apply keeps_fileEvent | exact fun _ h => h
    | split | fail_if_no_progress apply keeps_free

theorem keeps_execClockGlideStep {s : State} {p : PlankId} (h₀ : Keeps a₀ s) {t₀ : State}
    (e : execClockGlideStep p s = .next t₀) : Keeps a₀ t₀ := by
  unfold execClockGlideStep at e
  injection e with e
  subst e
  repeat' with_reducible first
    | assumption | (intro x; first | (refine (fun (hx : Keeps a₀ x) => ?_) ?_; clear_value x) | clear_value x)
    | lift_lets | subst x | apply keeps_rset | apply keeps_modPlank | apply keeps_fileEvent | exact fun _ h => h
    | split | fail_if_no_progress apply keeps_free

theorem keeps_energyAdded {s : State} {nj : EnergyReading} (h₀ : Keeps a₀ s) :
    Keeps a₀ (energyAdded s nj) := by
  unfold energyAdded
  repeat' with_reducible first
    | assumption | (intro x; first | (refine (fun (hx : Keeps a₀ x) => ?_) ?_; clear_value x) | clear_value x)
    | lift_lets | subst x | apply keeps_rset | apply keeps_workErrors | apply keeps_modPlank | apply keeps_fileEvent
    | exact fun _ h => h | split | fail_if_no_progress apply keeps_free

theorem keeps_execEnergyRead {s : State} {nj : EnergyReading} (h₀ : Keeps a₀ s) {t₀ : State}
    (e : execEnergyRead nj s = .next t₀) : Keeps a₀ t₀ := by
  unfold execEnergyRead at e
  injection e with e
  subst e
  repeat' with_reducible first
    | assumption | (intro x; first | (refine (fun (hx : Keeps a₀ x) => ?_) ?_; clear_value x) | clear_value x)
    | lift_lets | subst x | apply keeps_energyAdded | apply keeps_rset | apply keeps_modPlank | apply keeps_fileEvent
    | exact fun _ h => h | split | fail_if_no_progress apply keeps_free

theorem keeps_sensorRead {s : State} {sensor : Fin 200} {temp : BitVec 16} (h₀ : Keeps a₀ s) :
    Keeps a₀ (sensorRead s sensor temp) := by
  unfold sensorRead
  repeat' with_reducible first
    | assumption
    | (intro x; first | (refine (fun (hx : Keeps a₀ x) => ?_) ?_; clear_value x) | (refine (fun (hx : Keeps a₀ x.2) => ?_) ?_; clear_value x) | (refine (fun (hx : Keeps a₀ x.1) => ?_) ?_; clear_value x) | clear_value x)
    | lift_lets | subst x | apply keeps_rset | apply keeps_fileEvent | apply keeps_alert | apply keeps_modPlank
    | exact fun _ h => h | split | fail_if_no_progress apply keeps_free

theorem keeps_execTempSensorRead {s : State} {sensor : Fin 200} {temp : BitVec 16} (h₀ : Keeps a₀ s) {t₀ : State}
    (e : execTempSensorRead sensor temp s = .next t₀) : Keeps a₀ t₀ := by
  unfold execTempSensorRead at e
  injection e with e
  subst e
  repeat' with_reducible first
    | assumption | (intro x; first | (refine (fun (hx : Keeps a₀ x) => ?_) ?_; clear_value x) | clear_value x)
    | lift_lets | subst x | apply keeps_sensorRead | apply keeps_rset | apply keeps_modPlank | apply keeps_fileEvent
    | exact fun _ h => h | split | fail_if_no_progress apply keeps_free

theorem keeps_setThermal {s : State} {d : ℕ} {mhz : ℕ} (h₀ : Keeps a₀ s) :
    Keeps a₀ (setThermal s d mhz) := by
  unfold setThermal
  repeat' with_reducible first
    | assumption | (intro x; first | (refine (fun (hx : Keeps a₀ x) => ?_) ?_; clear_value x) | clear_value x)
    | lift_lets | subst x | apply keeps_rset | apply keeps_modPlank | apply keeps_fileEvent | exact fun _ h => h
    | split | fail_if_no_progress apply keeps_free

theorem keeps_execThermalClockStep {s : State} {c : DieId} (h₀ : Keeps a₀ s) {t₀ : State}
    (e : execThermalClockStep c s = .next t₀) : Keeps a₀ t₀ := by
  unfold execThermalClockStep at e
  injection e with e
  subst e
  repeat' with_reducible first
    | assumption | (intro x; first | (refine (fun (hx : Keeps a₀ x) => ?_) ?_; clear_value x) | clear_value x)
    | lift_lets | subst x | apply keeps_setThermal | apply keeps_markIvs | apply keeps_rset | apply keeps_modPlank
    | apply keeps_fileEvent | exact fun _ h => h | split | fail_if_no_progress apply keeps_free

theorem keeps_railTaken {s : State} {n : ℕ} {v : ℕ} (h₀ : Keeps a₀ s) :
    Keeps a₀ (railTaken s n v) := by
  unfold railTaken
  repeat' with_reducible first
    | assumption | (intro x; first | (refine (fun (hx : Keeps a₀ x) => ?_) ?_; clear_value x) | clear_value x)
    | lift_lets | subst x | apply keeps_rset | apply keeps_rmax | apply keeps_modPlank | apply keeps_fileEvent
    | exact fun _ h => h | split | fail_if_no_progress apply keeps_free

theorem keeps_execRailOutOfRange {s : State} {rail : Rail} (h : Keeps a₀ s) {t₀ : State}
    (e : execRailOutOfRange rail s = .next t₀) : Keeps a₀ t₀ := by
  unfold execRailOutOfRange at e
  injection e with e
  subst e
  split
  · exact h
  · split
    · dsimp only
      split
      · exact h
      · exact keeps_fileEvent (keeps_alert h)
    · dsimp only
      exact keeps_ite (keeps_railTaken h) (keeps_fileEvent (keeps_free (keeps_railTaken h) ..))

theorem keeps_thrComputeOp {s : State} {v : Word64} (h : Keeps a₀ s) : Keeps a₀ (thrComputeOp s v) := by
  unfold thrComputeOp
  dsimp only
  exact keeps_ite (keeps_rset (keeps_ite (keeps_rset (keeps_ite (keeps_rset h) h)) (keeps_ite (keeps_rset h) h)))
    (keeps_ite (keeps_rset (keeps_ite (keeps_rset h) h)) (keeps_ite (keeps_rset h) h))

theorem keeps_execThrComputeWrite {s : State} {w : Writer} {v : Word64} (h₀ : Keeps a₀ s) {t₀ : State}
    (e : execThrComputeWrite w v s = .next t₀) : Keeps a₀ t₀ := by
  unfold execThrComputeWrite at e
  injection e with e
  subst e
  repeat' with_reducible first
    | assumption | (intro x; first | (refine (fun (hx : Keeps a₀ x) => ?_) ?_; clear_value x) | clear_value x)
    | lift_lets | subst x | refine keeps_regCommand (fun _ _ => ?_) ?_ | apply keeps_thrComputeOp | apply keeps_rset
    | apply keeps_modPlank | apply keeps_fileEvent | exact fun _ h => h | split | fail_if_no_progress apply keeps_free

/-! ## Island -/

theorem keeps_remask {s : State} (h₀ : Keeps a₀ s) :
    Keeps a₀ (remask s) := by
  unfold remask
  repeat' with_reducible first
    | assumption | (intro x; first | (refine (fun (hx : Keeps a₀ x) => ?_) ?_; clear_value x) | clear_value x)
    | lift_lets | subst x | apply keeps_setPlankState | refine keeps_foldl (fun _ _ _ => ?_) ?_ | apply keeps_rset
    | apply keeps_modPlank | apply keeps_fileEvent | exact fun _ h => h | split | fail_if_no_progress apply keeps_free

theorem planks_dark {s : State} {keep : Bool} (h : kwf plankReset s.planks = true) (p : Nat) :
    (kget plankReset (s.planks.foldl (fun m e => kput plankReset m e.1 (darkPlank keep e.2)) []) p).Canonical := by
  suffices hs : ∀ (l m : List (Nat × Plank)), kwf plankReset m = true → (∀ p, (kget plankReset m p).Canonical) →
      ∀ p, (kget plankReset (l.foldl (fun m e => kput plankReset m e.1 (darkPlank keep e.2)) m) p).Canonical from
    hs _ _ (kwf_nil _) canonical_reset p
  intro l
  induction l with
  | nil => exact fun _ _ h => h
  | cons e l ih =>
    refine fun m hm h => ih _ (kwf_kput hm _ _) (fun q => ?_)
    rw [kget_kput (kwf_above hm)]
    split
    · exact ⟨rfl, rfl, rfl, rfl, rfl⟩
    · exact h q

theorem keeps_computeLost {s : State} {keep : Bool} (h : Keeps a₀ s) : Keeps a₀ (computeLost s keep) :=
  ⟨fun w => let w := h.wf w; ⟨w.win, kwf_nil _, kwf_nil _, kwf_foldl _ _ (kwf_nil _) (fun _ _ hm => kwf_kput hm _ _), w.objs,
    w.latch, w.streams, w.evlog, w.peat, kwf_nil _, planks_dark w.planks⟩, h.queue⟩

theorem keeps_allLost {s : State} (h : Keeps a₀ s) : Keeps a₀ (allLost s) :=
  ⟨fun w => let w := (keeps_computeLost (keep := false) h).wf w; ⟨w.win, w.mem, w.poison, w.planks, kwf_nil _, kwf_nil _,
    kwf_nil _, w.evlog, w.peat, w.pcs, w.cores⟩, h.queue⟩

theorem keeps_failMargin {s : State} (h₀ : Keeps a₀ s) :
    Keeps a₀ (failMargin s) := by
  unfold failMargin
  repeat' with_reducible first
    | assumption | (intro x; first | (refine (fun (hx : Keeps a₀ x) => ?_) ?_; clear_value x) | clear_value x)
    | lift_lets | subst x | apply keeps_respond | apply keeps_rset | apply keeps_modPlank | apply keeps_fileEvent
    | exact fun _ h => h | split | fail_if_no_progress apply keeps_free | refine keeps_snd (by assumption) ?_
    | refine keeps_fst (by assumption) ?_

theorem keeps_tripNow {s : State} (h₀ : Keeps a₀ s) :
    Keeps a₀ (tripNow s) := by
  unfold tripNow
  repeat' with_reducible first
    | assumption
    | (intro x; first | (refine (fun (hx : Keeps a₀ x) => ?_) ?_; clear_value x) | (refine (fun (hx : Keeps a₀ x.2) => ?_) ?_; clear_value x) | (refine (fun (hx : Keeps a₀ x.1) => ?_) ?_; clear_value x) | clear_value x)
    | lift_lets | subst x | apply keeps_failStream | apply keeps_failMargin | apply keeps_computeLost
    | apply keeps_remask | apply keeps_rset | apply keeps_setModState | apply keeps_fileEvent | apply keeps_alert
    | apply keeps_setWord | refine keeps_win ?_ (fun hm => kwf_resetWords hm) | refine keeps_foldl (fun _ _ _ => ?_) ?_
    | refine keeps_foldl_fst (fun _ _ _ => ?_) ?_ | refine keeps_foldl_snd (fun _ _ _ => ?_) ?_ | apply keeps_modPlank
    | exact fun _ h => h | split | fail_if_no_progress apply keeps_free

theorem keeps_showPins {s : State} (h₀ : Keeps a₀ s) :
    Keeps a₀ (showPins s) := by
  unfold showPins
  repeat' with_reducible first
    | assumption | (intro x; first | (refine (fun (hx : Keeps a₀ x) => ?_) ?_; clear_value x) | clear_value x)
    | lift_lets | subst x | apply keeps_rset | refine keeps_foldl (fun _ _ _ => ?_) ?_ | apply keeps_modPlank
    | apply keeps_fileEvent | exact fun _ h => h | split | fail_if_no_progress apply keeps_free

theorem keeps_execTrip {s : State} {cause : TripCause} (h₀ : Keeps a₀ s) {t₀ : State}
    (e : execTrip cause s = .next t₀) : Keeps a₀ t₀ := by
  unfold execTrip at e
  injection e with e
  subst e
  repeat' with_reducible first
    | assumption | (intro x; first | (refine (fun (hx : Keeps a₀ x) => ?_) ?_; clear_value x) | clear_value x)
    | lift_lets | subst x | apply keeps_tripNow | apply keeps_rset | apply keeps_modPlank | apply keeps_fileEvent
    | exact fun _ h => h | split | fail_if_no_progress apply keeps_free

theorem keeps_enterReset {s : State} (h₀ : Keeps a₀ s) :
    Keeps a₀ (enterReset s) := by
  unfold enterReset
  repeat' with_reducible first
    | assumption | (intro x; first | (refine (fun (hx : Keeps a₀ x) => ?_) ?_; clear_value x) | clear_value x)
    | lift_lets | subst x | apply keeps_allLost | apply keeps_setModState
    | refine keeps_win ?_ (fun hm => kwf_resetWords hm) | apply keeps_rset | apply keeps_modPlank
    | apply keeps_fileEvent | exact fun _ h => h | split | fail_if_no_progress apply keeps_free

theorem keeps_bootBegins {s : State} (h₀ : Keeps a₀ s) :
    Keeps a₀ (bootBegins s) := by
  unfold bootBegins
  repeat' with_reducible first
    | assumption | (intro x; first | (refine (fun (hx : Keeps a₀ x) => ?_) ?_; clear_value x) | clear_value x)
    | lift_lets | subst x | apply keeps_tick | apply keeps_rset | apply keeps_modPlank | apply keeps_fileEvent
    | exact fun _ h => h | split | fail_if_no_progress apply keeps_free

theorem keeps_leaveReset {s : State} (h₀ : Keeps a₀ s) :
    Keeps a₀ (leaveReset s) := by
  unfold leaveReset
  repeat' with_reducible first
    | assumption | (intro x; first | (refine (fun (hx : Keeps a₀ x) => ?_) ?_; clear_value x) | clear_value x)
    | lift_lets | subst x | apply keeps_bootBegins | apply keeps_remask
    | refine keeps_win ?_ (fun hm => kwf_resetWords hm) | apply keeps_rset | apply keeps_modPlank
    | apply keeps_fileEvent | exact fun _ h => h | split | fail_if_no_progress apply keeps_free

theorem keeps_powerDown {s : State} (h₀ : Keeps a₀ s) :
    Keeps a₀ (powerDown s) := by
  unfold powerDown
  repeat' with_reducible first
    | assumption | (intro x; first | (refine (fun (hx : Keeps a₀ x) => ?_) ?_; clear_value x) | clear_value x)
    | lift_lets | subst x | apply keeps_allLost | apply keeps_setModState
    | refine keeps_win ?_ (fun hm => kwf_resetWords hm) | apply keeps_rset | apply keeps_modPlank
    | apply keeps_fileEvent | exact fun _ h => h | split | fail_if_no_progress apply keeps_free

theorem winReset_soundStatus {k : Nat} (h : plankBase 0 ≤ k) (h' : k < plankBase 160) (hk : k % 0x10000 = 0x160) :
    winReset k = 0 := by
  unfold winReset regRow
  have h8 : k % 8 = 0 := by omega
  have hb : (k - plankBase 0) % 0x10000 = 0x160 := by
    unfold plankBase at *; omega
  have h1 : ¬ k < identBase := by unfold plankBase at h; unfold identBase; omega
  have h2 : ¬ k < hjBase := by unfold plankBase at h; unfold hjBase; omega
  have h3 : ¬ k < sensorBase := by unfold plankBase at h; unfold sensorBase; omega
  have h4 : ¬ k < sensorBase + 0x10000 := by unfold plankBase at h; unfold sensorBase; omega
  have h5 : ¬ k < plankBase 0 := Nat.not_lt.mpr h
  rw [hb]
  simp only [h8, h1, h2, h3, h4, h5, h', if_true, if_false, ne_eq, not_true_eq_false]
  rfl

theorem kwf_nextKept {m : List (Nat × Word64)} (h : kwf winReset m = true) : kwf winReset (nextKept m) = true := by
  unfold nextKept
  refine kwf_filterMap h _ (fun e _ _ e' he => ?_)
  split at he
  · rename_i hb
    cases he
    simp only [Bool.and_eq_true, decide_eq_true_eq, beq_iff_eq, bne_iff_ne] at hb
    refine ⟨rfl, fun hc => hb.2 ?_⟩
    dsimp only at hc
    rw [winReset_soundStatus hb.1.1.1 hb.1.1.2 hb.1.2] at hc
    have := congrArg BitVec.toNat hc
    simp only [BitVec.toNat_ofNat, BitVec.ofNat_eq_ofNat] at this
    omega
  · cases he

theorem keeps_pathOpens {s : State} (h : Keeps a₀ s) : Keeps a₀ (pathOpens s) := by
  unfold pathOpens
  exact keeps_setModState ⟨fun w => let w := h.wf w; ⟨kwf_nextKept w.win, w.mem, w.poison, kwf_nil _, w.objs, w.latch,
    w.streams, kwf_nil _, w.peat, w.pcs, canonical_reset⟩, h.queue⟩

theorem keeps_powerOn {s : State} (h : Keeps a₀ s) : Keeps a₀ (powerOn s) := by
  have h1 : ∀ b, Keeps a₀ { s with win := nextKept s.win, board := b } := fun b =>
    ⟨fun w => let w := h.wf w; ⟨kwf_nextKept w.win, w.mem, w.poison, w.planks, w.objs, w.latch,
      w.streams, w.evlog, w.peat, w.pcs, w.cores⟩, h.queue⟩
  unfold powerOn
  dsimp only
  split
  · exact keeps_bootBegins (keeps_showPins (h1 _))
  · exact keeps_enterReset (keeps_showPins (h1 _))

theorem keeps_tryPowerOn {s : State} (h₀ : Keeps a₀ s) :
    Keeps a₀ (tryPowerOn s) := by
  unfold tryPowerOn
  repeat' with_reducible first
    | assumption | (intro x; first | (refine (fun (hx : Keeps a₀ x) => ?_) ?_; clear_value x) | clear_value x)
    | lift_lets | subst x | apply keeps_powerOn | apply keeps_rset | apply keeps_modPlank | apply keeps_fileEvent
    | exact fun _ h => h | split | fail_if_no_progress apply keeps_free

theorem keeps_execPowerDownComplete {s : State} (h₀ : Keeps a₀ s) {t₀ : State}
    (e : execPowerDownComplete s = .next t₀) : Keeps a₀ t₀ := by
  unfold execPowerDownComplete at e
  injection e with e
  subst e
  repeat' with_reducible first
    | assumption | (intro x; first | (refine (fun (hx : Keeps a₀ x) => ?_) ?_; clear_value x) | clear_value x)
    | lift_lets | subst x | apply keeps_tryPowerOn | apply keeps_pathOpens | apply keeps_rset | apply keeps_modPlank
    | apply keeps_fileEvent | exact fun _ h => h | split | fail_if_no_progress apply keeps_free

theorem keeps_execInputPathChange {s : State} {mv : BitVec 16} (h₀ : Keeps a₀ s) {t₀ : State}
    (e : execInputPathChange mv s = .next t₀) : Keeps a₀ t₀ := by
  unfold execInputPathChange at e
  injection e with e
  subst e
  repeat' with_reducible first
    | assumption | (intro x; first | (refine (fun (hx : Keeps a₀ x) => ?_) ?_; clear_value x) | clear_value x)
    | lift_lets | subst x | apply keeps_tryPowerOn | apply keeps_pathOpens | apply keeps_powerDown | apply keeps_rset
    | apply keeps_modPlank | apply keeps_fileEvent | exact fun _ h => h | split | fail_if_no_progress apply keeps_free

theorem keeps_enterHold {s : State} (h₀ : Keeps a₀ s) :
    Keeps a₀ (enterHold s) := by
  unfold enterHold
  repeat' with_reducible first
    | assumption | (intro x; first | (refine (fun (hx : Keeps a₀ x) => ?_) ?_; clear_value x) | clear_value x)
    | lift_lets | subst x | apply keeps_setModState | apply keeps_boundarySuspends | apply keeps_suspendStreamOp
    | refine keeps_foldl (fun _ _ _ => ?_) ?_ | apply keeps_rset | apply keeps_modPlank | apply keeps_fileEvent
    | exact fun _ h => h | split | fail_if_no_progress apply keeps_free

theorem keeps_leaveHold {s : State} (h₀ : Keeps a₀ s) :
    Keeps a₀ (leaveHold s) := by
  unfold leaveHold
  repeat' with_reducible first
    | assumption
    | (intro x; first | (refine (fun (hx : Keeps a₀ x) => ?_) ?_; clear_value x) | (refine (fun (hx : Keeps a₀ x.2) => ?_) ?_; clear_value x) | (refine (fun (hx : Keeps a₀ x.1) => ?_) ?_; clear_value x) | clear_value x)
    | lift_lets | subst x | apply keeps_setModState | apply keeps_resumeStreamOp
    | refine keeps_foldl (fun _ _ _ => ?_) ?_ | refine keeps_foldl_fst (fun _ _ _ => ?_) ?_
    | refine keeps_foldl_snd (fun _ _ _ => ?_) ?_ | apply keeps_rset | apply keeps_modPlank | apply keeps_fileEvent
    | exact fun _ h => h | split | fail_if_no_progress apply keeps_free

/-! ## Image -/

theorem keeps_flashWrite {s : State} {off : ℕ} {bs : List Byte} (h₀ : Keeps a₀ s) :
    Keeps a₀ (flashWrite s off bs) := by
  unfold flashWrite
  repeat' with_reducible first
    | assumption | (intro x; first | (refine (fun (hx : Keeps a₀ x) => ?_) ?_; clear_value x) | clear_value x)
    | lift_lets | subst x | apply keeps_rset | apply keeps_modPlank | apply keeps_fileEvent | exact fun _ h => h
    | split | fail_if_no_progress apply keeps_free

theorem keeps_flashErase {s : State} {off : ℕ} (h₀ : Keeps a₀ s) :
    Keeps a₀ (flashErase s off) := by
  unfold flashErase
  repeat' with_reducible first
    | assumption
    | (intro x; first | (refine (fun (hx : Keeps a₀ x) => ?_) ?_; clear_value x) | (refine (fun (hx : Keeps a₀ x.2) => ?_) ?_; clear_value x) | (refine (fun (hx : Keeps a₀ x.1) => ?_) ?_; clear_value x) | clear_value x)
    | lift_lets | subst x | apply keeps_rset | apply keeps_modPlank | apply keeps_fileEvent | exact fun _ h => h
    | split | fail_if_no_progress apply keeps_free

/-! ## Activate -/

theorem keeps_applyLive {s : State} {c : List Byte} (h₀ : Keeps a₀ s) :
    Keeps a₀ (applyLive s c) := by
  unfold applyLive
  repeat' with_reducible first
    | assumption | (intro x; first | (refine (fun (hx : Keeps a₀ x) => ?_) ?_; clear_value x) | clear_value x)
    | lift_lets | subst x | apply keeps_rset | apply keeps_setIinLimit | refine keeps_foldl (fun _ _ _ => ?_) ?_
    | apply keeps_modPlank | apply keeps_fileEvent | exact fun _ h => h | split | fail_if_no_progress apply keeps_free

theorem keeps_loadBank {s : State} {bank : ℕ} {code : List Byte} (h₀ : Keeps a₀ s) :
    Keeps a₀ (loadBank s bank code) := by
  unfold loadBank
  repeat' with_reducible first
    | assumption | (intro x; first | (refine (fun (hx : Keeps a₀ x) => ?_) ?_; clear_value x) | clear_value x)
    | lift_lets | subst x | apply keeps_rset | apply keeps_modPlank | apply keeps_fileEvent | exact fun _ h => h
    | split | fail_if_no_progress apply keeps_free

theorem keeps_activateHj {s : State} {rq : Req} {todo : ℕ} {done : ℕ} (h₀ : Keeps a₀ s) :
    KeepsOpt a₀ (activateHj s rq todo done) := by
  unfold activateHj
  repeat' with_reducible first
    | assumption | (intro x; first | (refine (fun (hx : Keeps a₀ x) => ?_) ?_; clear_value x) | clear_value x)
    | lift_lets | subst x | apply keeps_workErrors | apply keeps_loadBank | apply keeps_takeCache | apply keeps_markIvs
    | apply keeps_rset | apply keeps_modPlank | apply keeps_fileEvent | exact fun _ h => h | split
    | fail_if_no_progress apply keeps_free | exact keepsOpt_none | apply keepsOpt_some
    | refine keepsOpt_of ?_ (by assumption) | apply keeps_getD

theorem keeps_activateHosts {s : State} (h₀ : Keeps a₀ s) :
    KeepsOpt a₀ (activateHosts s) := by
  unfold activateHosts
  repeat' with_reducible first
    | assumption | (intro x; first | (refine (fun (hx : Keeps a₀ x) => ?_) ?_; clear_value x) | clear_value x)
    | lift_lets | subst x | apply keeps_qpError | refine keeps_foldl (fun _ _ _ => ?_) ?_ | apply keeps_rset
    | apply keeps_modPlank | apply keeps_fileEvent | exact fun _ h => h | split | fail_if_no_progress apply keeps_free
    | exact keepsOpt_none | apply keepsOpt_some | refine keepsOpt_of ?_ (by assumption) | apply keeps_getD

theorem keeps_activateLinks {s : State} (h₀ : Keeps a₀ s) :
    KeepsOpt a₀ (activateLinks s) := by
  unfold activateLinks
  repeat' with_reducible first
    | assumption | (intro x; first | (refine (fun (hx : Keeps a₀ x) => ?_) ?_; clear_value x) | clear_value x)
    | lift_lets | subst x | apply keeps_linkRetrainOp | refine keeps_foldl (fun _ _ _ => ?_) ?_ | apply keeps_rset
    | apply keeps_modPlank | apply keeps_fileEvent | exact fun _ h => h | split | fail_if_no_progress apply keeps_free
    | exact keepsOpt_none | apply keepsOpt_some | refine keepsOpt_of ?_ (by assumption) | apply keeps_getD

theorem keeps_activateLive {s : State} (h₀ : Keeps a₀ s) :
    Keeps a₀ (activateLive s) := by
  unfold activateLive
  repeat' with_reducible first
    | assumption | (intro x; first | (refine (fun (hx : Keeps a₀ x) => ?_) ?_; clear_value x) | clear_value x)
    | lift_lets | subst x | apply keeps_applyLive | apply keeps_rset | apply keeps_modPlank | apply keeps_fileEvent
    | exact fun _ h => h | split | fail_if_no_progress apply keeps_free

theorem keeps_activateFrom {rq : Req} {mask n done : Nat} {s : State} (h : Keeps a₀ s) :
    Keeps a₀ (activateFrom rq mask n done s).2 := by
  induction n generalizing done s with
  | zero => exact h
  | succ n ih =>
    unfold activateFrom
    dsimp only
    split
    · exact ih h
    · split
      · split
        · rename_i t e
          exact keeps_makeStale (keepsOpt_of (keeps_activateHj h) e)
        · exact h
      · have hr : KeepsOpt a₀ (if 3 - n = 1 then activateHosts s else if 3 - n = 2 then activateLinks s
            else some (activateLive s)) := by
          split
          · exact keeps_activateHosts h
          · split
            · exact keeps_activateLinks h
            · exact keepsOpt_some (keeps_activateLive h)
        split
        · rename_i t e
          exact ih (keeps_makeStale (hr _ e))
        · exact h

theorem keeps_noteRefusal {s : State} {a : Answer} (h₀ : Keeps a₀ s) :
    Keeps a₀ (noteRefusal s a) := by
  unfold noteRefusal
  repeat' with_reducible first
    | assumption | (intro x; first | (refine (fun (hx : Keeps a₀ x) => ?_) ?_; clear_value x) | clear_value x)
    | lift_lets | subst x | apply keeps_rset | apply keeps_modPlank | apply keeps_fileEvent | exact fun _ h => h
    | split | fail_if_no_progress apply keeps_free

theorem keeps_activationEnds {s : State} {a : Activation} (h₀ : Keeps a₀ s) :
    Keeps a₀ (activationEnds s a) := by
  unfold activationEnds
  repeat' with_reducible first
    | assumption
    | (intro x; first | (refine (fun (hx : Keeps a₀ x) => ?_) ?_; clear_value x) | (refine (fun (hx : Keeps a₀ x.2) => ?_) ?_; clear_value x) | (refine (fun (hx : Keeps a₀ x.1) => ?_) ?_; clear_value x) | clear_value x)
    | lift_lets | subst x | apply keeps_rset | apply keeps_rsat | apply keeps_fileEvent | apply keeps_activateFrom
    | apply keeps_respond | apply keeps_modPlank | exact fun _ h => h | split | fail_if_no_progress apply keeps_free
    | refine keeps_snd (by assumption) ?_ | refine keeps_fst (by assumption) ?_

theorem keeps_activationReverts {s : State} {a : Activation} (h₀ : Keeps a₀ s) :
    Keeps a₀ (activationReverts s a) := by
  unfold activationReverts
  repeat' with_reducible first
    | assumption | (intro x; first | (refine (fun (hx : Keeps a₀ x) => ?_) ?_; clear_value x) | clear_value x)
    | lift_lets | subst x | apply keeps_rset | apply keeps_fileEvent | apply keeps_alert | apply keeps_respond
    | apply keeps_noteRefusal | apply keeps_makeStale | apply keeps_modPlank | exact fun _ h => h | split
    | fail_if_no_progress apply keeps_free

end Sys2Proof.Machine
end

