-- ==== Sys2Proof/Laws/KeepsCore.lean ====
section
/-! SUPPORT. One lemma per operation and per meaning: it keeps the tables canonical and the queue as it is; here planks, their cores and vector units. -/
namespace Sys2Proof.Machine

set_option linter.all false

variable {a₀ : State}

/-! ## Plank -/

theorem keeps_execPassIssue {s : State} {p : PlankId} {rd : XReg} {rs1 : XReg} {ecc : CoreEcc} (h₀ : Keeps a₀ s) {t₀ : State}
    (e : execPassIssue p rd rs1 ecc s = .next t₀) : Keeps a₀ t₀ := by
  unfold execPassIssue at e
  injection e with e
  subst e
  repeat' with_reducible first
    | assumption
    | (intro x; first | (refine (fun (hx : Keeps a₀ x) => ?_) ?_; clear_value x) | (refine (fun (hx : Keeps a₀ x.2) => ?_) ?_; clear_value x) | (refine (fun (hx : Keeps a₀ x.1) => ?_) ?_; clear_value x) | clear_value x)
    | lift_lets | subst x | apply keeps_coreStop | apply keeps_coreTrap | apply keeps_coreHold | apply keeps_issuePass
    | apply keeps_coreNext | apply keeps_setX | apply keeps_rset | apply keeps_modPlank | apply keeps_fileEvent
    | exact fun _ h => h | split | fail_if_no_progress apply keeps_free

theorem keeps_feedCheck {s : State} {p : ℕ} {r : PassRun} {sampled : Bool} (h₀ : Keeps a₀ s) :
    KeepsOpt a₀ (feedCheck s p r sampled) := by
  unfold feedCheck
  repeat' with_reducible first
    | assumption | (intro x; first | (refine (fun (hx : Keeps a₀ x) => ?_) ?_; clear_value x) | clear_value x)
    | lift_lets | subst x | apply keeps_bankFault | apply keeps_feedFault | apply keeps_rset | apply keeps_modPlank
    | apply keeps_fileEvent | exact fun _ h => h | split | fail_if_no_progress apply keeps_free | exact keepsOpt_none
    | apply keepsOpt_some | refine keepsOpt_of ?_ (by assumption) | apply keeps_getD
    | refine keeps_snd (by assumption) ?_ | refine keeps_fst (by assumption) ?_

theorem keeps_execPassBegin {s : State} {p : PlankId} {corrected : BitVec 32} (h₀ : Keeps a₀ s) {t₀ : State}
    (e : execPassBegin p corrected s = .next t₀) : Keeps a₀ t₀ := by
  unfold execPassBegin at e
  injection e with e
  subst e
  repeat' with_reducible first
    | assumption | (intro x; first | (refine (fun (hx : Keeps a₀ x) => ?_) ?_; clear_value x) | clear_value x)
    | lift_lets | subst x | apply keeps_rsat | apply keeps_enterPass | apply keeps_refreshPlank | apply keeps_modPlank
    | apply keeps_rset | apply keeps_fileEvent | exact fun _ h => h | split | fail_if_no_progress apply keeps_free
    | refine keeps_snd (by assumption) ?_ | refine keeps_fst (by assumption) ?_

theorem keeps_endPass {s : State} {p : ℕ} {r : PassRun} (h₀ : Keeps a₀ s) :
    Keeps a₀ (endPass s p r) := by
  unfold endPass
  repeat' with_reducible first
    | assumption | (intro x; first | (refine (fun (hx : Keeps a₀ x) => ?_) ?_; clear_value x) | clear_value x)
    | lift_lets | subst x | apply keeps_feedCheck | apply keeps_runBlocks | apply keeps_setAccState | apply keeps_rset
    | apply keeps_refreshPlank | apply keeps_modPlank | apply keeps_fileEvent | exact fun _ h => h | split
    | fail_if_no_progress apply keeps_free | exact keepsOpt_none | apply keepsOpt_some
    | refine keepsOpt_of ?_ (by assumption) | apply keeps_getD | refine keeps_snd (by assumption) ?_
    | refine keeps_fst (by assumption) ?_

theorem keeps_execPassEnd {s : State} {p : PlankId} (h₀ : Keeps a₀ s) {t₀ : State}
    (e : execPassEnd p s = .next t₀) : Keeps a₀ t₀ := by
  unfold execPassEnd at e
  injection e with e
  subst e
  repeat' with_reducible first
    | assumption | (intro x; first | (refine (fun (hx : Keeps a₀ x) => ?_) ?_; clear_value x) | clear_value x)
    | lift_lets | subst x | apply keeps_endPass | apply keeps_rset | apply keeps_modPlank | apply keeps_fileEvent
    | exact fun _ h => h | split | fail_if_no_progress apply keeps_free | refine keeps_snd (by assumption) ?_
    | refine keeps_fst (by assumption) ?_

theorem keeps_segFault {s : State} {p : ℕ} {js : List SegJob} {ecc : CoreEcc} (h₀ : Keeps a₀ s) :
    KeepsOpt a₀ (segFault s p js ecc) := by
  unfold segFault
  repeat' with_reducible first
    | assumption | (intro x; first | (refine (fun (hx : Keeps a₀ x) => ?_) ?_; clear_value x) | clear_value x)
    | lift_lets | subst x | apply keeps_bankFault | apply keeps_feedFault | apply keeps_rset | apply keeps_modPlank
    | apply keeps_fileEvent | exact fun _ h => h | split | fail_if_no_progress apply keeps_free | exact keepsOpt_none
    | apply keepsOpt_some | refine keepsOpt_of ?_ (by assumption) | apply keeps_getD
    | refine keeps_snd (by assumption) ?_ | refine keeps_fst (by assumption) ?_

theorem keeps_execSedgeSegment {s : State} {p : PlankId} {ecc : CoreEcc} (h : Keeps a₀ s) {t₀ : State}
    (e : execSedgeSegment p ecc s = .next t₀) : Keeps a₀ t₀ := by
  unfold execSedgeSegment at e
  injection e with e
  subst e
  split
  · exact h
  · split
    · exact keepsOpt_of (keeps_segFault h) (by assumption)
    · exact keeps_modPlank (keeps_runSeg (keeps_eccCounts h))

theorem keeps_execDrainBegin {s : State} {p : PlankId} (h₀ : Keeps a₀ s) {t₀ : State}
    (e : execDrainBegin p s = .next t₀) : Keeps a₀ t₀ := by
  unfold execDrainBegin at e
  injection e with e
  subst e
  repeat' with_reducible first
    | assumption | (intro x; first | (refine (fun (hx : Keeps a₀ x) => ?_) ?_; clear_value x) | clear_value x)
    | lift_lets | subst x | apply keeps_refreshPlank | apply keeps_setAccState | apply keeps_rset
    | apply keeps_modPlank | apply keeps_fileEvent | exact fun _ h => h | split | fail_if_no_progress apply keeps_free
    | refine keeps_snd (by assumption) ?_ | refine keeps_fst (by assumption) ?_

theorem keeps_execDrainComplete {s : State} {p : PlankId} {ecc : CoreEcc} (h₀ : Keeps a₀ s) {t₀ : State}
    (e : execDrainComplete p ecc s = .next t₀) : Keeps a₀ t₀ := by
  unfold execDrainComplete at e
  injection e with e
  subst e
  repeat' with_reducible first
    | assumption | (intro x; first | (refine (fun (hx : Keeps a₀ x) => ?_) ?_; clear_value x) | clear_value x)
    | lift_lets | subst x | apply keeps_finishDrain | apply keeps_rset | apply keeps_modPlank | apply keeps_fileEvent
    | exact fun _ h => h | split | fail_if_no_progress apply keeps_free

theorem keeps_execPlankFault {s : State} {p : PlankId} {code : BitVec 8} (h₀ : Keeps a₀ s) {t₀ : State}
    (e : execPlankFault p code s = .next t₀) : Keeps a₀ t₀ := by
  unfold execPlankFault at e
  injection e with e
  subst e
  repeat' with_reducible first
    | assumption | (intro x; first | (refine (fun (hx : Keeps a₀ x) => ?_) ?_; clear_value x) | clear_value x)
    | lift_lets | subst x | apply keeps_feedFault | apply keeps_plankFaultOp | apply keeps_rset | apply keeps_modPlank
    | apply keeps_fileEvent | exact fun _ h => h | split | fail_if_no_progress apply keeps_free

theorem keeps_execPlankSuspendCmd {s : State} {p : PlankId} {w : Writer} (h₀ : Keeps a₀ s) {t₀ : State}
    (e : execPlankSuspendCmd p w s = .next t₀) : Keeps a₀ t₀ := by
  unfold execPlankSuspendCmd at e
  injection e with e
  subst e
  repeat' with_reducible first
    | assumption | (intro x; first | (refine (fun (hx : Keeps a₀ x) => ?_) ?_; clear_value x) | clear_value x)
    | lift_lets | subst x | refine keeps_regCommand (fun _ _ => ?_) ?_ | apply keeps_suspendArray
    | apply keeps_suspendCore | apply keeps_rset | apply keeps_modPlank | apply keeps_fileEvent | exact fun _ h => h
    | split | fail_if_no_progress apply keeps_free

theorem keeps_faultAck {s : State} {p : ℕ} (h₀ : Keeps a₀ s) :
    Keeps a₀ (faultAck s p) := by
  unfold faultAck
  repeat' with_reducible first
    | assumption | (intro x; first | (refine (fun (hx : Keeps a₀ x) => ?_) ?_; clear_value x) | clear_value x)
    | lift_lets | subst x | apply keeps_setPlankState | apply keeps_rset | apply keeps_modPlank | apply keeps_fileEvent
    | exact fun _ h => h | split | fail_if_no_progress apply keeps_free

theorem keeps_execPlankFaultAck {s : State} {p : PlankId} {w : Writer} (h₀ : Keeps a₀ s) {t₀ : State}
    (e : execPlankFaultAck p w s = .next t₀) : Keeps a₀ t₀ := by
  unfold execPlankFaultAck at e
  injection e with e
  subst e
  repeat' with_reducible first
    | assumption | (intro x; first | (refine (fun (hx : Keeps a₀ x) => ?_) ?_; clear_value x) | clear_value x)
    | lift_lets | subst x | refine keeps_regCommand (fun _ _ => ?_) ?_ | apply keeps_faultAck | apply keeps_rset
    | apply keeps_modPlank | apply keeps_fileEvent | exact fun _ h => h | split | fail_if_no_progress apply keeps_free

theorem keeps_discardSpill {s : State} {p : ℕ} (h₀ : Keeps a₀ s) :
    Keeps a₀ (discardSpill s p) := by
  unfold discardSpill
  repeat' with_reducible first
    | assumption | (intro x; first | (refine (fun (hx : Keeps a₀ x) => ?_) ?_; clear_value x) | clear_value x)
    | lift_lets | subst x | apply keeps_rset | apply keeps_setPlankState | apply keeps_refreshPlank
    | apply keeps_contextLost | apply keeps_modPlank | apply keeps_fileEvent | exact fun _ h => h | split
    | fail_if_no_progress apply keeps_free

theorem keeps_execPlankDiscardSpill {s : State} {p : PlankId} {w : Writer} (h₀ : Keeps a₀ s) {t₀ : State}
    (e : execPlankDiscardSpill p w s = .next t₀) : Keeps a₀ t₀ := by
  unfold execPlankDiscardSpill at e
  injection e with e
  subst e
  repeat' with_reducible first
    | assumption | (intro x; first | (refine (fun (hx : Keeps a₀ x) => ?_) ?_; clear_value x) | clear_value x)
    | lift_lets | subst x | refine keeps_regCommand (fun _ _ => ?_) ?_ | apply keeps_discardSpill | apply keeps_rset
    | apply keeps_modPlank | apply keeps_fileEvent | exact fun _ h => h | split | fail_if_no_progress apply keeps_free

theorem keeps_stopFeed {s : State} {p : ℕ} {pos : ℕ} (h₀ : Keeps a₀ s) :
    Keeps a₀ (stopFeed s p pos) := by
  unfold stopFeed
  repeat' with_reducible first
    | assumption | (intro x; first | (refine (fun (hx : Keeps a₀ x) => ?_) ?_; clear_value x) | clear_value x)
    | lift_lets | subst x | apply keeps_runBlocks | apply keeps_runSeg | apply keeps_modPlank
    | refine keeps_foldl (fun _ _ _ => ?_) ?_ | apply keeps_rset | apply keeps_fileEvent | exact fun _ h => h | split
    | fail_if_no_progress apply keeps_free | refine keeps_snd (by assumption) ?_ | refine keeps_fst (by assumption) ?_

theorem keeps_beginSpill {s : State} {p : ℕ} {ecc : CoreEcc} (h₀ : Keeps a₀ s) :
    Keeps a₀ (beginSpill s p ecc) := by
  unfold beginSpill
  repeat' with_reducible first
    | assumption
    | (intro x; first | (refine (fun (hx : Keeps a₀ x) => ?_) ?_; clear_value x) | (refine (fun (hx : Keeps a₀ x.2) => ?_) ?_; clear_value x) | (refine (fun (hx : Keeps a₀ x.1) => ?_) ?_; clear_value x) | clear_value x)
    | lift_lets | subst x | apply keeps_plankFaultOp | apply keeps_spillViolation | apply keeps_feedFault
    | apply keeps_fillWithdraw | apply keeps_storeRec | apply keeps_spillAcc | apply keeps_modPlank | apply keeps_rset
    | apply keeps_fileEvent | exact fun _ h => h | split | fail_if_no_progress apply keeps_free
    | refine keeps_snd (by assumption) ?_ | refine keeps_fst (by assumption) ?_

theorem keeps_execSpillStart {s : State} {p : PlankId} {pos : BitVec 24} {ecc : CoreEcc} (h₀ : Keeps a₀ s) {t₀ : State}
    (e : execSpillStart p pos ecc s = .next t₀) : Keeps a₀ t₀ := by
  unfold execSpillStart at e
  injection e with e
  subst e
  repeat' with_reducible first
    | assumption | (intro x; first | (refine (fun (hx : Keeps a₀ x) => ?_) ?_; clear_value x) | clear_value x)
    | lift_lets | subst x | apply keeps_feedCheck | apply keeps_segFault | apply keeps_beginSpill
    | apply keeps_stopFeed | apply keeps_eccCounts | apply keeps_rset | apply keeps_modPlank | apply keeps_fileEvent
    | exact fun _ h => h | split | fail_if_no_progress apply keeps_free | exact keepsOpt_none | apply keepsOpt_some
    | refine keepsOpt_of ?_ (by assumption) | apply keeps_getD | refine keeps_snd (by assumption) ?_
    | refine keeps_fst (by assumption) ?_

theorem keeps_posRecord {s : State} {p : ℕ} {sel : ℕ} {kind : ℕ} (h₀ : Keeps a₀ s) :
    Keeps a₀ (posRecord s p sel kind) := by
  unfold posRecord
  repeat' with_reducible first
    | assumption | (intro x; first | (refine (fun (hx : Keeps a₀ x) => ?_) ?_; clear_value x) | clear_value x)
    | lift_lets | subst x | apply keeps_excRecord | apply keeps_rset | apply keeps_modPlank | apply keeps_fileEvent
    | exact fun _ h => h | split | fail_if_no_progress apply keeps_free

theorem keeps_spillDone {s : State} {p : ℕ} (h₀ : Keeps a₀ s) :
    Keeps a₀ (spillDone s p) := by
  unfold spillDone
  repeat' with_reducible first
    | assumption | (intro x; first | (refine (fun (hx : Keeps a₀ x) => ?_) ?_; clear_value x) | clear_value x)
    | lift_lets | subst x | apply keeps_posRecord | apply keeps_rset | apply keeps_setAccState
    | apply keeps_setPlankState | apply keeps_modPlank | apply keeps_store | apply keeps_fileEvent | exact fun _ h => h
    | split | fail_if_no_progress apply keeps_free

theorem keeps_execSpillComplete {s : State} {p : PlankId} (h₀ : Keeps a₀ s) {t₀ : State}
    (e : execSpillComplete p s = .next t₀) : Keeps a₀ t₀ := by
  unfold execSpillComplete at e
  injection e with e
  subst e
  repeat' with_reducible first
    | assumption | (intro x; first | (refine (fun (hx : Keeps a₀ x) => ?_) ?_; clear_value x) | clear_value x)
    | lift_lets | subst x | apply keeps_spillDone | apply keeps_rset | apply keeps_modPlank | apply keeps_fileEvent
    | exact fun _ h => h | split | fail_if_no_progress apply keeps_free

theorem keeps_reloadDone {s : State} {p : ℕ} {r : PassRun} (h₀ : Keeps a₀ s) :
    Keeps a₀ (reloadDone s p r) := by
  unfold reloadDone
  repeat' with_reducible first
    | assumption
    | (intro x; first | (refine (fun (hx : Keeps a₀ x) => ?_) ?_; clear_value x) | (refine (fun (hx : Keeps a₀ x.2) => ?_) ?_; clear_value x) | (refine (fun (hx : Keeps a₀ x.1) => ?_) ?_; clear_value x) | clear_value x)
    | lift_lets | subst x | apply keeps_reloadAcc | apply keeps_rset | apply keeps_posRecord | apply keeps_setAcc
    | apply keeps_refreshPlank | apply keeps_issuePass | apply keeps_modPlank | apply keeps_fileEvent
    | exact fun _ h => h | split | fail_if_no_progress apply keeps_free | refine keeps_snd (by assumption) ?_
    | refine keeps_fst (by assumption) ?_

theorem keeps_execSpillReloadComplete {s : State} {p : PlankId} {ecc : CoreEcc} (h₀ : Keeps a₀ s) {t₀ : State}
    (e : execSpillReloadComplete p ecc s = .next t₀) : Keeps a₀ t₀ := by
  unfold execSpillReloadComplete at e
  injection e with e
  subst e
  repeat' with_reducible first
    | assumption | (intro x; first | (refine (fun (hx : Keeps a₀ x) => ?_) ?_; clear_value x) | clear_value x)
    | lift_lets | subst x | apply keeps_plankFaultOp | apply keeps_spillViolation | apply keeps_feedFault
    | apply keeps_eccCounts | apply keeps_reloadDone | apply keeps_rset | apply keeps_modPlank | apply keeps_fileEvent
    | exact fun _ h => h | split | fail_if_no_progress apply keeps_free | refine keeps_snd (by assumption) ?_
    | refine keeps_fst (by assumption) ?_

theorem keeps_requestImage {s : State} {p : ℕ} {load : Bool} {rd : XReg} {rs1 : XReg} {rs2 : XReg} (h₀ : Keeps a₀ s) :
    Keeps a₀ (requestImage s p load rd rs1 rs2) := by
  unfold requestImage
  repeat' with_reducible first
    | assumption | (intro x; first | (refine (fun (hx : Keeps a₀ x) => ?_) ?_; clear_value x) | clear_value x)
    | lift_lets | subst x | apply keeps_coreTrap | apply keeps_coreHold | apply keeps_modPlank | apply keeps_rset
    | apply keeps_fileEvent | exact fun _ h => h | split | fail_if_no_progress apply keeps_free

theorem keeps_execAccAddout {s : State} {p : PlankId} {rd : XReg} {rs1 : XReg} {rs2 : XReg} (h₀ : Keeps a₀ s) {t₀ : State}
    (e : execAccAddout p rd rs1 rs2 s = .next t₀) : Keeps a₀ t₀ := by
  unfold execAccAddout at e
  injection e with e
  subst e
  repeat' with_reducible first
    | assumption | (intro x; first | (refine (fun (hx : Keeps a₀ x) => ?_) ?_; clear_value x) | clear_value x)
    | lift_lets | subst x | apply keeps_requestImage | apply keeps_rset | apply keeps_modPlank | apply keeps_fileEvent
    | exact fun _ h => h | split | fail_if_no_progress apply keeps_free

theorem keeps_execAccLoadin {s : State} {p : PlankId} {rd : XReg} {rs1 : XReg} {rs2 : XReg} (h₀ : Keeps a₀ s) {t₀ : State}
    (e : execAccLoadin p rd rs1 rs2 s = .next t₀) : Keeps a₀ t₀ := by
  unfold execAccLoadin at e
  injection e with e
  subst e
  repeat' with_reducible first
    | assumption | (intro x; first | (refine (fun (hx : Keeps a₀ x) => ?_) ?_; clear_value x) | clear_value x)
    | lift_lets | subst x | apply keeps_requestImage | apply keeps_rset | apply keeps_modPlank | apply keeps_fileEvent
    | exact fun _ h => h | split | fail_if_no_progress apply keeps_free

theorem keeps_imageAnswer {s : State} {p : ℕ} {q : ImageReq} {code : ℕ} (h₀ : Keeps a₀ s) :
    Keeps a₀ (imageAnswer s p q code) := by
  unfold imageAnswer
  repeat' with_reducible first
    | assumption | (intro x; first | (refine (fun (hx : Keeps a₀ x) => ?_) ?_; clear_value x) | clear_value x)
    | lift_lets | subst x | apply keeps_coreNext | apply keeps_setX | apply keeps_rset | apply keeps_modPlank
    | apply keeps_fileEvent | exact fun _ h => h | split | fail_if_no_progress apply keeps_free

theorem keeps_setImage {s : State} {p : ℕ} {image : ℕ} {st : ℕ} (h₀ : Keeps a₀ s) :
    Keeps a₀ (setImage s p image st) := by
  unfold setImage
  repeat' with_reducible first
    | assumption | (intro x; first | (refine (fun (hx : Keeps a₀ x) => ?_) ?_; clear_value x) | clear_value x)
    | lift_lets | subst x | apply keeps_storeRec | apply keeps_rset | apply keeps_modPlank | apply keeps_fileEvent
    | exact fun _ h => h | split | fail_if_no_progress apply keeps_free

theorem keeps_fillLeaves {s : State} {p : ℕ} (h₀ : Keeps a₀ s) :
    Keeps a₀ (fillLeaves s p) := by
  unfold fillLeaves
  repeat' with_reducible first
    | assumption | (intro x; first | (refine (fun (hx : Keeps a₀ x) => ?_) ?_; clear_value x) | clear_value x)
    | lift_lets | subst x | apply keeps_rset | apply keeps_setAcc | apply keeps_modPlank | apply keeps_fileEvent
    | exact fun _ h => h | split | fail_if_no_progress apply keeps_free

theorem keeps_beginImage {s : State} {p : ℕ} {q : ImageReq} {ecc : CoreEcc} (h₀ : Keeps a₀ s) :
    Keeps a₀ (beginImage s p q ecc) := by
  unfold beginImage
  repeat' with_reducible first
    | assumption | (intro x; first | (refine (fun (hx : Keeps a₀ x) => ?_) ?_; clear_value x) | clear_value x)
    | lift_lets | subst x | apply keeps_imageAnswer | apply keeps_bankFault | apply keeps_eccCounts
    | apply keeps_feedFault | apply keeps_refusePass | apply keeps_fillDrop | apply keeps_fillLeaves
    | apply keeps_setImage | apply keeps_refreshPlank | apply keeps_modPlank | apply keeps_rset | apply keeps_fileEvent
    | exact fun _ h => h | split | fail_if_no_progress apply keeps_free | refine keeps_snd (by assumption) ?_
    | refine keeps_fst (by assumption) ?_

theorem keeps_execAddoutBegin {s : State} {p : PlankId} {ecc : CoreEcc} (h₀ : Keeps a₀ s) {t₀ : State}
    (e : execAddoutBegin p ecc s = .next t₀) : Keeps a₀ t₀ := by
  unfold execAddoutBegin at e
  injection e with e
  subst e
  repeat' with_reducible first
    | assumption | (intro x; first | (refine (fun (hx : Keeps a₀ x) => ?_) ?_; clear_value x) | clear_value x)
    | lift_lets | subst x | apply keeps_beginImage | apply keeps_rset | apply keeps_modPlank | apply keeps_fileEvent
    | exact fun _ h => h | split | fail_if_no_progress apply keeps_free | refine keeps_snd (by assumption) ?_
    | refine keeps_fst (by assumption) ?_

theorem keeps_addImage {s : State} {p : ℕ} {q : ImageReq} (h₀ : Keeps a₀ s) :
    Keeps a₀ (addImage s p q) := by
  unfold addImage
  repeat' with_reducible first
    | assumption | (intro x; first | (refine (fun (hx : Keeps a₀ x) => ?_) ?_; clear_value x) | clear_value x)
    | lift_lets | subst x | apply keeps_storeRec | apply keeps_store | apply keeps_storeKeep | apply keeps_rset
    | apply keeps_modPlank | apply keeps_fileEvent | exact fun _ h => h | split | fail_if_no_progress apply keeps_free

theorem keeps_addoutDone {s : State} {p : ℕ} {q : ImageReq} (h₀ : Keeps a₀ s) :
    Keeps a₀ (addoutDone s p q) := by
  unfold addoutDone
  repeat' with_reducible first
    | assumption | (intro x; first | (refine (fun (hx : Keeps a₀ x) => ?_) ?_; clear_value x) | clear_value x)
    | lift_lets | subst x | apply keeps_chkFinish | apply keeps_setImage | apply keeps_addImage
    | apply keeps_releaseAcc | apply keeps_fillComplete | apply keeps_refreshPlank | apply keeps_modPlank
    | apply keeps_rset | apply keeps_fileEvent | exact fun _ h => h | split | fail_if_no_progress apply keeps_free

theorem keeps_execAddoutComplete {s : State} {p : PlankId} {ecc : CoreEcc} (h₀ : Keeps a₀ s) {t₀ : State}
    (e : execAddoutComplete p ecc s = .next t₀) : Keeps a₀ t₀ := by
  unfold execAddoutComplete at e
  injection e with e
  subst e
  repeat' with_reducible first
    | assumption | (intro x; first | (refine (fun (hx : Keeps a₀ x) => ?_) ?_; clear_value x) | clear_value x)
    | lift_lets | subst x | apply keeps_bankFault | apply keeps_feedFault | apply keeps_addoutDone
    | apply keeps_eccCounts | apply keeps_rset | apply keeps_modPlank | apply keeps_fileEvent | exact fun _ h => h
    | split | fail_if_no_progress apply keeps_free | refine keeps_snd (by assumption) ?_
    | refine keeps_fst (by assumption) ?_

theorem keeps_execLoadinBegin {s : State} {p : PlankId} {ecc : CoreEcc} (h₀ : Keeps a₀ s) {t₀ : State}
    (e : execLoadinBegin p ecc s = .next t₀) : Keeps a₀ t₀ := by
  unfold execLoadinBegin at e
  injection e with e
  subst e
  repeat' with_reducible first
    | assumption | (intro x; first | (refine (fun (hx : Keeps a₀ x) => ?_) ?_; clear_value x) | clear_value x)
    | lift_lets | subst x | apply keeps_beginImage | apply keeps_rset | apply keeps_modPlank | apply keeps_fileEvent
    | exact fun _ h => h | split | fail_if_no_progress apply keeps_free | refine keeps_snd (by assumption) ?_
    | refine keeps_fst (by assumption) ?_

theorem keeps_loadinDone {s : State} {p : ℕ} {q : ImageReq} (h₀ : Keeps a₀ s) :
    Keeps a₀ (loadinDone s p q) := by
  unfold loadinDone
  repeat' with_reducible first
    | assumption | (intro x; first | (refine (fun (hx : Keeps a₀ x) => ?_) ?_; clear_value x) | clear_value x)
    | lift_lets | subst x | apply keeps_setAcc | apply keeps_setAccState | apply keeps_refreshPlank
    | apply keeps_modPlank | apply keeps_rset | apply keeps_fileEvent | exact fun _ h => h | split
    | fail_if_no_progress apply keeps_free

theorem keeps_execLoadinComplete {s : State} {p : PlankId} {ecc : CoreEcc} (h₀ : Keeps a₀ s) {t₀ : State}
    (e : execLoadinComplete p ecc s = .next t₀) : Keeps a₀ t₀ := by
  unfold execLoadinComplete at e
  injection e with e
  subst e
  repeat' with_reducible first
    | assumption | (intro x; first | (refine (fun (hx : Keeps a₀ x) => ?_) ?_; clear_value x) | clear_value x)
    | lift_lets | subst x | apply keeps_bankFault | apply keeps_feedFault | apply keeps_eccCounts
    | apply keeps_loadinDone | apply keeps_rset | apply keeps_modPlank | apply keeps_fileEvent | exact fun _ h => h
    | split | fail_if_no_progress apply keeps_free | refine keeps_snd (by assumption) ?_
    | refine keeps_fst (by assumption) ?_

theorem keeps_execPassFence {s : State} {p : PlankId} {rd : XReg} (h₀ : Keeps a₀ s) {t₀ : State}
    (e : execPassFence p rd s = .next t₀) : Keeps a₀ t₀ := by
  unfold execPassFence at e
  injection e with e
  subst e
  repeat' with_reducible first
    | assumption | (intro x; first | (refine (fun (hx : Keeps a₀ x) => ?_) ?_; clear_value x) | clear_value x)
    | lift_lets | subst x | apply keeps_coreNext | apply keeps_setX | apply keeps_coreHold | apply keeps_rset
    | apply keeps_modPlank | apply keeps_fileEvent | exact fun _ h => h | split | fail_if_no_progress apply keeps_free

theorem keeps_execPlankSusp {s : State} {p : PlankId} (h₀ : Keeps a₀ s) {t₀ : State}
    (e : execPlankSusp p s = .next t₀) : Keeps a₀ t₀ := by
  unfold execPlankSusp at e
  injection e with e
  subst e
  repeat' with_reducible first
    | assumption | (intro x; first | (refine (fun (hx : Keeps a₀ x) => ?_) ?_; clear_value x) | clear_value x)
    | lift_lets | subst x | apply keeps_coreStop | apply keeps_rset | apply keeps_modPlank | apply keeps_fileEvent
    | exact fun _ h => h | split | fail_if_no_progress apply keeps_free

/-! ## Sounding -/

theorem keeps_sliceBegins {s : State} {p : ℕ} (h₀ : Keeps a₀ s) :
    Keeps a₀ (sliceBegins s p) := by
  unfold sliceBegins
  repeat' with_reducible first
    | assumption | (intro x; first | (refine (fun (hx : Keeps a₀ x) => ?_) ?_; clear_value x) | clear_value x)
    | lift_lets | subst x | apply keeps_rset | apply keeps_tick | apply keeps_modPlank | apply keeps_fileEvent
    | exact fun _ h => h | split | fail_if_no_progress apply keeps_free

theorem keeps_execSoundingSlice {s : State} {p : PlankId} (h₀ : Keeps a₀ s) {t₀ : State}
    (e : execSoundingSlice p s = .next t₀) : Keeps a₀ t₀ := by
  unfold execSoundingSlice at e
  injection e with e
  subst e
  repeat' with_reducible first
    | assumption | (intro x; first | (refine (fun (hx : Keeps a₀ x) => ?_) ?_; clear_value x) | clear_value x)
    | lift_lets | subst x | apply keeps_sliceBegins | apply keeps_rset | apply keeps_modPlank | apply keeps_fileEvent
    | exact fun _ h => h | split | fail_if_no_progress apply keeps_free

theorem keeps_slicePassed {s : State} {p : ℕ} (h₀ : Keeps a₀ s) :
    Keeps a₀ (slicePassed s p) := by
  unfold slicePassed
  repeat' with_reducible first
    | assumption | (intro x; first | (refine (fun (hx : Keeps a₀ x) => ?_) ?_; clear_value x) | clear_value x)
    | lift_lets | subst x | apply keeps_rset | apply keeps_chargeSoon | apply keeps_modPlank | apply keeps_fileEvent
    | exact fun _ h => h | split | fail_if_no_progress apply keeps_free

theorem keeps_sliceFailed {s : State} {p : ℕ} (h₀ : Keeps a₀ s) :
    Keeps a₀ (sliceFailed s p) := by
  unfold sliceFailed
  repeat' with_reducible first
    | assumption | (intro x; first | (refine (fun (hx : Keeps a₀ x) => ?_) ?_; clear_value x) | clear_value x)
    | lift_lets | subst x | apply keeps_rsat | apply keeps_chargeSoon | apply keeps_decideMask | apply keeps_rset
    | apply keeps_modPlank | apply keeps_fileEvent | exact fun _ h => h | split | fail_if_no_progress apply keeps_free

theorem keeps_sliceEnds {s : State} {p : ℕ} {passed : Bool} (h₀ : Keeps a₀ s) :
    Keeps a₀ (sliceEnds s p passed) := by
  unfold sliceEnds
  repeat' with_reducible first
    | assumption | (intro x; first | (refine (fun (hx : Keeps a₀ x) => ?_) ?_; clear_value x) | clear_value x)
    | lift_lets | subst x | apply keeps_rset | apply keeps_slicePassed | apply keeps_sliceFailed | apply keeps_modPlank
    | apply keeps_fileEvent | exact fun _ h => h | split | fail_if_no_progress apply keeps_free

theorem keeps_execSoundingSliceEnd {s : State} {p : PlankId} {passed : Bool} (h₀ : Keeps a₀ s) {t₀ : State}
    (e : execSoundingSliceEnd p passed s = .next t₀) : Keeps a₀ t₀ := by
  unfold execSoundingSliceEnd at e
  injection e with e
  subst e
  repeat' with_reducible first
    | assumption | (intro x; first | (refine (fun (hx : Keeps a₀ x) => ?_) ?_; clear_value x) | clear_value x)
    | lift_lets | subst x | apply keeps_sliceEnds | apply keeps_rset | apply keeps_modPlank | apply keeps_fileEvent
    | exact fun _ h => h | split | fail_if_no_progress apply keeps_free

theorem keeps_armSlices {s : State} {p : ℕ} {n : ℕ} (h₀ : Keeps a₀ s) :
    Keeps a₀ (armSlices s p n) := by
  unfold armSlices
  repeat' with_reducible first
    | assumption | (intro x; first | (refine (fun (hx : Keeps a₀ x) => ?_) ?_; clear_value x) | clear_value x)
    | lift_lets | subst x | apply keeps_rsat | apply keeps_modPlank | apply keeps_rset | apply keeps_fileEvent
    | exact fun _ h => h | split | fail_if_no_progress apply keeps_free

theorem keeps_execSoundWinArm {s : State} {p : PlankId} {w : Writer} {n : BitVec 8} (h₀ : Keeps a₀ s) {t₀ : State}
    (e : execSoundWinArm p w n s = .next t₀) : Keeps a₀ t₀ := by
  unfold execSoundWinArm at e
  injection e with e
  subst e
  repeat' with_reducible first
    | assumption | (intro x; first | (refine (fun (hx : Keeps a₀ x) => ?_) ?_; clear_value x) | clear_value x)
    | lift_lets | subst x | refine keeps_regCommand (fun _ _ => ?_) ?_ | apply keeps_armSlices | apply keeps_rset
    | apply keeps_modPlank | apply keeps_fileEvent | exact fun _ h => h | split | fail_if_no_progress apply keeps_free

theorem keeps_noteOverdue {s : State} {p : ℕ} (h₀ : Keeps a₀ s) :
    Keeps a₀ (noteOverdue s p) := by
  unfold noteOverdue
  repeat' with_reducible first
    | assumption | (intro x; first | (refine (fun (hx : Keeps a₀ x) => ?_) ?_; clear_value x) | clear_value x)
    | lift_lets | subst x | apply keeps_fileEvent | apply keeps_modPlank | apply keeps_rset | exact fun _ h => h
    | split | fail_if_no_progress apply keeps_free

theorem keeps_execSoundOverdue {s : State} {p : PlankId} (h₀ : Keeps a₀ s) {t₀ : State}
    (e : execSoundOverdue p s = .next t₀) : Keeps a₀ t₀ := by
  unfold execSoundOverdue at e
  injection e with e
  subst e
  repeat' with_reducible first
    | assumption | (intro x; first | (refine (fun (hx : Keeps a₀ x) => ?_) ?_; clear_value x) | clear_value x)
    | lift_lets | subst x | apply keeps_noteOverdue | apply keeps_rset | apply keeps_modPlank | apply keeps_fileEvent
    | exact fun _ h => h | split | fail_if_no_progress apply keeps_free

theorem keeps_nominal {s : State} {p : ℕ} (h₀ : Keeps a₀ s) :
    Keeps a₀ (nominal s p) := by
  unfold nominal
  repeat' with_reducible first
    | assumption | (intro x; first | (refine (fun (hx : Keeps a₀ x) => ?_) ?_; clear_value x) | clear_value x)
    | lift_lets | subst x | apply keeps_rset | apply keeps_modPlank | apply keeps_fileEvent | exact fun _ h => h
    | split | fail_if_no_progress apply keeps_free

theorem keeps_restorePlank {s : State} {p : ℕ} (h₀ : Keeps a₀ s) :
    Keeps a₀ (restorePlank s p) := by
  unfold restorePlank
  repeat' with_reducible first
    | assumption | (intro x; first | (refine (fun (hx : Keeps a₀ x) => ?_) ?_; clear_value x) | clear_value x)
    | lift_lets | subst x | apply keeps_nominal | apply keeps_peatRecord | apply keeps_rset | apply keeps_modPlank
    | apply keeps_fileEvent | exact fun _ h => h | split | fail_if_no_progress apply keeps_free

theorem keeps_unmaskPlank {s : State} {p : ℕ} (h₀ : Keeps a₀ s) :
    Keeps a₀ (unmaskPlank s p) := by
  unfold unmaskPlank
  repeat' with_reducible first
    | assumption | (intro x; first | (refine (fun (hx : Keeps a₀ x) => ?_) ?_; clear_value x) | clear_value x)
    | lift_lets | subst x | apply keeps_setPlankState | apply keeps_rset | apply keeps_restorePlank
    | apply keeps_modPlank | apply keeps_fileEvent | exact fun _ h => h | split | fail_if_no_progress apply keeps_free

theorem keeps_execIntegRestore {s : State} {p : PlankId} {w : Writer} (h₀ : Keeps a₀ s) {t₀ : State}
    (e : execIntegRestore p w s = .next t₀) : Keeps a₀ t₀ := by
  unfold execIntegRestore at e
  injection e with e
  subst e
  repeat' with_reducible first
    | assumption | (intro x; first | (refine (fun (hx : Keeps a₀ x) => ?_) ?_; clear_value x) | clear_value x)
    | lift_lets | subst x | refine keeps_guardedCommand (fun _ _ => ?_) ?_ | apply keeps_restorePlank
    | apply keeps_rset | apply keeps_modPlank | apply keeps_fileEvent | exact fun _ h => h | split
    | fail_if_no_progress apply keeps_free

theorem keeps_execIntegUnmask {s : State} {p : PlankId} {w : Writer} (h₀ : Keeps a₀ s) {t₀ : State}
    (e : execIntegUnmask p w s = .next t₀) : Keeps a₀ t₀ := by
  unfold execIntegUnmask at e
  injection e with e
  subst e
  repeat' with_reducible first
    | assumption | (intro x; first | (refine (fun (hx : Keeps a₀ x) => ?_) ?_; clear_value x) | clear_value x)
    | lift_lets | subst x | refine keeps_guardedCommand (fun _ _ => ?_) ?_ | apply keeps_unmaskPlank | apply keeps_rset
    | apply keeps_modPlank | apply keeps_fileEvent | exact fun _ h => h | split | fail_if_no_progress apply keeps_free

/-! ## Hjelper -/

theorem keeps_execHjelperWatchdogKick {s : State} (h₀ : Keeps a₀ s) {t₀ : State}
    (e : execHjelperWatchdogKick s = .next t₀) : Keeps a₀ t₀ := by
  unfold execHjelperWatchdogKick at e
  injection e with e
  subst e
  repeat' with_reducible first
    | assumption | (intro x; first | (refine (fun (hx : Keeps a₀ x) => ?_) ?_; clear_value x) | clear_value x)
    | lift_lets | subst x | apply keeps_tick | apply keeps_rset | apply keeps_modPlank | apply keeps_fileEvent
    | exact fun _ h => h | split | fail_if_no_progress apply keeps_free

theorem keeps_hjelperFalls {s : State} (h₀ : Keeps a₀ s) :
    Keeps a₀ (hjelperFalls s) := by
  unfold hjelperFalls
  repeat' with_reducible first
    | assumption | (intro x; first | (refine (fun (hx : Keeps a₀ x) => ?_) ?_; clear_value x) | clear_value x)
    | lift_lets | subst x | apply keeps_takeCache | apply keeps_markUnlogged | apply keeps_rset | apply keeps_rsat
    | apply keeps_markIvs | apply keeps_fileEvent | apply keeps_alert | apply keeps_activationReverts
    | refine keeps_foldl (fun _ _ _ => ?_) ?_ | apply keeps_modPlank | exact fun _ h => h | split
    | fail_if_no_progress apply keeps_free | refine keeps_snd (by assumption) ?_ | refine keeps_fst (by assumption) ?_

theorem keeps_execHjelperWatchdogReset {s : State} (h₀ : Keeps a₀ s) {t₀ : State}
    (e : execHjelperWatchdogReset s = .next t₀) : Keeps a₀ t₀ := by
  unfold execHjelperWatchdogReset at e
  injection e with e
  subst e
  repeat' with_reducible first
    | assumption | (intro x; first | (refine (fun (hx : Keeps a₀ x) => ?_) ?_; clear_value x) | clear_value x)
    | lift_lets | subst x | apply keeps_hjelperFalls | apply keeps_rset | apply keeps_modPlank | apply keeps_fileEvent
    | exact fun _ h => h | split | fail_if_no_progress apply keeps_free

theorem keeps_execActivationRevert {s : State} (h₀ : Keeps a₀ s) {t₀ : State}
    (e : execActivationRevert s = .next t₀) : Keeps a₀ t₀ := by
  unfold execActivationRevert at e
  injection e with e
  subst e
  repeat' with_reducible first
    | assumption | (intro x; first | (refine (fun (hx : Keeps a₀ x) => ?_) ?_; clear_value x) | clear_value x)
    | lift_lets | subst x | apply keeps_activationReverts | apply keeps_rset | apply keeps_modPlank
    | apply keeps_fileEvent | exact fun _ h => h | split | fail_if_no_progress apply keeps_free
    | refine keeps_snd (by assumption) ?_ | refine keeps_fst (by assumption) ?_

theorem keeps_restorePlankPeat {s : State} {rs : List (ℕ × BitVec 512)} {p : ℕ} (h₀ : Keeps a₀ s) :
    Keeps a₀ (restorePlankPeat rs s p) := by
  unfold restorePlankPeat
  repeat' with_reducible first
    | assumption
    | (intro x; first | (refine (fun (hx : Keeps a₀ x) => ?_) ?_; clear_value x) | (refine (fun (hx : Keeps a₀ x.2) => ?_) ?_; clear_value x) | (refine (fun (hx : Keeps a₀ x.1) => ?_) ?_; clear_value x) | clear_value x)
    | lift_lets | subst x | apply keeps_rset | apply keeps_setPlankState | apply keeps_modPlank | apply keeps_fileEvent
    | exact fun _ h => h | split | fail_if_no_progress apply keeps_free | refine keeps_snd (by assumption) ?_
    | refine keeps_fst (by assumption) ?_

theorem keeps_restorePeat {s : State} (h₀ : Keeps a₀ s) :
    Keeps a₀ (restorePeat s) := by
  unfold restorePeat
  repeat' with_reducible first
    | assumption
    | (intro x; first | (refine (fun (hx : Keeps a₀ x) => ?_) ?_; clear_value x) | (refine (fun (hx : Keeps a₀ x.2) => ?_) ?_; clear_value x) | (refine (fun (hx : Keeps a₀ x.1) => ?_) ?_; clear_value x) | clear_value x)
    | lift_lets | subst x | apply keeps_rset | apply keeps_restorePlankPeat | refine keeps_foldl (fun _ _ _ => ?_) ?_
    | refine keeps_foldl_fst (fun _ _ _ => ?_) ?_ | refine keeps_foldl_snd (fun _ _ _ => ?_) ?_ | apply keeps_modPlank
    | apply keeps_fileEvent | exact fun _ h => h | split | fail_if_no_progress apply keeps_free
    | refine keeps_snd (by assumption) ?_ | refine keeps_fst (by assumption) ?_

theorem keeps_drainFifo {s : State} (h₀ : Keeps a₀ s) :
    Keeps a₀ (drainFifo s) := by
  unfold drainFifo
  repeat' with_reducible first
    | assumption | (intro x; first | (refine (fun (hx : Keeps a₀ x) => ?_) ?_; clear_value x) | clear_value x)
    | lift_lets | subst x | apply keeps_logEvent | refine keeps_foldl (fun _ _ _ => ?_) ?_ | apply keeps_rset
    | apply keeps_modPlank | apply keeps_fileEvent | exact fun _ h => h | split | fail_if_no_progress apply keeps_free

theorem keeps_rescan {s : State} (h₀ : Keeps a₀ s) :
    Keeps a₀ (rescan s) := by
  unfold rescan
  repeat' with_reducible first
    | assumption | (intro x; first | (refine (fun (hx : Keeps a₀ x) => ?_) ?_; clear_value x) | clear_value x)
    | lift_lets | subst x | apply keeps_filePlank | apply keeps_fileError | refine keeps_foldl (fun _ _ _ => ?_) ?_
    | apply keeps_rset | apply keeps_modPlank | apply keeps_fileEvent | exact fun _ h => h | split
    | fail_if_no_progress apply keeps_free

theorem keeps_catchUp {s : State} (h₀ : Keeps a₀ s) :
    Keeps a₀ (catchUp s) := by
  unfold catchUp
  repeat' with_reducible first
    | assumption
    | (intro x; first | (refine (fun (hx : Keeps a₀ x) => ?_) ?_; clear_value x) | (refine (fun (hx : Keeps a₀ x.2) => ?_) ?_; clear_value x) | (refine (fun (hx : Keeps a₀ x.1) => ?_) ?_; clear_value x) | clear_value x)
    | lift_lets | subst x | apply keeps_applyCharge | apply keeps_energyWrite | refine keeps_foldl (fun _ _ _ => ?_) ?_
    | refine keeps_foldl_fst (fun _ _ _ => ?_) ?_ | refine keeps_foldl_snd (fun _ _ _ => ?_) ?_ | apply keeps_rset
    | apply keeps_modPlank | apply keeps_fileEvent | exact fun _ h => h | split | fail_if_no_progress apply keeps_free

theorem keeps_trainStacks {s : State} {d : ℕ} (h₀ : Keeps a₀ s) :
    Keeps a₀ (trainStacks s d) := by
  unfold trainStacks
  repeat' with_reducible first
    | assumption | (intro x; first | (refine (fun (hx : Keeps a₀ x) => ?_) ?_; clear_value x) | clear_value x)
    | lift_lets | subst x | apply keeps_rset | apply keeps_modPlank | apply keeps_fileEvent | exact fun _ h => h
    | split | fail_if_no_progress apply keeps_free

theorem keeps_configVerified {s : State} (h₀ : Keeps a₀ s) :
    Keeps a₀ (configVerified s) := by
  unfold configVerified
  repeat' with_reducible first
    | assumption | (intro x; first | (refine (fun (hx : Keeps a₀ x) => ?_) ?_; clear_value x) | clear_value x)
    | lift_lets | subst x | apply keeps_rset | apply keeps_tick | apply keeps_linksTrain | apply keeps_trainStacks
    | apply keeps_modPlank | apply keeps_fileEvent | exact fun _ h => h | split | fail_if_no_progress apply keeps_free

theorem keeps_firstStart {s : State} {peatRead : Bool} (h₀ : Keeps a₀ s) :
    Keeps a₀ (firstStart s peatRead) := by
  unfold firstStart
  repeat' with_reducible first
    | assumption | (intro x; first | (refine (fun (hx : Keeps a₀ x) => ?_) ?_; clear_value x) | clear_value x)
    | lift_lets | subst x | apply keeps_restorePeat | apply keeps_tick | apply keeps_rset | apply keeps_configVerified
    | apply keeps_modPlank | apply keeps_fileEvent | exact fun _ h => h | split | fail_if_no_progress apply keeps_free

theorem keeps_hjelperRises {s : State} {peatRead : Bool} (h₀ : Keeps a₀ s) :
    Keeps a₀ (hjelperRises s peatRead) := by
  unfold hjelperRises
  repeat' with_reducible first
    | assumption | (intro x; first | (refine (fun (hx : Keeps a₀ x) => ?_) ?_; clear_value x) | clear_value x)
    | lift_lets | subst x | apply keeps_rset | apply keeps_tick | apply keeps_drainFifo | apply keeps_fileEvent
    | apply keeps_firstStart | apply keeps_peatRecord | apply keeps_catchUp | apply keeps_rescan
    | apply keeps_uncapRelease | apply keeps_setIinLimit | apply keeps_activationEnds | apply keeps_modPlank
    | exact fun _ h => h | split | fail_if_no_progress apply keeps_free | refine keeps_snd (by assumption) ?_
    | refine keeps_fst (by assumption) ?_

theorem keeps_execHjelperRestart {s : State} {peatRead : Bool} (h₀ : Keeps a₀ s) {t₀ : State}
    (e : execHjelperRestart peatRead s = .next t₀) : Keeps a₀ t₀ := by
  unfold execHjelperRestart at e
  injection e with e
  subst e
  repeat' with_reducible first
    | assumption | (intro x; first | (refine (fun (hx : Keeps a₀ x) => ?_) ?_; clear_value x) | clear_value x)
    | lift_lets | subst x | apply keeps_hjelperRises | apply keeps_rset | apply keeps_modPlank | apply keeps_fileEvent
    | exact fun _ h => h | split | fail_if_no_progress apply keeps_free

theorem keeps_portDark {s : State} {e : ℕ} (h₀ : Keeps a₀ s) :
    Keeps a₀ (portDark s e) := by
  unfold portDark
  repeat' with_reducible first
    | assumption | (intro x; first | (refine (fun (hx : Keeps a₀ x) => ?_) ?_; clear_value x) | clear_value x)
    | lift_lets | subst x | apply keeps_rset | apply keeps_modPlank | apply keeps_fileEvent | exact fun _ h => h
    | split | fail_if_no_progress apply keeps_free

theorem keeps_portGoesDown {s : State} {e : ℕ} (h₀ : Keeps a₀ s) :
    Keeps a₀ (portGoesDown s e) := by
  unfold portGoesDown
  repeat' with_reducible first
    | assumption | (intro x; first | (refine (fun (hx : Keeps a₀ x) => ?_) ?_; clear_value x) | clear_value x)
    | lift_lets | subst x | apply keeps_qpError | apply keeps_portDark | refine keeps_foldl (fun _ _ _ => ?_) ?_
    | apply keeps_rset | apply keeps_modPlank | apply keeps_fileEvent | exact fun _ h => h | split
    | fail_if_no_progress apply keeps_free

theorem keeps_refLost {s : State} {w : ℕ} {ppm : BitVec 16} (h₀ : Keeps a₀ s) :
    Keeps a₀ (refLost s w ppm) := by
  unfold refLost
  repeat' with_reducible first
    | assumption | (intro x; first | (refine (fun (hx : Keeps a₀ x) => ?_) ?_; clear_value x) | clear_value x)
    | lift_lets | subst x | apply keeps_rset | apply keeps_rsat | apply keeps_enterTraining | apply keeps_leaveActive
    | apply keeps_portDark | apply keeps_fileEvent | refine keeps_foldl (fun _ _ _ => ?_) ?_ | apply keeps_modPlank
    | exact fun _ h => h | split | fail_if_no_progress apply keeps_free

theorem keeps_execRefclkLoss {s : State} {which : Fin 2} {ppm : BitVec 16} (h₀ : Keeps a₀ s) {t₀ : State}
    (e : execRefclkLoss which ppm s = .next t₀) : Keeps a₀ t₀ := by
  unfold execRefclkLoss at e
  injection e with e
  subst e
  repeat' with_reducible first
    | assumption | (intro x; first | (refine (fun (hx : Keeps a₀ x) => ?_) ?_; clear_value x) | clear_value x)
    | lift_lets | subst x | apply keeps_refLost | apply keeps_rset | apply keeps_modPlank | apply keeps_fileEvent
    | exact fun _ h => h | split | fail_if_no_progress apply keeps_free

theorem keeps_refBack {s : State} {w : ℕ} {ppm : BitVec 16} (h₀ : Keeps a₀ s) :
    Keeps a₀ (refBack s w ppm) := by
  unfold refBack
  repeat' with_reducible first
    | assumption | (intro x; first | (refine (fun (hx : Keeps a₀ x) => ?_) ?_; clear_value x) | clear_value x)
    | lift_lets | subst x | apply keeps_rset | apply keeps_linkRetrainOp | refine keeps_foldl (fun _ _ _ => ?_) ?_
    | apply keeps_modPlank | apply keeps_fileEvent | exact fun _ h => h | split | fail_if_no_progress apply keeps_free

theorem keeps_execRefclkReturn {s : State} {which : Fin 2} {ppm : BitVec 16} (h₀ : Keeps a₀ s) {t₀ : State}
    (e : execRefclkReturn which ppm s = .next t₀) : Keeps a₀ t₀ := by
  unfold execRefclkReturn at e
  injection e with e
  subst e
  repeat' with_reducible first
    | assumption | (intro x; first | (refine (fun (hx : Keeps a₀ x) => ?_) ?_; clear_value x) | clear_value x)
    | lift_lets | subst x | apply keeps_refBack | apply keeps_rset | apply keeps_modPlank | apply keeps_fileEvent
    | exact fun _ h => h | split | fail_if_no_progress apply keeps_free

/-! ## Sync -/

theorem keeps_syncSignal {s : State} {p : ℕ} {rs1 : XReg} {rs2 : XReg} {isSet : Bool} (h₀ : Keeps a₀ s) :
    Keeps a₀ (syncSignal s p rs1 rs2 isSet) := by
  unfold syncSignal
  repeat' with_reducible first
    | assumption | (intro x; first | (refine (fun (hx : Keeps a₀ x) => ?_) ?_; clear_value x) | clear_value x)
    | lift_lets | subst x | apply keeps_coreTrap | apply keeps_applyHandovers | apply keeps_chanRefused
    | apply keeps_coreNext | apply keeps_plankSignal | apply keeps_rset | apply keeps_modPlank | apply keeps_fileEvent
    | exact fun _ h => h | split | fail_if_no_progress apply keeps_free

theorem keeps_execSyncAdd {s : State} {p : PlankId} {rs1 : XReg} {rs2 : XReg} (h₀ : Keeps a₀ s) {t₀ : State}
    (e : execSyncAdd p rs1 rs2 s = .next t₀) : Keeps a₀ t₀ := by
  unfold execSyncAdd at e
  injection e with e
  subst e
  repeat' with_reducible first
    | assumption | (intro x; first | (refine (fun (hx : Keeps a₀ x) => ?_) ?_; clear_value x) | clear_value x)
    | lift_lets | subst x | apply keeps_syncSignal | apply keeps_rset | apply keeps_modPlank | apply keeps_fileEvent
    | exact fun _ h => h | split | fail_if_no_progress apply keeps_free

theorem keeps_execSyncSet {s : State} {p : PlankId} {rs1 : XReg} {rs2 : XReg} (h₀ : Keeps a₀ s) {t₀ : State}
    (e : execSyncSet p rs1 rs2 s = .next t₀) : Keeps a₀ t₀ := by
  unfold execSyncSet at e
  injection e with e
  subst e
  repeat' with_reducible first
    | assumption | (intro x; first | (refine (fun (hx : Keeps a₀ x) => ?_) ?_; clear_value x) | clear_value x)
    | lift_lets | subst x | apply keeps_syncSignal | apply keeps_rset | apply keeps_modPlank | apply keeps_fileEvent
    | exact fun _ h => h | split | fail_if_no_progress apply keeps_free

theorem keeps_waitReturns {s : State} {p : ℕ} {rd : ℕ} {status : ℕ} (h₀ : Keeps a₀ s) :
    Keeps a₀ (waitReturns s p rd status) := by
  unfold waitReturns
  repeat' with_reducible first
    | assumption | (intro x; first | (refine (fun (hx : Keeps a₀ x) => ?_) ?_; clear_value x) | clear_value x)
    | lift_lets | subst x | apply keeps_releasedStep | apply keeps_coreNext | apply keeps_setX | apply keeps_rset
    | apply keeps_modPlank | apply keeps_fileEvent | exact fun _ h => h | split | fail_if_no_progress apply keeps_free
    | refine keeps_snd (by assumption) ?_ | refine keeps_fst (by assumption) ?_

theorem keeps_waitBegins {s : State} {p : ℕ} {rd : XReg} {o : ℕ} {target : ℕ} (h₀ : Keeps a₀ s) :
    Keeps a₀ (waitBegins s p rd o target) := by
  unfold waitBegins
  repeat' with_reducible first
    | assumption | (intro x; first | (refine (fun (hx : Keeps a₀ x) => ?_) ?_; clear_value x) | clear_value x)
    | lift_lets | subst x | apply keeps_rset | apply keeps_coreHold | apply keeps_modPlank | apply keeps_setWord
    | apply keeps_setObj | apply keeps_fileEvent | exact fun _ h => h | split | fail_if_no_progress apply keeps_free

theorem keeps_execSyncWait {s : State} {p : PlankId} {rd : XReg} {rs1 : XReg} {rs2 : XReg} (h₀ : Keeps a₀ s) {t₀ : State}
    (e : execSyncWait p rd rs1 rs2 s = .next t₀) : Keeps a₀ t₀ := by
  unfold execSyncWait at e
  injection e with e
  subst e
  repeat' with_reducible first
    | assumption | (intro x; first | (refine (fun (hx : Keeps a₀ x) => ?_) ?_; clear_value x) | clear_value x)
    | lift_lets | subst x | apply keeps_coreStop | apply keeps_coreTrap | apply keeps_waitReturns
    | apply keeps_waitBegins | apply keeps_rset | apply keeps_modPlank | apply keeps_fileEvent | exact fun _ h => h
    | split | fail_if_no_progress apply keeps_free | refine keeps_snd (by assumption) ?_
    | refine keeps_fst (by assumption) ?_

theorem keeps_execSyncWaitReturn {s : State} {p : PlankId} (h₀ : Keeps a₀ s) {t₀ : State}
    (e : execSyncWaitReturn p s = .next t₀) : Keeps a₀ t₀ := by
  unfold execSyncWaitReturn at e
  injection e with e
  subst e
  repeat' with_reducible first
    | assumption | (intro x; first | (refine (fun (hx : Keeps a₀ x) => ?_) ?_; clear_value x) | clear_value x)
    | lift_lets | subst x | apply keeps_waitReturns | apply keeps_fillWithdraw | apply keeps_endWait | apply keeps_rset
    | apply keeps_modPlank | apply keeps_fileEvent | exact fun _ h => h | split | fail_if_no_progress apply keeps_free
    | refine keeps_snd (by assumption) ?_ | refine keeps_fst (by assumption) ?_

theorem keeps_claimObj {s : State} {w : Writer} {o : ℕ} {w1 : Word64} (h₀ : Keeps a₀ s) :
    KeepsOpt a₀ (claimObj s w o w1) := by
  unfold claimObj
  repeat' with_reducible first
    | assumption | (intro x; first | (refine (fun (hx : Keeps a₀ x) => ?_) ?_; clear_value x) | clear_value x)
    | lift_lets | subst x | apply keeps_objSet | apply keeps_rset | apply keeps_modPlank | apply keeps_fileEvent
    | exact fun _ h => h | split | fail_if_no_progress apply keeps_free | exact keepsOpt_none | apply keepsOpt_some
    | refine keepsOpt_of ?_ (by assumption) | apply keeps_getD

theorem keeps_rearmObj {s : State} {w : Writer} {o : ℕ} (h₀ : Keeps a₀ s) :
    KeepsOpt a₀ (rearmObj s w o) := by
  unfold rearmObj
  repeat' with_reducible first
    | assumption | (intro x; first | (refine (fun (hx : Keeps a₀ x) => ?_) ?_; clear_value x) | clear_value x)
    | lift_lets | subst x | apply keeps_objSet | apply keeps_rset | apply keeps_modPlank | apply keeps_fileEvent
    | exact fun _ h => h | split | fail_if_no_progress apply keeps_free | exact keepsOpt_none | apply keepsOpt_some
    | refine keepsOpt_of ?_ (by assumption) | apply keeps_getD

theorem keeps_retireObj {s : State} {w : Writer} {o : ℕ} (h₀ : Keeps a₀ s) :
    KeepsOpt a₀ (retireObj s w o) := by
  unfold retireObj
  repeat' with_reducible first
    | assumption | (intro x; first | (refine (fun (hx : Keeps a₀ x) => ?_) ?_; clear_value x) | clear_value x)
    | lift_lets | subst x | apply keeps_setObj | apply keeps_rset | apply keeps_modPlank | apply keeps_fileEvent
    | exact fun _ h => h | split | fail_if_no_progress apply keeps_free | exact keepsOpt_none | apply keepsOpt_some
    | refine keepsOpt_of ?_ (by assumption) | apply keeps_getD

theorem keeps_objCommand {s : State} {w : Writer} {o : ℕ} {v : Word64} (h₀ : Keeps a₀ s) :
    KeepsOpt a₀ (objCommand s w o v) := by
  unfold objCommand
  repeat' with_reducible first
    | assumption | (intro x; first | (refine (fun (hx : Keeps a₀ x) => ?_) ?_; clear_value x) | clear_value x)
    | lift_lets | subst x | apply keeps_claimObj | apply keeps_rearmObj | apply keeps_retireObj | apply keeps_rset
    | apply keeps_modPlank | apply keeps_fileEvent | exact fun _ h => h | split | fail_if_no_progress apply keeps_free
    | exact keepsOpt_none | apply keepsOpt_some | refine keepsOpt_of ?_ (by assumption) | apply keeps_getD
    | refine keeps_snd (by assumption) ?_ | refine keeps_fst (by assumption) ?_

theorem keeps_objRefused {s : State} {w : Writer} (h₀ : Keeps a₀ s) :
    Keeps a₀ (objRefused s w) := by
  unfold objRefused
  repeat' with_reducible first
    | assumption | (intro x; first | (refine (fun (hx : Keeps a₀ x) => ?_) ?_; clear_value x) | clear_value x)
    | lift_lets | subst x | apply keeps_coreTrap | apply keeps_drew | apply keeps_rset | apply keeps_modPlank
    | apply keeps_fileEvent | exact fun _ h => h | split | fail_if_no_progress apply keeps_free
    | refine keeps_snd (by assumption) ?_ | refine keeps_fst (by assumption) ?_

theorem keeps_objWrite {s : State} {w : Writer} {o : ObjId} {v : Word64} {cmd : ℕ} (h₀ : Keeps a₀ s) :
    Keeps a₀ (objWrite s w o v cmd) := by
  unfold objWrite
  repeat' with_reducible first
    | assumption | (intro x; first | (refine (fun (hx : Keeps a₀ x) => ?_) ?_; clear_value x) | clear_value x)
    | lift_lets | subst x | refine keeps_regCommand (fun _ _ => ?_) ?_ | apply keeps_objCommand
    | apply keeps_objRefused | apply keeps_rset | apply keeps_modPlank | apply keeps_fileEvent | exact fun _ h => h
    | split | fail_if_no_progress apply keeps_free | exact keepsOpt_none | apply keepsOpt_some
    | refine keepsOpt_of ?_ (by assumption) | apply keeps_getD

theorem keeps_execObjCmdWord0 {s : State} {w : Writer} {obj : ObjId} {v : Word64} (h₀ : Keeps a₀ s) {t₀ : State}
    (e : execObjCmdWord0 w obj v s = .next t₀) : Keeps a₀ t₀ := by
  unfold execObjCmdWord0 at e
  injection e with e
  subst e
  repeat' with_reducible first
    | assumption | (intro x; first | (refine (fun (hx : Keeps a₀ x) => ?_) ?_; clear_value x) | clear_value x)
    | lift_lets | subst x | refine keeps_regCommand (fun _ _ => ?_) ?_ | apply keeps_setLatch | apply keeps_rset
    | apply keeps_modPlank | apply keeps_fileEvent | exact fun _ h => h | split | fail_if_no_progress apply keeps_free

theorem keeps_execObjClaim {s : State} {w : Writer} {obj : ObjId} {v : Word64} (h₀ : Keeps a₀ s) {t₀ : State}
    (e : execObjClaim w obj v s = .next t₀) : Keeps a₀ t₀ := by
  unfold execObjClaim at e
  injection e with e
  subst e
  repeat' with_reducible first
    | assumption | (intro x; first | (refine (fun (hx : Keeps a₀ x) => ?_) ?_; clear_value x) | clear_value x)
    | lift_lets | subst x | apply keeps_objWrite | apply keeps_rset | apply keeps_modPlank | apply keeps_fileEvent
    | exact fun _ h => h | split | fail_if_no_progress apply keeps_free

theorem keeps_execObjRearm {s : State} {w : Writer} {obj : ObjId} {v : Word64} (h₀ : Keeps a₀ s) {t₀ : State}
    (e : execObjRearm w obj v s = .next t₀) : Keeps a₀ t₀ := by
  unfold execObjRearm at e
  injection e with e
  subst e
  repeat' with_reducible first
    | assumption | (intro x; first | (refine (fun (hx : Keeps a₀ x) => ?_) ?_; clear_value x) | clear_value x)
    | lift_lets | subst x | apply keeps_objWrite | apply keeps_rset | apply keeps_modPlank | apply keeps_fileEvent
    | exact fun _ h => h | split | fail_if_no_progress apply keeps_free

theorem keeps_execObjRetire {s : State} {w : Writer} {obj : ObjId} {v : Word64} (h₀ : Keeps a₀ s) {t₀ : State}
    (e : execObjRetire w obj v s = .next t₀) : Keeps a₀ t₀ := by
  unfold execObjRetire at e
  injection e with e
  subst e
  repeat' with_reducible first
    | assumption | (intro x; first | (refine (fun (hx : Keeps a₀ x) => ?_) ?_; clear_value x) | clear_value x)
    | lift_lets | subst x | apply keeps_objWrite | apply keeps_rset | apply keeps_modPlank | apply keeps_fileEvent
    | exact fun _ h => h | split | fail_if_no_progress apply keeps_free

theorem keeps_waitReport {s : State} {p : ℕ} (h₀ : Keeps a₀ s) :
    Keeps a₀ (waitReport s p) := by
  unfold waitReport
  repeat' with_reducible first
    | assumption | (intro x; first | (refine (fun (hx : Keeps a₀ x) => ?_) ?_; clear_value x) | clear_value x)
    | lift_lets | subst x | apply keeps_rsat | apply keeps_stallReport | apply keeps_modPlank | apply keeps_rset
    | apply keeps_fileEvent | exact fun _ h => h | split | fail_if_no_progress apply keeps_free

theorem keeps_stepReport {s : State} {j : Job} {reason : ℕ} {target : ℕ} {value : ℕ} {arrived : ℕ} (h₀ : Keeps a₀ s) :
    Keeps a₀ (stepReport s j reason target value arrived) := by
  unfold stepReport
  repeat' with_reducible first
    | assumption | (intro x; first | (refine (fun (hx : Keeps a₀ x) => ?_) ?_; clear_value x) | clear_value x)
    | lift_lets | subst x | apply keeps_modJob | apply keeps_stallReport | apply keeps_rset | apply keeps_modPlank
    | apply keeps_fileEvent | exact fun _ h => h | split | fail_if_no_progress apply keeps_free

theorem keeps_execWaitWatchdog {s : State} {who : WaitWho} (h₀ : Keeps a₀ s) {t₀ : State}
    (e : execWaitWatchdog who s = .next t₀) : Keeps a₀ t₀ := by
  unfold execWaitWatchdog at e
  injection e with e
  subst e
  repeat' with_reducible first
    | assumption | (intro x; first | (refine (fun (hx : Keeps a₀ x) => ?_) ?_; clear_value x) | clear_value x)
    | lift_lets | subst x | apply keeps_waitReport | apply keeps_stepReport | apply keeps_rset | apply keeps_modPlank
    | apply keeps_fileEvent | exact fun _ h => h | split | fail_if_no_progress apply keeps_free
    | refine keeps_snd (by assumption) ?_ | refine keeps_fst (by assumption) ?_

theorem keeps_barrierReport {s : State} {b : ℕ} (h₀ : Keeps a₀ s) :
    Keeps a₀ (barrierReport s b) := by
  unfold barrierReport
  repeat' with_reducible first
    | assumption | (intro x; first | (refine (fun (hx : Keeps a₀ x) => ?_) ?_; clear_value x) | clear_value x)
    | lift_lets | subst x | apply keeps_stallReport | apply keeps_evlog | apply keeps_rset | apply keeps_modPlank
    | apply keeps_fileEvent | exact fun _ h => h | split | fail_if_no_progress apply keeps_free

theorem keeps_checkReport {s : State} {j : Job} {arrived : ℕ} {hums : ℕ} (h₀ : Keeps a₀ s) :
    Keeps a₀ (checkReport s j arrived hums) := by
  unfold checkReport
  repeat' with_reducible first
    | assumption | (intro x; first | (refine (fun (hx : Keeps a₀ x) => ?_) ?_; clear_value x) | clear_value x)
    | lift_lets | subst x | apply keeps_stepReport | apply keeps_rset | apply keeps_modPlank | apply keeps_fileEvent
    | exact fun _ h => h | split | fail_if_no_progress apply keeps_free

theorem keeps_execBarrierWatchdog {s : State} {gen : GenWho} (h₀ : Keeps a₀ s) {t₀ : State}
    (e : execBarrierWatchdog gen s = .next t₀) : Keeps a₀ t₀ := by
  unfold execBarrierWatchdog at e
  injection e with e
  subst e
  repeat' with_reducible first
    | assumption | (intro x; first | (refine (fun (hx : Keeps a₀ x) => ?_) ?_; clear_value x) | clear_value x)
    | lift_lets | subst x | apply keeps_barrierReport | apply keeps_checkReport | apply keeps_rset
    | apply keeps_modPlank | apply keeps_fileEvent | exact fun _ h => h | split | fail_if_no_progress apply keeps_free
    | refine keeps_snd (by assumption) ?_ | refine keeps_fst (by assumption) ?_

/-! ## VectorReg -/

theorem keeps_execVecIssue {s : State} {p : PlankId} {rs1 : XReg} (h₀ : Keeps a₀ s) {t₀ : State}
    (e : execVecIssue p rs1 s = .next t₀) : Keeps a₀ t₀ := by
  unfold execVecIssue at e
  injection e with e
  subst e
  repeat' with_reducible first
    | assumption | (intro x; first | (refine (fun (hx : Keeps a₀ x) => ?_) ?_; clear_value x) | clear_value x)
    | lift_lets | subst x | apply keeps_coreTrap | apply keeps_coreHold | apply keeps_coreNext | apply keeps_vecEnqueue
    | apply keeps_rset | apply keeps_modPlank | apply keeps_fileEvent | exact fun _ h => h | split
    | fail_if_no_progress apply keeps_free

theorem keeps_vecRunLoop {p addr n insn f i : Nat} {ecc : CoreEcc} {s : State} (h : Keeps a₀ s) :
    Keeps a₀ (vecRunLoop p addr n insn ecc f i s) := by
  induction f generalizing i s with
  | zero => exact keeps_coreHold (keeps_modPlank h)
  | succ f ih =>
    unfold vecRunLoop
    dsimp only
    split
    · exact keeps_coreNext (keeps_modPlank h)
    · split
      · exact keeps_coreTrap (keeps_modPlank h)
      · split
        · exact keeps_coreTrap (keeps_modPlank h)
        · split
          · exact keeps_coreTrap (keeps_modPlank h)
          · split
            · exact keeps_coreHold (keeps_modPlank h)
            · exact ih (keeps_vecEnqueue h)

theorem keeps_execVecRun {s : State} {p : PlankId} {rs1 : XReg} {rs2 : XReg} {ecc : CoreEcc} (h₀ : Keeps a₀ s) {t₀ : State}
    (e : execVecRun p rs1 rs2 ecc s = .next t₀) : Keeps a₀ t₀ := by
  unfold execVecRun at e
  injection e with e
  subst e
  repeat' with_reducible first
    | assumption | (intro x; first | (refine (fun (hx : Keeps a₀ x) => ?_) ?_; clear_value x) | clear_value x)
    | lift_lets | subst x | apply keeps_coreTrap | apply keeps_vecRunLoop | apply keeps_rset | apply keeps_modPlank
    | apply keeps_fileEvent | exact fun _ h => h | split | fail_if_no_progress apply keeps_free

theorem keeps_execVecFence {s : State} {p : PlankId} (h₀ : Keeps a₀ s) {t₀ : State}
    (e : execVecFence p s = .next t₀) : Keeps a₀ t₀ := by
  unfold execVecFence at e
  injection e with e
  subst e
  repeat' with_reducible first
    | assumption | (intro x; first | (refine (fun (hx : Keeps a₀ x) => ?_) ?_; clear_value x) | clear_value x)
    | lift_lets | subst x | apply keeps_coreNext | apply keeps_coreHold | apply keeps_rset | apply keeps_modPlank
    | apply keeps_fileEvent | exact fun _ h => h | split | fail_if_no_progress apply keeps_free

theorem keeps_execVecXi {s : State} {p : PlankId} {rs1 : XReg} (h₀ : Keeps a₀ s) {t₀ : State}
    (e : execVecXi p rs1 s = .next t₀) : Keeps a₀ t₀ := by
  unfold execVecXi at e
  injection e with e
  subst e
  repeat' with_reducible first
    | assumption | (intro x; first | (refine (fun (hx : Keeps a₀ x) => ?_) ?_; clear_value x) | clear_value x)
    | lift_lets | subst x | apply keeps_coreNext | apply keeps_setWord | apply keeps_rset | apply keeps_modPlank
    | apply keeps_fileEvent | exact fun _ h => h | split | fail_if_no_progress apply keeps_free

theorem keeps_execVecMvx {s : State} {p : PlankId} {rd : XReg} {rs2 : XReg} {ecc : CoreEcc} (h₀ : Keeps a₀ s) {t₀ : State}
    (e : execVecMvx p rd rs2 ecc s = .next t₀) : Keeps a₀ t₀ := by
  unfold execVecMvx at e
  injection e with e
  subst e
  repeat' with_reducible first
    | assumption | (intro x; first | (refine (fun (hx : Keeps a₀ x) => ?_) ?_; clear_value x) | clear_value x)
    | lift_lets | subst x | apply keeps_coreHold | apply keeps_coreTrap | apply keeps_coreNext | apply keeps_setX
    | apply keeps_rset | apply keeps_modPlank | apply keeps_fileEvent | exact fun _ h => h | split
    | fail_if_no_progress apply keeps_free

theorem keeps_laneOp1 {s : State} {p : ℕ} {e : VecSlot} {cyc : ℕ} {f : Rnd → F32 → F32} (h₀ : Keeps a₀ s) :
    Keeps a₀ (laneOp1 s p e cyc f) := by
  unfold laneOp1
  repeat' with_reducible first
    | assumption
    | (intro x; first | (refine (fun (hx : Keeps a₀ x) => ?_) ?_; clear_value x) | (refine (fun (hx : Keeps a₀ x.2) => ?_) ?_; clear_value x) | (refine (fun (hx : Keeps a₀ x.1) => ?_) ?_; clear_value x) | clear_value x)
    | lift_lets | subst x | apply keeps_laneCycles | apply keeps_noteInvalid | apply keeps_setVreg | apply keeps_rset
    | apply keeps_modPlank | apply keeps_fileEvent | exact fun _ h => h | split | fail_if_no_progress apply keeps_free

theorem keeps_laneOp2 {s : State} {p : ℕ} {e : VecSlot} {cyc : ℕ} {f : Rnd → F32 → F32 → F32} (h₀ : Keeps a₀ s) :
    Keeps a₀ (laneOp2 s p e cyc f) := by
  unfold laneOp2
  repeat' with_reducible first
    | assumption
    | (intro x; first | (refine (fun (hx : Keeps a₀ x) => ?_) ?_; clear_value x) | (refine (fun (hx : Keeps a₀ x.2) => ?_) ?_; clear_value x) | (refine (fun (hx : Keeps a₀ x.1) => ?_) ?_; clear_value x) | clear_value x)
    | lift_lets | subst x | apply keeps_laneCycles | apply keeps_noteInvalid | apply keeps_setVreg | apply keeps_rset
    | apply keeps_modPlank | apply keeps_fileEvent | exact fun _ h => h | split | fail_if_no_progress apply keeps_free

theorem keeps_laneBits {s : State} {p : ℕ} {e : VecSlot} {f : F32 → F32 → F32} (h₀ : Keeps a₀ s) :
    Keeps a₀ (laneBits s p e f) := by
  unfold laneBits
  repeat' with_reducible first
    | assumption
    | (intro x; first | (refine (fun (hx : Keeps a₀ x) => ?_) ?_; clear_value x) | (refine (fun (hx : Keeps a₀ x.2) => ?_) ?_; clear_value x) | (refine (fun (hx : Keeps a₀ x.1) => ?_) ?_; clear_value x) | clear_value x)
    | lift_lets | subst x | apply keeps_laneCycles | apply keeps_setVreg | apply keeps_rset | apply keeps_modPlank
    | apply keeps_fileEvent | exact fun _ h => h | split | fail_if_no_progress apply keeps_free

theorem keeps_execVnop {s : State} {p : PlankId} (h₀ : Keeps a₀ s) {t₀ : State}
    (e : execVnop p s = .next t₀) : Keeps a₀ t₀ := by
  unfold execVnop at e
  injection e with e
  subst e
  repeat' with_reducible first
    | assumption | (intro x; first | (refine (fun (hx : Keeps a₀ x) => ?_) ?_; clear_value x) | clear_value x)
    | lift_lets | subst x | refine keeps_onPort2 (fun _ _ _ => ?_) ?_ | apply keeps_laneCycles | apply keeps_rset
    | apply keeps_modPlank | apply keeps_fileEvent | exact fun _ h => h | split | fail_if_no_progress apply keeps_free

theorem keeps_execAddF32 {s : State} {p : PlankId} {ecc : CoreEcc} (h₀ : Keeps a₀ s) {t₀ : State}
    (e : execAddF32 p ecc s = .next t₀) : Keeps a₀ t₀ := by
  unfold execAddF32 at e
  injection e with e
  subst e
  repeat' with_reducible first
    | assumption | (intro x; first | (refine (fun (hx : Keeps a₀ x) => ?_) ?_; clear_value x) | clear_value x)
    | lift_lets | subst x | refine keeps_onPort2 (fun _ _ _ => ?_) ?_ | apply keeps_laneOp2 | apply keeps_rset
    | apply keeps_modPlank | apply keeps_fileEvent | exact fun _ h => h | split | fail_if_no_progress apply keeps_free

theorem keeps_execSubF32 {s : State} {p : PlankId} {ecc : CoreEcc} (h₀ : Keeps a₀ s) {t₀ : State}
    (e : execSubF32 p ecc s = .next t₀) : Keeps a₀ t₀ := by
  unfold execSubF32 at e
  injection e with e
  subst e
  repeat' with_reducible first
    | assumption | (intro x; first | (refine (fun (hx : Keeps a₀ x) => ?_) ?_; clear_value x) | clear_value x)
    | lift_lets | subst x | refine keeps_onPort2 (fun _ _ _ => ?_) ?_ | apply keeps_laneOp2 | apply keeps_rset
    | apply keeps_modPlank | apply keeps_fileEvent | exact fun _ h => h | split | fail_if_no_progress apply keeps_free

theorem keeps_execMulF32 {s : State} {p : PlankId} {ecc : CoreEcc} (h₀ : Keeps a₀ s) {t₀ : State}
    (e : execMulF32 p ecc s = .next t₀) : Keeps a₀ t₀ := by
  unfold execMulF32 at e
  injection e with e
  subst e
  repeat' with_reducible first
    | assumption | (intro x; first | (refine (fun (hx : Keeps a₀ x) => ?_) ?_; clear_value x) | clear_value x)
    | lift_lets | subst x | refine keeps_onPort2 (fun _ _ _ => ?_) ?_ | apply keeps_laneOp2 | apply keeps_rset
    | apply keeps_modPlank | apply keeps_fileEvent | exact fun _ h => h | split | fail_if_no_progress apply keeps_free

theorem keeps_laneFma {s : State} {p : ℕ} {e : VecSlot} (h₀ : Keeps a₀ s) :
    Keeps a₀ (laneFma s p e) := by
  unfold laneFma
  repeat' with_reducible first
    | assumption
    | (intro x; first | (refine (fun (hx : Keeps a₀ x) => ?_) ?_; clear_value x) | (refine (fun (hx : Keeps a₀ x.2) => ?_) ?_; clear_value x) | (refine (fun (hx : Keeps a₀ x.1) => ?_) ?_; clear_value x) | clear_value x)
    | lift_lets | subst x | apply keeps_laneCycles | apply keeps_noteInvalid | apply keeps_setVreg | apply keeps_rset
    | apply keeps_modPlank | apply keeps_fileEvent | exact fun _ h => h | split | fail_if_no_progress apply keeps_free

theorem keeps_execFmaF32 {s : State} {p : PlankId} {ecc : CoreEcc} (h₀ : Keeps a₀ s) {t₀ : State}
    (e : execFmaF32 p ecc s = .next t₀) : Keeps a₀ t₀ := by
  unfold execFmaF32 at e
  injection e with e
  subst e
  repeat' with_reducible first
    | assumption | (intro x; first | (refine (fun (hx : Keeps a₀ x) => ?_) ?_; clear_value x) | clear_value x)
    | lift_lets | subst x | refine keeps_onPort2 (fun _ _ _ => ?_) ?_ | apply keeps_laneFma | apply keeps_rset
    | apply keeps_modPlank | apply keeps_fileEvent | exact fun _ h => h | split | fail_if_no_progress apply keeps_free

theorem keeps_execMinF32 {s : State} {p : PlankId} {ecc : CoreEcc} (h₀ : Keeps a₀ s) {t₀ : State}
    (e : execMinF32 p ecc s = .next t₀) : Keeps a₀ t₀ := by
  unfold execMinF32 at e
  injection e with e
  subst e
  repeat' with_reducible first
    | assumption | (intro x; first | (refine (fun (hx : Keeps a₀ x) => ?_) ?_; clear_value x) | clear_value x)
    | lift_lets | subst x | refine keeps_onPort2 (fun _ _ _ => ?_) ?_ | apply keeps_laneOp2 | apply keeps_rset
    | apply keeps_modPlank | apply keeps_fileEvent | exact fun _ h => h | split | fail_if_no_progress apply keeps_free

theorem keeps_execMaxF32 {s : State} {p : PlankId} {ecc : CoreEcc} (h₀ : Keeps a₀ s) {t₀ : State}
    (e : execMaxF32 p ecc s = .next t₀) : Keeps a₀ t₀ := by
  unfold execMaxF32 at e
  injection e with e
  subst e
  repeat' with_reducible first
    | assumption | (intro x; first | (refine (fun (hx : Keeps a₀ x) => ?_) ?_; clear_value x) | clear_value x)
    | lift_lets | subst x | refine keeps_onPort2 (fun _ _ _ => ?_) ?_ | apply keeps_laneOp2 | apply keeps_rset
    | apply keeps_modPlank | apply keeps_fileEvent | exact fun _ h => h | split | fail_if_no_progress apply keeps_free

theorem keeps_execAbsF32 {s : State} {p : PlankId} {ecc : CoreEcc} (h₀ : Keeps a₀ s) {t₀ : State}
    (e : execAbsF32 p ecc s = .next t₀) : Keeps a₀ t₀ := by
  unfold execAbsF32 at e
  injection e with e
  subst e
  repeat' with_reducible first
    | assumption | (intro x; first | (refine (fun (hx : Keeps a₀ x) => ?_) ?_; clear_value x) | clear_value x)
    | lift_lets | subst x | refine keeps_onPort2 (fun _ _ _ => ?_) ?_ | apply keeps_laneOp1 | apply keeps_rset
    | apply keeps_modPlank | apply keeps_fileEvent | exact fun _ h => h | split | fail_if_no_progress apply keeps_free

theorem keeps_execNegF32 {s : State} {p : PlankId} {ecc : CoreEcc} (h₀ : Keeps a₀ s) {t₀ : State}
    (e : execNegF32 p ecc s = .next t₀) : Keeps a₀ t₀ := by
  unfold execNegF32 at e
  injection e with e
  subst e
  repeat' with_reducible first
    | assumption | (intro x; first | (refine (fun (hx : Keeps a₀ x) => ?_) ?_; clear_value x) | clear_value x)
    | lift_lets | subst x | refine keeps_onPort2 (fun _ _ _ => ?_) ?_ | apply keeps_laneOp1 | apply keeps_rset
    | apply keeps_modPlank | apply keeps_fileEvent | exact fun _ h => h | split | fail_if_no_progress apply keeps_free

theorem keeps_execDivF32 {s : State} {p : PlankId} {ecc : CoreEcc} (h₀ : Keeps a₀ s) {t₀ : State}
    (e : execDivF32 p ecc s = .next t₀) : Keeps a₀ t₀ := by
  unfold execDivF32 at e
  injection e with e
  subst e
  repeat' with_reducible first
    | assumption | (intro x; first | (refine (fun (hx : Keeps a₀ x) => ?_) ?_; clear_value x) | clear_value x)
    | lift_lets | subst x | refine keeps_onPort2 (fun _ _ _ => ?_) ?_ | apply keeps_laneOp2 | apply keeps_rset
    | apply keeps_modPlank | apply keeps_fileEvent | exact fun _ h => h | split | fail_if_no_progress apply keeps_free

theorem keeps_execSqrtF32 {s : State} {p : PlankId} {ecc : CoreEcc} (h₀ : Keeps a₀ s) {t₀ : State}
    (e : execSqrtF32 p ecc s = .next t₀) : Keeps a₀ t₀ := by
  unfold execSqrtF32 at e
  injection e with e
  subst e
  repeat' with_reducible first
    | assumption | (intro x; first | (refine (fun (hx : Keeps a₀ x) => ?_) ?_; clear_value x) | clear_value x)
    | lift_lets | subst x | refine keeps_onPort2 (fun _ _ _ => ?_) ?_ | apply keeps_laneOp1 | apply keeps_rset
    | apply keeps_modPlank | apply keeps_fileEvent | exact fun _ h => h | split | fail_if_no_progress apply keeps_free

theorem keeps_laneCmp {s : State} {p : ℕ} {e : VecSlot} (h₀ : Keeps a₀ s) :
    Keeps a₀ (laneCmp s p e) := by
  unfold laneCmp
  repeat' with_reducible first
    | assumption
    | (intro x; first | (refine (fun (hx : Keeps a₀ x) => ?_) ?_; clear_value x) | (refine (fun (hx : Keeps a₀ x.2) => ?_) ?_; clear_value x) | (refine (fun (hx : Keeps a₀ x.1) => ?_) ?_; clear_value x) | clear_value x)
    | lift_lets | subst x | apply keeps_laneCycles | apply keeps_noteInvalid | apply keeps_modPlank | apply keeps_rset
    | apply keeps_fileEvent | exact fun _ h => h | split | fail_if_no_progress apply keeps_free

theorem keeps_execCmp {s : State} {p : PlankId} {ecc : CoreEcc} (h₀ : Keeps a₀ s) {t₀ : State}
    (e : execCmp p ecc s = .next t₀) : Keeps a₀ t₀ := by
  unfold execCmp at e
  injection e with e
  subst e
  repeat' with_reducible first
    | assumption | (intro x; first | (refine (fun (hx : Keeps a₀ x) => ?_) ?_; clear_value x) | clear_value x)
    | lift_lets | subst x | refine keeps_onPort2 (fun _ _ _ => ?_) ?_ | apply keeps_laneCmp | apply keeps_rset
    | apply keeps_modPlank | apply keeps_fileEvent | exact fun _ h => h | split | fail_if_no_progress apply keeps_free

theorem keeps_laneSel {s : State} {p : ℕ} {e : VecSlot} (h₀ : Keeps a₀ s) :
    Keeps a₀ (laneSel s p e) := by
  unfold laneSel
  repeat' with_reducible first
    | assumption
    | (intro x; first | (refine (fun (hx : Keeps a₀ x) => ?_) ?_; clear_value x) | (refine (fun (hx : Keeps a₀ x.2) => ?_) ?_; clear_value x) | (refine (fun (hx : Keeps a₀ x.1) => ?_) ?_; clear_value x) | clear_value x)
    | lift_lets | subst x | apply keeps_laneCycles | apply keeps_setVreg | apply keeps_rset | apply keeps_modPlank
    | apply keeps_fileEvent | exact fun _ h => h | split | fail_if_no_progress apply keeps_free

theorem keeps_execSel {s : State} {p : PlankId} {ecc : CoreEcc} (h₀ : Keeps a₀ s) {t₀ : State}
    (e : execSel p ecc s = .next t₀) : Keeps a₀ t₀ := by
  unfold execSel at e
  injection e with e
  subst e
  repeat' with_reducible first
    | assumption | (intro x; first | (refine (fun (hx : Keeps a₀ x) => ?_) ?_; clear_value x) | clear_value x)
    | lift_lets | subst x | refine keeps_onPort2 (fun _ _ _ => ?_) ?_ | apply keeps_laneSel | apply keeps_rset
    | apply keeps_modPlank | apply keeps_fileEvent | exact fun _ h => h | split | fail_if_no_progress apply keeps_free

theorem keeps_execAndB32 {s : State} {p : PlankId} {ecc : CoreEcc} (h₀ : Keeps a₀ s) {t₀ : State}
    (e : execAndB32 p ecc s = .next t₀) : Keeps a₀ t₀ := by
  unfold execAndB32 at e
  injection e with e
  subst e
  repeat' with_reducible first
    | assumption | (intro x; first | (refine (fun (hx : Keeps a₀ x) => ?_) ?_; clear_value x) | clear_value x)
    | lift_lets | subst x | refine keeps_onPort2 (fun _ _ _ => ?_) ?_ | apply keeps_laneBits | apply keeps_rset
    | apply keeps_modPlank | apply keeps_fileEvent | exact fun _ h => h | split | fail_if_no_progress apply keeps_free

theorem keeps_execOrB32 {s : State} {p : PlankId} {ecc : CoreEcc} (h₀ : Keeps a₀ s) {t₀ : State}
    (e : execOrB32 p ecc s = .next t₀) : Keeps a₀ t₀ := by
  unfold execOrB32 at e
  injection e with e
  subst e
  repeat' with_reducible first
    | assumption | (intro x; first | (refine (fun (hx : Keeps a₀ x) => ?_) ?_; clear_value x) | clear_value x)
    | lift_lets | subst x | refine keeps_onPort2 (fun _ _ _ => ?_) ?_ | apply keeps_laneBits | apply keeps_rset
    | apply keeps_modPlank | apply keeps_fileEvent | exact fun _ h => h | split | fail_if_no_progress apply keeps_free

theorem keeps_execXorB32 {s : State} {p : PlankId} {ecc : CoreEcc} (h₀ : Keeps a₀ s) {t₀ : State}
    (e : execXorB32 p ecc s = .next t₀) : Keeps a₀ t₀ := by
  unfold execXorB32 at e
  injection e with e
  subst e
  repeat' with_reducible first
    | assumption | (intro x; first | (refine (fun (hx : Keeps a₀ x) => ?_) ?_; clear_value x) | clear_value x)
    | lift_lets | subst x | refine keeps_onPort2 (fun _ _ _ => ?_) ?_ | apply keeps_laneBits | apply keeps_rset
    | apply keeps_modPlank | apply keeps_fileEvent | exact fun _ h => h | split | fail_if_no_progress apply keeps_free

theorem keeps_execShlB32 {s : State} {p : PlankId} {ecc : CoreEcc} (h₀ : Keeps a₀ s) {t₀ : State}
    (e : execShlB32 p ecc s = .next t₀) : Keeps a₀ t₀ := by
  unfold execShlB32 at e
  injection e with e
  subst e
  repeat' with_reducible first
    | assumption | (intro x; first | (refine (fun (hx : Keeps a₀ x) => ?_) ?_; clear_value x) | clear_value x)
    | lift_lets | subst x | refine keeps_onPort2 (fun _ _ _ => ?_) ?_ | apply keeps_laneBits | apply keeps_rset
    | apply keeps_modPlank | apply keeps_fileEvent | exact fun _ h => h | split | fail_if_no_progress apply keeps_free

theorem keeps_execShrB32 {s : State} {p : PlankId} {ecc : CoreEcc} (h₀ : Keeps a₀ s) {t₀ : State}
    (e : execShrB32 p ecc s = .next t₀) : Keeps a₀ t₀ := by
  unfold execShrB32 at e
  injection e with e
  subst e
  repeat' with_reducible first
    | assumption | (intro x; first | (refine (fun (hx : Keeps a₀ x) => ?_) ?_; clear_value x) | clear_value x)
    | lift_lets | subst x | refine keeps_onPort2 (fun _ _ _ => ?_) ?_ | apply keeps_laneBits | apply keeps_rset
    | apply keeps_modPlank | apply keeps_fileEvent | exact fun _ h => h | split | fail_if_no_progress apply keeps_free

theorem keeps_laneLoad {s : State} {p : ℕ} {ecc : CoreEcc} {e : VecSlot} {n : ℕ} (h₀ : Keeps a₀ s) :
    Keeps a₀ (laneLoad s p ecc e n) := by
  unfold laneLoad
  repeat' with_reducible first
    | assumption | (intro x; first | (refine (fun (hx : Keeps a₀ x) => ?_) ?_; clear_value x) | clear_value x)
    | lift_lets | subst x | apply keeps_vecTrap | apply keeps_mixVreg | apply keeps_bankRefused | apply keeps_eccCounts
    | apply keeps_laneCycles | apply keeps_modPlank | apply keeps_rset | apply keeps_fileEvent | exact fun _ h => h
    | exact fun _ h => ⟨h.1, h.2.1, kwf_kputs h.2.2.1 _ _, h.2.2.2⟩ | split | fail_if_no_progress apply keeps_free
    | refine keeps_snd (by assumption) ?_ | refine keeps_fst (by assumption) ?_

theorem keeps_laneStore {s : State} {p : ℕ} {e : VecSlot} {n : ℕ} (h₀ : Keeps a₀ s) :
    Keeps a₀ (laneStore s p e n) := by
  unfold laneStore
  repeat' with_reducible first
    | assumption | (intro x; first | (refine (fun (hx : Keeps a₀ x) => ?_) ?_; clear_value x) | clear_value x)
    | lift_lets | subst x | apply keeps_vecTrap | apply keeps_mixStore | apply keeps_bankRefused
    | apply keeps_laneCycles | apply keeps_store | apply keeps_rset | apply keeps_modPlank | apply keeps_fileEvent
    | exact fun _ h => h | split | fail_if_no_progress apply keeps_free | refine keeps_snd (by assumption) ?_
    | refine keeps_fst (by assumption) ?_

theorem keeps_execLdW {s : State} {p : PlankId} {ecc : CoreEcc} (h₀ : Keeps a₀ s) {t₀ : State}
    (e : execLdW p ecc s = .next t₀) : Keeps a₀ t₀ := by
  unfold execLdW at e
  injection e with e
  subst e
  repeat' with_reducible first
    | assumption | (intro x; first | (refine (fun (hx : Keeps a₀ x) => ?_) ?_; clear_value x) | clear_value x)
    | lift_lets | subst x | refine keeps_onPort2 (fun _ _ _ => ?_) ?_ | apply keeps_laneLoad | apply keeps_rset
    | apply keeps_modPlank | apply keeps_fileEvent | exact fun _ h => h | split | fail_if_no_progress apply keeps_free

theorem keeps_execLdH {s : State} {p : PlankId} {ecc : CoreEcc} (h₀ : Keeps a₀ s) {t₀ : State}
    (e : execLdH p ecc s = .next t₀) : Keeps a₀ t₀ := by
  unfold execLdH at e
  injection e with e
  subst e
  repeat' with_reducible first
    | assumption | (intro x; first | (refine (fun (hx : Keeps a₀ x) => ?_) ?_; clear_value x) | clear_value x)
    | lift_lets | subst x | refine keeps_onPort2 (fun _ _ _ => ?_) ?_ | apply keeps_laneLoad | apply keeps_rset
    | apply keeps_modPlank | apply keeps_fileEvent | exact fun _ h => h | split | fail_if_no_progress apply keeps_free

theorem keeps_execStW {s : State} {p : PlankId} {ecc : CoreEcc} (h₀ : Keeps a₀ s) {t₀ : State}
    (e : execStW p ecc s = .next t₀) : Keeps a₀ t₀ := by
  unfold execStW at e
  injection e with e
  subst e
  repeat' with_reducible first
    | assumption | (intro x; first | (refine (fun (hx : Keeps a₀ x) => ?_) ?_; clear_value x) | clear_value x)
    | lift_lets | subst x | refine keeps_onPort2 (fun _ _ _ => ?_) ?_ | apply keeps_laneStore | apply keeps_rset
    | apply keeps_modPlank | apply keeps_fileEvent | exact fun _ h => h | split | fail_if_no_progress apply keeps_free

theorem keeps_execStH {s : State} {p : PlankId} {ecc : CoreEcc} (h₀ : Keeps a₀ s) {t₀ : State}
    (e : execStH p ecc s = .next t₀) : Keeps a₀ t₀ := by
  unfold execStH at e
  injection e with e
  subst e
  repeat' with_reducible first
    | assumption | (intro x; first | (refine (fun (hx : Keeps a₀ x) => ?_) ?_; clear_value x) | clear_value x)
    | lift_lets | subst x | refine keeps_onPort2 (fun _ _ _ => ?_) ?_ | apply keeps_laneStore | apply keeps_rset
    | apply keeps_modPlank | apply keeps_fileEvent | exact fun _ h => h | split | fail_if_no_progress apply keeps_free

theorem keeps_laneCvt {s : State} {p : ℕ} {e : VecSlot} (h₀ : Keeps a₀ s) :
    Keeps a₀ (laneCvt s p e) := by
  unfold laneCvt
  repeat' with_reducible first
    | assumption
    | (intro x; first | (refine (fun (hx : Keeps a₀ x) => ?_) ?_; clear_value x) | (refine (fun (hx : Keeps a₀ x.2) => ?_) ?_; clear_value x) | (refine (fun (hx : Keeps a₀ x.1) => ?_) ?_; clear_value x) | clear_value x)
    | lift_lets | subst x | apply keeps_setVreg | apply keeps_addStats | apply keeps_laneCycles
    | apply keeps_noteInvalid | refine keeps_foldl (fun _ _ _ => ?_) ?_ | refine keeps_foldl_fst (fun _ _ _ => ?_) ?_
    | refine keeps_foldl_snd (fun _ _ _ => ?_) ?_ | apply keeps_rset | apply keeps_modPlank | apply keeps_fileEvent
    | exact fun _ h => h | split | fail_if_no_progress apply keeps_free

theorem keeps_execCvtRegister {s : State} {p : PlankId} {ecc : CoreEcc} (h₀ : Keeps a₀ s) {t₀ : State}
    (e : execCvtRegister p ecc s = .next t₀) : Keeps a₀ t₀ := by
  unfold execCvtRegister at e
  injection e with e
  subst e
  repeat' with_reducible first
    | assumption | (intro x; first | (refine (fun (hx : Keeps a₀ x) => ?_) ?_; clear_value x) | clear_value x)
    | lift_lets | subst x | refine keeps_onPort2 (fun _ _ _ => ?_) ?_ | apply keeps_laneCvt | apply keeps_rset
    | apply keeps_modPlank | apply keeps_fileEvent | exact fun _ h => h | split | fail_if_no_progress apply keeps_free

theorem keeps_loadTable {s : State} {p : ℕ} {slot : ℕ} {k : ℕ} (h₀ : Keeps a₀ s) :
    Keeps a₀ (loadTable s p slot k) := by
  unfold loadTable
  repeat' with_reducible first
    | assumption | (intro x; first | (refine (fun (hx : Keeps a₀ x) => ?_) ?_; clear_value x) | clear_value x)
    | lift_lets | subst x | apply keeps_rset | apply keeps_modPlank | apply keeps_evlog | apply keeps_fileEvent
    | exact fun _ h => h | split | fail_if_no_progress apply keeps_free

theorem keeps_mixTable {s : State} {p : ℕ} {slot : ℕ} {k : ℕ} (h₀ : Keeps a₀ s) :
    Keeps a₀ (mixTable s p slot k) := by
  unfold mixTable
  repeat' with_reducible first
    | assumption | (intro x; first | (refine (fun (hx : Keeps a₀ x) => ?_) ?_; clear_value x) | clear_value x)
    | lift_lets | subst x | apply keeps_rset | apply keeps_drew | apply keeps_modPlank | apply keeps_evlog
    | apply keeps_fileEvent | exact fun _ h => h | split | fail_if_no_progress apply keeps_free

theorem keeps_laneTabLd {s : State} {p : ℕ} {ecc : CoreEcc} {e : VecSlot} (h₀ : Keeps a₀ s) :
    Keeps a₀ (laneTabLd s p ecc e) := by
  unfold laneTabLd
  repeat' with_reducible first
    | assumption | (intro x; first | (refine (fun (hx : Keeps a₀ x) => ?_) ?_; clear_value x) | clear_value x)
    | lift_lets | subst x | apply keeps_vecTrap | apply keeps_mixTable | apply keeps_bankRefused
    | apply keeps_eccCounts | apply keeps_laneCycles | apply keeps_loadTable | apply keeps_rset | apply keeps_modPlank
    | apply keeps_fileEvent | exact fun _ h => h | split | fail_if_no_progress apply keeps_free
    | refine keeps_snd (by assumption) ?_ | refine keeps_fst (by assumption) ?_

theorem keeps_execTabLd {s : State} {p : PlankId} {ecc : CoreEcc} (h₀ : Keeps a₀ s) {t₀ : State}
    (e : execTabLd p ecc s = .next t₀) : Keeps a₀ t₀ := by
  unfold execTabLd at e
  injection e with e
  subst e
  repeat' with_reducible first
    | assumption | (intro x; first | (refine (fun (hx : Keeps a₀ x) => ?_) ?_; clear_value x) | clear_value x)
    | lift_lets | subst x | refine keeps_onPort2 (fun _ _ _ => ?_) ?_ | apply keeps_laneTabLd | apply keeps_rset
    | apply keeps_modPlank | apply keeps_fileEvent | exact fun _ h => h | split | fail_if_no_progress apply keeps_free
    | refine keeps_snd (by assumption) ?_ | refine keeps_fst (by assumption) ?_

theorem keeps_laneTabF {s : State} {p : ℕ} {e : VecSlot} (h₀ : Keeps a₀ s) :
    Keeps a₀ (laneTabF s p e) := by
  unfold laneTabF
  repeat' with_reducible first
    | assumption | (intro x; first | (refine (fun (hx : Keeps a₀ x) => ?_) ?_; clear_value x) | clear_value x)
    | lift_lets | subst x | apply keeps_vecTrap | apply keeps_mixVreg | apply keeps_laneCycles
    | apply keeps_noteInvalid | apply keeps_setVreg | apply keeps_rset | apply keeps_modPlank | apply keeps_fileEvent
    | exact fun _ h => h | split | fail_if_no_progress apply keeps_free

theorem keeps_execTabF {s : State} {p : PlankId} {ecc : CoreEcc} (h₀ : Keeps a₀ s) {t₀ : State}
    (e : execTabF p ecc s = .next t₀) : Keeps a₀ t₀ := by
  unfold execTabF at e
  injection e with e
  subst e
  repeat' with_reducible first
    | assumption | (intro x; first | (refine (fun (hx : Keeps a₀ x) => ?_) ?_; clear_value x) | clear_value x)
    | lift_lets | subst x | refine keeps_onPort2 (fun _ _ _ => ?_) ?_ | apply keeps_laneTabF | apply keeps_rset
    | apply keeps_modPlank | apply keeps_fileEvent | exact fun _ h => h | split | fail_if_no_progress apply keeps_free

theorem keeps_laneFoldOp {s : State} {p : ℕ} {e : VecSlot} {f : F32 → F32 → F32} {g : F32 → F32} (h₀ : Keeps a₀ s) :
    Keeps a₀ (laneFoldOp s p e f g) := by
  unfold laneFoldOp
  repeat' with_reducible first
    | assumption | (intro x; first | (refine (fun (hx : Keeps a₀ x) => ?_) ?_; clear_value x) | clear_value x)
    | lift_lets | subst x | apply keeps_laneCycles | apply keeps_noteInvalid | apply keeps_setVreg | apply keeps_rset
    | apply keeps_modPlank | apply keeps_fileEvent | exact fun _ h => h | split | fail_if_no_progress apply keeps_free

theorem keeps_execRedAdd {s : State} {p : PlankId} {ecc : CoreEcc} (h₀ : Keeps a₀ s) {t₀ : State}
    (e : execRedAdd p ecc s = .next t₀) : Keeps a₀ t₀ := by
  unfold execRedAdd at e
  injection e with e
  subst e
  repeat' with_reducible first
    | assumption | (intro x; first | (refine (fun (hx : Keeps a₀ x) => ?_) ?_; clear_value x) | clear_value x)
    | lift_lets | subst x | refine keeps_onPort2 (fun _ _ _ => ?_) ?_ | apply keeps_laneFoldOp | apply keeps_rset
    | apply keeps_modPlank | apply keeps_fileEvent | exact fun _ h => h | split | fail_if_no_progress apply keeps_free

theorem keeps_execAmaxV {s : State} {p : PlankId} {ecc : CoreEcc} (h₀ : Keeps a₀ s) {t₀ : State}
    (e : execAmaxV p ecc s = .next t₀) : Keeps a₀ t₀ := by
  unfold execAmaxV at e
  injection e with e
  subst e
  repeat' with_reducible first
    | assumption | (intro x; first | (refine (fun (hx : Keeps a₀ x) => ?_) ?_; clear_value x) | clear_value x)
    | lift_lets | subst x | refine keeps_onPort2 (fun _ _ _ => ?_) ?_ | apply keeps_laneFoldOp | apply keeps_rset
    | apply keeps_modPlank | apply keeps_fileEvent | exact fun _ h => h | split | fail_if_no_progress apply keeps_free

theorem keeps_laneRng {s : State} {p : ℕ} {e : VecSlot} (h₀ : Keeps a₀ s) :
    Keeps a₀ (laneRng s p e) := by
  unfold laneRng
  repeat' with_reducible first
    | assumption | (intro x; first | (refine (fun (hx : Keeps a₀ x) => ?_) ?_; clear_value x) | clear_value x)
    | lift_lets | subst x | apply keeps_laneCycles | apply keeps_setVreg | apply keeps_rset | apply keeps_modPlank
    | apply keeps_fileEvent | exact fun _ h => h | split | fail_if_no_progress apply keeps_free

theorem keeps_execRngV {s : State} {p : PlankId} (h₀ : Keeps a₀ s) {t₀ : State}
    (e : execRngV p s = .next t₀) : Keeps a₀ t₀ := by
  unfold execRngV at e
  injection e with e
  subst e
  repeat' with_reducible first
    | assumption | (intro x; first | (refine (fun (hx : Keeps a₀ x) => ?_) ?_; clear_value x) | clear_value x)
    | lift_lets | subst x | refine keeps_onPort2 (fun _ _ _ => ?_) ?_ | apply keeps_laneRng | apply keeps_rset
    | apply keeps_modPlank | apply keeps_fileEvent | exact fun _ h => h | split | fail_if_no_progress apply keeps_free

/-! ## PlankCore -/

theorem keeps_fillRefused {s : State} {p : ℕ} {k : ℕ} (h₀ : Keeps a₀ s) :
    Keeps a₀ (fillRefused s p k) := by
  unfold fillRefused
  repeat' with_reducible first
    | assumption | (intro x; first | (refine (fun (hx : Keeps a₀ x) => ?_) ?_; clear_value x) | clear_value x)
    | lift_lets | subst x | apply keeps_fillLeaves | apply keeps_rset | apply keeps_fillDone | apply keeps_modPlank
    | apply keeps_fileEvent | exact fun _ h => h | split | fail_if_no_progress apply keeps_free

theorem keeps_fillIssueNext {s : State} {p : ℕ} {n : ℕ} {ecc : CoreEcc} (h₀ : Keeps a₀ s) :
    Keeps a₀ (fillIssueNext s p n ecc) := by
  unfold fillIssueNext
  repeat' with_reducible first
    | assumption
    | (intro x; first | (refine (fun (hx : Keeps a₀ x) => ?_) ?_; clear_value x) | (refine (fun (hx : Keeps a₀ x.2) => ?_) ?_; clear_value x) | (refine (fun (hx : Keeps a₀ x.1) => ?_) ?_; clear_value x) | clear_value x)
    | lift_lets | subst x | apply keeps_issuePass | apply keeps_fillRefused | apply keeps_fillDone | apply keeps_radd
    | apply keeps_phaseBegun | apply keeps_modPlank | apply keeps_rset | apply keeps_fileEvent | exact fun _ h => h
    | split | fail_if_no_progress apply keeps_free | refine keeps_snd (by assumption) ?_
    | refine keeps_fst (by assumption) ?_

theorem keeps_execFillPassIssue {s : State} {p : PlankId} {ecc : CoreEcc} (h₀ : Keeps a₀ s) {t₀ : State}
    (e : execFillPassIssue p ecc s = .next t₀) : Keeps a₀ t₀ := by
  unfold execFillPassIssue at e
  injection e with e
  subst e
  repeat' with_reducible first
    | assumption | (intro x; first | (refine (fun (hx : Keeps a₀ x) => ?_) ?_; clear_value x) | clear_value x)
    | lift_lets | subst x | apply keeps_coreTrap | apply keeps_bankRefused | apply keeps_drew
    | apply keeps_fillIssueNext | apply keeps_rset | apply keeps_modPlank | apply keeps_fileEvent | exact fun _ h => h
    | split | fail_if_no_progress apply keeps_free | refine keeps_snd (by assumption) ?_
    | refine keeps_fst (by assumption) ?_

theorem keeps_fillPut {s : State} {p : ℕ} {e : BitVec 512} (h₀ : Keeps a₀ s) :
    Keeps a₀ (fillPut s p e) := by
  unfold fillPut
  repeat' with_reducible first
    | assumption | (intro x; first | (refine (fun (hx : Keeps a₀ x) => ?_) ?_; clear_value x) | clear_value x)
    | lift_lets | subst x | apply keeps_storeRec | apply keeps_rset | apply keeps_coreNext | apply keeps_fillDone
    | apply keeps_modPlank | apply keeps_fileEvent | exact fun _ h => h | split | fail_if_no_progress apply keeps_free

theorem keeps_execFillEnq {s : State} {p : PlankId} {rs1 : XReg} {ecc : CoreEcc} (h₀ : Keeps a₀ s) {t₀ : State}
    (e : execFillEnq p rs1 ecc s = .next t₀) : Keeps a₀ t₀ := by
  unfold execFillEnq at e
  injection e with e
  subst e
  repeat' with_reducible first
    | assumption | (intro x; first | (refine (fun (hx : Keeps a₀ x) => ?_) ?_; clear_value x) | clear_value x)
    | lift_lets | subst x | apply keeps_coreTrap | apply keeps_bankRefused | apply keeps_eccCounts
    | apply keeps_coreNext | apply keeps_coreHold | apply keeps_fillIssueNext | apply keeps_fillPut | apply keeps_rset
    | apply keeps_modPlank | apply keeps_fileEvent | exact fun _ h => h | split | fail_if_no_progress apply keeps_free
    | refine keeps_snd (by assumption) ?_ | refine keeps_fst (by assumption) ?_

theorem keeps_execFillFlush {s : State} {p : PlankId} {ecc : CoreEcc} (h₀ : Keeps a₀ s) {t₀ : State}
    (e : execFillFlush p ecc s = .next t₀) : Keeps a₀ t₀ := by
  unfold execFillFlush at e
  injection e with e
  subst e
  repeat' with_reducible first
    | assumption | (intro x; first | (refine (fun (hx : Keeps a₀ x) => ?_) ?_; clear_value x) | clear_value x)
    | lift_lets | subst x | apply keeps_coreNext | apply keeps_coreTrap | apply keeps_bankRefused
    | apply keeps_coreHold | apply keeps_fillIssueNext | apply keeps_rset | apply keeps_modPlank
    | apply keeps_fileEvent | exact fun _ h => h | split | fail_if_no_progress apply keeps_free
    | refine keeps_snd (by assumption) ?_ | refine keeps_fst (by assumption) ?_

theorem keeps_ilvTake {s : State} {p : ℕ} {rd : XReg} {ecc : CoreEcc} (h₀ : Keeps a₀ s) :
    Keeps a₀ (ilvTake s p rd ecc) := by
  unfold ilvTake
  repeat' with_reducible first
    | assumption | (intro x; first | (refine (fun (hx : Keeps a₀ x) => ?_) ?_; clear_value x) | clear_value x)
    | lift_lets | subst x | apply keeps_coreTrap | apply keeps_bankRefused | apply keeps_eccCounts | apply keeps_setX
    | apply keeps_phaseBegun | apply keeps_coreNext | apply keeps_modPlank | apply keeps_rset | apply keeps_fileEvent
    | exact fun _ h => h | split | fail_if_no_progress apply keeps_free | refine keeps_snd (by assumption) ?_
    | refine keeps_fst (by assumption) ?_

theorem keeps_execIlvNext {s : State} {p : PlankId} {rd : XReg} {ecc : CoreEcc} (h₀ : Keeps a₀ s) {t₀ : State}
    (e : execIlvNext p rd ecc s = .next t₀) : Keeps a₀ t₀ := by
  unfold execIlvNext at e
  injection e with e
  subst e
  repeat' with_reducible first
    | assumption | (intro x; first | (refine (fun (hx : Keeps a₀ x) => ?_) ?_; clear_value x) | clear_value x)
    | lift_lets | subst x | apply keeps_coreTrap | apply keeps_ilvTake | apply keeps_rset | apply keeps_modPlank
    | apply keeps_fileEvent | exact fun _ h => h | split | fail_if_no_progress apply keeps_free

theorem keeps_execStrmQp {s : State} {p : PlankId} {rs1 : XReg} (h₀ : Keeps a₀ s) {t₀ : State}
    (e : execStrmQp p rs1 s = .next t₀) : Keeps a₀ t₀ := by
  unfold execStrmQp at e
  injection e with e
  subst e
  repeat' with_reducible first
    | assumption | (intro x; first | (refine (fun (hx : Keeps a₀ x) => ?_) ?_; clear_value x) | clear_value x)
    | lift_lets | subst x | apply keeps_coreStop | apply keeps_strmSet | apply keeps_coreNext | apply keeps_rset
    | apply keeps_modPlank | apply keeps_fileEvent | exact fun _ h => h | split | fail_if_no_progress apply keeps_free

theorem keeps_execStrmState {s : State} {p : PlankId} {rd : XReg} {rs1 : XReg} (h₀ : Keeps a₀ s) {t₀ : State}
    (e : execStrmState p rd rs1 s = .next t₀) : Keeps a₀ t₀ := by
  unfold execStrmState at e
  injection e with e
  subst e
  repeat' with_reducible first
    | assumption | (intro x; first | (refine (fun (hx : Keeps a₀ x) => ?_) ?_; clear_value x) | clear_value x)
    | lift_lets | subst x | apply keeps_coreNext | apply keeps_setX | apply keeps_rset | apply keeps_modPlank
    | apply keeps_fileEvent | exact fun _ h => h | split | fail_if_no_progress apply keeps_free

theorem keeps_strmEnds {s : State} {n : ℕ} {outcome : ℕ} (h₀ : Keeps a₀ s) :
    Keeps a₀ (strmEnds s n outcome) := by
  unfold strmEnds
  repeat' with_reducible first
    | assumption | (intro x; first | (refine (fun (hx : Keeps a₀ x) => ?_) ?_; clear_value x) | clear_value x)
    | lift_lets | subst x | apply keeps_cancelEnds | apply keeps_failStream | apply keeps_drew | apply keeps_streamDone
    | apply keeps_rset | apply keeps_modPlank | apply keeps_fileEvent | exact fun _ h => h | split
    | fail_if_no_progress apply keeps_free

theorem keeps_execStrmEnd {s : State} {p : PlankId} {rs1 : XReg} {rs2 : XReg} (h₀ : Keeps a₀ s) {t₀ : State}
    (e : execStrmEnd p rs1 rs2 s = .next t₀) : Keeps a₀ t₀ := by
  unfold execStrmEnd at e
  injection e with e
  subst e
  repeat' with_reducible first
    | assumption | (intro x; first | (refine (fun (hx : Keeps a₀ x) => ?_) ?_; clear_value x) | clear_value x)
    | lift_lets | subst x | apply keeps_coreTrap | apply keeps_coreNext | apply keeps_strmEnds | apply keeps_modPlank
    | apply keeps_rset | apply keeps_fileEvent | exact fun _ h => h | split | fail_if_no_progress apply keeps_free

theorem keeps_execCoreQuiesce {s : State} {p : PlankId} (h₀ : Keeps a₀ s) {t₀ : State}
    (e : execCoreQuiesce p s = .next t₀) : Keeps a₀ t₀ := by
  unfold execCoreQuiesce at e
  injection e with e
  subst e
  repeat' with_reducible first
    | assumption | (intro x; first | (refine (fun (hx : Keeps a₀ x) => ?_) ?_; clear_value x) | clear_value x)
    | lift_lets | subst x | apply keeps_coreStop | apply keeps_rset | apply keeps_modPlank | apply keeps_fileEvent
    | exact fun _ h => h | split | fail_if_no_progress apply keeps_free | refine keeps_snd (by assumption) ?_
    | refine keeps_fst (by assumption) ?_

theorem keeps_ctxFails {s : State} {p : ℕ} (h₀ : Keeps a₀ s) :
    Keeps a₀ (ctxFails s p) := by
  unfold ctxFails
  repeat' with_reducible first
    | assumption | (intro x; first | (refine (fun (hx : Keeps a₀ x) => ?_) ?_; clear_value x) | clear_value x)
    | lift_lets | subst x | apply keeps_rset | apply keeps_loseSpill | apply keeps_plankFaultOp
    | apply keeps_failStream | apply keeps_modPlank | apply keeps_fileEvent | exact fun _ h => h | split
    | fail_if_no_progress apply keeps_free | refine keeps_snd (by assumption) ?_ | refine keeps_fst (by assumption) ?_

theorem keeps_contextWritten {s : State} {p : ℕ} {q : ℕ} (h₀ : Keeps a₀ s) :
    Keeps a₀ (contextWritten s p q) := by
  unfold contextWritten
  repeat' with_reducible first
    | assumption | (intro x; first | (refine (fun (hx : Keeps a₀ x) => ?_) ?_; clear_value x) | clear_value x)
    | lift_lets | subst x | apply keeps_rset | apply keeps_setCore | apply keeps_modPlank | apply keeps_store
    | apply keeps_fileEvent | exact fun _ h => h | split | fail_if_no_progress apply keeps_free

theorem keeps_execContextWriteComplete {s : State} {p : PlankId} (h₀ : Keeps a₀ s) {t₀ : State}
    (e : execContextWriteComplete p s = .next t₀) : Keeps a₀ t₀ := by
  unfold execContextWriteComplete at e
  injection e with e
  subst e
  repeat' with_reducible first
    | assumption | (intro x; first | (refine (fun (hx : Keeps a₀ x) => ?_) ?_; clear_value x) | clear_value x)
    | lift_lets | subst x | apply keeps_ctxFails | apply keeps_spillViolation | apply keeps_contextWritten
    | apply keeps_rset | apply keeps_modPlank | apply keeps_fileEvent | exact fun _ h => h | split
    | fail_if_no_progress apply keeps_free | refine keeps_snd (by assumption) ?_ | refine keeps_fst (by assumption) ?_

theorem keeps_reloadCore {s : State} {p : ℕ} {at0 : ℕ} (h₀ : Keeps a₀ s) :
    Keeps a₀ (reloadCore s p at0) := by
  unfold reloadCore
  repeat' with_reducible first
    | assumption
    | (intro x; first | (refine (fun (hx : Keeps a₀ x) => ?_) ?_; clear_value x) | (refine (fun (hx : Keeps a₀ x.2) => ?_) ?_; clear_value x) | (refine (fun (hx : Keeps a₀ x.1) => ?_) ?_; clear_value x) | clear_value x)
    | lift_lets | subst x | apply keeps_setPc | apply keeps_rset | apply keeps_loadTable | apply keeps_modPlank
    | apply keeps_setWord | refine keeps_foldl (fun _ _ _ => ?_) ?_ | refine keeps_foldl_fst (fun _ _ _ => ?_) ?_
    | refine keeps_foldl_snd (fun _ _ _ => ?_) ?_ | apply keeps_fileEvent | exact fun _ h => h
    | exact fun _ h => ⟨kwf_kputs (kwf_nil _) _ _, kwf_kputs (kwf_nil _) _ _, kwf_kputs (kwf_nil _) _ _, h.2.2.2.1, kwf_kputs (kwf_nil _) _ _⟩
    | split | fail_if_no_progress apply keeps_free

theorem keeps_resumeArray {s : State} {p : ℕ} {waiting : Option ℕ} (h₀ : Keeps a₀ s) :
    Keeps a₀ (resumeArray s p waiting) := by
  unfold resumeArray
  repeat' with_reducible first
    | assumption
    | (intro x; first | (refine (fun (hx : Keeps a₀ x) => ?_) ?_; clear_value x) | (refine (fun (hx : Keeps a₀ x.2) => ?_) ?_; clear_value x) | (refine (fun (hx : Keeps a₀ x.1) => ?_) ?_; clear_value x) | clear_value x)
    | lift_lets | subst x | apply keeps_issueDesc | apply keeps_refreshPlank | apply keeps_setPlankState
    | apply keeps_rset | apply keeps_issuePass | apply keeps_modPlank | apply keeps_fileEvent | exact fun _ h => h
    | split | fail_if_no_progress apply keeps_free | refine keeps_snd (by assumption) ?_
    | refine keeps_fst (by assumption) ?_

theorem keeps_coreResumed {s : State} {p : ℕ} (h₀ : Keeps a₀ s) :
    Keeps a₀ (coreResumed s p) := by
  unfold coreResumed
  repeat' with_reducible first
    | assumption | (intro x; first | (refine (fun (hx : Keeps a₀ x) => ?_) ?_; clear_value x) | clear_value x)
    | lift_lets | subst x | apply keeps_reloadCore | apply keeps_rset | apply keeps_setCore | apply keeps_resumeArray
    | apply keeps_modPlank | apply keeps_fileEvent | exact fun _ h => h | split | fail_if_no_progress apply keeps_free

theorem keeps_execCoreResume {s : State} {p : PlankId} {ecc : CoreEcc} (h₀ : Keeps a₀ s) {t₀ : State}
    (e : execCoreResume p ecc s = .next t₀) : Keeps a₀ t₀ := by
  unfold execCoreResume at e
  injection e with e
  subst e
  repeat' with_reducible first
    | assumption | (intro x; first | (refine (fun (hx : Keeps a₀ x) => ?_) ?_; clear_value x) | clear_value x)
    | lift_lets | subst x | apply keeps_ctxFails | apply keeps_spillViolation | apply keeps_eccCounts
    | apply keeps_coreResumed | apply keeps_rset | apply keeps_modPlank | apply keeps_fileEvent | exact fun _ h => h
    | split | fail_if_no_progress apply keeps_free | refine keeps_snd (by assumption) ?_
    | refine keeps_fst (by assumption) ?_

theorem keeps_discardCtxOp {s : State} {p : ℕ} (h₀ : Keeps a₀ s) :
    Keeps a₀ (discardCtxOp p s) := by
  unfold discardCtxOp
  repeat' with_reducible first
    | assumption | (intro x; first | (refine (fun (hx : Keeps a₀ x) => ?_) ?_; clear_value x) | clear_value x)
    | lift_lets | subst x | apply keeps_contextLost | apply keeps_rset | apply keeps_modPlank | apply keeps_fileEvent
    | exact fun _ h => h | split | fail_if_no_progress apply keeps_free

theorem keeps_execCoreStart {s : State} {p : PlankId} {w : Writer} (h₀ : Keeps a₀ s) {t₀ : State}
    (e : execCoreStart p w s = .next t₀) : Keeps a₀ t₀ := by
  unfold execCoreStart at e
  injection e with e
  subst e
  repeat' with_reducible first
    | assumption | (intro x; first | (refine (fun (hx : Keeps a₀ x) => ?_) ?_; clear_value x) | clear_value x)
    | lift_lets | subst x | refine keeps_regCommand (fun _ _ => ?_) ?_ | apply keeps_coreStartOp | apply keeps_rset
    | apply keeps_modPlank | apply keeps_fileEvent | exact fun _ h => h | split | fail_if_no_progress apply keeps_free

theorem keeps_execCoreReset {s : State} {p : PlankId} {w : Writer} (h₀ : Keeps a₀ s) {t₀ : State}
    (e : execCoreReset p w s = .next t₀) : Keeps a₀ t₀ := by
  unfold execCoreReset at e
  injection e with e
  subst e
  repeat' with_reducible first
    | assumption | (intro x; first | (refine (fun (hx : Keeps a₀ x) => ?_) ?_; clear_value x) | clear_value x)
    | lift_lets | subst x | refine keeps_regCommand (fun _ _ => ?_) ?_ | apply keeps_resetCore | apply keeps_rset
    | apply keeps_modPlank | apply keeps_fileEvent | exact fun _ h => h | split | fail_if_no_progress apply keeps_free

theorem keeps_execCoreDiscardCtx {s : State} {p : PlankId} {w : Writer} (h₀ : Keeps a₀ s) {t₀ : State}
    (e : execCoreDiscardCtx p w s = .next t₀) : Keeps a₀ t₀ := by
  unfold execCoreDiscardCtx at e
  injection e with e
  subst e
  repeat' with_reducible first
    | assumption | (intro x; first | (refine (fun (hx : Keeps a₀ x) => ?_) ?_; clear_value x) | clear_value x)
    | lift_lets | subst x | refine keeps_regCommand (fun _ _ => ?_) ?_ | apply keeps_discardCtxOp | apply keeps_rset
    | apply keeps_modPlank | apply keeps_fileEvent | exact fun _ h => h | split | fail_if_no_progress apply keeps_free

theorem keeps_execCoreAutoReset {s : State} {p : PlankId} (h₀ : Keeps a₀ s) {t₀ : State}
    (e : execCoreAutoReset p s = .next t₀) : Keeps a₀ t₀ := by
  unfold execCoreAutoReset at e
  injection e with e
  subst e
  repeat' with_reducible first
    | assumption | (intro x; first | (refine (fun (hx : Keeps a₀ x) => ?_) ?_; clear_value x) | clear_value x)
    | lift_lets | subst x | apply keeps_resetCore | apply keeps_rset | apply keeps_modPlank | apply keeps_fileEvent
    | exact fun _ h => h | split | fail_if_no_progress apply keeps_free

end Sys2Proof.Machine
end

