-- ==== Sys2Proof/Laws/KeepsJob.lean ====
section
/-! SUPPORT. One lemma per operation and per meaning: it keeps the tables canonical and the queue as it is; here phases, jobs, boot and sessions. -/
namespace Sys2Proof.Machine

set_option linter.all false

variable {a₀ : State}

/-! ## Phases -/

theorem keeps_seqNonfinite {s : State} {j : Job} {slot : ℕ} (h₀ : Keeps a₀ s) :
    Keeps a₀ (seqNonfinite s j slot) := by
  unfold seqNonfinite
  repeat' with_reducible first
    | assumption | (intro x; first | (refine (fun (hx : Keeps a₀ x) => ?_) ?_; clear_value x) | clear_value x)
    | lift_lets | subst x | apply keeps_hbmStoreRec | apply keeps_rset | apply keeps_modPlank | apply keeps_fileEvent
    | exact fun _ h => h | split | fail_if_no_progress apply keeps_free

theorem keeps_execSeqLossNonfinite {s : State} {job : BitVec 16} {slot : Fin 128} (h₀ : Keeps a₀ s) {t₀ : State}
    (e : execSeqLossNonfinite job slot s = .next t₀) : Keeps a₀ t₀ := by
  unfold execSeqLossNonfinite at e
  injection e with e
  subst e
  repeat' with_reducible first
    | assumption | (intro x; first | (refine (fun (hx : Keeps a₀ x) => ?_) ?_; clear_value x) | clear_value x)
    | lift_lets | subst x | apply keeps_seqNonfinite | apply keeps_rset | apply keeps_modPlank | apply keeps_fileEvent
    | exact fun _ h => h | split | fail_if_no_progress apply keeps_free | refine keeps_snd (by assumption) ?_
    | refine keeps_fst (by assumption) ?_

theorem keeps_checkBegins {s : State} {j : Job} {views : List ReplicaView} (h₀ : Keeps a₀ s) :
    Keeps a₀ (checkBegins s j views) := by
  unfold checkBegins
  repeat' with_reducible first
    | assumption
    | (intro x; first | (refine (fun (hx : Keeps a₀ x) => ?_) ?_; clear_value x) | (refine (fun (hx : Keeps a₀ x.2) => ?_) ?_; clear_value x) | (refine (fun (hx : Keeps a₀ x.1) => ?_) ?_; clear_value x) | clear_value x)
    | lift_lets | subst x | apply keeps_seqNonfinite | apply keeps_hbmNotes | apply keeps_setStep
    | refine keeps_foldl (fun _ _ _ => ?_) ?_ | refine keeps_foldl_fst (fun _ _ _ => ?_) ?_
    | refine keeps_foldl_snd (fun _ _ _ => ?_) ?_ | apply keeps_rset | apply keeps_modPlank | apply keeps_fileEvent
    | exact fun _ h => h | split | fail_if_no_progress apply keeps_free

theorem keeps_checkBeginOp {s : State} {id : ℕ} {views : List ReplicaView} (h₀ : Keeps a₀ s) :
    Keeps a₀ (checkBeginOp s id views) := by
  unfold checkBeginOp
  repeat' with_reducible first
    | assumption | (intro x; first | (refine (fun (hx : Keeps a₀ x) => ?_) ?_; clear_value x) | clear_value x)
    | lift_lets | subst x | apply keeps_checkBegins | apply keeps_rset | apply keeps_modPlank | apply keeps_fileEvent
    | exact fun _ h => h | split | fail_if_no_progress apply keeps_free | refine keeps_snd (by assumption) ?_
    | refine keeps_fst (by assumption) ?_

theorem keeps_execCheckBegin {s : State} {job : BitVec 16} {replicas : List ReplicaView} (h₀ : Keeps a₀ s) {t₀ : State}
    (e : execCheckBegin job replicas s = .next t₀) : Keeps a₀ t₀ := by
  unfold execCheckBegin at e
  injection e with e
  subst e
  repeat' with_reducible first
    | assumption | (intro x; first | (refine (fun (hx : Keeps a₀ x) => ?_) ?_; clear_value x) | clear_value x)
    | lift_lets | subst x | apply keeps_checkBeginOp | apply keeps_rset | apply keeps_modPlank | apply keeps_fileEvent
    | exact fun _ h => h | split | fail_if_no_progress apply keeps_free

theorem keeps_raisePending {s : State} {j : Job} {tid : ℕ} (h₀ : Keeps a₀ s) :
    Keeps a₀ (raisePending s j tid) := by
  unfold raisePending
  repeat' with_reducible first
    | assumption | (intro x; first | (refine (fun (hx : Keeps a₀ x) => ?_) ?_; clear_value x) | clear_value x)
    | lift_lets | subst x | apply keeps_setLadder | apply keeps_rset | apply keeps_modPlank | apply keeps_fileEvent
    | exact fun _ h => h | split | fail_if_no_progress apply keeps_free

theorem keeps_writeStaged {s : State} {j : Job} {st : List (ℕ × List Byte)} (h₀ : Keeps a₀ s) :
    Keeps a₀ (writeStaged s j st) := by
  unfold writeStaged
  repeat' with_reducible first
    | assumption
    | (intro x; first | (refine (fun (hx : Keeps a₀ x) => ?_) ?_; clear_value x) | (refine (fun (hx : Keeps a₀ x.2) => ?_) ?_; clear_value x) | (refine (fun (hx : Keeps a₀ x.1) => ?_) ?_; clear_value x) | clear_value x)
    | lift_lets | subst x | apply keeps_hbmStore | apply keeps_hbmNote | refine keeps_foldl (fun _ _ _ => ?_) ?_
    | refine keeps_foldl_fst (fun _ _ _ => ?_) ?_ | refine keeps_foldl_snd (fun _ _ _ => ?_) ?_ | apply keeps_rset
    | apply keeps_modPlank | apply keeps_fileEvent | exact fun _ h => h | split | fail_if_no_progress apply keeps_free

theorem keeps_commitStep {s : State} {id : ℕ} (h₀ : Keeps a₀ s) :
    Keeps a₀ (commitStep s id) := by
  unfold commitStep
  repeat' with_reducible first
    | assumption
    | (intro x; first | (refine (fun (hx : Keeps a₀ x) => ?_) ?_; clear_value x) | (refine (fun (hx : Keeps a₀ x.2) => ?_) ?_; clear_value x) | (refine (fun (hx : Keeps a₀ x.1) => ?_) ?_; clear_value x) | clear_value x)
    | lift_lets | subst x | apply keeps_setStep | apply keeps_writeStaged | apply keeps_hbmNotes | apply keeps_rset
    | apply keeps_modPlank | apply keeps_fileEvent | exact fun _ h => h | split | fail_if_no_progress apply keeps_free
    | refine keeps_snd (by assumption) ?_ | refine keeps_fst (by assumption) ?_

theorem keeps_actVerdict {s : State} {id : ℕ} {v : ℕ} {c : CheckRec} (h₀ : Keeps a₀ s) :
    Keeps a₀ (actVerdict s id v c) := by
  unfold actVerdict
  repeat' with_reducible first
    | assumption | (intro x; first | (refine (fun (hx : Keeps a₀ x) => ?_) ?_; clear_value x) | clear_value x)
    | lift_lets | subst x | apply keeps_setStep | apply keeps_voidStep | apply keeps_finalVerdict
    | apply keeps_commitStep | apply keeps_rset | apply keeps_modPlank | apply keeps_fileEvent | exact fun _ h => h
    | split | fail_if_no_progress apply keeps_free

theorem keeps_checkFolds {s : State} {j : Job} {mine : CheckRec} {others : List MemberPart} (h₀ : Keeps a₀ s) :
    Keeps a₀ (checkFolds s j mine others) := by
  unfold checkFolds
  repeat' with_reducible first
    | assumption
    | (intro x; first | (refine (fun (hx : Keeps a₀ x) => ?_) ?_; clear_value x) | (refine (fun (hx : Keeps a₀ x.2) => ?_) ?_; clear_value x) | (refine (fun (hx : Keeps a₀ x.1) => ?_) ?_; clear_value x) | clear_value x)
    | lift_lets | subst x | apply keeps_writeStatTable | apply keeps_hbmNotes | apply keeps_raisePending
    | apply keeps_setStep | apply keeps_actVerdict | refine keeps_foldl (fun _ _ _ => ?_) ?_
    | refine keeps_foldl_fst (fun _ _ _ => ?_) ?_ | refine keeps_foldl_snd (fun _ _ _ => ?_) ?_ | apply keeps_rset
    | apply keeps_modPlank | apply keeps_fileEvent | exact fun _ h => h | split | fail_if_no_progress apply keeps_free

theorem keeps_resolveHeld {s : State} {j : Job} {c : CheckRec} {decision : ℕ} {others : List (BitVec 14 × BitVec 8)} (h₀ : Keeps a₀ s) :
    Keeps a₀ (resolveHeld s j c decision others) := by
  unfold resolveHeld
  repeat' with_reducible first
    | assumption
    | (intro x; first | (refine (fun (hx : Keeps a₀ x) => ?_) ?_; clear_value x) | (refine (fun (hx : Keeps a₀ x.2) => ?_) ?_; clear_value x) | (refine (fun (hx : Keeps a₀ x.1) => ?_) ?_; clear_value x) | clear_value x)
    | lift_lets | subst x | apply keeps_voidStep | apply keeps_commitStep | apply keeps_finalVerdict | apply keeps_rset
    | apply keeps_modPlank | apply keeps_fileEvent | exact fun _ h => h | split | fail_if_no_progress apply keeps_free

theorem keeps_checkReduced {s : State} {id : ℕ} {others : List MemberPart} (h₀ : Keeps a₀ s) :
    Keeps a₀ (checkReduced s id others) := by
  unfold checkReduced
  repeat' with_reducible first
    | assumption | (intro x; first | (refine (fun (hx : Keeps a₀ x) => ?_) ?_; clear_value x) | clear_value x)
    | lift_lets | subst x | apply keeps_checkFolds | apply keeps_resolveHeld | apply keeps_rset | apply keeps_modPlank
    | apply keeps_fileEvent | exact fun _ h => h | split | fail_if_no_progress apply keeps_free
    | refine keeps_snd (by assumption) ?_ | refine keeps_fst (by assumption) ?_

theorem keeps_execCheckReductionComplete {s : State} {job : BitVec 16} {others : List MemberPart} (h₀ : Keeps a₀ s) {t₀ : State}
    (e : execCheckReductionComplete job others s = .next t₀) : Keeps a₀ t₀ := by
  unfold execCheckReductionComplete at e
  injection e with e
  subst e
  repeat' with_reducible first
    | assumption | (intro x; first | (refine (fun (hx : Keeps a₀ x) => ?_) ?_; clear_value x) | clear_value x)
    | lift_lets | subst x | apply keeps_checkReduced | apply keeps_rset | apply keeps_modPlank | apply keeps_fileEvent
    | exact fun _ h => h | split | fail_if_no_progress apply keeps_free

theorem keeps_resetAttemptPlank {s : State} {p : ℕ} (h₀ : Keeps a₀ s) :
    Keeps a₀ (resetAttemptPlank s p) := by
  unfold resetAttemptPlank
  repeat' with_reducible first
    | assumption | (intro x; first | (refine (fun (hx : Keeps a₀ x) => ?_) ?_; clear_value x) | clear_value x)
    | lift_lets | subst x | apply keeps_freeAcc | apply keeps_rset | apply keeps_emptyFill | apply keeps_modPlank
    | apply keeps_fileEvent | exact fun _ h => h | split | fail_if_no_progress apply keeps_free

theorem keeps_clearLosses {s : State} {j : Job} (h₀ : Keeps a₀ s) :
    Keeps a₀ (clearLosses s j) := by
  unfold clearLosses
  repeat' with_reducible first
    | assumption | (intro x; first | (refine (fun (hx : Keeps a₀ x) => ?_) ?_; clear_value x) | clear_value x)
    | lift_lets | subst x | apply keeps_hbmStore | apply keeps_rset | apply keeps_modPlank | apply keeps_fileEvent
    | exact fun _ h => h | split | fail_if_no_progress apply keeps_free

theorem keeps_beginAttempt {s : State} {id : ℕ} {attempt : ℕ} {replay : Bool} (h₀ : Keeps a₀ s) :
    Keeps a₀ (beginAttempt s id attempt replay) := by
  unfold beginAttempt
  repeat' with_reducible first
    | assumption | (intro x; first | (refine (fun (hx : Keeps a₀ x) => ?_) ?_; clear_value x) | clear_value x)
    | lift_lets | subst x | apply keeps_clearStatTable | apply keeps_clearLosses | apply keeps_resetAttemptPlank
    | apply keeps_setStep | refine keeps_foldl (fun _ _ _ => ?_) ?_ | apply keeps_rset | apply keeps_modPlank
    | apply keeps_fileEvent | exact fun _ h => h | split | fail_if_no_progress apply keeps_free
    | refine keeps_snd (by assumption) ?_ | refine keeps_fst (by assumption) ?_

theorem keeps_replayAttempt {s : State} {j : Job} (h₀ : Keeps a₀ s) :
    Keeps a₀ (replayAttempt s j) := by
  unfold replayAttempt
  repeat' with_reducible first
    | assumption | (intro x; first | (refine (fun (hx : Keeps a₀ x) => ?_) ?_; clear_value x) | clear_value x)
    | lift_lets | subst x | apply keeps_clearStats | apply keeps_setLadder | apply keeps_setRef | apply keeps_modJob
    | apply keeps_beginAttempt | refine keeps_foldl (fun _ _ _ => ?_) ?_ | apply keeps_rset | apply keeps_modPlank
    | apply keeps_fileEvent | exact fun _ h => h | split | fail_if_no_progress apply keeps_free

theorem keeps_restartAttempt {s : State} {j : Job} (h₀ : Keeps a₀ s) :
    Keeps a₀ (restartAttempt s j) := by
  unfold restartAttempt
  repeat' with_reducible first
    | assumption | (intro x; first | (refine (fun (hx : Keeps a₀ x) => ?_) ?_; clear_value x) | clear_value x)
    | lift_lets | subst x | apply keeps_modJob | apply keeps_clearStats | apply keeps_beginAttempt | apply keeps_rset
    | apply keeps_modPlank | apply keeps_fileEvent | exact fun _ h => h | split | fail_if_no_progress apply keeps_free

theorem keeps_firstAttempt {s : State} {j : Job} (h₀ : Keeps a₀ s) :
    Keeps a₀ (firstAttempt s j) := by
  unfold firstAttempt
  repeat' with_reducible first
    | assumption | (intro x; first | (refine (fun (hx : Keeps a₀ x) => ?_) ?_; clear_value x) | clear_value x)
    | lift_lets | subst x | apply keeps_strmSet | apply keeps_firstRefs | apply keeps_hbmNotes
    | apply keeps_hbmStoreRec | apply keeps_modJob | apply keeps_energyBegin | apply keeps_beginAttempt
    | refine keeps_foldl (fun _ _ _ => ?_) ?_ | apply keeps_rset | apply keeps_modPlank | apply keeps_fileEvent
    | exact fun _ h => h | split | fail_if_no_progress apply keeps_free

theorem keeps_attemptBegin {s : State} {id : ℕ} (h₀ : Keeps a₀ s) :
    Keeps a₀ (attemptBegin s id) := by
  unfold attemptBegin
  repeat' with_reducible first
    | assumption | (intro x; first | (refine (fun (hx : Keeps a₀ x) => ?_) ?_; clear_value x) | clear_value x)
    | lift_lets | subst x | apply keeps_replayAttempt | apply keeps_restartAttempt | apply keeps_firstAttempt
    | apply keeps_rset | apply keeps_modPlank | apply keeps_fileEvent | exact fun _ h => h | split
    | fail_if_no_progress apply keeps_free | refine keeps_snd (by assumption) ?_ | refine keeps_fst (by assumption) ?_

theorem keeps_execAttemptBegin {s : State} {job : BitVec 16} (h₀ : Keeps a₀ s) {t₀ : State}
    (e : execAttemptBegin job s = .next t₀) : Keeps a₀ t₀ := by
  unfold execAttemptBegin at e
  injection e with e
  subst e
  repeat' with_reducible first
    | assumption | (intro x; first | (refine (fun (hx : Keeps a₀ x) => ?_) ?_; clear_value x) | clear_value x)
    | lift_lets | subst x | apply keeps_attemptBegin | apply keeps_rset | apply keeps_modPlank | apply keeps_fileEvent
    | exact fun _ h => h | split | fail_if_no_progress apply keeps_free

/-! ## JobLoad -/

theorem keeps_loadTree {s : State} {e : TreeEntry} (h₀ : Keeps a₀ s) :
    Keeps a₀ (loadTree s e) := by
  unfold loadTree
  repeat' with_reducible first
    | assumption | (intro x; first | (refine (fun (hx : Keeps a₀ x) => ?_) ?_; clear_value x) | clear_value x)
    | lift_lets | subst x | apply keeps_setWord | refine keeps_foldl (fun _ _ _ => ?_) ?_ | apply keeps_rset
    | apply keeps_modPlank | apply keeps_fileEvent | exact fun _ h => h | split | fail_if_no_progress apply keeps_free

theorem keeps_loadProgram {s : State} {e : ProgEntry} (h₀ : Keeps a₀ s) :
    Keeps a₀ (loadProgram s e) := by
  unfold loadProgram
  repeat' with_reducible first
    | assumption
    | (intro x; first | (refine (fun (hx : Keeps a₀ x) => ?_) ?_; clear_value x) | (refine (fun (hx : Keeps a₀ x.2) => ?_) ?_; clear_value x) | (refine (fun (hx : Keeps a₀ x.1) => ?_) ?_; clear_value x) | clear_value x)
    | lift_lets | subst x | apply keeps_resetCore | apply keeps_setX | apply keeps_modPlank | apply keeps_setWord
    | refine keeps_foldl (fun _ _ _ => ?_) ?_ | refine keeps_foldl_fst (fun _ _ _ => ?_) ?_
    | refine keeps_foldl_snd (fun _ _ _ => ?_) ?_ | apply keeps_rset | apply keeps_fileEvent | exact fun _ h => h
    | exact fun _ h => ⟨h.1, h.2.1, h.2.2.1, kwf_kputs h.2.2.2.1 _ _, h.2.2.2.2⟩ | split
    | fail_if_no_progress apply keeps_free

theorem keeps_startStream {s : State} {n : ℕ} (h₀ : Keeps a₀ s) :
    Keeps a₀ (startStream s n) := by
  unfold startStream
  repeat' with_reducible first
    | assumption | (intro x; first | (refine (fun (hx : Keeps a₀ x) => ?_) ?_; clear_value x) | clear_value x)
    | lift_lets | subst x | apply keeps_streamRuns | apply keeps_energyBegin | apply keeps_rset | apply keeps_modPlank
    | apply keeps_fileEvent | exact fun _ h => h | split | fail_if_no_progress apply keeps_free
    | refine keeps_snd (by assumption) ?_ | refine keeps_fst (by assumption) ?_

theorem keeps_enterStream {s : State} {j : Job} {e : StreamEntry} (h₀ : Keeps a₀ s) :
    Keeps a₀ (enterStream s j e) := by
  unfold enterStream
  repeat' with_reducible first
    | assumption | (intro x; first | (refine (fun (hx : Keeps a₀ x) => ?_) ?_; clear_value x) | clear_value x)
    | lift_lets | subst x | apply keeps_startStream | apply keeps_streamTo | apply keeps_setStrm | apply keeps_rset
    | apply keeps_modPlank | apply keeps_fileEvent | exact fun _ h => h | split | fail_if_no_progress apply keeps_free

theorem keeps_firstBatch {s : State} {j : Job} (h₀ : Keeps a₀ s) :
    Keeps a₀ (firstBatch s j) := by
  unfold firstBatch
  repeat' with_reducible first
    | assumption | (intro x; first | (refine (fun (hx : Keeps a₀ x) => ?_) ?_; clear_value x) | clear_value x)
    | lift_lets | subst x | apply keeps_firstRefs | apply keeps_hbmNotes | apply keeps_rset | apply keeps_modPlank
    | apply keeps_fileEvent | exact fun _ h => h | split | fail_if_no_progress apply keeps_free

theorem keeps_assignChans {s : State} {j : Job} (h₀ : Keeps a₀ s) :
    Keeps a₀ (assignChans s j) := by
  unfold assignChans
  repeat' with_reducible first
    | assumption
    | (intro x; first | (refine (fun (hx : Keeps a₀ x) => ?_) ?_; clear_value x) | (refine (fun (hx : Keeps a₀ x.2) => ?_) ?_; clear_value x) | (refine (fun (hx : Keeps a₀ x.1) => ?_) ?_; clear_value x) | clear_value x)
    | lift_lets | subst x | apply keeps_applyHandovers | apply keeps_rset | apply keeps_modPlank
    | apply keeps_fileEvent | exact fun _ h => h | split | fail_if_no_progress apply keeps_free
    | refine keeps_snd (by assumption) ?_ | refine keeps_fst (by assumption) ?_

theorem keeps_clearChans {s : State} {j : Job} {planks : List ℕ} (h₀ : Keeps a₀ s) :
    Keeps a₀ (clearChans s j planks) := by
  unfold clearChans
  repeat' with_reducible first
    | assumption
    | (intro x; first | (refine (fun (hx : Keeps a₀ x) => ?_) ?_; clear_value x) | (refine (fun (hx : Keeps a₀ x.2) => ?_) ?_; clear_value x) | (refine (fun (hx : Keeps a₀ x.1) => ?_) ?_; clear_value x) | clear_value x)
    | lift_lets | subst x | apply keeps_dropChans | apply keeps_applyHandovers
    | refine keeps_foldl (fun _ _ _ => ?_) ?_ | refine keeps_foldl_fst (fun _ _ _ => ?_) ?_
    | refine keeps_foldl_snd (fun _ _ _ => ?_) ?_ | apply keeps_rset | apply keeps_modPlank | apply keeps_fileEvent
    | exact fun _ h => h | split | fail_if_no_progress apply keeps_free

theorem keeps_takePlanks {s : State} {j : Job} (h₀ : Keeps a₀ s) :
    Keeps a₀ (takePlanks s j) := by
  unfold takePlanks
  repeat' with_reducible first
    | assumption | (intro x; first | (refine (fun (hx : Keeps a₀ x) => ?_) ?_; clear_value x) | clear_value x)
    | lift_lets | subst x | apply keeps_contextLost | apply keeps_discardContexts
    | refine keeps_foldl (fun _ _ _ => ?_) ?_ | apply keeps_rset | apply keeps_modPlank | apply keeps_fileEvent
    | exact fun _ h => h | split | fail_if_no_progress apply keeps_free | refine keeps_snd (by assumption) ?_
    | refine keeps_fst (by assumption) ?_

theorem keeps_acceptJob {s : State} {j : Job} (h₀ : Keeps a₀ s) :
    Keeps a₀ (acceptJob s j) := by
  unfold acceptJob
  repeat' with_reducible first
    | assumption | (intro x; first | (refine (fun (hx : Keeps a₀ x) => ?_) ?_; clear_value x) | clear_value x)
    | lift_lets | subst x | apply keeps_loadProgram | apply keeps_takePlanks | apply keeps_firstBatch
    | apply keeps_assignChans | apply keeps_makeStale | apply keeps_enterStream | apply keeps_setObj
    | refine keeps_foldl (fun _ _ _ => ?_) ?_ | apply keeps_rset | apply keeps_modPlank | apply keeps_fileEvent
    | exact fun _ h => h | split | fail_if_no_progress apply keeps_free

theorem keeps_loadJob {s : State} {off : ℕ} {lists : JobLists} (h₀ : Keeps a₀ s) :
    Keeps a₀ (loadJob s off lists).2 := by
  unfold loadJob
  repeat' with_reducible first
    | assumption
    | (intro x; first | (refine (fun (hx : Keeps a₀ x) => ?_) ?_; clear_value x) | (refine (fun (hx : Keeps a₀ x.2) => ?_) ?_; clear_value x) | (refine (fun (hx : Keeps a₀ x.1) => ?_) ?_; clear_value x) | clear_value x)
    | lift_lets | subst x | apply keeps_loadTree | apply keeps_hbmNote | apply keeps_hbmNotes | apply keeps_acceptJob
    | refine keeps_foldl (fun _ _ _ => ?_) ?_ | refine keeps_foldl_fst (fun _ _ _ => ?_) ?_
    | refine keeps_foldl_snd (fun _ _ _ => ?_) ?_ | apply keeps_rset | apply keeps_modPlank | apply keeps_fileEvent
    | exact fun _ h => h | split | fail_if_no_progress apply keeps_free | refine keeps_snd (by assumption) ?_
    | refine keeps_fst (by assumption) ?_

theorem keeps_copyLoadList {s : State} (h : Keeps a₀ s) {x : Nat × State} (e : copyLoadList s = some x) : Keeps a₀ x.2 := by
  unfold copyLoadList at e
  extract_lets slot l d at e
  split at e
  · exact (Option.some_ne_none _ e.symm).elim
  · rw [← Option.some.inj e]
    exact keeps_foldl (fun _ _ hs => keeps_hbmStore hs) h

theorem keeps_loadConfigured {s : State} {lists : JobLists} (h₀ : Keeps a₀ s) :
    Keeps a₀ (loadConfigured s lists).2 := by
  unfold loadConfigured
  repeat' with_reducible first
    | assumption
    | (intro x; first | (refine (fun (hx : Keeps a₀ x) => ?_) ?_; clear_value x) | (refine (fun (hx : Keeps a₀ x.2) => ?_) ?_; clear_value x) | (refine (fun (hx : Keeps a₀ x.1) => ?_) ?_; clear_value x) | clear_value x)
    | lift_lets | subst x | apply keeps_copyLoadList | apply keeps_loadJob | apply keeps_rset | apply keeps_modPlank
    | apply keeps_fileEvent | exact fun _ h => h | split | fail_if_no_progress apply keeps_free | exact keepsOpt_none
    | apply keepsOpt_some | refine keepsOpt_of ?_ (by assumption) | apply keeps_getD
    | refine keeps_snd (by assumption) ?_ | refine keeps_fst (by assumption) ?_

theorem keeps_idleStream {s : State} {n : ℕ} (h₀ : Keeps a₀ s) :
    Keeps a₀ (idleStream s n) := by
  unfold idleStream
  repeat' with_reducible first
    | assumption
    | (intro x; first | (refine (fun (hx : Keeps a₀ x) => ?_) ?_; clear_value x) | (refine (fun (hx : Keeps a₀ x.2) => ?_) ?_; clear_value x) | (refine (fun (hx : Keeps a₀ x.1) => ?_) ?_; clear_value x) | clear_value x)
    | lift_lets | subst x | apply keeps_streamTo | apply keeps_setStrm | apply keeps_rset | apply keeps_modPlank
    | apply keeps_fileEvent | exact fun _ h => h | split | fail_if_no_progress apply keeps_free

theorem keeps_dropPartition {s : State} {part : ℕ} (h₀ : Keeps a₀ s) :
    Keeps a₀ (dropPartition s part) := by
  unfold dropPartition
  repeat' with_reducible first
    | assumption
    | (intro x; first | (refine (fun (hx : Keeps a₀ x) => ?_) ?_; clear_value x) | (refine (fun (hx : Keeps a₀ x.2) => ?_) ?_; clear_value x) | (refine (fun (hx : Keeps a₀ x.1) => ?_) ?_; clear_value x) | clear_value x)
    | lift_lets | subst x | apply keeps_rset | apply keeps_evlog | refine keeps_foldl (fun _ _ _ => ?_) ?_
    | refine keeps_foldl_fst (fun _ _ _ => ?_) ?_ | refine keeps_foldl_snd (fun _ _ _ => ?_) ?_ | apply keeps_modPlank
    | apply keeps_fileEvent | exact fun _ h => h | split | fail_if_no_progress apply keeps_free

theorem keeps_unloadJob {s : State} {j : Job} (h₀ : Keeps a₀ s) :
    Keeps a₀ (unloadJob s j) := by
  unfold unloadJob
  repeat' with_reducible first
    | assumption
    | (intro x; first | (refine (fun (hx : Keeps a₀ x) => ?_) ?_; clear_value x) | (refine (fun (hx : Keeps a₀ x.2) => ?_) ?_; clear_value x) | (refine (fun (hx : Keeps a₀ x.1) => ?_) ?_; clear_value x) | clear_value x)
    | lift_lets | subst x | apply keeps_rset | apply keeps_clearChans | apply keeps_idleStream | apply keeps_makeStale
    | apply keeps_dropPartition | apply keeps_modPlank | refine keeps_foldl (fun _ _ _ => ?_) ?_
    | refine keeps_foldl_fst (fun _ _ _ => ?_) ?_ | refine keeps_foldl_snd (fun _ _ _ => ?_) ?_ | apply keeps_fileEvent
    | exact fun _ h => h | split | fail_if_no_progress apply keeps_free | refine keeps_snd (by assumption) ?_
    | refine keeps_fst (by assumption) ?_

theorem keeps_execJobUnload {s : State} {job : BitVec 16} (h₀ : Keeps a₀ s) {t₀ : State}
    (e : execJobUnload job s = .next t₀) : Keeps a₀ t₀ := by
  unfold execJobUnload at e
  injection e with e
  subst e
  repeat' with_reducible first
    | assumption | (intro x; first | (refine (fun (hx : Keeps a₀ x) => ?_) ?_; clear_value x) | clear_value x)
    | lift_lets | subst x | apply keeps_unloadJob | apply keeps_rset | apply keeps_modPlank | apply keeps_fileEvent
    | exact fun _ h => h | split | fail_if_no_progress apply keeps_free | refine keeps_snd (by assumption) ?_
    | refine keeps_fst (by assumption) ?_

theorem keeps_execJobLoad {s : State} {rq : Req} {source : BitVec 8} {off : BitVec 64} {lists : JobLists} (h₀ : Keeps a₀ s) {t₀ : State}
    (e : execJobLoad rq source off lists s = .next t₀) : Keeps a₀ t₀ := by
  unfold execJobLoad at e
  injection e with e
  subst e
  repeat' with_reducible first
    | assumption
    | (intro x; first | (refine (fun (hx : Keeps a₀ x) => ?_) ?_; clear_value x) | (refine (fun (hx : Keeps a₀ x.2) => ?_) ?_; clear_value x) | (refine (fun (hx : Keeps a₀ x.1) => ?_) ?_; clear_value x) | clear_value x)
    | lift_lets | subst x | refine keeps_answerVerb (fun _ _ => ?_) ?_ | apply keeps_loadConfigured
    | apply keeps_loadJob | apply keeps_rset | apply keeps_modPlank | apply keeps_fileEvent | exact fun _ h => h
    | split | fail_if_no_progress apply keeps_free | refine keeps_snd (by assumption) ?_
    | refine keeps_fst (by assumption) ?_

/-! ## Boot -/

theorem keeps_bootInfo {s : State} {ca : ℕ} {cb : ℕ} (h₀ : Keeps a₀ s) :
    Keeps a₀ (bootInfo s ca cb) := by
  unfold bootInfo
  repeat' with_reducible first
    | assumption | (intro x; first | (refine (fun (hx : Keeps a₀ x) => ?_) ?_; clear_value x) | clear_value x)
    | lift_lets | subst x | apply keeps_rset | apply keeps_modPlank | apply keeps_fileEvent | exact fun _ h => h
    | split | fail_if_no_progress apply keeps_free

theorem keeps_runSlot {s : State} {slot : ℕ} (h₀ : Keeps a₀ s) :
    Keeps a₀ (runSlot s slot) := by
  unfold runSlot
  repeat' with_reducible first
    | assumption | (intro x; first | (refine (fun (hx : Keeps a₀ x) => ?_) ?_; clear_value x) | clear_value x)
    | lift_lets | subst x | apply keeps_rset | apply keeps_loadBank | apply keeps_applyLive
    | refine keeps_foldl (fun _ _ _ => ?_) ?_ | apply keeps_modPlank | apply keeps_fileEvent | exact fun _ h => h
    | split | fail_if_no_progress apply keeps_free

theorem keeps_enterMire {s : State} {reason : ℕ} (h₀ : Keeps a₀ s) :
    Keeps a₀ (enterMire s reason) := by
  unfold enterMire
  repeat' with_reducible first
    | assumption | (intro x; first | (refine (fun (hx : Keeps a₀ x) => ?_) ?_; clear_value x) | clear_value x)
    | lift_lets | subst x | apply keeps_rset | apply keeps_loadBank | apply keeps_setModState | apply keeps_tripNow
    | apply keeps_modPlank | apply keeps_fileEvent | exact fun _ h => h | split | fail_if_no_progress apply keeps_free

theorem keeps_slotChosen {s : State} {straps : BitVec 5} (h₀ : Keeps a₀ s) :
    Keeps a₀ (slotChosen s straps) := by
  unfold slotChosen
  repeat' with_reducible first
    | assumption | (intro x; first | (refine (fun (hx : Keeps a₀ x) => ?_) ?_; clear_value x) | clear_value x)
    | lift_lets | subst x | apply keeps_rset | apply keeps_bootInfo | apply keeps_runSlot | apply keeps_fileEvent
    | apply keeps_enterMire | apply keeps_modPlank | exact fun _ h => h | split | fail_if_no_progress apply keeps_free
    | refine keeps_snd (by assumption) ?_ | refine keeps_fst (by assumption) ?_

theorem keeps_execSlotSelect {s : State} {straps : BitVec 5} (h₀ : Keeps a₀ s) {t₀ : State}
    (e : execSlotSelect straps s = .next t₀) : Keeps a₀ t₀ := by
  unfold execSlotSelect at e
  injection e with e
  subst e
  repeat' with_reducible first
    | assumption | (intro x; first | (refine (fun (hx : Keeps a₀ x) => ?_) ?_; clear_value x) | clear_value x)
    | lift_lets | subst x | apply keeps_slotChosen | apply keeps_rset | apply keeps_modPlank | apply keeps_fileEvent
    | exact fun _ h => h | split | fail_if_no_progress apply keeps_free

theorem keeps_bringUpSound {s : State} {p : Nat} {fs : List SoundingFail} (h : Keeps a₀ s) :
    Keeps a₀ (bringUpSound s p fs) := by
  induction fs generalizing s with
  | nil => exact keeps_rset (keeps_rset (keeps_tick h))
  | cons f fs ih =>
    unfold bringUpSound
    dsimp only
    split
    · exact ih (keeps_chargeSoon (keeps_chargeSoon (keeps_rsat h)))
    · exact keeps_decideMask (keeps_rset (keeps_chargeSoon (keeps_rsat (keeps_chargeSoon (keeps_rsat h)))))

theorem keeps_powerDie {s : State} {c : ℕ} {failed : List SoundingFail} (h₀ : Keeps a₀ s) :
    Keeps a₀ (powerDie s c failed) := by
  unfold powerDie
  repeat' with_reducible first
    | assumption | (intro x; first | (refine (fun (hx : Keeps a₀ x) => ?_) ?_; clear_value x) | clear_value x)
    | lift_lets | subst x | apply keeps_rset | apply keeps_bringUpSound | refine keeps_foldl (fun _ _ _ => ?_) ?_
    | apply keeps_modPlank | apply keeps_fileEvent | exact fun _ h => h | split | fail_if_no_progress apply keeps_free

theorem keeps_raiseCounters {s : State} (h₀ : Keeps a₀ s) :
    Keeps a₀ (raiseCounters s) := by
  unfold raiseCounters
  repeat' with_reducible first
    | assumption | (intro x; first | (refine (fun (hx : Keeps a₀ x) => ?_) ?_; clear_value x) | clear_value x)
    | lift_lets | subst x | apply keeps_rset | apply keeps_modPlank | apply keeps_fileEvent | exact fun _ h => h
    | split | fail_if_no_progress apply keeps_free

theorem keeps_autoload {s : State} {service : ℕ} {lists : JobLists} (h₀ : Keeps a₀ s) :
    Keeps a₀ (autoload s service lists) := by
  unfold autoload
  repeat' with_reducible first
    | assumption
    | (intro x; first | (refine (fun (hx : Keeps a₀ x) => ?_) ?_; clear_value x) | (refine (fun (hx : Keeps a₀ x.2) => ?_) ?_; clear_value x) | (refine (fun (hx : Keeps a₀ x.1) => ?_) ?_; clear_value x) | clear_value x)
    | lift_lets | subst x | apply keeps_loadConfigured | apply keeps_fileEvent | apply keeps_rset
    | apply keeps_modPlank | exact fun _ h => h | split | fail_if_no_progress apply keeps_free
    | refine keeps_snd (by assumption) ?_ | refine keeps_fst (by assumption) ?_

theorem keeps_enterShallows {s : State} {lists : JobLists} (h₀ : Keeps a₀ s) :
    Keeps a₀ (enterShallows s lists) := by
  unfold enterShallows
  repeat' with_reducible first
    | assumption | (intro x; first | (refine (fun (hx : Keeps a₀ x) => ?_) ?_; clear_value x) | clear_value x)
    | lift_lets | subst x | apply keeps_tripNow | apply keeps_rset | apply keeps_setModState | apply keeps_tick
    | apply keeps_raiseCounters | apply keeps_fileEvent | apply keeps_autoload | apply keeps_enterHold
    | apply keeps_modPlank | exact fun _ h => h | split | fail_if_no_progress apply keeps_free

theorem keeps_enterService {s : State} {lists : JobLists} (h₀ : Keeps a₀ s) :
    Keeps a₀ (enterService s lists) := by
  unfold enterService
  repeat' with_reducible first
    | assumption | (intro x; first | (refine (fun (hx : Keeps a₀ x) => ?_) ?_; clear_value x) | clear_value x)
    | lift_lets | subst x | apply keeps_rset | apply keeps_setModState | apply keeps_tick | apply keeps_fileEvent
    | apply keeps_autoload | apply keeps_modPlank | exact fun _ h => h | split | fail_if_no_progress apply keeps_free

theorem keeps_dieCalibrated {s : State} {d : ℕ} {stack0Ok : Bool} {stack1Ok : Bool} {sweeps : List SweepResult} {failed : List SoundingFail} {lists : JobLists} (h₀ : Keeps a₀ s) :
    Keeps a₀ (dieCalibrated s d stack0Ok stack1Ok sweeps failed lists) := by
  unfold dieCalibrated
  repeat' with_reducible first
    | assumption | (intro x; first | (refine (fun (hx : Keeps a₀ x) => ?_) ?_; clear_value x) | clear_value x)
    | lift_lets | subst x | apply keeps_rset | apply keeps_eyeMeasured | apply keeps_trainStacks | apply keeps_powerDie
    | apply keeps_fileEvent | apply keeps_enterShallows | apply keeps_enterService
    | refine keeps_foldl (fun _ _ _ => ?_) ?_ | apply keeps_modPlank | exact fun _ h => h | split
    | fail_if_no_progress apply keeps_free

theorem keeps_execDieCalibrationComplete {s : State} {c : DieId} {stack0Ok : Bool} {stack1Ok : Bool} {sweeps : List SweepResult} {failed : List SoundingFail} {lists : JobLists} (h₀ : Keeps a₀ s) {t₀ : State}
    (e : execDieCalibrationComplete c stack0Ok stack1Ok sweeps failed lists s = .next t₀) : Keeps a₀ t₀ := by
  unfold execDieCalibrationComplete at e
  injection e with e
  subst e
  repeat' with_reducible first
    | assumption | (intro x; first | (refine (fun (hx : Keeps a₀ x) => ?_) ?_; clear_value x) | clear_value x)
    | lift_lets | subst x | apply keeps_dieCalibrated | apply keeps_rset | apply keeps_modPlank | apply keeps_fileEvent
    | exact fun _ h => h | split | fail_if_no_progress apply keeps_free

/-! ## Ethernet -/

theorem keeps_setLaneTest {s : State} {cls : ℕ} {unit : ℕ} {lane : ℕ} {x : LaneTest} (h₀ : Keeps a₀ s) :
    Keeps a₀ (setLaneTest s cls unit lane x) := by
  unfold setLaneTest
  repeat' with_reducible first
    | assumption | (intro x; first | (refine (fun (hx : Keeps a₀ x) => ?_) ?_; clear_value x) | clear_value x)
    | lift_lets | subst x | apply keeps_evlog | apply keeps_rset | apply keeps_modPlank | apply keeps_fileEvent
    | exact fun _ h => h | split | fail_if_no_progress apply keeps_free

theorem keeps_execEthPortUp {s : State} {e : PortId} {up : Bool} (h₀ : Keeps a₀ s) {t₀ : State}
    (e : execEthPortUp e up s = .next t₀) : Keeps a₀ t₀ := by
  unfold execEthPortUp at e
  injection e with e
  subst e
  repeat' with_reducible first
    | assumption | (intro x; first | (refine (fun (hx : Keeps a₀ x) => ?_) ?_; clear_value x) | clear_value x)
    | lift_lets | subst x | apply keeps_portGoesDown | apply keeps_rset | apply keeps_modPlank | apply keeps_fileEvent
    | exact fun _ h => h | split | fail_if_no_progress apply keeps_free

theorem keeps_portRx {s : State} {e : ℕ} {x : EthIn} {n : ℕ} (h₀ : Keeps a₀ s) :
    Keeps a₀ (portRx s e x n) := by
  unfold portRx
  repeat' with_reducible first
    | assumption | (intro x; first | (refine (fun (hx : Keeps a₀ x) => ?_) ?_; clear_value x) | clear_value x)
    | lift_lets | subst x | apply keeps_radd | apply keeps_rsat | apply keeps_rset | apply keeps_modPlank
    | apply keeps_fileEvent | exact fun _ h => h | split | fail_if_no_progress apply keeps_free

theorem keeps_portTx {s : State} {e : ℕ} {m : OutMsg} {n : ℕ} (h₀ : Keeps a₀ s) :
    Keeps a₀ (portTx s e m n) := by
  unfold portTx
  repeat' with_reducible first
    | assumption | (intro x; first | (refine (fun (hx : Keeps a₀ x) => ?_) ?_; clear_value x) | clear_value x)
    | lift_lets | subst x | apply keeps_radd | apply keeps_rset | apply keeps_modPlank | apply keeps_fileEvent
    | exact fun _ h => h | split | fail_if_no_progress apply keeps_free

theorem keeps_execArpRequest {s : State} {e : PortId} {x : EthIn} {senderMac : BitVec 48} {senderIp : BitVec 32} {targetIp : BitVec 32} (h₀ : Keeps a₀ s) {t₀ : State}
    (e : execArpRequest e x senderMac senderIp targetIp s = .next t₀) : Keeps a₀ t₀ := by
  unfold execArpRequest at e
  injection e with e
  subst e
  repeat' with_reducible first
    | assumption | (intro x; first | (refine (fun (hx : Keeps a₀ x) => ?_) ?_; clear_value x) | clear_value x)
    | lift_lets | subst x | apply keeps_portRx | apply keeps_portTx | apply keeps_rset | apply keeps_modPlank
    | apply keeps_fileEvent | exact fun _ h => h | split | fail_if_no_progress apply keeps_free

theorem keeps_execNeighbourSolicitation {s : State} {e : PortId} {x : EthIn} {source : BitVec 128} {target : BitVec 128} (h₀ : Keeps a₀ s) {t₀ : State}
    (e : execNeighbourSolicitation e x source target s = .next t₀) : Keeps a₀ t₀ := by
  unfold execNeighbourSolicitation at e
  injection e with e
  subst e
  repeat' with_reducible first
    | assumption | (intro x; first | (refine (fun (hx : Keeps a₀ x) => ?_) ?_; clear_value x) | clear_value x)
    | lift_lets | subst x | apply keeps_portRx | apply keeps_portTx | apply keeps_rset | apply keeps_modPlank
    | apply keeps_fileEvent | exact fun _ h => h | split | fail_if_no_progress apply keeps_free

theorem keeps_execIcmpEcho {s : State} {e : PortId} {x : EthIn} {v6 : Bool} {source : BitVec 128} {target : BitVec 128} {data : List Byte} (h₀ : Keeps a₀ s) {t₀ : State}
    (e : execIcmpEcho e x v6 source target data s = .next t₀) : Keeps a₀ t₀ := by
  unfold execIcmpEcho at e
  injection e with e
  subst e
  repeat' with_reducible first
    | assumption | (intro x; first | (refine (fun (hx : Keeps a₀ x) => ?_) ?_; clear_value x) | clear_value x)
    | lift_lets | subst x | apply keeps_portRx | apply keeps_portTx | apply keeps_rset | apply keeps_modPlank
    | apply keeps_fileEvent | exact fun _ h => h | split | fail_if_no_progress apply keeps_free

/-! ## Session -/

theorem keeps_setParts {s : State} {ps : List Partial} (h₀ : Keeps a₀ s) :
    Keeps a₀ (setParts s ps) := by
  unfold setParts
  repeat' with_reducible first
    | assumption | (intro x; first | (refine (fun (hx : Keeps a₀ x) => ?_) ?_; clear_value x) | clear_value x)
    | lift_lets | subst x | apply keeps_rset | apply keeps_modPlank | apply keeps_fileEvent | exact fun _ h => h
    | split | fail_if_no_progress apply keeps_free

theorem keeps_answerMalformed {s : State} {e : PortId} {peer : Peer} {kind : ℕ} {verb : ℕ} {session : ℕ} {reqId : BitVec 32} (h₀ : Keeps a₀ s) :
    Keeps a₀ (answerMalformed s e peer kind verb session reqId) := by
  unfold answerMalformed
  repeat' with_reducible first
    | assumption | (intro x; first | (refine (fun (hx : Keeps a₀ x) => ?_) ?_; clear_value x) | clear_value x)
    | lift_lets | subst x | apply keeps_sendMsg | apply keeps_respond | apply keeps_acceptReq | apply keeps_sendKept
    | apply keeps_rset | apply keeps_modPlank | apply keeps_fileEvent | exact fun _ h => h | split
    | fail_if_no_progress apply keeps_free | refine keeps_snd (by assumption) ?_ | refine keeps_fst (by assumption) ?_

theorem keeps_messageWhole {s : State} {e : PortId} {peer : Peer} {m : Msg} (h₀ : Keeps a₀ s) :
    Keeps a₀ (messageWhole s e peer m) := by
  unfold messageWhole
  repeat' with_reducible first
    | assumption | (intro x; first | (refine (fun (hx : Keeps a₀ x) => ?_) ?_; clear_value x) | clear_value x)
    | lift_lets | subst x | apply keeps_answerMalformed | apply keeps_rset | apply keeps_modPlank
    | apply keeps_fileEvent | exact fun _ h => h | split | fail_if_no_progress apply keeps_free

theorem keeps_dropPart {s : State} {session : ℕ} {reqId : BitVec 32} (h₀ : Keeps a₀ s) :
    Keeps a₀ (dropPart s session reqId) := by
  unfold dropPart
  repeat' with_reducible first
    | assumption | (intro x; first | (refine (fun (hx : Keeps a₀ x) => ?_) ?_; clear_value x) | clear_value x)
    | lift_lets | subst x | apply keeps_setParts | apply keeps_rset | apply keeps_modPlank | apply keeps_fileEvent
    | exact fun _ h => h | split | fail_if_no_progress apply keeps_free

theorem keeps_reassemble {s : State} {e : PortId} {peer : Peer} {h : FragHead} {data : List Byte} (h₀ : Keeps a₀ s) :
    Keeps a₀ (reassemble s e peer h data) := by
  unfold reassemble
  repeat' with_reducible first
    | assumption
    | (intro x; first | (refine (fun (hx : Keeps a₀ x) => ?_) ?_; clear_value x) | (refine (fun (hx : Keeps a₀ x.2) => ?_) ?_; clear_value x) | (refine (fun (hx : Keeps a₀ x.1) => ?_) ?_; clear_value x) | clear_value x)
    | lift_lets | subst x | apply keeps_messageWhole | apply keeps_setParts | apply keeps_rset | apply keeps_modPlank
    | apply keeps_fileEvent | exact fun _ h => h | split | fail_if_no_progress apply keeps_free

theorem keeps_fragmentArrives {s : State} {e : PortId} {peer : Peer} {h : FragHead} {head : List Byte} {payload : List Byte} {data : List Byte} (h₀ : Keeps a₀ s) :
    Keeps a₀ (fragmentArrives s e peer h head payload data) := by
  unfold fragmentArrives
  repeat' with_reducible first
    | assumption | (intro x; first | (refine (fun (hx : Keeps a₀ x) => ?_) ?_; clear_value x) | clear_value x)
    | lift_lets | subst x | apply keeps_answerMalformed | apply keeps_dropPart | apply keeps_reassemble
    | apply keeps_rset | apply keeps_modPlank | apply keeps_fileEvent | exact fun _ h => h | split
    | fail_if_no_progress apply keeps_free

theorem keeps_sealedFragment {s : State} {e : PortId} {peer : Peer} {h : FragHead} {head : List Byte} {payload : List Byte} {tag : List Byte} (h₀ : Keeps a₀ s) :
    Keeps a₀ (sealedFragment s e peer h head payload tag) := by
  unfold sealedFragment
  repeat' with_reducible first
    | assumption | (intro x; first | (refine (fun (hx : Keeps a₀ x) => ?_) ?_; clear_value x) | clear_value x)
    | lift_lets | subst x | apply keeps_countReject | apply keeps_modSession | apply keeps_tick
    | apply keeps_fragmentArrives | apply keeps_rset | apply keeps_modPlank | apply keeps_fileEvent
    | exact fun _ h => h | split | fail_if_no_progress apply keeps_free | refine keeps_snd (by assumption) ?_
    | refine keeps_fst (by assumption) ?_

theorem keeps_execSluiceFragment {s : State} {e : PortId} {x : EthIn} {peer : Peer} {head : List Byte} {payload : List Byte} {tag : List Byte} (h₀ : Keeps a₀ s) {t₀ : State}
    (e : execSluiceFragment e x peer head payload tag s = .next t₀) : Keeps a₀ t₀ := by
  unfold execSluiceFragment at e
  injection e with e
  subst e
  repeat' with_reducible first
    | assumption | (intro x; first | (refine (fun (hx : Keeps a₀ x) => ?_) ?_; clear_value x) | clear_value x)
    | lift_lets | subst x | apply keeps_endSpent | apply keeps_portRx | apply keeps_countReject
    | apply keeps_fragmentArrives | apply keeps_sealedFragment | apply keeps_rset | apply keeps_modPlank
    | apply keeps_fileEvent | exact fun _ h => h | split | fail_if_no_progress apply keeps_free

theorem keeps_execReassemblyTimeout {s : State} {session : ℕ} {reqId : BitVec 32} (h₀ : Keeps a₀ s) {t₀ : State}
    (e : execReassemblyTimeout session reqId s = .next t₀) : Keeps a₀ t₀ := by
  unfold execReassemblyTimeout at e
  injection e with e
  subst e
  repeat' with_reducible first
    | assumption | (intro x; first | (refine (fun (hx : Keeps a₀ x) => ?_) ?_; clear_value x) | clear_value x)
    | lift_lets | subst x | apply keeps_dropPart | apply keeps_rset | apply keeps_modPlank | apply keeps_fileEvent
    | exact fun _ h => h | split | fail_if_no_progress apply keeps_free

theorem keeps_execSessionIdleTimeout {s : State} {session : ℕ} (h₀ : Keeps a₀ s) {t₀ : State}
    (e : execSessionIdleTimeout session s = .next t₀) : Keeps a₀ t₀ := by
  unfold execSessionIdleTimeout at e
  injection e with e
  subst e
  repeat' with_reducible first
    | assumption | (intro x; first | (refine (fun (hx : Keeps a₀ x) => ?_) ?_; clear_value x) | clear_value x)
    | lift_lets | subst x | apply keeps_endSession | apply keeps_rset | apply keeps_modPlank | apply keeps_fileEvent
    | exact fun _ h => h | split | fail_if_no_progress apply keeps_free

theorem keeps_helloAnswer {s : State} {e : ℕ} {peer : Peer} {session : ℕ} {reqId : BitVec 32} {a : Answer} (h₀ : Keeps a₀ s) :
    Keeps a₀ (helloAnswer s e peer session reqId a) := by
  unfold helloAnswer
  repeat' with_reducible first
    | assumption | (intro x; first | (refine (fun (hx : Keeps a₀ x) => ?_) ?_; clear_value x) | clear_value x)
    | lift_lets | subst x | apply keeps_sendMsg | apply keeps_rset | apply keeps_modPlank | apply keeps_fileEvent
    | exact fun _ h => h | split | fail_if_no_progress apply keeps_free

theorem keeps_finishAnswer {s : State} {e : ℕ} {peer : Peer} {session : ℕ} {reqId : BitVec 32} {m : Msg} (h₀ : Keeps a₀ s) :
    Keeps a₀ (finishAnswer s e peer session reqId m) := by
  unfold finishAnswer
  repeat' with_reducible first
    | assumption | (intro x; first | (refine (fun (hx : Keeps a₀ x) => ?_) ?_; clear_value x) | clear_value x)
    | lift_lets | subst x | apply keeps_sendMsg | apply keeps_keep | apply keeps_rset | apply keeps_modPlank
    | apply keeps_fileEvent | exact fun _ h => h | split | fail_if_no_progress apply keeps_free

theorem keeps_helloTaken {s : State} {reqId : BitVec 32} (h₀ : Keeps a₀ s) :
    Keeps a₀ (helloTaken s reqId) := by
  unfold helloTaken
  repeat' with_reducible first
    | assumption | (intro x; first | (refine (fun (hx : Keeps a₀ x) => ?_) ?_; clear_value x) | clear_value x)
    | lift_lets | subst x | apply keeps_rset | apply keeps_modPlank | apply keeps_fileEvent | exact fun _ h => h
    | split | fail_if_no_progress apply keeps_free

theorem keeps_finishTaken {s : State} {session : ℕ} {reqId : BitVec 32} (h₀ : Keeps a₀ s) :
    Keeps a₀ (finishTaken s session reqId) := by
  unfold finishTaken
  repeat' with_reducible first
    | assumption | (intro x; first | (refine (fun (hx : Keeps a₀ x) => ?_) ?_; clear_value x) | clear_value x)
    | lift_lets | subst x | apply keeps_rset | apply keeps_modPlank | apply keeps_fileEvent | exact fun _ h => h
    | split | fail_if_no_progress apply keeps_free

theorem keeps_sessionOpens {s : State} {e : PortId} {peer : Peer} {reqId : BitVec 32} {payload : List Byte} {digest : List Byte} {role : ℕ} (h₀ : Keeps a₀ s) :
    Keeps a₀ (sessionOpens s e peer reqId payload digest role) := by
  unfold sessionOpens
  repeat' with_reducible first
    | assumption
    | (intro x; first | (refine (fun (hx : Keeps a₀ x) => ?_) ?_; clear_value x) | (refine (fun (hx : Keeps a₀ x.2) => ?_) ?_; clear_value x) | (refine (fun (hx : Keeps a₀ x.1) => ?_) ?_; clear_value x) | clear_value x)
    | lift_lets | subst x | apply keeps_helloAnswer | apply keeps_rset | apply keeps_modPlank | apply keeps_fileEvent
    | exact fun _ h => h | split | fail_if_no_progress apply keeps_free

theorem keeps_execHello {s : State} {e : PortId} {peer : Peer} {reqId : BitVec 32} {payload : List Byte} (h₀ : Keeps a₀ s) {t₀ : State}
    (e : execHello e peer reqId payload s = .next t₀) : Keeps a₀ t₀ := by
  unfold execHello at e
  injection e with e
  subst e
  repeat' with_reducible first
    | assumption | (intro x; first | (refine (fun (hx : Keeps a₀ x) => ?_) ?_; clear_value x) | clear_value x)
    | lift_lets | subst x | apply keeps_endSpent | apply keeps_helloTaken | apply keeps_helloAnswer
    | apply keeps_sessionOpens | apply keeps_rset | apply keeps_modPlank | apply keeps_fileEvent | exact fun _ h => h
    | split | fail_if_no_progress apply keeps_free | refine keeps_snd (by assumption) ?_
    | refine keeps_fst (by assumption) ?_

theorem keeps_sessionFinish {s : State} {e : PortId} {peer : Peer} {session : ℕ} {reqId : BitVec 32} {payload : List Byte} {x : Session} (h₀ : Keeps a₀ s) :
    Keeps a₀ (sessionFinish s e peer session reqId payload x) := by
  unfold sessionFinish
  repeat' with_reducible first
    | assumption | (intro x; first | (refine (fun (hx : Keeps a₀ x) => ?_) ?_; clear_value x) | clear_value x)
    | lift_lets | subst x | apply keeps_modSession | apply keeps_finishAnswer | apply keeps_endSession
    | apply keeps_sendMsg | apply keeps_rset | apply keeps_modPlank | apply keeps_fileEvent | exact fun _ h => h
    | split | fail_if_no_progress apply keeps_free

theorem keeps_execFinish {s : State} {e : PortId} {peer : Peer} {session : ℕ} {reqId : BitVec 32} {payload : List Byte} (h₀ : Keeps a₀ s) {t₀ : State}
    (e : execFinish e peer session reqId payload s = .next t₀) : Keeps a₀ t₀ := by
  unfold execFinish at e
  injection e with e
  subst e
  repeat' with_reducible first
    | assumption | (intro x; first | (refine (fun (hx : Keeps a₀ x) => ?_) ?_; clear_value x) | clear_value x)
    | lift_lets | subst x | apply keeps_endSpent | apply keeps_finishTaken | apply keeps_countReject
    | apply keeps_sendKept | apply keeps_finishAnswer | apply keeps_sessionFinish | apply keeps_rset
    | apply keeps_modPlank | apply keeps_fileEvent | exact fun _ h => h | split | fail_if_no_progress apply keeps_free
    | refine keeps_snd (by assumption) ?_ | refine keeps_fst (by assumption) ?_

theorem keeps_execEventAck {s : State} {session : ℕ} {reqId : BitVec 32} (h₀ : Keeps a₀ s) {t₀ : State}
    (e : execEventAck session reqId s = .next t₀) : Keeps a₀ t₀ := by
  unfold execEventAck at e
  injection e with e
  subst e
  repeat' with_reducible first
    | assumption | (intro x; first | (refine (fun (hx : Keeps a₀ x) => ?_) ?_; clear_value x) | clear_value x)
    | lift_lets | subst x | apply keeps_modSession | apply keeps_rset | apply keeps_modPlank | apply keeps_fileEvent
    | exact fun _ h => h | split | fail_if_no_progress apply keeps_free

theorem keeps_execEventResend {s : State} {session : ℕ} {reqId : BitVec 32} (h₀ : Keeps a₀ s) {t₀ : State}
    (e : execEventResend session reqId s = .next t₀) : Keeps a₀ t₀ := by
  unfold execEventResend at e
  injection e with e
  subst e
  repeat' with_reducible first
    | assumption | (intro x; first | (refine (fun (hx : Keeps a₀ x) => ?_) ?_; clear_value x) | clear_value x)
    | lift_lets | subst x | apply keeps_endSpent | apply keeps_rsat | apply keeps_modSession | apply keeps_sendMsg
    | apply keeps_rset | apply keeps_modPlank | apply keeps_fileEvent | exact fun _ h => h | split
    | fail_if_no_progress apply keeps_free | refine keeps_snd (by assumption) ?_ | refine keeps_fst (by assumption) ?_

theorem keeps_execIdent {s : State} {rq : Req} (h₀ : Keeps a₀ s) {t₀ : State}
    (e : execIdent rq s = .next t₀) : Keeps a₀ t₀ := by
  unfold execIdent at e
  injection e with e
  subst e
  repeat' with_reducible first
    | assumption
    | (intro x; first | (refine (fun (hx : Keeps a₀ x) => ?_) ?_; clear_value x) | (refine (fun (hx : Keeps a₀ x.2) => ?_) ?_; clear_value x) | (refine (fun (hx : Keeps a₀ x.1) => ?_) ?_; clear_value x) | clear_value x)
    | lift_lets | subst x | refine keeps_answerVerb (fun _ _ => ?_) ?_ | apply keeps_rset | apply keeps_modPlank
    | apply keeps_fileEvent | exact fun _ h => h | split | fail_if_no_progress apply keeps_free

theorem keeps_execStatusVerb {s : State} {rq : Req} (h₀ : Keeps a₀ s) {t₀ : State}
    (e : execStatusVerb rq s = .next t₀) : Keeps a₀ t₀ := by
  unfold execStatusVerb at e
  injection e with e
  subst e
  repeat' with_reducible first
    | assumption
    | (intro x; first | (refine (fun (hx : Keeps a₀ x) => ?_) ?_; clear_value x) | (refine (fun (hx : Keeps a₀ x.2) => ?_) ?_; clear_value x) | (refine (fun (hx : Keeps a₀ x.1) => ?_) ?_; clear_value x) | clear_value x)
    | lift_lets | subst x | refine keeps_answerVerb (fun _ _ => ?_) ?_ | apply keeps_tick | apply keeps_rset
    | apply keeps_modPlank | apply keeps_fileEvent | exact fun _ h => h | split | fail_if_no_progress apply keeps_free

theorem keeps_makeReport {s : State} {nonce : List Byte} (h₀ : Keeps a₀ s) :
    Keeps a₀ (makeReport s nonce).2 := by
  unfold makeReport
  repeat' with_reducible first
    | assumption
    | (intro x; first | (refine (fun (hx : Keeps a₀ x) => ?_) ?_; clear_value x) | (refine (fun (hx : Keeps a₀ x.2) => ?_) ?_; clear_value x) | (refine (fun (hx : Keeps a₀ x.1) => ?_) ?_; clear_value x) | clear_value x)
    | lift_lets | subst x | apply keeps_tick | apply keeps_rset | apply keeps_modPlank | apply keeps_fileEvent
    | exact fun _ h => h | split | fail_if_no_progress apply keeps_free

theorem keeps_execAttest {s : State} {rq : Req} {nonce : List Byte} (h₀ : Keeps a₀ s) {t₀ : State}
    (e : execAttest rq nonce s = .next t₀) : Keeps a₀ t₀ := by
  unfold execAttest at e
  injection e with e
  subst e
  repeat' with_reducible first
    | assumption
    | (intro x; first | (refine (fun (hx : Keeps a₀ x) => ?_) ?_; clear_value x) | (refine (fun (hx : Keeps a₀ x.2) => ?_) ?_; clear_value x) | (refine (fun (hx : Keeps a₀ x.1) => ?_) ?_; clear_value x) | clear_value x)
    | lift_lets | subst x | refine keeps_answerVerb (fun _ _ => ?_) ?_ | apply keeps_makeReport | apply keeps_rset
    | apply keeps_modPlank | apply keeps_fileEvent | exact fun _ h => h | split | fail_if_no_progress apply keeps_free

/-! ## Diagnose -/

theorem keeps_startMargin {s : State} {rq : Req} {m : ℕ} {pcs : BitVec 64} {param : ℕ} {points : List ℕ} (h₀ : Keeps a₀ s) :
    Keeps a₀ (startMargin rq m pcs param points s) := by
  unfold startMargin
  repeat' with_reducible first
    | assumption | (intro x; first | (refine (fun (hx : Keeps a₀ x) => ?_) ?_; clear_value x) | clear_value x)
    | lift_lets | subst x | apply keeps_rset | apply keeps_setPcState | refine keeps_foldl (fun _ _ _ => ?_) ?_
    | apply keeps_modPlank | apply keeps_fileEvent | exact fun _ h => h | split | fail_if_no_progress apply keeps_free

theorem keeps_execMargin {s : State} {rq : Req} {m : BitVec 8} {pcs : BitVec 64} {param : BitVec 8} {first : BitVec 8} {last : BitVec 8} {stride : BitVec 8} (h₀ : Keeps a₀ s) {t₀ : State}
    (e : execMargin rq m pcs param first last stride s = .next t₀) : Keeps a₀ t₀ := by
  unfold execMargin at e
  injection e with e
  subst e
  repeat' with_reducible first
    | assumption | (intro x; first | (refine (fun (hx : Keeps a₀ x) => ?_) ?_; clear_value x) | clear_value x)
    | lift_lets | subst x | refine keeps_runVerb (fun _ _ => ?_) ?_ | apply keeps_startMargin | apply keeps_rset
    | apply keeps_modPlank | apply keeps_fileEvent | exact fun _ h => h | split | fail_if_no_progress apply keeps_free

theorem keeps_patternFabric {s : State} {l : ℕ} {i : ℕ} {gen : ℕ} {chk : ℕ} {user : BitVec 64} {action : ℕ} (h₀ : Keeps a₀ s) :
    Keeps a₀ (patternFabric l i gen chk user action s).2 := by
  unfold patternFabric
  repeat' with_reducible first
    | assumption | (intro x; first | (refine (fun (hx : Keeps a₀ x) => ?_) ?_; clear_value x) | subst x) | lift_lets
    | subst x | fail_if_no_progress beta_reduce | apply keeps_rset | apply keeps_setFabricLane | apply keeps_setWord
    | apply keeps_modPlank | apply keeps_fileEvent | exact fun _ h => h | split | fail_if_no_progress apply keeps_free

theorem keeps_patternLane {s : State} {cls : ℕ} {unit : ℕ} {lane : ℕ} {gen : ℕ} {chk : ℕ} {user : BitVec 64} {action : ℕ} (h₀ : Keeps a₀ s) :
    Keeps a₀ (patternLane cls unit lane gen chk user action s).2 := by
  unfold patternLane
  repeat' with_reducible first
    | assumption
    | (intro x; first | (refine (fun (hx : Keeps a₀ x) => ?_) ?_; clear_value x) | (refine (fun (hx : Keeps a₀ x.2) => ?_) ?_; clear_value x) | (refine (fun (hx : Keeps a₀ x.1) => ?_) ?_; clear_value x) | clear_value x)
    | lift_lets | subst x | apply keeps_setLaneTest | apply keeps_sampleCounts | apply keeps_drew | apply keeps_rset
    | apply keeps_modPlank | apply keeps_fileEvent | exact fun _ h => h | split | fail_if_no_progress apply keeps_free

theorem keeps_patternOther {s : State} {cls : ℕ} {unit : ℕ} {lane : ℕ} {gen : ℕ} {chk : ℕ} {user : BitVec 64} {action : ℕ} (h₀ : Keeps a₀ s) :
    Keeps a₀ (patternOther cls unit lane gen chk user action s).2 := by
  unfold patternOther
  repeat' with_reducible first
    | assumption | (intro x; first | (refine (fun (hx : Keeps a₀ x) => ?_) ?_; clear_value x) | clear_value x)
    | lift_lets | subst x | apply keeps_applyHandovers | apply keeps_portGoesDown | apply keeps_patternLane
    | apply keeps_rset | apply keeps_modPlank | apply keeps_fileEvent | exact fun _ h => h | split
    | fail_if_no_progress apply keeps_free

theorem keeps_execPattern {s : State} {rq : Req} {lc : BitVec 8} {unit : BitVec 16} {lane : BitVec 8} {gen : BitVec 8} {chk : BitVec 8} {user : BitVec 64} {action : BitVec 8} (h₀ : Keeps a₀ s) {t₀ : State}
    (e : execPattern rq lc unit lane gen chk user action s = .next t₀) : Keeps a₀ t₀ := by
  unfold execPattern at e
  injection e with e
  subst e
  repeat' with_reducible first
    | assumption | (intro x; first | (refine (fun (hx : Keeps a₀ x) => ?_) ?_; clear_value x) | clear_value x)
    | lift_lets | subst x | refine keeps_answerVerb (fun _ _ => ?_) ?_ | apply keeps_patternFabric
    | apply keeps_patternOther | apply keeps_rset | apply keeps_modPlank | apply keeps_fileEvent | exact fun _ h => h
    | split | fail_if_no_progress apply keeps_free

end Sys2Proof.Machine
end

