-- ==== Sys2Proof/Laws/KeepsFabric.lean ====
section
/-! SUPPORT. One lemma per operation and per meaning: it keeps the tables canonical and the queue as it is; here the router, packets, keys, pins and records. -/
namespace Sys2Proof.Machine

set_option linter.all false

variable {a₀ : State}

/-! ## Router -/

theorem keeps_modHead {s : State} {id : ℕ} {f : Head → Head} (h₀ : Keeps a₀ s) :
    Keeps a₀ (modHead s id f) := by
  unfold modHead
  repeat' with_reducible first
    | assumption | (intro x; first | (refine (fun (hx : Keeps a₀ x) => ?_) ?_; clear_value x) | clear_value x)
    | lift_lets | subst x | apply keeps_rset | apply keeps_modPlank | apply keeps_fileEvent | exact fun _ h => h
    | split | fail_if_no_progress apply keeps_free

theorem keeps_dropPacket {s : State} {h : Head} {status : ℕ} (h₀ : Keeps a₀ s) :
    Keeps a₀ (dropPacket s h status) := by
  unfold dropPacket
  repeat' with_reducible first
    | assumption | (intro x; first | (refine (fun (hx : Keeps a₀ x) => ?_) ?_; clear_value x) | clear_value x)
    | lift_lets | subst x | apply keeps_radd | apply keeps_freePool | apply keeps_dropHead | apply keeps_answerLost
    | apply keeps_rset | apply keeps_modPlank | apply keeps_fileEvent | exact fun _ h => h | split
    | fail_if_no_progress apply keeps_free | refine keeps_snd (by assumption) ?_ | refine keeps_fst (by assumption) ?_

theorem keeps_crossHead {s : State} {h : Head} {l : ℕ} (h₀ : Keeps a₀ s) :
    Keeps a₀ (crossHead s h l) := by
  unfold crossHead
  repeat' with_reducible first
    | assumption | (intro x; first | (refine (fun (hx : Keeps a₀ x) => ?_) ?_; clear_value x) | clear_value x)
    | lift_lets | subst x | apply keeps_modHead | apply keeps_rset | apply keeps_modPlank | apply keeps_fileEvent
    | exact fun _ h => h | split | fail_if_no_progress apply keeps_free

theorem keeps_takeRoute {s : State} {h : Head} {r : Route} (h₀ : Keeps a₀ s) :
    Keeps a₀ (takeRoute s h r) := by
  unfold takeRoute
  repeat' with_reducible first
    | assumption | (intro x; first | (refine (fun (hx : Keeps a₀ x) => ?_) ?_; clear_value x) | clear_value x)
    | lift_lets | subst x | apply keeps_dropPacket | apply keeps_freePool | apply keeps_dropHead | apply keeps_modHead
    | apply keeps_crossHead | apply keeps_evlog | apply keeps_rset | apply keeps_modPlank | apply keeps_fileEvent
    | exact fun _ h => h | split | fail_if_no_progress apply keeps_free | refine keeps_snd (by assumption) ?_
    | refine keeps_fst (by assumption) ?_

theorem keeps_execPacketHeadRoute {s : State} {d : LinkDieId} {head : ℕ} (h₀ : Keeps a₀ s) {t₀ : State}
    (e : execPacketHeadRoute d head s = .next t₀) : Keeps a₀ t₀ := by
  unfold execPacketHeadRoute at e
  injection e with e
  subst e
  repeat' with_reducible first
    | assumption | (intro x; first | (refine (fun (hx : Keeps a₀ x) => ?_) ?_; clear_value x) | clear_value x)
    | lift_lets | subst x | apply keeps_radd | apply keeps_freePool | apply keeps_dropHead | apply keeps_crossHead
    | apply keeps_takeRoute | apply keeps_rset | apply keeps_modPlank | apply keeps_fileEvent | exact fun _ h => h
    | split | fail_if_no_progress apply keeps_free | refine keeps_snd (by assumption) ?_
    | refine keeps_fst (by assumption) ?_

theorem keeps_execCausewayThreshold {s : State} {d : LinkDieId} {head : ℕ} (h₀ : Keeps a₀ s) {t₀ : State}
    (e : execCausewayThreshold d head s = .next t₀) : Keeps a₀ t₀ := by
  unfold execCausewayThreshold at e
  injection e with e
  subst e
  repeat' with_reducible first
    | assumption | (intro x; first | (refine (fun (hx : Keeps a₀ x) => ?_) ?_; clear_value x) | clear_value x)
    | lift_lets | subst x | apply keeps_radd | apply keeps_modHead | apply keeps_takeRoute | apply keeps_rset
    | apply keeps_modPlank | apply keeps_fileEvent | exact fun _ h => h | split | fail_if_no_progress apply keeps_free
    | refine keeps_snd (by assumption) ?_ | refine keeps_fst (by assumption) ?_

theorem keeps_grantLanes {s : State} {d o : Nat} (h : Keeps a₀ s) : Keeps a₀ (grantLanes s d o) := by
  unfold grantLanes
  refine keeps_foldl (fun s lane hs => ?_) h
  split
  · exact hs
  · split
    · exact hs
    · dsimp only
      split
      · exact keeps_modHead (keeps_free hs ..)
      · split
        · rename_i r e
          exact keeps_modHead (keeps_wireOf (keeps_free hs ..) e)
        · exact keeps_fileEvent (keeps_answerLost (keeps_radd (keeps_freePool (keeps_dropHead (keeps_free hs ..)))))

theorem keeps_countBits {s : State} {l : ℕ} (h₀ : Keeps a₀ s) :
    Keeps a₀ (countBits s l) := by
  unfold countBits
  repeat' with_reducible first
    | assumption | (intro x; first | (refine (fun (hx : Keeps a₀ x) => ?_) ?_; clear_value x) | clear_value x)
    | lift_lets | subst x | apply keeps_modLink | apply keeps_rset | apply keeps_modPlank | apply keeps_fileEvent
    | exact fun _ h => h | split | fail_if_no_progress apply keeps_free

theorem keeps_sendFrame {s : State} {l : ℕ} {f : Frame} (h₀ : Keeps a₀ s) :
    Keeps a₀ (sendFrame s l f) := by
  unfold sendFrame
  repeat' with_reducible first
    | assumption | (intro x; first | (refine (fun (hx : Keeps a₀ x) => ?_) ?_; clear_value x) | clear_value x)
    | lift_lets | subst x | apply keeps_countBits | apply keeps_rset | apply keeps_modPlank | apply keeps_fileEvent
    | exact fun _ h => h | split | fail_if_no_progress apply keeps_free

theorem keeps_frameOut {s : State} {l : ℕ} {hold : Bool} (h₀ : Keeps a₀ s) :
    Keeps a₀ (frameOut s l hold) := by
  unfold frameOut
  repeat' with_reducible first
    | assumption
    | (intro x; first | (refine (fun (hx : Keeps a₀ x) => ?_) ?_; clear_value x) | (refine (fun (hx : Keeps a₀ x.2) => ?_) ?_; clear_value x) | (refine (fun (hx : Keeps a₀ x.1) => ?_) ?_; clear_value x) | clear_value x)
    | lift_lets | subst x | apply keeps_sendFrame | apply keeps_setLink | refine keeps_foldl (fun _ _ _ => ?_) ?_
    | refine keeps_foldl_fst (fun _ _ _ => ?_) ?_ | refine keeps_foldl_snd (fun _ _ _ => ?_) ?_ | apply keeps_rset
    | apply keeps_modPlank | apply keeps_fileEvent | exact fun _ h => h | split | fail_if_no_progress apply keeps_free

theorem keeps_resendFrame {s : State} {l : ℕ} {i : ℕ} (h₀ : Keeps a₀ s) :
    Keeps a₀ (resendFrame s l i) := by
  unfold resendFrame
  repeat' with_reducible first
    | assumption
    | (intro x; first | (refine (fun (hx : Keeps a₀ x) => ?_) ?_; clear_value x) | (refine (fun (hx : Keeps a₀ x.2) => ?_) ?_; clear_value x) | (refine (fun (hx : Keeps a₀ x.1) => ?_) ?_; clear_value x) | clear_value x)
    | lift_lets | subst x | apply keeps_setLink | apply keeps_radd | apply keeps_sendFrame | apply keeps_enterTraining
    | apply keeps_leaveActive | apply keeps_rset | apply keeps_modPlank | apply keeps_fileEvent | exact fun _ h => h
    | split | fail_if_no_progress apply keeps_free | refine keeps_snd (by assumption) ?_
    | refine keeps_fst (by assumption) ?_

theorem keeps_sendFlit {s : State} {l : ℕ} {h : Head} (h₀ : Keeps a₀ s) :
    Keeps a₀ (sendFlit s l h) := by
  unfold sendFlit
  repeat' with_reducible first
    | assumption
    | (intro x; first | (refine (fun (hx : Keeps a₀ x) => ?_) ?_; clear_value x) | (refine (fun (hx : Keeps a₀ x.2) => ?_) ?_; clear_value x) | (refine (fun (hx : Keeps a₀ x.1) => ?_) ?_; clear_value x) | clear_value x)
    | lift_lets | subst x | apply keeps_dropHead | apply keeps_radd | apply keeps_modLink | apply keeps_freePool
    | apply keeps_modHead | apply keeps_evlog | apply keeps_rset | apply keeps_modPlank | apply keeps_fileEvent
    | exact fun _ h => h | split | fail_if_no_progress apply keeps_free | refine keeps_snd (by assumption) ?_
    | refine keeps_fst (by assumption) ?_

theorem keeps_noteLane {s : State} {d : ℕ} {o : ℕ} {h : Head} (h₀ : Keeps a₀ s) :
    Keeps a₀ (noteLane s d o h) := by
  unfold noteLane
  repeat' with_reducible first
    | assumption | (intro x; first | (refine (fun (hx : Keeps a₀ x) => ?_) ?_; clear_value x) | clear_value x)
    | lift_lets | subst x | apply keeps_evlog | apply keeps_rset | apply keeps_modPlank | apply keeps_fileEvent
    | exact fun _ h => h | split | fail_if_no_progress apply keeps_free

theorem keeps_meshCycle {s : State} {d : LinkDieId} {k : LinkDieId} (h₀ : Keeps a₀ s) :
    Keeps a₀ (meshCycle s d k) := by
  unfold meshCycle
  repeat' with_reducible first
    | assumption | (intro x; first | (refine (fun (hx : Keeps a₀ x) => ?_) ?_; clear_value x) | clear_value x)
    | lift_lets | subst x | apply keeps_grantLanes | apply keeps_noteLane | apply keeps_modHead | apply keeps_freePool
    | apply keeps_rset | apply keeps_modPlank | apply keeps_fileEvent | exact fun _ h => h | split
    | fail_if_no_progress apply keeps_free | refine keeps_snd (by assumption) ?_ | refine keeps_fst (by assumption) ?_

theorem keeps_linkCycle {s : State} {d : LinkDieId} {j : Fin 4} (h₀ : Keeps a₀ s) :
    Keeps a₀ (linkCycle s d j) := by
  unfold linkCycle
  repeat' with_reducible first
    | assumption | (intro x; first | (refine (fun (hx : Keeps a₀ x) => ?_) ?_; clear_value x) | clear_value x)
    | lift_lets | subst x | apply keeps_resendFrame | apply keeps_grantLanes | apply keeps_frameOut
    | apply keeps_sendFlit | apply keeps_noteLane | apply keeps_rset | apply keeps_modPlank | apply keeps_fileEvent
    | exact fun _ h => h | split | fail_if_no_progress apply keeps_free | refine keeps_snd (by assumption) ?_
    | refine keeps_fst (by assumption) ?_

theorem keeps_tableTaken {s : State} {d : ℕ} (h₀ : Keeps a₀ s) :
    Keeps a₀ (tableTaken s d) := by
  unfold tableTaken
  repeat' with_reducible first
    | assumption | (intro x; first | (refine (fun (hx : Keeps a₀ x) => ?_) ?_; clear_value x) | clear_value x)
    | lift_lets | subst x | apply keeps_rset | refine keeps_foldl (fun _ _ _ => ?_) ?_ | apply keeps_modPlank
    | apply keeps_fileEvent | exact fun _ h => h | split | fail_if_no_progress apply keeps_free

theorem keeps_execOutputPortCycle {s : State} {d : LinkDieId} {out : Outlet} (h₀ : Keeps a₀ s) {t₀ : State}
    (e : execOutputPortCycle d out s = .next t₀) : Keeps a₀ t₀ := by
  unfold execOutputPortCycle at e
  injection e with e
  subst e
  repeat' with_reducible first
    | assumption | (intro x; first | (refine (fun (hx : Keeps a₀ x) => ?_) ?_; clear_value x) | clear_value x)
    | lift_lets | subst x | apply keeps_tableTaken | apply keeps_meshCycle | apply keeps_sendPattern
    | apply keeps_linkCycle | apply keeps_rset | apply keeps_modPlank | apply keeps_fileEvent | exact fun _ h => h
    | split | fail_if_no_progress apply keeps_free | refine keeps_snd (by assumption) ?_
    | refine keeps_fst (by assumption) ?_

theorem keeps_drained {s : State} (h₀ : Keeps a₀ s) :
    Keeps a₀ (drained s) := by
  unfold drained
  repeat' with_reducible first
    | assumption | (intro x; first | (refine (fun (hx : Keeps a₀ x) => ?_) ?_; clear_value x) | clear_value x)
    | lift_lets | subst x | apply keeps_rset | apply keeps_fileEvent | refine keeps_foldl (fun _ _ _ => ?_) ?_
    | apply keeps_modPlank | exact fun _ h => h | split | fail_if_no_progress apply keeps_free

theorem keeps_execFabricDrained {s : State} (h₀ : Keeps a₀ s) {t₀ : State}
    (e : execFabricDrained s = .next t₀) : Keeps a₀ t₀ := by
  unfold execFabricDrained at e
  injection e with e
  subst e
  repeat' with_reducible first
    | assumption | (intro x; first | (refine (fun (hx : Keeps a₀ x) => ?_) ?_; clear_value x) | clear_value x)
    | lift_lets | subst x | apply keeps_drained | apply keeps_rset | apply keeps_modPlank | apply keeps_fileEvent
    | exact fun _ h => h | split | fail_if_no_progress apply keeps_free

/-! ## Packets -/

theorem keeps_takeArrived {s : State} {d : ℕ} {pkt : Packet} (h₀ : Keeps a₀ s) :
    Keeps a₀ (takeArrived s d pkt) := by
  unfold takeArrived
  repeat' with_reducible first
    | assumption | (intro x; first | (refine (fun (hx : Keeps a₀ x) => ?_) ?_; clear_value x) | clear_value x)
    | lift_lets | subst x | apply keeps_rset | apply keeps_modPlank | apply keeps_fileEvent | exact fun _ h => h
    | split | fail_if_no_progress apply keeps_free

theorem keeps_checkTarget {s : State} {d : ℕ} {pkt : Packet} {off : ℕ} {n : ℕ} {storeOnly : Bool} (h₀ : Keeps a₀ s) :
    Keeps a₀ (checkTarget s d pkt off n storeOnly).2 := by
  unfold checkTarget
  repeat' with_reducible first
    | assumption | (intro x; first | (refine (fun (hx : Keeps a₀ x) => ?_) ?_; clear_value x) | clear_value x)
    | lift_lets | subst x | apply keeps_violation | apply keeps_rset | apply keeps_modPlank | apply keeps_fileEvent
    | exact fun _ h => h | split | fail_if_no_progress apply keeps_free | refine keeps_snd (by assumption) ?_
    | refine keeps_fst (by assumption) ?_

theorem keeps_serveHbm {s : State} {d : ℕ} {pkt : Packet} {reqs : List (Bool × ℕ × Line)} (h₀ : Keeps a₀ s) :
    Keeps a₀ (serveHbm s d pkt reqs) := by
  unfold serveHbm
  repeat' with_reducible first
    | assumption
    | (intro x; first | (refine (fun (hx : Keeps a₀ x) => ?_) ?_; clear_value x) | (refine (fun (hx : Keeps a₀ x.2) => ?_) ?_; clear_value x) | (refine (fun (hx : Keeps a₀ x.1) => ?_) ?_; clear_value x) | clear_value x)
    | lift_lets | subst x | apply keeps_enqueue | refine keeps_foldl (fun _ _ _ => ?_) ?_
    | refine keeps_foldl_fst (fun _ _ _ => ?_) ?_ | refine keeps_foldl_snd (fun _ _ _ => ?_) ?_ | apply keeps_rset
    | apply keeps_modPlank | apply keeps_fileEvent | exact fun _ h => h | split | fail_if_no_progress apply keeps_free

theorem keeps_writePacket {s : State} {d : ℕ} {pkt : Packet} (h₀ : Keeps a₀ s) :
    Keeps a₀ (writePacket s d pkt) := by
  unfold writePacket
  repeat' with_reducible first
    | assumption
    | (intro x; first | (refine (fun (hx : Keeps a₀ x) => ?_) ?_; clear_value x) | (refine (fun (hx : Keeps a₀ x.2) => ?_) ?_; clear_value x) | (refine (fun (hx : Keeps a₀ x.1) => ?_) ?_; clear_value x) | clear_value x)
    | lift_lets | subst x | apply keeps_checkTarget | apply keeps_countDone | apply keeps_serveHbm
    | apply keeps_putLine | refine keeps_foldl (fun _ _ _ => ?_) ?_ | refine keeps_foldl_fst (fun _ _ _ => ?_) ?_
    | refine keeps_foldl_snd (fun _ _ _ => ?_) ?_ | apply keeps_rset | apply keeps_modPlank | apply keeps_fileEvent
    | exact fun _ h => h | split | fail_if_no_progress apply keeps_free

theorem keeps_execPktWrite {s : State} {d : LinkDieId} {pkt : Packet} (h₀ : Keeps a₀ s) {t₀ : State}
    (e : execPktWrite d pkt s = .next t₀) : Keeps a₀ t₀ := by
  unfold execPktWrite at e
  injection e with e
  subst e
  repeat' with_reducible first
    | assumption | (intro x; first | (refine (fun (hx : Keeps a₀ x) => ?_) ?_; clear_value x) | clear_value x)
    | lift_lets | subst x | apply keeps_writePacket | apply keeps_takeArrived | apply keeps_rset | apply keeps_modPlank
    | apply keeps_fileEvent | exact fun _ h => h | split | fail_if_no_progress apply keeps_free

theorem keeps_execPktChunk {s : State} {d : LinkDieId} {pkt : Packet} (h₀ : Keeps a₀ s) {t₀ : State}
    (e : execPktChunk d pkt s = .next t₀) : Keeps a₀ t₀ := by
  unfold execPktChunk at e
  injection e with e
  subst e
  repeat' with_reducible first
    | assumption | (intro x; first | (refine (fun (hx : Keeps a₀ x) => ?_) ?_; clear_value x) | clear_value x)
    | lift_lets | subst x | apply keeps_writePacket | apply keeps_takeArrived | apply keeps_rset | apply keeps_modPlank
    | apply keeps_fileEvent | exact fun _ h => h | split | fail_if_no_progress apply keeps_free

theorem keeps_addEntries {s : State} {phase : ℕ} {x : ℕ × List Byte} (h₀ : Keeps a₀ s) :
    Keeps a₀ (addEntries s phase x).1 := by
  unfold addEntries
  repeat' with_reducible first
    | assumption
    | (intro x; first | (refine (fun (hx : Keeps a₀ x) => ?_) ?_; clear_value x) | (refine (fun (hx : Keeps a₀ x.2) => ?_) ?_; clear_value x) | (refine (fun (hx : Keeps a₀ x.1) => ?_) ?_; clear_value x) | clear_value x)
    | lift_lets | subst x | apply keeps_accumulate | apply keeps_rset | apply keeps_modPlank | apply keeps_fileEvent
    | exact fun _ h => h | split | fail_if_no_progress apply keeps_free

theorem keeps_addEntries_fold {k : Nat} {l : List (Nat × List Byte)} {x : State × List (Nat × List Byte)} (h : Keeps a₀ x.1) :
    Keeps a₀ (l.foldl (fun r e => let y := addEntries r.1 k e; (y.1, r.2 ++ y.2)) x).1 :=
  keeps_foldl_fst (fun _ _ h => keeps_addEntries h) h

theorem keeps_accumEntries {s : State} {d : Nat} {pkt : Packet} (h : Keeps a₀ s) : Keeps a₀ (accumEntries s d pkt) := by
  unfold accumEntries
  extract_lets hd off n x phase g1 g2 parts r waits all y other c1 c2 s1
  have hr : Keeps a₀ r.1 := by
    clear_value phase parts
    cases phase with
    | none => exact h
    | some k => exact keeps_addEntries_fold h
  have h1 : Keeps a₀ s1 := keeps_free hr ..
  exact keeps_foldl (fun _ _ h => keeps_countDone h) h1

theorem keeps_accumPacket {s : State} {d : ℕ} {pkt : Packet} (h₀ : Keeps a₀ s) :
    Keeps a₀ (accumPacket s d pkt) := by
  unfold accumPacket
  repeat' with_reducible first
    | assumption
    | (intro x; first | (refine (fun (hx : Keeps a₀ x) => ?_) ?_; clear_value x) | (refine (fun (hx : Keeps a₀ x.2) => ?_) ?_; clear_value x) | (refine (fun (hx : Keeps a₀ x.1) => ?_) ?_; clear_value x) | clear_value x)
    | lift_lets | subst x | apply keeps_takeArrived | apply keeps_checkTarget | apply keeps_countDone
    | apply keeps_accumEntries | apply keeps_accumulate | apply keeps_addPoison
    | refine keeps_foldl (fun _ _ _ => ?_) ?_ | refine keeps_foldl_fst (fun _ _ _ => ?_) ?_
    | refine keeps_foldl_snd (fun _ _ _ => ?_) ?_ | apply keeps_rset | apply keeps_modPlank | apply keeps_fileEvent
    | exact fun _ h => h | split | fail_if_no_progress apply keeps_free

theorem keeps_execPktAccum {s : State} {d : LinkDieId} {pkt : Packet} (h₀ : Keeps a₀ s) {t₀ : State}
    (e : execPktAccum d pkt s = .next t₀) : Keeps a₀ t₀ := by
  unfold execPktAccum at e
  injection e with e
  subst e
  repeat' with_reducible first
    | assumption | (intro x; first | (refine (fun (hx : Keeps a₀ x) => ?_) ?_; clear_value x) | clear_value x)
    | lift_lets | subst x | apply keeps_accumPacket | apply keeps_rset | apply keeps_modPlank | apply keeps_fileEvent
    | exact fun _ h => h | split | fail_if_no_progress apply keeps_free

theorem keeps_countErrs {s : State} {ecc : CoreEcc} {off : ℕ} {n : ℕ} (h₀ : Keeps a₀ s) :
    Keeps a₀ (countErrs s ecc off n).2 := by
  unfold countErrs
  repeat' with_reducible first
    | assumption | (intro x; first | (refine (fun (hx : Keeps a₀ x) => ?_) ?_; clear_value x) | clear_value x)
    | lift_lets | subst x | apply keeps_eccCounts | apply keeps_rset | apply keeps_modPlank | apply keeps_fileEvent
    | exact fun _ h => h | split | fail_if_no_progress apply keeps_free | refine keeps_snd (by assumption) ?_
    | refine keeps_fst (by assumption) ?_

theorem keeps_readPacket {s : State} {d : ℕ} {pkt : Packet} {ecc : CoreEcc} (h₀ : Keeps a₀ s) :
    Keeps a₀ (readPacket s d pkt ecc) := by
  unfold readPacket
  repeat' with_reducible first
    | assumption
    | (intro x; first | (refine (fun (hx : Keeps a₀ x) => ?_) ?_; clear_value x) | (refine (fun (hx : Keeps a₀ x.2) => ?_) ?_; clear_value x) | (refine (fun (hx : Keeps a₀ x.1) => ?_) ?_; clear_value x) | clear_value x)
    | lift_lets | subst x | apply keeps_takeArrived | apply keeps_checkTarget | apply keeps_sendReadData
    | apply keeps_serveHbm | apply keeps_countErrs | apply keeps_rset | apply keeps_modPlank | apply keeps_fileEvent
    | exact fun _ h => h | split | fail_if_no_progress apply keeps_free

theorem keeps_execPktReadReq {s : State} {d : LinkDieId} {pkt : Packet} {ecc : CoreEcc} (h₀ : Keeps a₀ s) {t₀ : State}
    (e : execPktReadReq d pkt ecc s = .next t₀) : Keeps a₀ t₀ := by
  unfold execPktReadReq at e
  injection e with e
  subst e
  repeat' with_reducible first
    | assumption | (intro x; first | (refine (fun (hx : Keeps a₀ x) => ?_) ?_; clear_value x) | clear_value x)
    | lift_lets | subst x | apply keeps_readPacket | apply keeps_rset | apply keeps_modPlank | apply keeps_fileEvent
    | exact fun _ h => h | split | fail_if_no_progress apply keeps_free

theorem keeps_gatherLines {s : State} {x : Xfer} {off : ℕ} {ls : List Line} (h₀ : Keeps a₀ s) :
    Keeps a₀ (gatherLines s x off ls) := by
  unfold gatherLines
  repeat' with_reducible first
    | assumption
    | (intro x; first | (refine (fun (hx : Keeps a₀ x) => ?_) ?_; clear_value x) | (refine (fun (hx : Keeps a₀ x.2) => ?_) ?_; clear_value x) | (refine (fun (hx : Keeps a₀ x.1) => ?_) ?_; clear_value x) | clear_value x)
    | lift_lets | subst x | apply keeps_modXfer | apply keeps_xferWrite | apply keeps_evlog
    | refine keeps_foldl (fun _ _ _ => ?_) ?_ | refine keeps_foldl_fst (fun _ _ _ => ?_) ?_
    | refine keeps_foldl_snd (fun _ _ _ => ?_) ?_ | apply keeps_rset | apply keeps_modPlank | apply keeps_fileEvent
    | exact fun _ h => h | split | fail_if_no_progress apply keeps_free

theorem keeps_putLines {s : State} {x : Xfer} {off : ℕ} {ls : List Line} (h₀ : Keeps a₀ s) :
    Keeps a₀ (putLines s x off ls) := by
  unfold putLines
  repeat' with_reducible first
    | assumption
    | (intro x; first | (refine (fun (hx : Keeps a₀ x) => ?_) ?_; clear_value x) | (refine (fun (hx : Keeps a₀ x.2) => ?_) ?_; clear_value x) | (refine (fun (hx : Keeps a₀ x.1) => ?_) ?_; clear_value x) | clear_value x)
    | lift_lets | subst x | apply keeps_xferDone | apply keeps_modXfer | apply keeps_xferRefuse | apply keeps_enqueue
    | apply keeps_putLine | refine keeps_foldl (fun _ _ _ => ?_) ?_ | refine keeps_foldl_fst (fun _ _ _ => ?_) ?_
    | refine keeps_foldl_snd (fun _ _ _ => ?_) ?_ | apply keeps_rset | apply keeps_modPlank | apply keeps_fileEvent
    | exact fun _ h => h | split | fail_if_no_progress apply keeps_free | refine keeps_snd (by assumption) ?_
    | refine keeps_fst (by assumption) ?_

theorem keeps_dataPacket {s : State} {d : ℕ} {pkt : Packet} (h₀ : Keeps a₀ s) :
    Keeps a₀ (dataPacket s d pkt) := by
  unfold dataPacket
  repeat' with_reducible first
    | assumption | (intro x; first | (refine (fun (hx : Keeps a₀ x) => ?_) ?_; clear_value x) | clear_value x)
    | lift_lets | subst x | apply keeps_takeArrived | apply keeps_drew | apply keeps_gatherLines | apply keeps_xferDone
    | apply keeps_putLines | apply keeps_rset | apply keeps_modPlank | apply keeps_fileEvent | exact fun _ h => h
    | split | fail_if_no_progress apply keeps_free | refine keeps_snd (by assumption) ?_
    | refine keeps_fst (by assumption) ?_

theorem keeps_execPktReadData {s : State} {d : LinkDieId} {pkt : Packet} (h₀ : Keeps a₀ s) {t₀ : State}
    (e : execPktReadData d pkt s = .next t₀) : Keeps a₀ t₀ := by
  unfold execPktReadData at e
  injection e with e
  subst e
  repeat' with_reducible first
    | assumption | (intro x; first | (refine (fun (hx : Keeps a₀ x) => ?_) ?_; clear_value x) | clear_value x)
    | lift_lets | subst x | apply keeps_dataPacket | apply keeps_rset | apply keeps_modPlank | apply keeps_fileEvent
    | exact fun _ h => h | split | fail_if_no_progress apply keeps_free

theorem keeps_donePacket {s : State} {d : ℕ} {pkt : Packet} (h₀ : Keeps a₀ s) :
    Keeps a₀ (donePacket s d pkt) := by
  unfold donePacket
  repeat' with_reducible first
    | assumption | (intro x; first | (refine (fun (hx : Keeps a₀ x) => ?_) ?_; clear_value x) | clear_value x)
    | lift_lets | subst x | apply keeps_takeArrived | apply keeps_xferDone | apply keeps_rset | apply keeps_modPlank
    | apply keeps_fileEvent | exact fun _ h => h | split | fail_if_no_progress apply keeps_free
    | refine keeps_snd (by assumption) ?_ | refine keeps_fst (by assumption) ?_

theorem keeps_execPktDone {s : State} {d : LinkDieId} {pkt : Packet} (h₀ : Keeps a₀ s) {t₀ : State}
    (e : execPktDone d pkt s = .next t₀) : Keeps a₀ t₀ := by
  unfold execPktDone at e
  injection e with e
  subst e
  repeat' with_reducible first
    | assumption | (intro x; first | (refine (fun (hx : Keeps a₀ x) => ?_) ?_; clear_value x) | clear_value x)
    | lift_lets | subst x | apply keeps_donePacket | apply keeps_rset | apply keeps_modPlank | apply keeps_fileEvent
    | exact fun _ h => h | split | fail_if_no_progress apply keeps_free

theorem keeps_signalArrives {s : State} {d : ℕ} {pkt : Packet} (h₀ : Keeps a₀ s) :
    Keeps a₀ (signalArrives s d pkt) := by
  unfold signalArrives
  repeat' with_reducible first
    | assumption | (intro x; first | (refine (fun (hx : Keeps a₀ x) => ?_) ?_; clear_value x) | clear_value x)
    | lift_lets | subst x | apply keeps_takeArrived | apply keeps_signal | apply keeps_rset | apply keeps_modPlank
    | apply keeps_fileEvent | exact fun _ h => h | split | fail_if_no_progress apply keeps_free

theorem keeps_execPktSignal {s : State} {d : LinkDieId} {pkt : Packet} (h₀ : Keeps a₀ s) {t₀ : State}
    (e : execPktSignal d pkt s = .next t₀) : Keeps a₀ t₀ := by
  unfold execPktSignal at e
  injection e with e
  subst e
  repeat' with_reducible first
    | assumption | (intro x; first | (refine (fun (hx : Keeps a₀ x) => ?_) ?_; clear_value x) | clear_value x)
    | lift_lets | subst x | apply keeps_signalArrives | apply keeps_rset | apply keeps_modPlank | apply keeps_fileEvent
    | exact fun _ h => h | split | fail_if_no_progress apply keeps_free

theorem keeps_execDoneRecordFlush {s : State} {d : LinkDieId} {r : ℕ} (h₀ : Keeps a₀ s) {t₀ : State}
    (e : execDoneRecordFlush d r s = .next t₀) : Keeps a₀ t₀ := by
  unfold execDoneRecordFlush at e
  injection e with e
  subst e
  repeat' with_reducible first
    | assumption | (intro x; first | (refine (fun (hx : Keeps a₀ x) => ?_) ?_; clear_value x) | clear_value x)
    | lift_lets | subst x | apply keeps_sendDone | apply keeps_setDones | apply keeps_rset | apply keeps_modPlank
    | apply keeps_fileEvent | exact fun _ h => h | split | fail_if_no_progress apply keeps_free
    | refine keeps_snd (by assumption) ?_ | refine keeps_fst (by assumption) ?_

theorem keeps_takeTree {s : State} {src : Option ℕ} {flit : BitVec 512} (h₀ : Keeps a₀ s) :
    Keeps a₀ (takeTree s src flit) := by
  unfold takeTree
  repeat' with_reducible first
    | assumption
    | (intro x; first | (refine (fun (hx : Keeps a₀ x) => ?_) ?_; clear_value x) | (refine (fun (hx : Keeps a₀ x.2) => ?_) ?_; clear_value x) | (refine (fun (hx : Keeps a₀ x.1) => ?_) ?_; clear_value x) | clear_value x)
    | lift_lets | subst x | apply keeps_rset | apply keeps_modPlank | apply keeps_fileEvent | exact fun _ h => h
    | split | fail_if_no_progress apply keeps_free | refine keeps_snd (by assumption) ?_
    | refine keeps_fst (by assumption) ?_

theorem keeps_treeArrive {s : State} {src : BitVec 14} {flit : BitVec 512} (h₀ : Keeps a₀ s) :
    Keeps a₀ (treeArrive s src flit) := by
  unfold treeArrive
  repeat' with_reducible first
    | assumption
    | (intro x; first | (refine (fun (hx : Keeps a₀ x) => ?_) ?_; clear_value x) | (refine (fun (hx : Keeps a₀ x.2) => ?_) ?_; clear_value x) | (refine (fun (hx : Keeps a₀ x.1) => ?_) ?_; clear_value x) | clear_value x)
    | lift_lets | subst x | apply keeps_takeTree | apply keeps_rsat | apply keeps_leaderArrive | apply keeps_syncWork
    | apply keeps_rootArrive | apply keeps_rset | apply keeps_modPlank | apply keeps_fileEvent | exact fun _ h => h
    | split | fail_if_no_progress apply keeps_free

theorem keeps_execTreeArrive {s : State} {src : BitVec 14} {flit : BitVec 512} (h₀ : Keeps a₀ s) {t₀ : State}
    (e : execTreeArrive src flit s = .next t₀) : Keeps a₀ t₀ := by
  unfold execTreeArrive at e
  injection e with e
  subst e
  repeat' with_reducible first
    | assumption | (intro x; first | (refine (fun (hx : Keeps a₀ x) => ?_) ?_; clear_value x) | clear_value x)
    | lift_lets | subst x | apply keeps_treeArrive | apply keeps_rset | apply keeps_modPlank | apply keeps_fileEvent
    | exact fun _ h => h | split | fail_if_no_progress apply keeps_free

theorem keeps_treeRelease {s : State} {flit : BitVec 512} (h₀ : Keeps a₀ s) :
    Keeps a₀ (treeRelease s flit) := by
  unfold treeRelease
  repeat' with_reducible first
    | assumption
    | (intro x; first | (refine (fun (hx : Keeps a₀ x) => ?_) ?_; clear_value x) | (refine (fun (hx : Keeps a₀ x.2) => ?_) ?_; clear_value x) | (refine (fun (hx : Keeps a₀ x.1) => ?_) ?_; clear_value x) | clear_value x)
    | lift_lets | subst x | apply keeps_takeTree | apply keeps_rsat | apply keeps_sendFlits | apply keeps_barRelease
    | apply keeps_syncWork | apply keeps_rset | apply keeps_modPlank | apply keeps_fileEvent | exact fun _ h => h
    | split | fail_if_no_progress apply keeps_free

theorem keeps_execTreeRelease {s : State} {flit : BitVec 512} (h₀ : Keeps a₀ s) {t₀ : State}
    (e : execTreeRelease flit s = .next t₀) : Keeps a₀ t₀ := by
  unfold execTreeRelease at e
  injection e with e
  subst e
  repeat' with_reducible first
    | assumption | (intro x; first | (refine (fun (hx : Keeps a₀ x) => ?_) ?_; clear_value x) | clear_value x)
    | lift_lets | subst x | apply keeps_treeRelease | apply keeps_rset | apply keeps_modPlank | apply keeps_fileEvent
    | exact fun _ h => h | split | fail_if_no_progress apply keeps_free

theorem keeps_firstCopy {s : State} {t : ℕ} {origin : ℕ} {flit : BitVec 512} (h₀ : Keeps a₀ s) :
    KeepsOpt a₀ (firstCopy s t origin flit) := by
  unfold firstCopy
  repeat' with_reducible first
    | assumption | (intro x; first | (refine (fun (hx : Keeps a₀ x) => ?_) ?_; clear_value x) | clear_value x)
    | lift_lets | subst x | apply keeps_rset | apply keeps_modPlank | apply keeps_fileEvent | exact fun _ h => h
    | split | fail_if_no_progress apply keeps_free | exact keepsOpt_none | apply keepsOpt_some
    | refine keepsOpt_of ?_ (by assumption) | apply keeps_getD

theorem keeps_ownerEvent {s : State} {flit : BitVec 512} (h₀ : Keeps a₀ s) :
    Keeps a₀ (ownerEvent s flit) := by
  unfold ownerEvent
  repeat' with_reducible first
    | assumption | (intro x; first | (refine (fun (hx : Keeps a₀ x) => ?_) ?_; clear_value x) | clear_value x)
    | lift_lets | subst x | apply keeps_breakBarrier | apply keeps_orphan | apply keeps_partnerEvent
    | refine keeps_foldl (fun _ _ _ => ?_) ?_ | apply keeps_rset | apply keeps_modPlank | apply keeps_fileEvent
    | exact fun _ h => h | split | fail_if_no_progress apply keeps_free

theorem keeps_treeOwner {s : State} {flit : BitVec 512} (h₀ : Keeps a₀ s) :
    Keeps a₀ (treeOwner s flit) := by
  unfold treeOwner
  repeat' with_reducible first
    | assumption | (intro x; first | (refine (fun (hx : Keeps a₀ x) => ?_) ?_; clear_value x) | clear_value x)
    | lift_lets | subst x | apply keeps_takeTree | apply keeps_firstCopy | apply keeps_ownerEvent
    | apply keeps_sendFlits | apply keeps_rset | apply keeps_modPlank | apply keeps_fileEvent | exact fun _ h => h
    | split | fail_if_no_progress apply keeps_free | exact keepsOpt_none | apply keepsOpt_some
    | refine keepsOpt_of ?_ (by assumption) | apply keeps_getD | refine keeps_snd (by assumption) ?_
    | refine keeps_fst (by assumption) ?_

theorem keeps_execTreeOwnerMessage {s : State} {flit : BitVec 512} (h₀ : Keeps a₀ s) {t₀ : State}
    (e : execTreeOwnerMessage flit s = .next t₀) : Keeps a₀ t₀ := by
  unfold execTreeOwnerMessage at e
  injection e with e
  subst e
  repeat' with_reducible first
    | assumption | (intro x; first | (refine (fun (hx : Keeps a₀ x) => ?_) ?_; clear_value x) | clear_value x)
    | lift_lets | subst x | apply keeps_treeOwner | apply keeps_rset | apply keeps_modPlank | apply keeps_fileEvent
    | exact fun _ h => h | split | fail_if_no_progress apply keeps_free

theorem keeps_abortHere {s : State} {n : ℕ} {epoch : ℕ} (h₀ : Keeps a₀ s) :
    Keeps a₀ (abortHere s n epoch) := by
  unfold abortHere
  repeat' with_reducible first
    | assumption | (intro x; first | (refine (fun (hx : Keeps a₀ x) => ?_) ?_; clear_value x) | clear_value x)
    | lift_lets | subst x | apply keeps_cancelOp | apply keeps_rset | apply keeps_modPlank | apply keeps_fileEvent
    | exact fun _ h => h | split | fail_if_no_progress apply keeps_free

theorem keeps_treeAbort {s : State} {flit : BitVec 512} (h₀ : Keeps a₀ s) :
    Keeps a₀ (treeAbort s flit) := by
  unfold treeAbort
  repeat' with_reducible first
    | assumption | (intro x; first | (refine (fun (hx : Keeps a₀ x) => ?_) ?_; clear_value x) | clear_value x)
    | lift_lets | subst x | apply keeps_takeTree | apply keeps_abortHere | apply keeps_sendFlits | apply keeps_rset
    | apply keeps_modPlank | apply keeps_fileEvent | exact fun _ h => h | split | fail_if_no_progress apply keeps_free

theorem keeps_execTreeAbort {s : State} {flit : BitVec 512} (h₀ : Keeps a₀ s) {t₀ : State}
    (e : execTreeAbort flit s = .next t₀) : Keeps a₀ t₀ := by
  unfold execTreeAbort at e
  injection e with e
  subst e
  repeat' with_reducible first
    | assumption | (intro x; first | (refine (fun (hx : Keeps a₀ x) => ?_) ?_; clear_value x) | clear_value x)
    | lift_lets | subst x | apply keeps_treeAbort | apply keeps_rset | apply keeps_modPlank | apply keeps_fileEvent
    | exact fun _ h => h | split | fail_if_no_progress apply keeps_free

/-! ## Keys -/

theorem keeps_loadSealKey {s : State} {die : ℕ} {i : ℕ} {k : TrustKey} (h₀ : Keeps a₀ s) :
    Keeps a₀ (loadSealKey s die i k) := by
  unfold loadSealKey
  repeat' with_reducible first
    | assumption | (intro x; first | (refine (fun (hx : Keeps a₀ x) => ?_) ?_; clear_value x) | clear_value x)
    | lift_lets | subst x | apply keeps_rset | apply keeps_modLink | apply keeps_evlog
    | refine keeps_foldl (fun _ _ _ => ?_) ?_ | apply keeps_modPlank | apply keeps_fileEvent | exact fun _ h => h
    | split | fail_if_no_progress apply keeps_free

theorem keeps_takeKey {kw : List Byte} {x : Nat × State} {e : List Byte} (h : Keeps a₀ x.2) : Keeps a₀ (takeKey kw x e).2 := by
  unfold takeKey
  dsimp only
  split
  · exact h
  · split
    · exact h
    · split
      · exact keeps_free h ..
      · split
        · exact h
        · exact keeps_foldl (fun _ _ hs => keeps_loadSealKey hs) (keeps_free h ..)

theorem keeps_execKeyDeliver {s : State} {rq : Req} {reportId : BitVec 64} {ct : List Byte} {entries : List (List Byte)}
    (h : Keeps a₀ s) {t₀ : State} (e : execKeyDeliver rq reportId ct entries s = .next t₀) : Keeps a₀ t₀ := by
  unfold execKeyDeliver at e
  injection e with e
  subst e
  refine keeps_answerVerb (fun s hs => ?_) h
  split
  · exact hs
  · split
    · exact hs
    · split
      · exact hs
      · exact keeps_foldl_snd (fun _ _ hx => keeps_takeKey hx) hs

theorem keeps_connectQp {s : State} {q : ℕ} {port : ℕ} {o : OpenReq} (h₀ : Keeps a₀ s) :
    Keeps a₀ (connectQp s q port o) := by
  unfold connectQp
  repeat' with_reducible first
    | assumption | (intro x; first | (refine (fun (hx : Keeps a₀ x) => ?_) ?_; clear_value x) | clear_value x)
    | lift_lets | subst x | apply keeps_setQp | apply keeps_rset | apply keeps_modPlank | apply keeps_fileEvent
    | exact fun _ h => h | split | fail_if_no_progress apply keeps_free

theorem keeps_bindKey {s : State} {o : OpenReq} (h₀ : Keeps a₀ s) :
    Keeps a₀ (bindKey s o) := by
  unfold bindKey
  repeat' with_reducible first
    | assumption | (intro x; first | (refine (fun (hx : Keeps a₀ x) => ?_) ?_; clear_value x) | clear_value x)
    | lift_lets | subst x | apply keeps_rset | apply keeps_modPlank | apply keeps_fileEvent | exact fun _ h => h
    | split | fail_if_no_progress apply keeps_free

theorem keeps_openStream {s : State} {session : ℕ} {o : OpenReq} (h₀ : Keeps a₀ s) :
    Keeps a₀ (openStream s session o) := by
  unfold openStream
  repeat' with_reducible first
    | assumption | (intro x; first | (refine (fun (hx : Keeps a₀ x) => ?_) ?_; clear_value x) | clear_value x)
    | lift_lets | subst x | apply keeps_bindKey | apply keeps_connectQp | apply keeps_setData | apply keeps_streamTo
    | apply keeps_setStrm | apply keeps_rset | apply keeps_modPlank | apply keeps_fileEvent | exact fun _ h => h
    | split | fail_if_no_progress apply keeps_free | refine keeps_snd (by assumption) ?_
    | refine keeps_fst (by assumption) ?_

theorem keeps_execStreamOpen {s : State} {rq : Req} {payload : List Byte} (h₀ : Keeps a₀ s) {t₀ : State}
    (e : execStreamOpen rq payload s = .next t₀) : Keeps a₀ t₀ := by
  unfold execStreamOpen at e
  injection e with e
  subst e
  repeat' with_reducible first
    | assumption | (intro x; first | (refine (fun (hx : Keeps a₀ x) => ?_) ?_; clear_value x) | clear_value x)
    | lift_lets | subst x | refine keeps_answerVerb (fun _ _ => ?_) ?_ | apply keeps_openStream | apply keeps_rset
    | apply keeps_modPlank | apply keeps_fileEvent | exact fun _ h => h | split | fail_if_no_progress apply keeps_free

theorem keeps_releaseQp {s : State} {q : ℕ} (h₀ : Keeps a₀ s) :
    Keeps a₀ (releaseQp s q) := by
  unfold releaseQp
  repeat' with_reducible first
    | assumption | (intro x; first | (refine (fun (hx : Keeps a₀ x) => ?_) ?_; clear_value x) | clear_value x)
    | lift_lets | subst x | apply keeps_setQp | apply keeps_rset | apply keeps_modPlank | apply keeps_fileEvent
    | exact fun _ h => h | split | fail_if_no_progress apply keeps_free

theorem keeps_closeStream {s : State} {n : ℕ} (h₀ : Keeps a₀ s) :
    Keeps a₀ (closeStream s n) := by
  unfold closeStream
  repeat' with_reducible first
    | assumption
    | (intro x; first | (refine (fun (hx : Keeps a₀ x) => ?_) ?_; clear_value x) | (refine (fun (hx : Keeps a₀ x.2) => ?_) ?_; clear_value x) | (refine (fun (hx : Keeps a₀ x.1) => ?_) ?_; clear_value x) | clear_value x)
    | lift_lets | subst x | apply keeps_idleStream | apply keeps_setData | apply keeps_releaseQp
    | apply keeps_dropPartition | apply keeps_rset | apply keeps_modPlank | apply keeps_fileEvent | exact fun _ h => h
    | split | fail_if_no_progress apply keeps_free | refine keeps_snd (by assumption) ?_
    | refine keeps_fst (by assumption) ?_

theorem keeps_execStreamClose {s : State} {rq : Req} {stream : BitVec 16} (h₀ : Keeps a₀ s) {t₀ : State}
    (e : execStreamClose rq stream s = .next t₀) : Keeps a₀ t₀ := by
  unfold execStreamClose at e
  injection e with e
  subst e
  repeat' with_reducible first
    | assumption | (intro x; first | (refine (fun (hx : Keeps a₀ x) => ?_) ?_; clear_value x) | clear_value x)
    | lift_lets | subst x | refine keeps_answerVerb (fun _ _ => ?_) ?_ | apply keeps_closeStream | apply keeps_rset
    | apply keeps_modPlank | apply keeps_fileEvent | exact fun _ h => h | split | fail_if_no_progress apply keeps_free

/-! ## Pins -/

theorem keeps_pinsAct {s : State} {trip : Bool} (h₀ : Keeps a₀ s) :
    Keeps a₀ (pinsAct s trip) := by
  unfold pinsAct
  repeat' with_reducible first
    | assumption | (intro x; first | (refine (fun (hx : Keeps a₀ x) => ?_) ?_; clear_value x) | clear_value x)
    | lift_lets | subst x | apply keeps_tryPowerOn | apply keeps_powerDown | apply keeps_tripNow
    | apply keeps_enterReset | apply keeps_leaveReset | apply keeps_enterHold | apply keeps_leaveHold
    | apply keeps_rset | apply keeps_modPlank | apply keeps_fileEvent | exact fun _ h => h | split
    | fail_if_no_progress apply keeps_free

theorem keeps_setPin {s : State} {i : ℕ} {x : Pin} (h₀ : Keeps a₀ s) :
    Keeps a₀ (setPin s i x) := by
  unfold setPin
  repeat' with_reducible first
    | assumption | (intro x; first | (refine (fun (hx : Keeps a₀ x) => ?_) ?_; clear_value x) | clear_value x)
    | lift_lets | subst x | apply keeps_showPins | apply keeps_evlog | apply keeps_rset | apply keeps_modPlank
    | apply keeps_fileEvent | exact fun _ h => h | split | fail_if_no_progress apply keeps_free

theorem keeps_noteChatter {s : State} {i : ℕ} (h₀ : Keeps a₀ s) :
    Keeps a₀ (noteChatter s i) := by
  unfold noteChatter
  repeat' with_reducible first
    | assumption | (intro x; first | (refine (fun (hx : Keeps a₀ x) => ?_) ?_; clear_value x) | clear_value x)
    | lift_lets | subst x | apply keeps_fileEvent | apply keeps_alert | apply keeps_rsat | apply keeps_rset
    | apply keeps_modPlank | exact fun _ h => h | split | fail_if_no_progress apply keeps_free

theorem keeps_actOn {s : State} {i : ℕ} {was : Bool} (h₀ : Keeps a₀ s) :
    Keeps a₀ (actOn s i was) := by
  unfold actOn
  repeat' with_reducible first
    | assumption | (intro x; first | (refine (fun (hx : Keeps a₀ x) => ?_) ?_; clear_value x) | clear_value x)
    | lift_lets | subst x | apply keeps_pinsAct | apply keeps_rset | apply keeps_modPlank | apply keeps_fileEvent
    | exact fun _ h => h | split | fail_if_no_progress apply keeps_free

theorem keeps_acceptLevel {s : State} {i : ℕ} {level : Bool} (h₀ : Keeps a₀ s) :
    Keeps a₀ (acceptLevel s i level) := by
  unfold acceptLevel
  repeat' with_reducible first
    | assumption | (intro x; first | (refine (fun (hx : Keeps a₀ x) => ?_) ?_; clear_value x) | clear_value x)
    | lift_lets | subst x | apply keeps_actOn | apply keeps_setPin | apply keeps_tick | apply keeps_fileEvent
    | apply keeps_noteChatter | apply keeps_rset | apply keeps_modPlank | exact fun _ h => h | split
    | fail_if_no_progress apply keeps_free | refine keeps_snd (by assumption) ?_ | refine keeps_fst (by assumption) ?_

theorem keeps_execPwrEn {s : State} {level : Bool} (h₀ : Keeps a₀ s) {t₀ : State}
    (e : execPwrEn level s = .next t₀) : Keeps a₀ t₀ := by
  unfold execPwrEn at e
  injection e with e
  subst e
  repeat' with_reducible first
    | assumption | (intro x; first | (refine (fun (hx : Keeps a₀ x) => ?_) ?_; clear_value x) | clear_value x)
    | lift_lets | subst x | apply keeps_acceptLevel | apply keeps_rset | apply keeps_modPlank | apply keeps_fileEvent
    | exact fun _ h => h | split | fail_if_no_progress apply keeps_free

theorem keeps_execPresentN {s : State} {level : Bool} (h₀ : Keeps a₀ s) {t₀ : State}
    (e : execPresentN level s = .next t₀) : Keeps a₀ t₀ := by
  unfold execPresentN at e
  injection e with e
  subst e
  repeat' with_reducible first
    | assumption | (intro x; first | (refine (fun (hx : Keeps a₀ x) => ?_) ?_; clear_value x) | clear_value x)
    | lift_lets | subst x | apply keeps_acceptLevel | apply keeps_rset | apply keeps_modPlank | apply keeps_fileEvent
    | exact fun _ h => h | split | fail_if_no_progress apply keeps_free

theorem keeps_execThermTripN {s : State} {level : Bool} (h₀ : Keeps a₀ s) {t₀ : State}
    (e : execThermTripN level s = .next t₀) : Keeps a₀ t₀ := by
  unfold execThermTripN at e
  injection e with e
  subst e
  repeat' with_reducible first
    | assumption | (intro x; first | (refine (fun (hx : Keeps a₀ x) => ?_) ?_; clear_value x) | clear_value x)
    | lift_lets | subst x | apply keeps_acceptLevel | apply keeps_rset | apply keeps_modPlank | apply keeps_fileEvent
    | exact fun _ h => h | split | fail_if_no_progress apply keeps_free

theorem keeps_execResetN {s : State} {level : Bool} (h₀ : Keeps a₀ s) {t₀ : State}
    (e : execResetN level s = .next t₀) : Keeps a₀ t₀ := by
  unfold execResetN at e
  injection e with e
  subst e
  repeat' with_reducible first
    | assumption | (intro x; first | (refine (fun (hx : Keeps a₀ x) => ?_) ?_; clear_value x) | clear_value x)
    | lift_lets | subst x | apply keeps_acceptLevel | apply keeps_rset | apply keeps_modPlank | apply keeps_fileEvent
    | exact fun _ h => h | split | fail_if_no_progress apply keeps_free

theorem keeps_execHoldN {s : State} {level : Bool} (h₀ : Keeps a₀ s) {t₀ : State}
    (e : execHoldN level s = .next t₀) : Keeps a₀ t₀ := by
  unfold execHoldN at e
  injection e with e
  subst e
  repeat' with_reducible first
    | assumption | (intro x; first | (refine (fun (hx : Keeps a₀ x) => ?_) ?_; clear_value x) | clear_value x)
    | lift_lets | subst x | apply keeps_acceptLevel | apply keeps_rset | apply keeps_modPlank | apply keeps_fileEvent
    | exact fun _ h => h | split | fail_if_no_progress apply keeps_free

theorem keeps_chatterEnds {s : State} {i : ℕ} {level : Bool} (h₀ : Keeps a₀ s) :
    Keeps a₀ (chatterEnds s i level) := by
  unfold chatterEnds
  repeat' with_reducible first
    | assumption | (intro x; first | (refine (fun (hx : Keeps a₀ x) => ?_) ?_; clear_value x) | clear_value x)
    | lift_lets | subst x | apply keeps_noteChatter | apply keeps_setPin | apply keeps_actOn | apply keeps_fileEvent
    | apply keeps_rset | apply keeps_modPlank | exact fun _ h => h | split | fail_if_no_progress apply keeps_free

theorem keeps_execChatterExit {s : State} {pin : Fin 5} {level : Bool} (h₀ : Keeps a₀ s) {t₀ : State}
    (e : execChatterExit pin level s = .next t₀) : Keeps a₀ t₀ := by
  unfold execChatterExit at e
  injection e with e
  subst e
  repeat' with_reducible first
    | assumption | (intro x; first | (refine (fun (hx : Keeps a₀ x) => ?_) ?_; clear_value x) | clear_value x)
    | lift_lets | subst x | apply keeps_chatterEnds | apply keeps_rset | apply keeps_modPlank | apply keeps_fileEvent
    | exact fun _ h => h | split | fail_if_no_progress apply keeps_free

/-! ## Records -/

theorem keeps_hostSignal {s : State} {n : ℕ} {die : ℕ} {obj : ℕ} (h₀ : Keeps a₀ s) :
    Keeps a₀ (hostSignal s n die obj) := by
  unfold hostSignal
  repeat' with_reducible first
    | assumption | (intro x; first | (refine (fun (hx : Keeps a₀ x) => ?_) ?_; clear_value x) | clear_value x)
    | lift_lets | subst x | apply keeps_signal | apply keeps_rset | apply keeps_modPlank | apply keeps_fileEvent
    | exact fun _ h => h | split | fail_if_no_progress apply keeps_free

theorem keeps_countRec {s : State} {n : ℕ} {len : ℕ} (h₀ : Keeps a₀ s) :
    Keeps a₀ (countRec s n len) := by
  unfold countRec
  repeat' with_reducible first
    | assumption | (intro x; first | (refine (fun (hx : Keeps a₀ x) => ?_) ?_; clear_value x) | clear_value x)
    | lift_lets | subst x | apply keeps_strmSet | apply keeps_rset | apply keeps_modPlank | apply keeps_fileEvent
    | exact fun _ h => h | split | fail_if_no_progress apply keeps_free

theorem keeps_hostRefused {s : State} {w : HostWork} {cls : ℕ} {unit : ℕ} (h₀ : Keeps a₀ s) :
    Keeps a₀ (hostRefused s w cls unit) := by
  unfold hostRefused
  repeat' with_reducible first
    | assumption | (intro x; first | (refine (fun (hx : Keeps a₀ x) => ?_) ?_; clear_value x) | clear_value x)
    | lift_lets | subst x | apply keeps_failStream | apply keeps_idleData | apply keeps_violation | apply keeps_rset
    | apply keeps_modPlank | apply keeps_fileEvent | exact fun _ h => h | split | fail_if_no_progress apply keeps_free

theorem keeps_loadWithdraws {s : State} {num : ℕ} (h₀ : Keeps a₀ s) :
    Keeps a₀ (loadWithdraws s num) := by
  unfold loadWithdraws
  repeat' with_reducible first
    | assumption | (intro x; first | (refine (fun (hx : Keeps a₀ x) => ?_) ?_; clear_value x) | clear_value x)
    | lift_lets | subst x | apply keeps_modData | apply keeps_rset | apply keeps_modPlank | apply keeps_fileEvent
    | exact fun _ h => h | split | fail_if_no_progress apply keeps_free | refine keeps_snd (by assumption) ?_
    | refine keeps_fst (by assumption) ?_

theorem keeps_hostQueue {s : State} {w : HostWork} {bytes : List Byte} (h₀ : Keeps a₀ s) :
    Keeps a₀ (hostQueue s w bytes) := by
  unfold hostQueue
  repeat' with_reducible first
    | assumption
    | (intro x; first | (refine (fun (hx : Keeps a₀ x) => ?_) ?_; clear_value x) | (refine (fun (hx : Keeps a₀ x.2) => ?_) ?_; clear_value x) | (refine (fun (hx : Keeps a₀ x.1) => ?_) ?_; clear_value x) | clear_value x)
    | lift_lets | subst x | apply keeps_hostRefused | apply keeps_enqueue | refine keeps_foldl (fun _ _ _ => ?_) ?_
    | refine keeps_foldl_fst (fun _ _ _ => ?_) ?_ | refine keeps_foldl_snd (fun _ _ _ => ?_) ?_ | apply keeps_rset
    | apply keeps_modPlank | apply keeps_fileEvent | exact fun _ h => h | split | fail_if_no_progress apply keeps_free
    | refine keeps_snd (by assumption) ?_ | refine keeps_fst (by assumption) ?_

theorem keeps_dropWork {s : State} {num : ℕ} (h₀ : Keeps a₀ s) :
    Keeps a₀ (dropWork s num) := by
  unfold dropWork
  repeat' with_reducible first
    | assumption | (intro x; first | (refine (fun (hx : Keeps a₀ x) => ?_) ?_; clear_value x) | clear_value x)
    | lift_lets | subst x | apply keeps_rset | apply keeps_modPlank | apply keeps_fileEvent | exact fun _ h => h
    | split | fail_if_no_progress apply keeps_free

theorem keeps_takeRecord {s : State} {n : ℕ} {q : ℕ} {d : DataStream} {h : RecHead} {data : List Byte} (h₀ : Keeps a₀ s) :
    Keeps a₀ (takeRecord s n q d h data) := by
  unfold takeRecord
  repeat' with_reducible first
    | assumption | (intro x; first | (refine (fun (hx : Keeps a₀ x) => ?_) ?_; clear_value x) | clear_value x)
    | lift_lets | subst x | apply keeps_modData | apply keeps_hostQueue | apply keeps_drew | apply keeps_rset
    | apply keeps_modPlank | apply keeps_fileEvent | exact fun _ h => h | split | fail_if_no_progress apply keeps_free

theorem keeps_recordTaken {s : State} {w : HostWork} (h₀ : Keeps a₀ s) :
    Keeps a₀ (recordTaken s w) := by
  unfold recordTaken
  repeat' with_reducible first
    | assumption | (intro x; first | (refine (fun (hx : Keeps a₀ x) => ?_) ?_; clear_value x) | clear_value x)
    | lift_lets | subst x | apply keeps_cancelEnds | apply keeps_hostSignal | apply keeps_countRec
    | apply keeps_streamDone | apply keeps_rset | apply keeps_modPlank | apply keeps_fileEvent | exact fun _ h => h
    | split | fail_if_no_progress apply keeps_free | refine keeps_snd (by assumption) ?_
    | refine keeps_fst (by assumption) ?_

theorem keeps_settleWork {ws : List HostWork} {s : State} (h : Keeps a₀ s) : Keeps a₀ (settleWork ws s) := by
  induction ws generalizing s with
  | nil => exact h
  | cons w ws ih =>
    unfold settleWork
    split
    · exact h
    · exact ih (keeps_recordTaken (keeps_dropWork h))

theorem keeps_settleRecords {s : State} {n : ℕ} (h₀ : Keeps a₀ s) :
    Keeps a₀ (settleRecords s n) := by
  unfold settleRecords
  repeat' with_reducible first
    | assumption | (intro x; first | (refine (fun (hx : Keeps a₀ x) => ?_) ?_; clear_value x) | clear_value x)
    | lift_lets | subst x | apply keeps_settleWork | apply keeps_rset | apply keeps_modPlank | apply keeps_fileEvent
    | exact fun _ h => h | split | fail_if_no_progress apply keeps_free

theorem keeps_qpSend {s : State} {q : ℕ} {m : OutMsg} (h₀ : Keeps a₀ s) :
    Keeps a₀ (qpSend s q m) := by
  unfold qpSend
  repeat' with_reducible first
    | assumption | (intro x; first | (refine (fun (hx : Keeps a₀ x) => ?_) ?_; clear_value x) | clear_value x)
    | lift_lets | subst x | apply keeps_portTx | apply keeps_rset | apply keeps_modPlank | apply keeps_fileEvent
    | exact fun _ h => h | split | fail_if_no_progress apply keeps_free | refine keeps_snd (by assumption) ?_
    | refine keeps_fst (by assumption) ?_

theorem keeps_qpReceive {s : State} {q : ℕ} {x : EthIn} {n : ℕ} (h₀ : Keeps a₀ s) :
    Keeps a₀ (qpReceive s q x n) := by
  unfold qpReceive
  repeat' with_reducible first
    | assumption | (intro x; first | (refine (fun (hx : Keeps a₀ x) => ?_) ?_; clear_value x) | clear_value x)
    | lift_lets | subst x | apply keeps_portRx | apply keeps_tick | apply keeps_qpSend | apply keeps_setQp
    | apply keeps_radd | apply keeps_rset | apply keeps_modPlank | apply keeps_fileEvent | exact fun _ h => h | split
    | fail_if_no_progress apply keeps_free | refine keeps_snd (by assumption) ?_ | refine keeps_fst (by assumption) ?_

theorem keeps_qpAck {s : State} {q : ℕ} {len : ℕ} (h₀ : Keeps a₀ s) :
    Keeps a₀ (qpAck s q len) := by
  unfold qpAck
  repeat' with_reducible first
    | assumption | (intro x; first | (refine (fun (hx : Keeps a₀ x) => ?_) ?_; clear_value x) | clear_value x)
    | lift_lets | subst x | apply keeps_qpSend | apply keeps_setQp | apply keeps_rset | apply keeps_modPlank
    | apply keeps_fileEvent | exact fun _ h => h | split | fail_if_no_progress apply keeps_free

theorem keeps_ingestFails {s : State} {q : ℕ} {n : ℕ} {len : ℕ} (h₀ : Keeps a₀ s) :
    Keeps a₀ (ingestFails s q n len) := by
  unfold ingestFails
  repeat' with_reducible first
    | assumption | (intro x; first | (refine (fun (hx : Keeps a₀ x) => ?_) ?_; clear_value x) | clear_value x)
    | lift_lets | subst x | apply keeps_rsat | apply keeps_qpAck | apply keeps_failStream | apply keeps_idleData
    | apply keeps_fileEvent | apply keeps_rset | apply keeps_modPlank | exact fun _ h => h | split
    | fail_if_no_progress apply keeps_free

theorem keeps_recordArrives {s : State} {q : QpId} {message : List Byte} (h₀ : Keeps a₀ s) :
    Keeps a₀ (recordArrives s q message) := by
  unfold recordArrives
  repeat' with_reducible first
    | assumption | (intro x; first | (refine (fun (hx : Keeps a₀ x) => ?_) ?_; clear_value x) | clear_value x)
    | lift_lets | subst x | apply keeps_ingestFails | apply keeps_qpAck | apply keeps_rsat | apply keeps_qpSend
    | apply keeps_takeRecord | apply keeps_rset | apply keeps_modPlank | apply keeps_fileEvent | exact fun _ h => h
    | split | fail_if_no_progress apply keeps_free | refine keeps_snd (by assumption) ?_
    | refine keeps_fst (by assumption) ?_

theorem keeps_execIngestRecord {s : State} {q : QpId} {x : EthIn} {send : Bool} {message : List Byte} (h₀ : Keeps a₀ s) {t₀ : State}
    (e : execIngestRecord q x send message s = .next t₀) : Keeps a₀ t₀ := by
  unfold execIngestRecord at e
  injection e with e
  subst e
  repeat' with_reducible first
    | assumption | (intro x; first | (refine (fun (hx : Keeps a₀ x) => ?_) ?_; clear_value x) | clear_value x)
    | lift_lets | subst x | apply keeps_qpReceive | apply keeps_recordArrives | apply keeps_qpSend | apply keeps_rset
    | apply keeps_modPlank | apply keeps_fileEvent | exact fun _ h => h | split | fail_if_no_progress apply keeps_free

theorem keeps_sendRecord {s : State} {n : ℕ} (h₀ : Keeps a₀ s) :
    Keeps a₀ (sendRecord s n) := by
  unfold sendRecord
  repeat' with_reducible first
    | assumption | (intro x; first | (refine (fun (hx : Keeps a₀ x) => ?_) ?_; clear_value x) | clear_value x)
    | lift_lets | subst x | apply keeps_qpSend | apply keeps_rset | apply keeps_modPlank | apply keeps_fileEvent
    | exact fun _ h => h | split | fail_if_no_progress apply keeps_free | refine keeps_snd (by assumption) ?_
    | refine keeps_fst (by assumption) ?_

theorem keeps_hostPart {s : State} {num : ℕ} {place : ℕ} {l : Option Line} (h₀ : Keeps a₀ s) :
    Keeps a₀ (hostPart s num place l) := by
  unfold hostPart
  repeat' with_reducible first
    | assumption | (intro x; first | (refine (fun (hx : Keeps a₀ x) => ?_) ?_; clear_value x) | clear_value x)
    | lift_lets | subst x | apply keeps_settleRecords | apply keeps_sendRecord | apply keeps_evlog | apply keeps_rset
    | apply keeps_modPlank | apply keeps_fileEvent | exact fun _ h => h | split | fail_if_no_progress apply keeps_free
    | refine keeps_snd (by assumption) ?_ | refine keeps_fst (by assumption) ?_

theorem keeps_execEgressRecordWrite {s : State} {stream : StreamId} (h₀ : Keeps a₀ s) {t₀ : State}
    (e : execEgressRecordWrite stream s = .next t₀) : Keeps a₀ t₀ := by
  unfold execEgressRecordWrite at e
  injection e with e
  subst e
  repeat' with_reducible first
    | assumption | (intro x; first | (refine (fun (hx : Keeps a₀ x) => ?_) ?_; clear_value x) | clear_value x)
    | lift_lets | subst x | apply keeps_sendRecord | apply keeps_modData | apply keeps_hostQueue | apply keeps_rset
    | apply keeps_modPlank | apply keeps_fileEvent | exact fun _ h => h | split | fail_if_no_progress apply keeps_free
    | refine keeps_snd (by assumption) ?_ | refine keeps_fst (by assumption) ?_

theorem keeps_sendRead {s : State} {d : DataStream} (h₀ : Keeps a₀ s) :
    Keeps a₀ (sendRead s d) := by
  unfold sendRead
  repeat' with_reducible first
    | assumption | (intro x; first | (refine (fun (hx : Keeps a₀ x) => ?_) ?_; clear_value x) | clear_value x)
    | lift_lets | subst x | apply keeps_qpSend | apply keeps_rset | apply keeps_modPlank | apply keeps_fileEvent
    | exact fun _ h => h | split | fail_if_no_progress apply keeps_free

theorem keeps_execLoadReadIssue {s : State} {stream : StreamId} (h₀ : Keeps a₀ s) {t₀ : State}
    (e : execLoadReadIssue stream s = .next t₀) : Keeps a₀ t₀ := by
  unfold execLoadReadIssue at e
  injection e with e
  subst e
  repeat' with_reducible first
    | assumption | (intro x; first | (refine (fun (hx : Keeps a₀ x) => ?_) ?_; clear_value x) | clear_value x)
    | lift_lets | subst x | apply keeps_modData | apply keeps_sendRead | apply keeps_rset | apply keeps_modPlank
    | apply keeps_fileEvent | exact fun _ h => h | split | fail_if_no_progress apply keeps_free
    | refine keeps_snd (by assumption) ?_ | refine keeps_fst (by assumption) ?_

theorem keeps_dropRead {s : State} {n : ℕ} (h₀ : Keeps a₀ s) :
    Keeps a₀ (dropRead s n) := by
  unfold dropRead
  repeat' with_reducible first
    | assumption | (intro x; first | (refine (fun (hx : Keeps a₀ x) => ?_) ?_; clear_value x) | clear_value x)
    | lift_lets | subst x | apply keeps_modData | apply keeps_idleData | apply keeps_rset | apply keeps_modPlank
    | apply keeps_fileEvent | exact fun _ h => h | split | fail_if_no_progress apply keeps_free

theorem keeps_loadArrives {s : State} {n : ℕ} {d : DataStream} {record : List Byte} (h₀ : Keeps a₀ s) :
    Keeps a₀ (loadArrives s n d record) := by
  unfold loadArrives
  repeat' with_reducible first
    | assumption | (intro x; first | (refine (fun (hx : Keeps a₀ x) => ?_) ?_; clear_value x) | clear_value x)
    | lift_lets | subst x | apply keeps_setQp | apply keeps_dropRead | apply keeps_cancelEnds | apply keeps_failStream
    | apply keeps_takeRecord | apply keeps_rset | apply keeps_modPlank | apply keeps_fileEvent | exact fun _ h => h
    | split | fail_if_no_progress apply keeps_free | refine keeps_snd (by assumption) ?_
    | refine keeps_fst (by assumption) ?_

theorem keeps_execLoadRecord {s : State} {stream : StreamId} {x : EthIn} {record : List Byte} (h₀ : Keeps a₀ s) {t₀ : State}
    (e : execLoadRecord stream x record s = .next t₀) : Keeps a₀ t₀ := by
  unfold execLoadRecord at e
  injection e with e
  subst e
  repeat' with_reducible first
    | assumption | (intro x; first | (refine (fun (hx : Keeps a₀ x) => ?_) ?_; clear_value x) | clear_value x)
    | lift_lets | subst x | apply keeps_qpReceive | apply keeps_loadArrives | apply keeps_rset | apply keeps_modPlank
    | apply keeps_fileEvent | exact fun _ h => h | split | fail_if_no_progress apply keeps_free
    | refine keeps_snd (by assumption) ?_ | refine keeps_fst (by assumption) ?_

theorem keeps_execCreditRecord {s : State} {q : QpId} {x : EthIn} {message : List Byte} (h₀ : Keeps a₀ s) {t₀ : State}
    (e : execCreditRecord q x message s = .next t₀) : Keeps a₀ t₀ := by
  unfold execCreditRecord at e
  injection e with e
  subst e
  repeat' with_reducible first
    | assumption | (intro x; first | (refine (fun (hx : Keeps a₀ x) => ?_) ?_; clear_value x) | clear_value x)
    | lift_lets | subst x | apply keeps_qpReceive | apply keeps_qpAck | apply keeps_setData | apply keeps_rset
    | apply keeps_modPlank | apply keeps_fileEvent | exact fun _ h => h | split | fail_if_no_progress apply keeps_free
    | refine keeps_snd (by assumption) ?_ | refine keeps_fst (by assumption) ?_

theorem keeps_writeDone {s : State} {n : ℕ} {d : DataStream} (h₀ : Keeps a₀ s) :
    Keeps a₀ (writeDone s n d) := by
  unfold writeDone
  repeat' with_reducible first
    | assumption | (intro x; first | (refine (fun (hx : Keeps a₀ x) => ?_) ?_; clear_value x) | clear_value x)
    | lift_lets | subst x | apply keeps_setData | apply keeps_idleData | apply keeps_countRec | apply keeps_hostSignal
    | apply keeps_cancelEnds | apply keeps_streamDone | apply keeps_rset | apply keeps_modPlank | apply keeps_fileEvent
    | exact fun _ h => h | split | fail_if_no_progress apply keeps_free | refine keeps_snd (by assumption) ?_
    | refine keeps_fst (by assumption) ?_

theorem keeps_resend {s : State} {n : ℕ} {d : DataStream} (h₀ : Keeps a₀ s) :
    Keeps a₀ (resend s n d) := by
  unfold resend
  repeat' with_reducible first
    | assumption | (intro x; first | (refine (fun (hx : Keeps a₀ x) => ?_) ?_; clear_value x) | clear_value x)
    | lift_lets | subst x | apply keeps_sendRead | apply keeps_sendRecord | apply keeps_rset | apply keeps_modPlank
    | apply keeps_fileEvent | exact fun _ h => h | split | fail_if_no_progress apply keeps_free

theorem keeps_qpRetry {s : State} {q : ℕ} {afterRnr : Bool} {ns : List ℕ} (h₀ : Keeps a₀ s) :
    Keeps a₀ (qpRetry s q afterRnr ns) := by
  unfold qpRetry
  repeat' with_reducible first
    | assumption | (intro x; first | (refine (fun (hx : Keeps a₀ x) => ?_) ?_; clear_value x) | clear_value x)
    | lift_lets | subst x | apply keeps_qpError | apply keeps_setQp | apply keeps_resend
    | refine keeps_foldl (fun _ _ _ => ?_) ?_ | apply keeps_rset | apply keeps_modPlank | apply keeps_fileEvent
    | exact fun _ h => h | split | fail_if_no_progress apply keeps_free | refine keeps_snd (by assumption) ?_
    | refine keeps_fst (by assumption) ?_

theorem keeps_ackArrives {s : State} {q : QpId} {n : ℕ} {d : DataStream} {kind : AckKind} (h₀ : Keeps a₀ s) :
    Keeps a₀ (ackArrives s q n d kind) := by
  unfold ackArrives
  repeat' with_reducible first
    | assumption | (intro x; first | (refine (fun (hx : Keeps a₀ x) => ?_) ?_; clear_value x) | clear_value x)
    | lift_lets | subst x | apply keeps_qpRetry | apply keeps_qpError | apply keeps_setQp | apply keeps_writeDone
    | apply keeps_rset | apply keeps_modPlank | apply keeps_fileEvent | exact fun _ h => h | split
    | fail_if_no_progress apply keeps_free | refine keeps_snd (by assumption) ?_ | refine keeps_fst (by assumption) ?_

theorem keeps_execRoceAck {s : State} {q : QpId} {x : EthIn} {stream : StreamId} {kind : AckKind} (h₀ : Keeps a₀ s) {t₀ : State}
    (e : execRoceAck q x stream kind s = .next t₀) : Keeps a₀ t₀ := by
  unfold execRoceAck at e
  injection e with e
  subst e
  repeat' with_reducible first
    | assumption | (intro x; first | (refine (fun (hx : Keeps a₀ x) => ?_) ?_; clear_value x) | clear_value x)
    | lift_lets | subst x | apply keeps_qpReceive | apply keeps_ackArrives | apply keeps_rset | apply keeps_modPlank
    | apply keeps_fileEvent | exact fun _ h => h | split | fail_if_no_progress apply keeps_free
    | refine keeps_snd (by assumption) ?_ | refine keeps_fst (by assumption) ?_

theorem keeps_execRoceAckTimeout {s : State} {q : QpId} (h₀ : Keeps a₀ s) {t₀ : State}
    (e : execRoceAckTimeout q s = .next t₀) : Keeps a₀ t₀ := by
  unfold execRoceAckTimeout at e
  injection e with e
  subst e
  repeat' with_reducible first
    | assumption | (intro x; first | (refine (fun (hx : Keeps a₀ x) => ?_) ?_; clear_value x) | clear_value x)
    | lift_lets | subst x | apply keeps_qpRetry | apply keeps_rset | apply keeps_modPlank | apply keeps_fileEvent
    | exact fun _ h => h | split | fail_if_no_progress apply keeps_free

theorem keeps_execCnpReceive {s : State} {q : QpId} {x : EthIn} (h₀ : Keeps a₀ s) {t₀ : State}
    (e : execCnpReceive q x s = .next t₀) : Keeps a₀ t₀ := by
  unfold execCnpReceive at e
  injection e with e
  subst e
  repeat' with_reducible first
    | assumption | (intro x; first | (refine (fun (hx : Keeps a₀ x) => ?_) ?_; clear_value x) | clear_value x)
    | lift_lets | subst x | apply keeps_qpReceive | apply keeps_setQp | apply keeps_radd | apply keeps_rset
    | apply keeps_modPlank | apply keeps_fileEvent | exact fun _ h => h | split | fail_if_no_progress apply keeps_free

theorem keeps_execRateIncrease {s : State} {q : QpId} (h₀ : Keeps a₀ s) {t₀ : State}
    (e : execRateIncrease q s = .next t₀) : Keeps a₀ t₀ := by
  unfold execRateIncrease at e
  injection e with e
  subst e
  repeat' with_reducible first
    | assumption | (intro x; first | (refine (fun (hx : Keeps a₀ x) => ?_) ?_; clear_value x) | clear_value x)
    | lift_lets | subst x | apply keeps_setQp | apply keeps_rset | apply keeps_modPlank | apply keeps_fileEvent
    | exact fun _ h => h | split | fail_if_no_progress apply keeps_free

end Sys2Proof.Machine
end

