-- ==== Sys2Proof/Laws/KeepsVerbs.lean ====
section
/-! SUPPORT. One lemma per operation and per meaning: it keeps the tables canonical and the queue as it is; here replay, the register window, the base instructions, slots, the nap, updates and the remaining verbs. -/
namespace Sys2Proof.Machine

set_option linter.all false

variable {a₀ : State}

/-! ## VectorStream -/

theorem keeps_runStream {s : State} {p : ℕ} {ops : List ℕ} {ecc : CoreEcc} {extra : State → StreamOp → List (ℕ × ℕ) × List (ℕ × ℕ)} {act : State → StreamOp → State} (hact : ∀ s x1, Keeps a₀ s → Keeps a₀ (act s x1)) (h₀ : Keeps a₀ s) :
    Keeps a₀ (runStream s p ops ecc extra act) := by
  unfold runStream
  repeat' with_reducible first
    | assumption
    | (intro x; first | (refine (fun (hx : Keeps a₀ x) => ?_) ?_; clear_value x) | (refine (fun (hx : Keeps a₀ x.2) => ?_) ?_; clear_value x) | (refine (fun (hx : Keeps a₀ x.1) => ?_) ?_; clear_value x) | clear_value x)
    | lift_lets | subst x | refine keeps_onPort3 (fun _ _ _ => ?_) ?_ | refine keeps_streamGuard (fun _ _ => ?_) ?_
    | apply hextra | apply hact | apply keeps_rset | apply keeps_modPlank | apply keeps_fileEvent | exact fun _ h => h
    | split | fail_if_no_progress apply keeps_free

theorem keeps_cvtStreamOp {s : State} {p : ℕ} {o : StreamOp} (h₀ : Keeps a₀ s) :
    Keeps a₀ (cvtStreamOp s p o) := by
  unfold cvtStreamOp
  repeat' with_reducible first
    | assumption | (intro x; first | (refine (fun (hx : Keeps a₀ x) => ?_) ?_; clear_value x) | clear_value x)
    | lift_lets | subst x | apply keeps_streamConvert | apply keeps_laneCycles | apply keeps_noteInvalid
    | apply keeps_rset | apply keeps_modPlank | apply keeps_fileEvent | exact fun _ h => h | split
    | fail_if_no_progress apply keeps_free

theorem keeps_execCvtStream {s : State} {p : PlankId} {ecc : CoreEcc} (h₀ : Keeps a₀ s) {t₀ : State}
    (e : execCvtStream p ecc s = .next t₀) : Keeps a₀ t₀ := by
  unfold execCvtStream at e
  injection e with e
  subst e
  repeat' with_reducible first
    | assumption | (intro x; first | (refine (fun (hx : Keeps a₀ x) => ?_) ?_; clear_value x) | clear_value x)
    | lift_lets | subst x | refine keeps_runStream (fun _ _ _ => ?_) ?_ | apply keeps_cvtStreamOp | apply keeps_rset
    | apply keeps_modPlank | apply keeps_fileEvent | exact fun _ h => h | split | fail_if_no_progress apply keeps_free

theorem keeps_cvtRbOp {s : State} {p : ℕ} {o : StreamOp} (h₀ : Keeps a₀ s) :
    Keeps a₀ (cvtRbOp s p o) := by
  unfold cvtRbOp
  repeat' with_reducible first
    | assumption | (intro x; first | (refine (fun (hx : Keeps a₀ x) => ?_) ?_; clear_value x) | clear_value x)
    | lift_lets | subst x | apply keeps_laneCycles | apply keeps_noteInvalid | apply keeps_streamConvert
    | apply keeps_rset | apply keeps_modPlank | apply keeps_fileEvent | exact fun _ h => h | split
    | fail_if_no_progress apply keeps_free

theorem keeps_execCvtRb {s : State} {p : PlankId} {ecc : CoreEcc} (h₀ : Keeps a₀ s) {t₀ : State}
    (e : execCvtRb p ecc s = .next t₀) : Keeps a₀ t₀ := by
  unfold execCvtRb at e
  injection e with e
  subst e
  repeat' with_reducible first
    | assumption | (intro x; first | (refine (fun (hx : Keeps a₀ x) => ?_) ?_; clear_value x) | clear_value x)
    | lift_lets | subst x | refine keeps_runStream (fun _ _ _ => ?_) ?_ | apply keeps_cvtRbOp | apply keeps_rset
    | apply keeps_modPlank | apply keeps_fileEvent | exact fun _ h => h | split | fail_if_no_progress apply keeps_free

theorem keeps_setTensorE {s : State} {p : ℕ} {tid : ℕ} {e : ℤ} (h₀ : Keeps a₀ s) :
    Keeps a₀ (setTensorE s p tid e) := by
  unfold setTensorE
  repeat' with_reducible first
    | assumption | (intro x; first | (refine (fun (hx : Keeps a₀ x) => ?_) ?_; clear_value x) | clear_value x)
    | lift_lets | subst x | apply keeps_hbmStoreRec | apply keeps_rset | apply keeps_modPlank | apply keeps_fileEvent
    | exact fun _ h => h | split | fail_if_no_progress apply keeps_free

theorem keeps_mxImport {s : State} {p : ℕ} {o : StreamOp} (h₀ : Keeps a₀ s) :
    Keeps a₀ (mxImport s p o) := by
  unfold mxImport
  repeat' with_reducible first
    | assumption
    | (intro x; first | (refine (fun (hx : Keeps a₀ x) => ?_) ?_; clear_value x) | (refine (fun (hx : Keeps a₀ x.2) => ?_) ?_; clear_value x) | (refine (fun (hx : Keeps a₀ x.1) => ?_) ?_; clear_value x) | clear_value x)
    | lift_lets | subst x | apply keeps_drew | apply keeps_setTensorE | apply keeps_laneCycles
    | apply keeps_noteInvalid | apply keeps_addStats | apply keeps_store | refine keeps_foldl (fun _ _ _ => ?_) ?_
    | refine keeps_foldl_fst (fun _ _ _ => ?_) ?_ | refine keeps_foldl_snd (fun _ _ _ => ?_) ?_ | apply keeps_rset
    | apply keeps_modPlank | apply keeps_fileEvent | exact fun _ h => h | split | fail_if_no_progress apply keeps_free

theorem keeps_execCvtM {s : State} {p : PlankId} {ecc : CoreEcc} (h₀ : Keeps a₀ s) {t₀ : State}
    (e : execCvtM p ecc s = .next t₀) : Keeps a₀ t₀ := by
  unfold execCvtM at e
  injection e with e
  subst e
  repeat' with_reducible first
    | assumption | (intro x; first | (refine (fun (hx : Keeps a₀ x) => ?_) ?_; clear_value x) | clear_value x)
    | lift_lets | subst x | refine keeps_runStream (fun _ _ _ => ?_) ?_ | apply keeps_mxImport | apply keeps_rset
    | apply keeps_modPlank | apply keeps_fileEvent | exact fun _ h => h | split | fail_if_no_progress apply keeps_free

theorem keeps_mxExport {s : State} {p : ℕ} {o : StreamOp} (h₀ : Keeps a₀ s) :
    Keeps a₀ (mxExport s p o) := by
  unfold mxExport
  repeat' with_reducible first
    | assumption
    | (intro x; first | (refine (fun (hx : Keeps a₀ x) => ?_) ?_; clear_value x) | (refine (fun (hx : Keeps a₀ x.2) => ?_) ?_; clear_value x) | (refine (fun (hx : Keeps a₀ x.1) => ?_) ?_; clear_value x) | clear_value x)
    | lift_lets | subst x | apply keeps_laneCycles | apply keeps_noteInvalid | apply keeps_addStats | apply keeps_store
    | refine keeps_foldl (fun _ _ _ => ?_) ?_ | refine keeps_foldl_fst (fun _ _ _ => ?_) ?_
    | refine keeps_foldl_snd (fun _ _ _ => ?_) ?_ | apply keeps_rset | apply keeps_modPlank | apply keeps_fileEvent
    | exact fun _ h => h | split | fail_if_no_progress apply keeps_free

theorem keeps_execCvtMxExport {s : State} {p : PlankId} {ecc : CoreEcc} (h₀ : Keeps a₀ s) {t₀ : State}
    (e : execCvtMxExport p ecc s = .next t₀) : Keeps a₀ t₀ := by
  unfold execCvtMxExport at e
  injection e with e
  subst e
  repeat' with_reducible first
    | assumption | (intro x; first | (refine (fun (hx : Keeps a₀ x) => ?_) ?_; clear_value x) | clear_value x)
    | lift_lets | subst x | refine keeps_runStream (fun _ _ _ => ?_) ?_ | apply keeps_mxExport | apply keeps_rset
    | apply keeps_modPlank | apply keeps_fileEvent | exact fun _ h => h | split | fail_if_no_progress apply keeps_free

theorem keeps_amaxTile {s : State} {p : ℕ} {o : StreamOp} (h₀ : Keeps a₀ s) :
    Keeps a₀ (amaxTile s p o) := by
  unfold amaxTile
  repeat' with_reducible first
    | assumption | (intro x; first | (refine (fun (hx : Keeps a₀ x) => ?_) ?_; clear_value x) | clear_value x)
    | lift_lets | subst x | apply keeps_laneCycles | apply keeps_noteInvalid | apply keeps_store
    | refine keeps_foldl (fun _ _ _ => ?_) ?_ | apply keeps_rset | apply keeps_modPlank | apply keeps_fileEvent
    | exact fun _ h => h | split | fail_if_no_progress apply keeps_free

theorem keeps_execAmaxTile {s : State} {p : PlankId} {ecc : CoreEcc} (h₀ : Keeps a₀ s) {t₀ : State}
    (e : execAmaxTile p ecc s = .next t₀) : Keeps a₀ t₀ := by
  unfold execAmaxTile at e
  injection e with e
  subst e
  repeat' with_reducible first
    | assumption | (intro x; first | (refine (fun (hx : Keeps a₀ x) => ?_) ?_; clear_value x) | clear_value x)
    | lift_lets | subst x | refine keeps_runStream (fun _ _ _ => ?_) ?_ | apply keeps_amaxTile | apply keeps_rset
    | apply keeps_modPlank | apply keeps_fileEvent | exact fun _ h => h | split | fail_if_no_progress apply keeps_free

theorem keeps_statFold {s : State} {p : ℕ} {o : StreamOp} (h₀ : Keeps a₀ s) :
    Keeps a₀ (statFold s p o) := by
  unfold statFold
  repeat' with_reducible first
    | assumption | (intro x; first | (refine (fun (hx : Keeps a₀ x) => ?_) ?_; clear_value x) | clear_value x)
    | lift_lets | subst x | apply keeps_storeRec | apply keeps_noteInvalid | apply keeps_laneCycles
    | refine keeps_foldl (fun _ _ _ => ?_) ?_ | apply keeps_rset | apply keeps_modPlank | apply keeps_fileEvent
    | exact fun _ h => h | split | fail_if_no_progress apply keeps_free

theorem keeps_execStatFold {s : State} {p : PlankId} {ecc : CoreEcc} (h₀ : Keeps a₀ s) {t₀ : State}
    (e : execStatFold p ecc s = .next t₀) : Keeps a₀ t₀ := by
  unfold execStatFold at e
  injection e with e
  subst e
  repeat' with_reducible first
    | assumption | (intro x; first | (refine (fun (hx : Keeps a₀ x) => ?_) ?_; clear_value x) | clear_value x)
    | lift_lets | subst x | refine keeps_runStream (fun _ _ _ => ?_) ?_ | apply keeps_statFold | apply keeps_rset
    | apply keeps_modPlank | apply keeps_fileEvent | exact fun _ h => h | split | fail_if_no_progress apply keeps_free

theorem keeps_cardStream {s : State} {p : ℕ} {o : StreamOp} {uncard : Bool} (h₀ : Keeps a₀ s) :
    Keeps a₀ (cardStream s p o uncard) := by
  unfold cardStream
  repeat' with_reducible first
    | assumption
    | (intro x; first | (refine (fun (hx : Keeps a₀ x) => ?_) ?_; clear_value x) | (refine (fun (hx : Keeps a₀ x.2) => ?_) ?_; clear_value x) | (refine (fun (hx : Keeps a₀ x.1) => ?_) ?_; clear_value x) | clear_value x)
    | lift_lets | subst x | apply keeps_laneCycles | apply keeps_noteInvalid | apply keeps_store | apply keeps_rset
    | apply keeps_modPlank | apply keeps_fileEvent | exact fun _ h => h | split | fail_if_no_progress apply keeps_free

theorem keeps_execCard {s : State} {p : PlankId} {ecc : CoreEcc} (h₀ : Keeps a₀ s) {t₀ : State}
    (e : execCard p ecc s = .next t₀) : Keeps a₀ t₀ := by
  unfold execCard at e
  injection e with e
  subst e
  repeat' with_reducible first
    | assumption | (intro x; first | (refine (fun (hx : Keeps a₀ x) => ?_) ?_; clear_value x) | clear_value x)
    | lift_lets | subst x | refine keeps_runStream (fun _ _ _ => ?_) ?_ | apply keeps_cardStream | apply keeps_rset
    | apply keeps_modPlank | apply keeps_fileEvent | exact fun _ h => h | split | fail_if_no_progress apply keeps_free

theorem keeps_execUncard {s : State} {p : PlankId} {ecc : CoreEcc} (h₀ : Keeps a₀ s) {t₀ : State}
    (e : execUncard p ecc s = .next t₀) : Keeps a₀ t₀ := by
  unfold execUncard at e
  injection e with e
  subst e
  repeat' with_reducible first
    | assumption | (intro x; first | (refine (fun (hx : Keeps a₀ x) => ?_) ?_; clear_value x) | clear_value x)
    | lift_lets | subst x | refine keeps_runStream (fun _ _ _ => ?_) ?_ | apply keeps_cardStream | apply keeps_rset
    | apply keeps_modPlank | apply keeps_fileEvent | exact fun _ h => h | split | fail_if_no_progress apply keeps_free

theorem keeps_corrSum {s : State} {p : ℕ} {o : StreamOp} (h₀ : Keeps a₀ s) :
    Keeps a₀ (corrSum s p o) := by
  unfold corrSum
  repeat' with_reducible first
    | assumption | (intro x; first | (refine (fun (hx : Keeps a₀ x) => ?_) ?_; clear_value x) | clear_value x)
    | lift_lets | subst x | apply keeps_laneCycles | apply keeps_noteInvalid | apply keeps_store | apply keeps_rset
    | apply keeps_modPlank | apply keeps_fileEvent | exact fun _ h => h | split | fail_if_no_progress apply keeps_free

theorem keeps_execCorrSum {s : State} {p : PlankId} {ecc : CoreEcc} (h₀ : Keeps a₀ s) {t₀ : State}
    (e : execCorrSum p ecc s = .next t₀) : Keeps a₀ t₀ := by
  unfold execCorrSum at e
  injection e with e
  subst e
  repeat' with_reducible first
    | assumption | (intro x; first | (refine (fun (hx : Keeps a₀ x) => ?_) ?_; clear_value x) | clear_value x)
    | lift_lets | subst x | refine keeps_runStream (fun _ _ _ => ?_) ?_ | apply keeps_corrSum | apply keeps_rset
    | apply keeps_modPlank | apply keeps_fileEvent | exact fun _ h => h | split | fail_if_no_progress apply keeps_free

theorem keeps_countSuspect {s : State} {p : ℕ} {tag : ℕ} {tid : ℕ} (h₀ : Keeps a₀ s) :
    Keeps a₀ (countSuspect s p tag tid) := by
  unfold countSuspect
  repeat' with_reducible first
    | assumption | (intro x; first | (refine (fun (hx : Keeps a₀ x) => ?_) ?_; clear_value x) | clear_value x)
    | lift_lets | subst x | apply keeps_filePlank | apply keeps_modJob | apply keeps_modPlank | apply keeps_rset
    | apply keeps_fileEvent | exact fun _ h => h | split | fail_if_no_progress apply keeps_free
    | refine keeps_snd (by assumption) ?_ | refine keeps_fst (by assumption) ?_

theorem keeps_chkRecord {s : State} {p : ℕ} {d : BitVec 256} {bad : List ℕ} (h₀ : Keeps a₀ s) :
    Keeps a₀ (chkRecord s p d bad) := by
  unfold chkRecord
  repeat' with_reducible first
    | assumption | (intro x; first | (refine (fun (hx : Keeps a₀ x) => ?_) ?_; clear_value x) | clear_value x)
    | lift_lets | subst x | apply keeps_rsat | apply keeps_excRecord | apply keeps_rset | apply keeps_modPlank
    | apply keeps_fileEvent | exact fun _ h => h | split | fail_if_no_progress apply keeps_free

theorem keeps_chkCompare {s : State} {p : ℕ} {o : StreamOp} (h₀ : Keeps a₀ s) :
    Keeps a₀ (chkCompare s p o) := by
  unfold chkCompare
  repeat' with_reducible first
    | assumption | (intro x; first | (refine (fun (hx : Keeps a₀ x) => ?_) ?_; clear_value x) | clear_value x)
    | lift_lets | subst x | apply keeps_laneCycles | apply keeps_chkRecord | apply keeps_countSuspect
    | apply keeps_rset | apply keeps_modPlank | apply keeps_fileEvent | exact fun _ h => h | split
    | fail_if_no_progress apply keeps_free

theorem keeps_execChkCmp {s : State} {p : PlankId} {ecc : CoreEcc} (h₀ : Keeps a₀ s) {t₀ : State}
    (e : execChkCmp p ecc s = .next t₀) : Keeps a₀ t₀ := by
  unfold execChkCmp at e
  injection e with e
  subst e
  repeat' with_reducible first
    | assumption | (intro x; first | (refine (fun (hx : Keeps a₀ x) => ?_) ?_; clear_value x) | clear_value x)
    | lift_lets | subst x | refine keeps_runStream (fun _ _ _ => ?_) ?_ | apply keeps_chkCompare | apply keeps_rset
    | apply keeps_modPlank | apply keeps_fileEvent | exact fun _ h => h | split | fail_if_no_progress apply keeps_free

theorem keeps_updNonfin {s : State} {p : ℕ} {tid : ℕ} {n : ℕ} (h₀ : Keeps a₀ s) :
    Keeps a₀ (updNonfin s p tid n) := by
  unfold updNonfin
  repeat' with_reducible first
    | assumption | (intro x; first | (refine (fun (hx : Keeps a₀ x) => ?_) ?_; clear_value x) | clear_value x)
    | lift_lets | subst x | apply keeps_hbmStoreRec | apply keeps_modJob | apply keeps_evlog | apply keeps_rset
    | apply keeps_modPlank | apply keeps_fileEvent | exact fun _ h => h | split | fail_if_no_progress apply keeps_free
    | refine keeps_snd (by assumption) ?_ | refine keeps_fst (by assumption) ?_

theorem keeps_setMaskBit {s : State} {p : ℕ} {byteOff : ℕ} {bitNo : ℕ} (h₀ : Keeps a₀ s) :
    Keeps a₀ (setMaskBit s p byteOff bitNo) := by
  unfold setMaskBit
  repeat' with_reducible first
    | assumption | (intro x; first | (refine (fun (hx : Keeps a₀ x) => ?_) ?_; clear_value x) | clear_value x)
    | lift_lets | subst x | apply keeps_enqueue | apply keeps_rset | apply keeps_modPlank | apply keeps_fileEvent
    | exact fun _ h => h | split | fail_if_no_progress apply keeps_free

theorem keeps_adamBlock {s : State} {p : ℕ} {o : StreamOp} (h₀ : Keeps a₀ s) :
    Keeps a₀ (adamBlock s p o) := by
  unfold adamBlock
  repeat' with_reducible first
    | assumption
    | (intro x; first | (refine (fun (hx : Keeps a₀ x) => ?_) ?_; clear_value x) | (refine (fun (hx : Keeps a₀ x.2) => ?_) ?_; clear_value x) | (refine (fun (hx : Keeps a₀ x.1) => ?_) ?_; clear_value x) | clear_value x)
    | lift_lets | subst x | apply keeps_storeRec | apply keeps_updNonfin | apply keeps_noteInvalid
    | apply keeps_laneCycles | apply keeps_vecTrap | apply keeps_ownTrapFlag | apply keeps_violation
    | apply keeps_setMaskBit | apply keeps_store | apply keeps_rset | apply keeps_modPlank | apply keeps_fileEvent
    | exact fun _ h => h | split | fail_if_no_progress apply keeps_free | refine keeps_snd (by assumption) ?_
    | refine keeps_fst (by assumption) ?_

theorem keeps_execOptAdamw {s : State} {p : PlankId} {ecc : CoreEcc} (h₀ : Keeps a₀ s) {t₀ : State}
    (e : execOptAdamw p ecc s = .next t₀) : Keeps a₀ t₀ := by
  unfold execOptAdamw at e
  injection e with e
  subst e
  repeat' with_reducible first
    | assumption | (intro x; first | (refine (fun (hx : Keeps a₀ x) => ?_) ?_; clear_value x) | clear_value x)
    | lift_lets | subst x | refine keeps_runStream (fun _ _ _ => ?_) ?_ | apply keeps_adamBlock | apply keeps_rset
    | apply keeps_modPlank | apply keeps_fileEvent | exact fun _ h => h | split | fail_if_no_progress apply keeps_free

/-! ## Replay -/

theorem keeps_copyLines {s : State} {src : ℕ} {dst : ℕ} {n : ℕ} (h₀ : Keeps a₀ s) :
    Keeps a₀ (copyLines s src dst n) := by
  unfold copyLines
  repeat' with_reducible first
    | assumption | (intro x; first | (refine (fun (hx : Keeps a₀ x) => ?_) ?_; clear_value x) | clear_value x)
    | lift_lets | subst x | apply keeps_hbmNote | apply keeps_store | apply keeps_addPoison
    | refine keeps_foldl (fun _ _ _ => ?_) ?_ | apply keeps_rset | apply keeps_modPlank | apply keeps_fileEvent
    | exact fun _ h => h | split | fail_if_no_progress apply keeps_free

theorem keeps_loadRegions {s : State} {cap : ℕ} {r : ℕ} (h₀ : Keeps a₀ s) :
    Keeps a₀ (loadRegions s cap r) := by
  unfold loadRegions
  repeat' with_reducible first
    | assumption | (intro x; first | (refine (fun (hx : Keeps a₀ x) => ?_) ?_; clear_value x) | clear_value x)
    | lift_lets | subst x | apply keeps_copyLines | refine keeps_foldl (fun _ _ _ => ?_) ?_ | apply keeps_rset
    | apply keeps_modPlank | apply keeps_fileEvent | exact fun _ h => h | split | fail_if_no_progress apply keeps_free

theorem keeps_loadImages {s : State} {orig : ℕ} {r : ℕ} {ds : List (BitVec 256)} (h₀ : Keeps a₀ s) :
    Keeps a₀ (loadImages s orig r ds) := by
  unfold loadImages
  repeat' with_reducible first
    | assumption | (intro x; first | (refine (fun (hx : Keeps a₀ x) => ?_) ?_; clear_value x) | clear_value x)
    | lift_lets | subst x | apply keeps_rset | apply keeps_modPlank | apply keeps_evlog
    | refine keeps_foldl (fun _ _ _ => ?_) ?_ | apply keeps_fileEvent | exact fun _ h => h | split
    | fail_if_no_progress apply keeps_free

theorem keeps_replayPass {s : State} {r : Nat} {d : BitVec 256} (h : Keeps a₀ s) :
    KeepsOpt a₀ (replayPass s r d).1 ∧ Keeps a₀ (replayPass s r d).2 := by
  have hx : Keeps a₀ (issueDesc s r d 0 none .clean).2 := keeps_issueDesc h
  have hq : ∀ q, Keeps a₀ (endPass (enterPass ((issueDesc s r d 0 none .clean).2.modPlank r (fun k => { k with
      run := some q
      wait := none })) r q) r q) := fun q => keeps_endPass (keeps_enterPass (keeps_modPlank hx))
  have hj : ∀ (js : List SegJob) t, Keeps a₀ t →
      Keeps a₀ ((js.foldl (fun s j => runSeg s r j) t).modPlank r (fun k => { k with segs := [] })) :=
    fun js t ht => keeps_modPlank (keeps_foldl (fun _ _ hs => keeps_runSeg hs) ht)
  have hd : ∀ n t, Keeps a₀ t → Keeps a₀ (finishDrain (setAccState t r n AccSt.draining) r n .clean) :=
    fun _ _ ht => keeps_finishDrain (keeps_setAccState ht)
  have pair : ∀ {t : State}, Keeps a₀ t → KeepsOpt a₀ (some t) ∧ Keeps a₀ t := fun ht => ⟨keepsOpt_some ht, ht⟩
  unfold replayPass
  dsimp only
  split
  · exact ⟨keepsOpt_none, hx⟩
  · split
    · exact ⟨keepsOpt_none, hx⟩
    · split
      · exact ⟨keepsOpt_none, hq _⟩
      · split
        · exact pair (hj _ _ (hq _))
        · split
          · exact ⟨keepsOpt_none, hd _ _ (hj _ _ (hq _))⟩
          · exact pair (hd _ _ (hj _ _ (hq _)))

theorem keeps_replayPasses {r : Nat} {ds : List (BitVec 256)} {s : State} (h : Keeps a₀ s) :
    Keeps a₀ (replayPasses r ds s).2 := by
  induction ds generalizing s with
  | nil => exact h
  | cons d ds ih =>
    have hp := keeps_replayPass (r := r) (d := d) h
    unfold replayPasses
    split
    · rename_i t x e; rw [e] at hp; exact ih (hp.1 t rfl)
    · rename_i t e; rw [e] at hp; exact hp.2

theorem keeps_restored {s0 s : State} (h₀ : Keeps a₀ s0) (h : Keeps a₀ s) :
    Keeps a₀ { s with jobs := s0.jobs, streams := s0.streams, objs := s0.objs } :=
  ⟨fun w => let v := h₀.wf w; let w := h.wf w; { w with streams := v.streams, objs := v.objs }, h.queue⟩

theorem keeps_replayOn {s0 : State} {cap orig r : Nat} (h₀ : Keeps a₀ s0) : Keeps a₀ (replayOn s0 cap orig r).2 := by
  unfold replayOn
  extract_lets h ds last k0 stream s1 s2 s3 s4 s5 outs steps size out0 chk0 x sel s6 note chk1 live bad outcome s7 s8 s9 s10
  have h1 : Keeps a₀ s1 := keeps_modPlank h₀
  have h2 : Keeps a₀ s2 := by
    clear_value stream
    cases stream with
    | none => exact h1
    | some n => exact keeps_strmSet h1
  have h5 : Keeps a₀ s5 := keeps_loadImages (keeps_freeAcc (keeps_freeAcc (keeps_loadRegions (keeps_rset (keeps_rset h2)))))
  have hx : Keeps a₀ x.2 := keeps_replayPasses h5
  have h6 : Keeps a₀ s6 := keeps_ite (keeps_chkFinish hx) hx
  have h7 : Keeps a₀ s7 := keeps_laneCycles (keeps_ite (keeps_chkRecord h6) h6)
  exact keeps_restored h₀ (keeps_refreshPlank (keeps_modPlank (keeps_setWord (keeps_setWord (keeps_freeAcc (keeps_freeAcc h7))))))

theorem keeps_closeMismatch {s : State} {p : ℕ} (h₀ : Keeps a₀ s) :
    Keeps a₀ (closeMismatch s p) := by
  unfold closeMismatch
  repeat' with_reducible first
    | assumption | (intro x; first | (refine (fun (hx : Keeps a₀ x) => ?_) ?_; clear_value x) | clear_value x)
    | lift_lets | subst x | apply keeps_rset | apply keeps_modPlank | apply keeps_fileEvent | exact fun _ h => h
    | split | fail_if_no_progress apply keeps_free | refine keeps_snd (by assumption) ?_
    | refine keeps_fst (by assumption) ?_

theorem keeps_replayCapsule {s : State} {cap : Nat} (h : Keeps a₀ s) : Keeps a₀ (replayCapsule s cap).2.2 := by
  unfold replayCapsule
  dsimp only
  split
  · exact h
  · exact keeps_replayOn h

theorem keeps_replayBlame {s : State} {cap : ℕ} {e : ReplayEnd} {r : Option ℕ} (h₀ : Keeps a₀ s) :
    Keeps a₀ (replayBlame s cap e r) := by
  unfold replayBlame
  repeat' with_reducible first
    | assumption
    | (intro x; first | (refine (fun (hx : Keeps a₀ x) => ?_) ?_; clear_value x) | (refine (fun (hx : Keeps a₀ x.2) => ?_) ?_; clear_value x) | (refine (fun (hx : Keeps a₀ x.1) => ?_) ?_; clear_value x) | clear_value x)
    | lift_lets | subst x | apply keeps_closeMismatch | apply keeps_chargeSoon | apply keeps_peatRecord
    | apply keeps_rset | apply keeps_modPlank | apply keeps_fileEvent | exact fun _ h => h | split
    | fail_if_no_progress apply keeps_free | refine keeps_snd (by assumption) ?_ | refine keeps_fst (by assumption) ?_

theorem keeps_suspectOnce {s : State} {j : Job} {slot : Nat} (h : Keeps a₀ s) : Keeps a₀ (suspectOnce s j slot) := by
  unfold suspectOnce
  exact keeps_modJob (keeps_replayBlame (keeps_replayCapsule h))

theorem keeps_execSuspectReplay {s : State} {job : BitVec 16} {slot : Nat} (h : Keeps a₀ s) {t₀ : State}
    (e : execSuspectReplay job slot s = .next t₀) : Keeps a₀ t₀ := by
  unfold execSuspectReplay at e
  injection e with e
  subst e
  split
  · exact h
  · split
    · exact h
    · exact keeps_suspectOnce h

theorem keeps_secondRound {s : State} {j : Job} {c : CheckRec} {others : List FlagPart} (h₀ : Keeps a₀ s) :
    Keeps a₀ (secondRound s j c others) := by
  unfold secondRound
  repeat' with_reducible first
    | assumption
    | (intro x; first | (refine (fun (hx : Keeps a₀ x) => ?_) ?_; clear_value x) | (refine (fun (hx : Keeps a₀ x.2) => ?_) ?_; clear_value x) | (refine (fun (hx : Keeps a₀ x.1) => ?_) ?_; clear_value x) | clear_value x)
    | lift_lets | subst x | apply keeps_setStep | apply keeps_actVerdict | apply keeps_rset | apply keeps_modPlank
    | apply keeps_fileEvent | exact fun _ h => h | split | fail_if_no_progress apply keeps_free

theorem keeps_execSecondRoundReduction {s : State} {job : BitVec 16} {others : List FlagPart} (h₀ : Keeps a₀ s) {t₀ : State}
    (e : execSecondRoundReduction job others s = .next t₀) : Keeps a₀ t₀ := by
  unfold execSecondRoundReduction at e
  injection e with e
  subst e
  repeat' with_reducible first
    | assumption | (intro x; first | (refine (fun (hx : Keeps a₀ x) => ?_) ?_; clear_value x) | clear_value x)
    | lift_lets | subst x | apply keeps_secondRound | apply keeps_rset | apply keeps_modPlank | apply keeps_fileEvent
    | exact fun _ h => h | split | fail_if_no_progress apply keeps_free | refine keeps_snd (by assumption) ?_
    | refine keeps_fst (by assumption) ?_

/-! ## Window -/

theorem keeps_plainWrite {s : State} {off : ℕ} {v : Word64} (h₀ : Keeps a₀ s) :
    Keeps a₀ (plainWrite s off v) := by
  unfold plainWrite
  repeat' with_reducible first
    | assumption | (intro x; first | (refine (fun (hx : Keeps a₀ x) => ?_) ?_; clear_value x) | clear_value x)
    | lift_lets | subst x | apply keeps_setWord | apply keeps_rset | apply keeps_modPlank | apply keeps_fileEvent
    | exact fun _ h => h | split | fail_if_no_progress apply keeps_free | refine keeps_snd (by assumption) ?_
    | refine keeps_fst (by assumption) ?_

theorem keeps_plankWrite {s : State} {p : ℕ} {o : ℕ} {v : Word64} (h₀ : Keeps a₀ s) :
    Keeps a₀ (plankWrite s p o v) := by
  unfold plankWrite
  repeat' with_reducible first
    | assumption | (intro x; first | (refine (fun (hx : Keeps a₀ x) => ?_) ?_; clear_value x) | clear_value x)
    | lift_lets | subst x | apply keeps_suspendArray | apply keeps_suspendCore | apply keeps_faultAck
    | apply keeps_discardSpill | apply keeps_resetCore | apply keeps_discardCtxOp | apply keeps_coreStartOp
    | apply keeps_rset | apply keeps_restorePlank | apply keeps_unmaskPlank | apply keeps_armSlices
    | apply keeps_plainWrite | apply keeps_modPlank | apply keeps_fileEvent | exact fun _ h => h | split
    | fail_if_no_progress apply keeps_free

theorem keeps_stackWrite {s : State} {m : ℕ} {o : ℕ} {v : Word64} (h₀ : Keeps a₀ s) :
    Keeps a₀ (stackWrite s m o v) := by
  unfold stackWrite
  repeat' with_reducible first
    | assumption | (intro x; first | (refine (fun (hx : Keeps a₀ x) => ?_) ?_; clear_value x) | clear_value x)
    | lift_lets | subst x | apply keeps_plainWrite | apply keeps_retrainAll | apply keeps_rset | apply keeps_modPlank
    | apply keeps_fileEvent | exact fun _ h => h | split | fail_if_no_progress apply keeps_free

theorem keeps_linkWrite {s : State} {l : ℕ} {o : ℕ} {off : ℕ} {v : Word64} (h₀ : Keeps a₀ s) :
    Keeps a₀ (linkWrite s l o off v) := by
  unfold linkWrite
  repeat' with_reducible first
    | assumption | (intro x; first | (refine (fun (hx : Keeps a₀ x) => ?_) ?_; clear_value x) | clear_value x)
    | lift_lets | subst x | apply keeps_rset | apply keeps_linkTestOp | apply keeps_linkDisableOp
    | apply keeps_linkRetrainOp | apply keeps_setFabricLane | apply keeps_plainWrite | apply keeps_setWord
    | apply keeps_modPlank | apply keeps_fileEvent | exact fun _ h => h | split | fail_if_no_progress apply keeps_free

theorem keeps_barWrite {s : State} {b : ℕ} {v : Word64} (h₀ : Keeps a₀ s) :
    Keeps a₀ (barWrite s b v) := by
  unfold barWrite
  repeat' with_reducible first
    | assumption | (intro x; first | (refine (fun (hx : Keeps a₀ x) => ?_) ?_; clear_value x) | clear_value x)
    | lift_lets | subst x | apply keeps_plainWrite | apply keeps_syncWork | apply keeps_setWord | apply keeps_rset
    | apply keeps_modPlank | apply keeps_fileEvent | exact fun _ h => h | split | fail_if_no_progress apply keeps_free

theorem keeps_objCmdWrite {s : State} {w : Writer} {o : ℕ} {i : ℕ} {v : Word64} {insn : ℕ} (h₀ : Keeps a₀ s) :
    Keeps a₀ (objCmdWrite s w o i v insn).1 := by
  unfold objCmdWrite
  repeat' with_reducible first
    | assumption | (intro x; first | (refine (fun (hx : Keeps a₀ x) => ?_) ?_; clear_value x) | clear_value x)
    | lift_lets | subst x | apply keeps_objCommand | apply keeps_coreTrap | apply keeps_setLatch | apply keeps_rset
    | apply keeps_modPlank | apply keeps_fileEvent | exact fun _ h => h | split | fail_if_no_progress apply keeps_free
    | exact keepsOpt_none | apply keepsOpt_some | refine keepsOpt_of ?_ (by assumption) | apply keeps_getD
    | refine keeps_snd (by assumption) ?_ | refine keeps_fst (by assumption) ?_

theorem keeps_writeEffect {s : State} {w : Writer} {off : ℕ} {v : Word64} {insn : ℕ} (h₀ : Keeps a₀ s) :
    Keeps a₀ (writeEffect s w off v insn).1 := by
  unfold writeEffect
  repeat' with_reducible first
    | assumption | (intro x; first | (refine (fun (hx : Keeps a₀ x) => ?_) ?_; clear_value x) | clear_value x)
    | lift_lets | subst x | apply keeps_objCmdWrite | apply keeps_psMapWrite | apply keeps_plankWrite
    | apply keeps_stackWrite | apply keeps_linkWrite | apply keeps_powerCapOp | apply keeps_thrComputeOp
    | apply keeps_barWrite | apply keeps_plainWrite | apply keeps_rset | apply keeps_modPlank | apply keeps_fileEvent
    | exact fun _ h => h | split | fail_if_no_progress apply keeps_free | refine keeps_snd (by assumption) ?_
    | refine keeps_fst (by assumption) ?_

theorem keeps_writeWord {s : State} {w : Writer} {off : ℕ} {v : Word64} {insn : ℕ} (h₀ : Keeps a₀ s) :
    Keeps a₀ (writeWord s w off v insn).1 := by
  unfold writeWord
  repeat' with_reducible first
    | assumption | (intro x; first | (refine (fun (hx : Keeps a₀ x) => ?_) ?_; clear_value x) | clear_value x)
    | lift_lets | subst x | apply keeps_winErr | apply keeps_writeEffect | apply keeps_rset | apply keeps_modPlank
    | apply keeps_fileEvent | exact fun _ h => h | split | fail_if_no_progress apply keeps_free

theorem keeps_badStore {s : State} {w : Writer} {a : ℕ} (h₀ : Keeps a₀ s) :
    Keeps a₀ (badStore s w a) := by
  unfold badStore
  repeat' with_reducible first
    | assumption | (intro x; first | (refine (fun (hx : Keeps a₀ x) => ?_) ?_; clear_value x) | clear_value x)
    | lift_lets | subst x | apply keeps_winErr | apply keeps_coreTrap | apply keeps_drew | apply keeps_rset
    | apply keeps_modPlank | apply keeps_fileEvent | exact fun _ h => h | split | fail_if_no_progress apply keeps_free
    | refine keeps_snd (by assumption) ?_ | refine keeps_fst (by assumption) ?_

theorem keeps_execRegisterWrite {s : State} {w : Writer} {off : BitVec 64} {v : Word64} (h₀ : Keeps a₀ s) {t₀ : State}
    (e : execRegisterWrite w off v s = .next t₀) : Keeps a₀ t₀ := by
  unfold execRegisterWrite at e
  injection e with e
  subst e
  repeat' with_reducible first
    | assumption
    | (intro x; first | (refine (fun (hx : Keeps a₀ x) => ?_) ?_; clear_value x) | (refine (fun (hx : Keeps a₀ x.2) => ?_) ?_; clear_value x) | (refine (fun (hx : Keeps a₀ x.1) => ?_) ?_; clear_value x) | clear_value x)
    | lift_lets | subst x | apply keeps_badStore | apply keeps_writeWord | apply keeps_drew | apply keeps_rset
    | apply keeps_modPlank | apply keeps_fileEvent | exact fun _ h => h | split | fail_if_no_progress apply keeps_free

theorem keeps_execPeek {s : State} {rq : Req} {off : BitVec 64} {len : BitVec 32} (h₀ : Keeps a₀ s) {t₀ : State}
    (e : execPeek rq off len s = .next t₀) : Keeps a₀ t₀ := by
  unfold execPeek at e
  injection e with e
  subst e
  repeat' with_reducible first
    | assumption | (intro x; first | (refine (fun (hx : Keeps a₀ x) => ?_) ?_; clear_value x) | clear_value x)
    | lift_lets | subst x | refine keeps_answerVerb (fun _ _ => ?_) ?_ | apply keeps_rset | apply keeps_modPlank
    | apply keeps_fileEvent | exact fun _ h => h | split | fail_if_no_progress apply keeps_free

theorem keeps_pokeWords {w : Writer} {insn : Nat} {vs : List Word64} {off i : Nat} {x : State × Option Nat}
    (h : Keeps a₀ x.1) : Keeps a₀ (pokeWords w insn vs off i x).1 := by
  induction vs generalizing off i x with
  | nil => exact h
  | cons v vs ih => exact ih (keeps_writeWord h)

theorem keeps_execPoke {s : State} {rq : Req} {off : BitVec 64} {data : List Byte} (h₀ : Keeps a₀ s) {t₀ : State}
    (e : execPoke rq off data s = .next t₀) : Keeps a₀ t₀ := by
  unfold execPoke at e
  injection e with e
  subst e
  repeat' with_reducible first
    | assumption
    | (intro x; first | (refine (fun (hx : Keeps a₀ x) => ?_) ?_; clear_value x) | (refine (fun (hx : Keeps a₀ x.2) => ?_) ?_; clear_value x) | (refine (fun (hx : Keeps a₀ x.1) => ?_) ?_; clear_value x) | clear_value x)
    | lift_lets | subst x | refine keeps_answerVerb (fun _ _ => ?_) ?_ | apply keeps_pokeWords | apply keeps_drew
    | apply keeps_rset | apply keeps_modPlank | apply keeps_fileEvent | exact fun _ h => h | split
    | fail_if_no_progress apply keeps_free | refine keeps_snd (by assumption) ?_ | refine keeps_fst (by assumption) ?_

/-! ## Riscv -/

theorem keeps_coreLoad {s : State} {p : ℕ} {n : ℕ} {addr : ℕ} {ecc : CoreEcc} (h₀ : Keeps a₀ s) :
    Keeps a₀ (coreLoad s p n addr ecc).1 := by
  unfold coreLoad
  repeat' with_reducible first
    | assumption | (intro x; first | (refine (fun (hx : Keeps a₀ x) => ?_) ?_; clear_value x) | clear_value x)
    | lift_lets | subst x | apply keeps_bankRefused | apply keeps_eccCounts | apply keeps_rset | apply keeps_modPlank
    | apply keeps_fileEvent | exact fun _ h => h | split | fail_if_no_progress apply keeps_free
    | refine keeps_snd (by assumption) ?_ | refine keeps_fst (by assumption) ?_

theorem keeps_csrWrite {s : State} {p : ℕ} {c : ℕ} {v : Word64} (h₀ : Keeps a₀ s) :
    Keeps a₀ (csrWrite s p c v) := by
  unfold csrWrite
  repeat' with_reducible first
    | assumption | (intro x; first | (refine (fun (hx : Keeps a₀ x) => ?_) ?_; clear_value x) | clear_value x)
    | lift_lets | subst x | apply keeps_setCsr | apply keeps_rset | apply keeps_modPlank | apply keeps_fileEvent
    | exact fun _ h => h | split | fail_if_no_progress apply keeps_free

/-- What a core instruction comes to, with its state kept. -/
def CoreKeeps (a : State) : CoreNext → Prop
  | .goes s _ => Keeps a s
  | .traps s _ _ _ => Keeps a s
  | .stays s => Keeps a s

theorem coreKeeps_getD {x : Option CoreNext} {y : CoreNext} (h : ∀ z, x = some z → CoreKeeps a₀ z) (hy : CoreKeeps a₀ y) :
    CoreKeeps a₀ (x.getD y) := by
  cases x with
  | none => exact hy
  | some z => exact h z rfl

theorem coreKeeps_window {s : State} {p : PlankId} {addr : Nat} {v : Word64} {insn pc : Nat} (h : Keeps a₀ s) :
    CoreKeeps a₀ (coreWindowStore s p addr v insn pc) := by
  unfold coreWindowStore
  dsimp only
  have := keeps_writeWord (w := .plank p) (off := addr) (v := v) (insn := insn) (keeps_drew h)
  split <;> exact this

theorem coreKeeps_store {s : State} {p : PlankId} {n addr : Nat} {v : Word64} {insn pc : Nat} (h : Keeps a₀ s) :
    CoreKeeps a₀ (coreStore s p n addr v insn pc) := by
  unfold coreStore
  dsimp only
  split
  · exact keeps_winErr h
  split
  · exact h
  · split
    · exact keeps_modPlank h (fun _ h => ⟨h.1, h.2.1, h.2.2.1, kwf_kputs h.2.2.2.1 _ _, h.2.2.2.2⟩)
    · exact keeps_modPlank h (fun _ h => ⟨h.1, h.2.1, h.2.2.1, h.2.2.2.1, kwf_kputs h.2.2.2.2 _ _⟩)
    · exact coreKeeps_window h
    · split
      · exact keeps_bankRefused h
      · exact keeps_store h
    · exact h

theorem coreKeeps_system {s : State} {p w pc next : Nat} (h : Keeps a₀ s) {z : CoreNext}
    (e : coreSystem s p w pc next = some z) : CoreKeeps a₀ z := by
  unfold coreSystem at e
  split at e
  · cases e; exact h
  split at e
  · cases e; exact h
  split at e
  · cases e; exact keeps_setCsr h
  split at e
  · cases e; exact h
  split at e
  · cases e
  unfold coreCsr at e
  dsimp only at e
  split at e
  · cases e
  · split at e
    · cases e
    · cases e
      refine keeps_setX ?_
      repeat' split
      all_goals first | exact h | exact keeps_csrWrite h

theorem coreKeeps_compute {s : State} {p w pc next : Nat} (h : Keeps a₀ s) {z : CoreNext}
    (e : coreCompute s p w pc next = some z) : CoreKeeps a₀ z := by
  unfold coreCompute at e
  dsimp only at e
  split at e
  · cases e; exact keeps_setX h
  · cases e; exact keeps_setX h
  · cases e; exact keeps_setX h
  · split at e
    · cases e; exact keeps_setX h
    · cases e
  · rw [Option.map_eq_some_iff] at e
    obtain ⟨t, -, rfl⟩ := e
    exact h
  · split at e
    · cases e; exact h
    · cases e
  · rw [Option.map_eq_some_iff] at e
    obtain ⟨t, -, rfl⟩ := e
    exact keeps_setX h

theorem coreKeeps_execute {s : State} {p : PlankId} {w pc next insn : Nat} {ecc : CoreEcc} (h : Keeps a₀ s) :
    CoreKeeps a₀ (coreExecute s p w pc next insn ecc) := by
  unfold coreExecute
  dsimp only
  split
  · split
    · exact h
    · have hl : ∀ n addr, Keeps a₀ (coreLoad s p n addr ecc).1 := fun n addr => keeps_coreLoad h
      split
      · rename_i e; exact keeps_fst e (hl _ _)
      · rename_i e; exact keeps_setX (keeps_fst e (hl _ _))
  · split
    · exact h
    · exact coreKeeps_store h
  · exact coreKeeps_getD (fun _ e => coreKeeps_system h e) h
  · exact coreKeeps_getD (fun _ e => coreKeeps_compute h e) h

theorem coreKeeps_fetch {s : State} {p : PlankId} {ecc : CoreEcc} (h : Keeps a₀ s) : CoreKeeps a₀ (coreFetch s p ecc).1 := by
  unfold coreFetch
  dsimp only
  split
  · exact h
  split
  · exact h
  split
  · exact h
  split
  · split
    · exact h
    · exact coreKeeps_execute h
  split
  · exact h
  split
  · dsimp only
    split <;> exact h
  · exact coreKeeps_execute h

theorem keeps_execCoreBaseInstruction {s : State} {p : PlankId} {ecc : CoreEcc} (h : Keeps a₀ s) {t₀ : State}
    (e : execCoreBaseInstruction p ecc s = .next t₀) : Keeps a₀ t₀ := by
  unfold execCoreBaseInstruction at e
  injection e with e
  subst e
  split
  · exact h
  · have hf := coreKeeps_fetch (p := p) (ecc := ecc) h
    dsimp only
    split
    all_goals rename_i hr; rw [hr] at hf
    · exact keeps_modPlank (keeps_setCore (keeps_setPc hf))
    · exact keeps_coreTrap hf
    · exact hf

/-! ## Slots -/

theorem keeps_serveWrite {s : State} {m : ℕ} {c : ℕ} {q : HbmReq} (h₀ : Keeps a₀ s) :
    Keeps a₀ (serveWrite s m c q) := by
  unfold serveWrite
  repeat' with_reducible first
    | assumption | (intro x; first | (refine (fun (hx : Keeps a₀ x) => ?_) ?_; clear_value x) | clear_value x)
    | lift_lets | subst x | apply keeps_putLine | apply keeps_storeKeep | apply keeps_setPcState | apply keeps_rset
    | apply keeps_modPlank | apply keeps_fileEvent | exact fun _ h => h | split | fail_if_no_progress apply keeps_free
    | refine keeps_snd (by assumption) ?_ | refine keeps_fst (by assumption) ?_

theorem keeps_serveReq {s : State} {m : ℕ} {c : ℕ} {q : HbmReq} {e : Ecc} (h₀ : Keeps a₀ s) :
    Keeps a₀ (serveReq s m c q e) := by
  unfold serveReq
  repeat' with_reducible first
    | assumption
    | (intro x; first | (refine (fun (hx : Keeps a₀ x) => ?_) ?_; clear_value x) | (refine (fun (hx : Keeps a₀ x.2) => ?_) ?_; clear_value x) | (refine (fun (hx : Keeps a₀ x.1) => ?_) ?_; clear_value x) | clear_value x)
    | lift_lets | subst x | apply keeps_xferDone | apply keeps_serveWrite | apply keeps_servePart
    | apply keeps_hostPart | apply keeps_loadWithdraws | apply keeps_readSector | apply keeps_xferLine
    | apply keeps_rset | apply keeps_modPlank | apply keeps_fileEvent | exact fun _ h => h | split
    | fail_if_no_progress apply keeps_free | refine keeps_snd (by assumption) ?_ | refine keeps_fst (by assumption) ?_

theorem keeps_slotTakes {s : State} {m : ℕ} {c : ℕ} {owner : ℕ} {q : HbmReq} {rest : List HbmReq} {ecc : Ecc} (h₀ : Keeps a₀ s) :
    Keeps a₀ (slotTakes s m c owner q rest ecc) := by
  unfold slotTakes
  repeat' with_reducible first
    | assumption
    | (intro x; first | (refine (fun (hx : Keeps a₀ x) => ?_) ?_; clear_value x) | (refine (fun (hx : Keeps a₀ x.2) => ?_) ?_; clear_value x) | (refine (fun (hx : Keeps a₀ x.1) => ?_) ?_; clear_value x) | clear_value x)
    | lift_lets | subst x | apply keeps_serveReq | apply keeps_evlog | apply keeps_setPcState | apply keeps_rset
    | apply keeps_modPlank | apply keeps_fileEvent | exact fun _ h => h | split | fail_if_no_progress apply keeps_free

theorem keeps_execSlotServe {s : State} {m : StackId} {c : PcId} {ecc : Ecc} (h₀ : Keeps a₀ s) {t₀ : State}
    (e : execSlotServe m c ecc s = .next t₀) : Keeps a₀ t₀ := by
  unfold execSlotServe at e
  injection e with e
  subst e
  repeat' with_reducible first
    | assumption
    | (intro x; first | (refine (fun (hx : Keeps a₀ x) => ?_) ?_; clear_value x) | (refine (fun (hx : Keeps a₀ x.2) => ?_) ?_; clear_value x) | (refine (fun (hx : Keeps a₀ x.1) => ?_) ?_; clear_value x) | clear_value x)
    | lift_lets | subst x | apply keeps_slotTakes | apply keeps_setPcState | apply keeps_rset | apply keeps_modPlank
    | apply keeps_fileEvent | exact fun _ h => h | split | fail_if_no_progress apply keeps_free
    | refine keeps_snd (by assumption) ?_ | refine keeps_fst (by assumption) ?_

/-! ## Nap -/

theorem keeps_napWrite {s : State} {p : ℕ} {b : NapBuf} {chans : List (List F32)} (h₀ : Keeps a₀ s) :
    Keeps a₀ (napWrite s p b chans) := by
  unfold napWrite
  repeat' with_reducible first
    | assumption
    | (intro x; first | (refine (fun (hx : Keeps a₀ x) => ?_) ?_; clear_value x) | (refine (fun (hx : Keeps a₀ x.2) => ?_) ?_; clear_value x) | (refine (fun (hx : Keeps a₀ x.1) => ?_) ?_; clear_value x) | clear_value x)
    | lift_lets | subst x | apply keeps_hbmStore | apply keeps_putChannel | apply keeps_addStats
    | refine keeps_foldl (fun _ _ _ => ?_) ?_ | refine keeps_foldl_fst (fun _ _ _ => ?_) ?_
    | refine keeps_foldl_snd (fun _ _ _ => ?_) ?_ | apply keeps_rset | apply keeps_modPlank | apply keeps_fileEvent
    | exact fun _ h => h | split | fail_if_no_progress apply keeps_free

theorem keeps_napReads {s : State} {j : Job} {n : NapPlan} (h₀ : Keeps a₀ s) :
    Keeps a₀ (napReads s j n) := by
  unfold napReads
  repeat' with_reducible first
    | assumption
    | (intro x; first | (refine (fun (hx : Keeps a₀ x) => ?_) ?_; clear_value x) | (refine (fun (hx : Keeps a₀ x.2) => ?_) ?_; clear_value x) | (refine (fun (hx : Keeps a₀ x.1) => ?_) ?_; clear_value x) | clear_value x)
    | lift_lets | subst x | apply keeps_hbmNote | refine keeps_foldl (fun _ _ _ => ?_) ?_
    | refine keeps_foldl_fst (fun _ _ _ => ?_) ?_ | refine keeps_foldl_snd (fun _ _ _ => ?_) ?_ | apply keeps_rset
    | apply keeps_modPlank | apply keeps_fileEvent | exact fun _ h => h | split | fail_if_no_progress apply keeps_free

theorem keeps_napRefresh {s : State} {id : ℕ} {n : NapPlan} (h₀ : Keeps a₀ s) :
    Keeps a₀ (napRefresh s id n) := by
  unfold napRefresh
  repeat' with_reducible first
    | assumption
    | (intro x; first | (refine (fun (hx : Keeps a₀ x) => ?_) ?_; clear_value x) | (refine (fun (hx : Keeps a₀ x.2) => ?_) ?_; clear_value x) | (refine (fun (hx : Keeps a₀ x.1) => ?_) ?_; clear_value x) | clear_value x)
    | lift_lets | subst x | apply keeps_napReads | apply keeps_napWrite | apply keeps_modJob | apply keeps_rset
    | apply keeps_modPlank | apply keeps_fileEvent | exact fun _ h => h | split | fail_if_no_progress apply keeps_free
    | refine keeps_snd (by assumption) ?_ | refine keeps_fst (by assumption) ?_

/-! ## Update -/

theorem keeps_ladderEvent {s : State} {j : Job} {step : ℕ} {tid : ℕ} (h₀ : Keeps a₀ s) :
    Keeps a₀ (ladderEvent s j step tid) := by
  unfold ladderEvent
  repeat' with_reducible first
    | assumption | (intro x; first | (refine (fun (hx : Keeps a₀ x) => ?_) ?_; clear_value x) | clear_value x)
    | lift_lets | subst x | apply keeps_fileEvent | apply keeps_rset | apply keeps_modPlank | exact fun _ h => h
    | split | fail_if_no_progress apply keeps_free

theorem keeps_copyStaged {s : State} {j : Job} (h₀ : Keeps a₀ s) :
    Keeps a₀ (copyStaged s j) := by
  unfold copyStaged
  repeat' with_reducible first
    | assumption
    | (intro x; first | (refine (fun (hx : Keeps a₀ x) => ?_) ?_; clear_value x) | (refine (fun (hx : Keeps a₀ x.2) => ?_) ?_; clear_value x) | (refine (fun (hx : Keeps a₀ x.1) => ?_) ?_; clear_value x) | clear_value x)
    | lift_lets | subst x | apply keeps_hbmStore | apply keeps_hbmNote | apply keeps_addPoison
    | refine keeps_foldl (fun _ _ _ => ?_) ?_ | refine keeps_foldl_fst (fun _ _ _ => ?_) ?_
    | refine keeps_foldl_snd (fun _ _ _ => ?_) ?_ | apply keeps_rset | apply keeps_modPlank | apply keeps_fileEvent
    | exact fun _ h => h | split | fail_if_no_progress apply keeps_free

theorem keeps_releaseNaps {s : State} {id : ℕ} (h₀ : Keeps a₀ s) :
    Keeps a₀ (releaseNaps s id) := by
  unfold releaseNaps
  repeat' with_reducible first
    | assumption
    | (intro x; first | (refine (fun (hx : Keeps a₀ x) => ?_) ?_; clear_value x) | (refine (fun (hx : Keeps a₀ x.2) => ?_) ?_; clear_value x) | (refine (fun (hx : Keeps a₀ x.1) => ?_) ?_; clear_value x) | clear_value x)
    | lift_lets | subst x | apply keeps_modJob | apply keeps_rset | apply keeps_modPlank | apply keeps_fileEvent
    | exact fun _ h => h | split | fail_if_no_progress apply keeps_free | refine keeps_snd (by assumption) ?_
    | refine keeps_fst (by assumption) ?_

theorem keeps_stageU1 {s : State} {j : Job} {refetched : List Sys2Proof.Region} (h₀ : Keeps a₀ s) :
    Keeps a₀ (stageU1 s j refetched) := by
  unfold stageU1
  repeat' with_reducible first
    | assumption
    | (intro x; first | (refine (fun (hx : Keeps a₀ x) => ?_) ?_; clear_value x) | (refine (fun (hx : Keeps a₀ x.2) => ?_) ?_; clear_value x) | (refine (fun (hx : Keeps a₀ x.1) => ?_) ?_; clear_value x) | clear_value x)
    | lift_lets | subst x | apply keeps_copyStaged | apply keeps_hbmStore | apply keeps_peatRecord
    | apply keeps_releaseNaps | apply keeps_ladderEvent | apply keeps_setStep | refine keeps_foldl (fun _ _ _ => ?_) ?_
    | refine keeps_foldl_fst (fun _ _ _ => ?_) ?_ | refine keeps_foldl_snd (fun _ _ _ => ?_) ?_ | apply keeps_rset
    | apply keeps_modPlank | apply keeps_fileEvent | exact fun _ h => h | split | fail_if_no_progress apply keeps_free

theorem keeps_execUpdateStageU1 {s : State} {job : BitVec 16} {refetched : List Sys2Proof.Region} (h₀ : Keeps a₀ s) {t₀ : State}
    (e : execUpdateStageU1 job refetched s = .next t₀) : Keeps a₀ t₀ := by
  unfold execUpdateStageU1 at e
  injection e with e
  subst e
  repeat' with_reducible first
    | assumption | (intro x; first | (refine (fun (hx : Keeps a₀ x) => ?_) ?_; clear_value x) | clear_value x)
    | lift_lets | subst x | apply keeps_stageU1 | apply keeps_rset | apply keeps_modPlank | apply keeps_fileEvent
    | exact fun _ h => h | split | fail_if_no_progress apply keeps_free | refine keeps_snd (by assumption) ?_
    | refine keeps_fst (by assumption) ?_

theorem keeps_nonfinEvent {s : State} {j : Job} {e : ℕ × ℕ} (h₀ : Keeps a₀ s) :
    Keeps a₀ (nonfinEvent s j e) := by
  unfold nonfinEvent
  repeat' with_reducible first
    | assumption
    | (intro x; first | (refine (fun (hx : Keeps a₀ x) => ?_) ?_; clear_value x) | (refine (fun (hx : Keeps a₀ x.2) => ?_) ?_; clear_value x) | (refine (fun (hx : Keeps a₀ x.1) => ?_) ?_; clear_value x) | clear_value x)
    | lift_lets | subst x | apply keeps_fileEvent | apply keeps_rset | apply keeps_modPlank | exact fun _ h => h
    | split | fail_if_no_progress apply keeps_free

theorem keeps_stageU2 {s : State} {j : Job} (h₀ : Keeps a₀ s) :
    Keeps a₀ (stageU2 s j) := by
  unfold stageU2
  repeat' with_reducible first
    | assumption | (intro x; first | (refine (fun (hx : Keeps a₀ x) => ?_) ?_; clear_value x) | clear_value x)
    | lift_lets | subst x | apply keeps_setStep | apply keeps_nonfinEvent | apply keeps_maskPlank
    | apply keeps_formNext | refine keeps_foldl (fun _ _ _ => ?_) ?_ | apply keeps_rset | apply keeps_modPlank
    | apply keeps_fileEvent | exact fun _ h => h | split | fail_if_no_progress apply keeps_free

theorem keeps_execUpdateStageU2 {s : State} {job : BitVec 16} (h₀ : Keeps a₀ s) {t₀ : State}
    (e : execUpdateStageU2 job s = .next t₀) : Keeps a₀ t₀ := by
  unfold execUpdateStageU2 at e
  injection e with e
  subst e
  repeat' with_reducible first
    | assumption | (intro x; first | (refine (fun (hx : Keeps a₀ x) => ?_) ?_; clear_value x) | clear_value x)
    | lift_lets | subst x | apply keeps_stageU2 | apply keeps_rset | apply keeps_modPlank | apply keeps_fileEvent
    | exact fun _ h => h | split | fail_if_no_progress apply keeps_free | refine keeps_snd (by assumption) ?_
    | refine keeps_fst (by assumption) ?_

theorem keeps_endStep {s : State} {id : ℕ} {stage : ℕ} (h₀ : Keeps a₀ s) :
    Keeps a₀ (endStep s id stage) := by
  unfold endStep
  repeat' with_reducible first
    | assumption | (intro x; first | (refine (fun (hx : Keeps a₀ x) => ?_) ?_; clear_value x) | clear_value x)
    | lift_lets | subst x | apply keeps_setStep | apply keeps_energyEnd | apply keeps_modJob | apply keeps_cancelNow
    | apply keeps_boundarySuspends | refine keeps_foldl (fun _ _ _ => ?_) ?_ | apply keeps_rset | apply keeps_modPlank
    | apply keeps_fileEvent | exact fun _ h => h | split | fail_if_no_progress apply keeps_free
    | refine keeps_snd (by assumption) ?_ | refine keeps_fst (by assumption) ?_

theorem keeps_execUpdateStageU3 {s : State} {job : BitVec 16} (h₀ : Keeps a₀ s) {t₀ : State}
    (e : execUpdateStageU3 job s = .next t₀) : Keeps a₀ t₀ := by
  unfold execUpdateStageU3 at e
  injection e with e
  subst e
  repeat' with_reducible first
    | assumption | (intro x; first | (refine (fun (hx : Keeps a₀ x) => ?_) ?_; clear_value x) | clear_value x)
    | lift_lets | subst x | apply keeps_setStep | apply keeps_endStep | apply keeps_rset | apply keeps_modPlank
    | apply keeps_fileEvent | exact fun _ h => h | split | fail_if_no_progress apply keeps_free
    | refine keeps_snd (by assumption) ?_ | refine keeps_fst (by assumption) ?_

theorem keeps_stageU4 {s : State} {j : Job} {plans : List NapPlan} (h₀ : Keeps a₀ s) :
    Keeps a₀ (stageU4 s j plans) := by
  unfold stageU4
  repeat' with_reducible first
    | assumption | (intro x; first | (refine (fun (hx : Keeps a₀ x) => ?_) ?_; clear_value x) | clear_value x)
    | lift_lets | subst x | apply keeps_setStep | apply keeps_napRefresh | refine keeps_foldl (fun _ _ _ => ?_) ?_
    | apply keeps_rset | apply keeps_modPlank | apply keeps_fileEvent | exact fun _ h => h | split
    | fail_if_no_progress apply keeps_free

theorem keeps_execUpdateStageU4 {s : State} {job : BitVec 16} {plans : List NapPlan} (h₀ : Keeps a₀ s) {t₀ : State}
    (e : execUpdateStageU4 job plans s = .next t₀) : Keeps a₀ t₀ := by
  unfold execUpdateStageU4 at e
  injection e with e
  subst e
  repeat' with_reducible first
    | assumption | (intro x; first | (refine (fun (hx : Keeps a₀ x) => ?_) ?_; clear_value x) | clear_value x)
    | lift_lets | subst x | apply keeps_stageU4 | apply keeps_rset | apply keeps_modPlank | apply keeps_fileEvent
    | exact fun _ h => h | split | fail_if_no_progress apply keeps_free | refine keeps_snd (by assumption) ?_
    | refine keeps_fst (by assumption) ?_

theorem keeps_telemWrite {s : State} {j : Job} {t : TelemPart} (h₀ : Keeps a₀ s) :
    Keeps a₀ (telemWrite s j t) := by
  unfold telemWrite
  repeat' with_reducible first
    | assumption | (intro x; first | (refine (fun (hx : Keeps a₀ x) => ?_) ?_; clear_value x) | clear_value x)
    | lift_lets | subst x | apply keeps_hbmStoreRec | apply keeps_hbmNote | refine keeps_foldl (fun _ _ _ => ?_) ?_
    | apply keeps_rset | apply keeps_modPlank | apply keeps_fileEvent | exact fun _ h => h | split
    | fail_if_no_progress apply keeps_free

theorem keeps_stageU5 {s : State} {j : Job} {tids : List TelemPart} (h₀ : Keeps a₀ s) :
    Keeps a₀ (stageU5 s j tids) := by
  unfold stageU5
  repeat' with_reducible first
    | assumption | (intro x; first | (refine (fun (hx : Keeps a₀ x) => ?_) ?_; clear_value x) | clear_value x)
    | lift_lets | subst x | apply keeps_endStep | apply keeps_telemWrite | refine keeps_foldl (fun _ _ _ => ?_) ?_
    | apply keeps_rset | apply keeps_modPlank | apply keeps_fileEvent | exact fun _ h => h | split
    | fail_if_no_progress apply keeps_free

theorem keeps_execUpdateStageU5 {s : State} {job : BitVec 16} {tids : List TelemPart} (h₀ : Keeps a₀ s) {t₀ : State}
    (e : execUpdateStageU5 job tids s = .next t₀) : Keeps a₀ t₀ := by
  unfold execUpdateStageU5 at e
  injection e with e
  subst e
  repeat' with_reducible first
    | assumption | (intro x; first | (refine (fun (hx : Keeps a₀ x) => ?_) ?_; clear_value x) | clear_value x)
    | lift_lets | subst x | apply keeps_stageU5 | apply keeps_rset | apply keeps_modPlank | apply keeps_fileEvent
    | exact fun _ h => h | split | fail_if_no_progress apply keeps_free | refine keeps_snd (by assumption) ?_
    | refine keeps_fst (by assumption) ?_

theorem keeps_evalOneLadder {s : State} {j : Job} {n : ℕ} {batch : ℕ} {tid : ℕ} {c : StatRec} (h₀ : Keeps a₀ s) :
    Keeps a₀ (evalOneLadder s j n batch tid c) := by
  unfold evalOneLadder
  repeat' with_reducible first
    | assumption | (intro x; first | (refine (fun (hx : Keeps a₀ x) => ?_) ?_; clear_value x) | clear_value x)
    | lift_lets | subst x | apply keeps_setLadder | apply keeps_fileEvent | apply keeps_strmSet
    | apply keeps_ladderEvent | apply keeps_rset | apply keeps_modPlank | exact fun _ h => h | split
    | fail_if_no_progress apply keeps_free

theorem keeps_replayEvent {s : State} {n : ℕ} {batch : ℕ} {tag : ℕ} {outcome : ℕ} {orig : ℕ} {r : Option ℕ} (h₀ : Keeps a₀ s) :
    Keeps a₀ (replayEvent s n batch tag outcome orig r) := by
  unfold replayEvent
  repeat' with_reducible first
    | assumption | (intro x; first | (refine (fun (hx : Keeps a₀ x) => ?_) ?_; clear_value x) | clear_value x)
    | lift_lets | subst x | apply keeps_fileEvent | apply keeps_strmSet | apply keeps_rset | apply keeps_modPlank
    | exact fun _ h => h | split | fail_if_no_progress apply keeps_free

theorem keeps_evalCapsule {s : State} {j : Job} {n slot : Nat} (h : Keeps a₀ s) : Keeps a₀ (evalCapsule s j n slot) := by
  unfold evalCapsule
  extract_lets cap hd orig batch tag x s1 s2 s3
  have h1 : Keeps a₀ s1 := keeps_replayBlame (keeps_replayCapsule h)
  have h2 : Keeps a₀ s2 := by
    unfold s2
    split
    · exact h1
    all_goals exact keeps_replayEvent h1
  exact keeps_hbmStoreRec (keeps_modPlank h2)

theorem keeps_evalNoCapsule {s : State} {n : ℕ} {batch : ℕ} {p : ℕ} (h₀ : Keeps a₀ s) :
    Keeps a₀ (evalNoCapsule s n batch p) := by
  unfold evalNoCapsule
  repeat' with_reducible first
    | assumption | (intro x; first | (refine (fun (hx : Keeps a₀ x) => ?_) ?_; clear_value x) | clear_value x)
    | lift_lets | subst x | apply keeps_replayEvent | apply keeps_closeMismatch | apply keeps_modPlank
    | refine keeps_foldl (fun _ _ _ => ?_) ?_ | apply keeps_rset | apply keeps_fileEvent | exact fun _ h => h | split
    | fail_if_no_progress apply keeps_free | refine keeps_snd (by assumption) ?_ | refine keeps_fst (by assumption) ?_

theorem keeps_evaluate {s : State} {j : Job} {n : ℕ} {others : List MemberPart} (h₀ : Keeps a₀ s) :
    Keeps a₀ (evaluate s j n others) := by
  unfold evaluate
  repeat' with_reducible first
    | assumption
    | (intro x; first | (refine (fun (hx : Keeps a₀ x) => ?_) ?_; clear_value x) | (refine (fun (hx : Keeps a₀ x.2) => ?_) ?_; clear_value x) | (refine (fun (hx : Keeps a₀ x.1) => ?_) ?_; clear_value x) | clear_value x)
    | lift_lets | subst x | apply keeps_writeStatTable | apply keeps_strmSet | apply keeps_fileEvent
    | apply keeps_hbmStore | apply keeps_releaseNaps | apply keeps_evalOneLadder | apply keeps_firstRefs
    | apply keeps_evalCapsule | apply keeps_evalNoCapsule | apply keeps_rset | apply keeps_workErrors
    | apply keeps_closeEntries | apply keeps_radd | apply keeps_energyEnd | apply keeps_energyBegin
    | apply keeps_suspendStreamOp | apply keeps_modPlank | refine keeps_foldl (fun _ _ _ => ?_) ?_
    | refine keeps_foldl_fst (fun _ _ _ => ?_) ?_ | refine keeps_foldl_snd (fun _ _ _ => ?_) ?_ | exact fun _ h => h
    | split | fail_if_no_progress apply keeps_free

theorem keeps_execEvaluationPoint {s : State} {job : BitVec 16} {stream : StreamId} {others : List MemberPart} (h₀ : Keeps a₀ s) {t₀ : State}
    (e : execEvaluationPoint job stream others s = .next t₀) : Keeps a₀ t₀ := by
  unfold execEvaluationPoint at e
  injection e with e
  subst e
  repeat' with_reducible first
    | assumption | (intro x; first | (refine (fun (hx : Keeps a₀ x) => ?_) ?_; clear_value x) | clear_value x)
    | lift_lets | subst x | apply keeps_evaluate | apply keeps_rset | apply keeps_modPlank | apply keeps_fileEvent
    | exact fun _ h => h | split | fail_if_no_progress apply keeps_free | refine keeps_snd (by assumption) ?_
    | refine keeps_fst (by assumption) ?_

/-! ## UpdateVerbs -/

theorem keeps_updateVerb {s : State} {rq : Req} {v : Verb} {act : ℕ → State → Answer × State} (hact : ∀ x0 s, Keeps a₀ s → Keeps a₀ (act x0 s).2) (h₀ : Keeps a₀ s) :
    Keeps a₀ (updateVerb s rq v act) := by
  unfold updateVerb
  repeat' with_reducible first
    | assumption
    | (intro x; first | (refine (fun (hx : Keeps a₀ x) => ?_) ?_; clear_value x) | (refine (fun (hx : Keeps a₀ x.2) => ?_) ?_; clear_value x) | (refine (fun (hx : Keeps a₀ x.1) => ?_) ?_; clear_value x) | clear_value x)
    | lift_lets | subst x | refine keeps_answerVerb (fun _ _ => ?_) ?_ | apply keeps_noteRefusal | apply hact
    | apply keeps_rset | apply keeps_modPlank | apply keeps_fileEvent | exact fun _ h => h | split
    | fail_if_no_progress apply keeps_free

theorem keeps_showSlot {s : State} {slot : ℕ} {cls : ℕ} {seq : ℕ} (h₀ : Keeps a₀ s) :
    Keeps a₀ (showSlot s slot cls seq) := by
  unfold showSlot
  repeat' with_reducible first
    | assumption | (intro x; first | (refine (fun (hx : Keeps a₀ x) => ?_) ?_; clear_value x) | clear_value x)
    | lift_lets | subst x | apply keeps_rset | apply keeps_modPlank | apply keeps_fileEvent | exact fun _ h => h
    | split | fail_if_no_progress apply keeps_free

theorem keeps_updateBegin {s : State} {slot : ℕ} {len : ℕ} {session : ℕ} (h₀ : Keeps a₀ s) :
    Keeps a₀ (updateBegin slot len session s).2 := by
  unfold updateBegin
  repeat' with_reducible first
    | assumption | (intro x; first | (refine (fun (hx : Keeps a₀ x) => ?_) ?_; clear_value x) | clear_value x)
    | lift_lets | subst x | apply keeps_flashErase | apply keeps_rset | apply keeps_showSlot | apply keeps_modPlank
    | apply keeps_fileEvent | exact fun _ h => h | split | fail_if_no_progress apply keeps_free

theorem keeps_execUpdateBegin {s : State} {rq : Req} {slot : BitVec 8} {len : BitVec 32} (h₀ : Keeps a₀ s) {t₀ : State}
    (e : execUpdateBegin rq slot len s = .next t₀) : Keeps a₀ t₀ := by
  unfold execUpdateBegin at e
  injection e with e
  subst e
  repeat' with_reducible first
    | assumption | (intro x; first | (refine (fun (hx : Keeps a₀ x) => ?_) ?_; clear_value x) | clear_value x)
    | lift_lets | subst x | refine keeps_updateVerb (fun _ _ _ => ?_) ?_ | apply keeps_updateBegin | apply keeps_rset
    | apply keeps_modPlank | apply keeps_fileEvent | exact fun _ h => h | split | fail_if_no_progress apply keeps_free

theorem keeps_updateChunk {s : State} {off : ℕ} {data : List Byte} {session : ℕ} (h₀ : Keeps a₀ s) :
    Keeps a₀ (updateChunk off data session s).2 := by
  unfold updateChunk
  repeat' with_reducible first
    | assumption | (intro x; first | (refine (fun (hx : Keeps a₀ x) => ?_) ?_; clear_value x) | clear_value x)
    | lift_lets | subst x | apply keeps_flashErase | apply keeps_flashWrite | apply keeps_rset
    | refine keeps_foldl (fun _ _ _ => ?_) ?_ | apply keeps_modPlank | apply keeps_fileEvent | exact fun _ h => h
    | split | fail_if_no_progress apply keeps_free | refine keeps_snd (by assumption) ?_
    | refine keeps_fst (by assumption) ?_

theorem keeps_execUpdateChunk {s : State} {rq : Req} {off : BitVec 32} {data : List Byte} (h₀ : Keeps a₀ s) {t₀ : State}
    (e : execUpdateChunk rq off data s = .next t₀) : Keeps a₀ t₀ := by
  unfold execUpdateChunk at e
  injection e with e
  subst e
  repeat' with_reducible first
    | assumption | (intro x; first | (refine (fun (hx : Keeps a₀ x) => ?_) ?_; clear_value x) | clear_value x)
    | lift_lets | subst x | refine keeps_updateVerb (fun _ _ _ => ?_) ?_ | apply keeps_updateChunk | apply keeps_rset
    | apply keeps_modPlank | apply keeps_fileEvent | exact fun _ h => h | split | fail_if_no_progress apply keeps_free

theorem keeps_updateCommit {s : State} {session : ℕ} (h₀ : Keeps a₀ s) :
    Keeps a₀ (updateCommit session s).2 := by
  unfold updateCommit
  repeat' with_reducible first
    | assumption | (intro x; first | (refine (fun (hx : Keeps a₀ x) => ?_) ?_; clear_value x) | clear_value x)
    | lift_lets | subst x | apply keeps_flashWrite | apply keeps_rset | apply keeps_closeUpdate | apply keeps_loadBank
    | apply keeps_showSlot | apply keeps_modPlank | apply keeps_fileEvent | exact fun _ h => h | split
    | fail_if_no_progress apply keeps_free | refine keeps_snd (by assumption) ?_ | refine keeps_fst (by assumption) ?_

theorem keeps_execUpdateCommit {s : State} {rq : Req} (h₀ : Keeps a₀ s) {t₀ : State}
    (e : execUpdateCommit rq s = .next t₀) : Keeps a₀ t₀ := by
  unfold execUpdateCommit at e
  injection e with e
  subst e
  repeat' with_reducible first
    | assumption | (intro x; first | (refine (fun (hx : Keeps a₀ x) => ?_) ?_; clear_value x) | clear_value x)
    | lift_lets | subst x | refine keeps_updateVerb (fun _ _ _ => ?_) ?_ | apply keeps_updateCommit | apply keeps_rset
    | apply keeps_modPlank | apply keeps_fileEvent | exact fun _ h => h | split | fail_if_no_progress apply keeps_free

theorem keeps_activateMire {s : State} {rq : Req} {mask : ℕ} (h₀ : Keeps a₀ s) :
    Keeps a₀ (activateMire rq mask s).2 := by
  unfold activateMire
  repeat' with_reducible first
    | assumption | (intro x; first | (refine (fun (hx : Keeps a₀ x) => ?_) ?_; clear_value x) | clear_value x)
    | lift_lets | subst x | apply keeps_noteRefusal | apply keeps_leaveReset | apply keeps_allLost
    | apply keeps_respond | apply keeps_rset | apply keeps_modPlank | apply keeps_fileEvent | exact fun _ h => h
    | split | fail_if_no_progress apply keeps_free | refine keeps_snd (by assumption) ?_
    | refine keeps_fst (by assumption) ?_

theorem keeps_activateService {s : State} {rq : Req} {mask : ℕ} (h₀ : Keeps a₀ s) :
    Keeps a₀ (activateService rq mask s).2 := by
  unfold activateService
  repeat' with_reducible first
    | assumption
    | (intro x; first | (refine (fun (hx : Keeps a₀ x) => ?_) ?_; clear_value x) | (refine (fun (hx : Keeps a₀ x.2) => ?_) ?_; clear_value x) | (refine (fun (hx : Keeps a₀ x.1) => ?_) ?_; clear_value x) | clear_value x)
    | lift_lets | subst x | apply keeps_activateFrom | apply keeps_noteRefusal | apply keeps_rset
    | apply keeps_modPlank | apply keeps_fileEvent | exact fun _ h => h | split | fail_if_no_progress apply keeps_free
    | refine keeps_snd (by assumption) ?_ | refine keeps_fst (by assumption) ?_

theorem keeps_execUpdateActivate {s : State} {rq : Req} {mask : BitVec 32} (h₀ : Keeps a₀ s) {t₀ : State}
    (e : execUpdateActivate rq mask s = .next t₀) : Keeps a₀ t₀ := by
  unfold execUpdateActivate at e
  injection e with e
  subst e
  repeat' with_reducible first
    | assumption | (intro x; first | (refine (fun (hx : Keeps a₀ x) => ?_) ?_; clear_value x) | clear_value x)
    | lift_lets | subst x | refine keeps_runVerb (fun _ _ => ?_) ?_ | apply keeps_activateMire
    | apply keeps_noteRefusal | apply keeps_activateService | apply keeps_rset | apply keeps_modPlank
    | apply keeps_fileEvent | exact fun _ h => h | split | fail_if_no_progress apply keeps_free

/-! ## Verbs -/

theorem keeps_streamVerb {s : State} {stream : BitVec 16} {flags : BitVec 8} {job : BitVec 16}
    {act : List Nat → State → Option State} (hact : ∀ ns s, Keeps a₀ s → KeepsOpt a₀ (act ns s)) (h : Keeps a₀ s) :
    Keeps a₀ (streamVerb s stream flags job act).2 := by
  unfold streamVerb
  dsimp only
  split
  · exact h
  · split
    · exact h
    · split
      · exact h
      · rename_i t e
        exact hact _ _ h t e

theorem keeps_execSuspendStream {s : State} {rq : Req} {stream : BitVec 16} {flags : BitVec 8} {job : BitVec 16}
    (h : Keeps a₀ s) {t₀ : State} (e : execSuspendStream rq stream flags job s = .next t₀) : Keeps a₀ t₀ := by
  unfold execSuspendStream at e
  injection e with e
  subst e
  exact keeps_answerVerb (fun _ hs => keeps_streamVerb (fun ns s hs => keepsOpt_some (keeps_foldl (fun _ _ hs => keeps_suspendStreamOp hs) hs)) hs) h

theorem keeps_resumeOne {s : State} {n : ℕ} (h₀ : Keeps a₀ s) :
    Keeps a₀ (resumeOne s n) := by
  unfold resumeOne
  repeat' with_reducible first
    | assumption | (intro x; first | (refine (fun (hx : Keeps a₀ x) => ?_) ?_; clear_value x) | clear_value x)
    | lift_lets | subst x | apply keeps_startStream | apply keeps_strmSet | apply keeps_resumeStreamOp
    | apply keeps_rset | apply keeps_modPlank | apply keeps_fileEvent | exact fun _ h => h | split
    | fail_if_no_progress apply keeps_free

theorem keeps_execResumeStream {s : State} {rq : Req} {stream : BitVec 16} {flags : BitVec 8} {job : BitVec 16}
    (h : Keeps a₀ s) {t₀ : State} (e : execResumeStream rq stream flags job s = .next t₀) : Keeps a₀ t₀ := by
  unfold execResumeStream at e
  injection e with e
  subst e
  exact keeps_answerVerb (fun _ hs => keeps_streamVerb (fun ns s hs => keepsOpt_ite keepsOpt_none (keepsOpt_some (keeps_foldl (fun _ _ hs => keeps_resumeOne hs) hs))) hs) h

theorem keeps_startAbort {s : State} {n : ℕ} (h₀ : Keeps a₀ s) :
    Keeps a₀ (startAbort s n) := by
  unfold startAbort
  repeat' with_reducible first
    | assumption | (intro x; first | (refine (fun (hx : Keeps a₀ x) => ?_) ?_; clear_value x) | clear_value x)
    | lift_lets | subst x | apply keeps_cancelOp | apply keeps_drew | apply keeps_abortHere | apply keeps_sendFlits
    | apply keeps_rset | apply keeps_modPlank | apply keeps_fileEvent | exact fun _ h => h | split
    | fail_if_no_progress apply keeps_free | refine keeps_snd (by assumption) ?_ | refine keeps_fst (by assumption) ?_

theorem keeps_cancelOne {s : State} {n : ℕ} (h₀ : Keeps a₀ s) :
    Keeps a₀ (cancelOne s n) := by
  unfold cancelOne
  repeat' with_reducible first
    | assumption | (intro x; first | (refine (fun (hx : Keeps a₀ x) => ?_) ?_; clear_value x) | clear_value x)
    | lift_lets | subst x | apply keeps_startAbort | apply keeps_cancelOp | apply keeps_rset | apply keeps_modPlank
    | apply keeps_fileEvent | exact fun _ h => h | split | fail_if_no_progress apply keeps_free

theorem keeps_execCancelStream {s : State} {rq : Req} {stream : BitVec 16} {flags : BitVec 8} {job : BitVec 16}
    (h : Keeps a₀ s) {t₀ : State} (e : execCancelStream rq stream flags job s = .next t₀) : Keeps a₀ t₀ := by
  unfold execCancelStream at e
  injection e with e
  subst e
  exact keeps_answerVerb (fun _ hs => keeps_streamVerb (fun ns s hs => keepsOpt_ite keepsOpt_none (keepsOpt_some (keeps_foldl (fun _ _ hs => keeps_cancelOne hs) hs))) hs) h

theorem keeps_execStreamQuiesced {s : State} {stream : StreamId} (h₀ : Keeps a₀ s) {t₀ : State}
    (e : execStreamQuiesced stream s = .next t₀) : Keeps a₀ t₀ := by
  unfold execStreamQuiesced at e
  injection e with e
  subst e
  repeat' with_reducible first
    | assumption | (intro x; first | (refine (fun (hx : Keeps a₀ x) => ?_) ?_; clear_value x) | clear_value x)
    | lift_lets | subst x | apply keeps_cancelEnds | apply keeps_streamTo | apply keeps_streamRuns | apply keeps_rset
    | apply keeps_modPlank | apply keeps_fileEvent | exact fun _ h => h | split | fail_if_no_progress apply keeps_free

theorem keeps_execHoldStep {s : State} {rq : Req} {job : BitVec 16} {step : BitVec 64} (h₀ : Keeps a₀ s) {t₀ : State}
    (e : execHoldStep rq job step s = .next t₀) : Keeps a₀ t₀ := by
  unfold execHoldStep at e
  injection e with e
  subst e
  repeat' with_reducible first
    | assumption | (intro x; first | (refine (fun (hx : Keeps a₀ x) => ?_) ?_; clear_value x) | clear_value x)
    | lift_lets | subst x | refine keeps_answerVerb (fun _ _ => ?_) ?_ | apply keeps_modJob | apply keeps_rset
    | apply keeps_modPlank | apply keeps_fileEvent | exact fun _ h => h | split | fail_if_no_progress apply keeps_free
    | refine keeps_snd (by assumption) ?_ | refine keeps_fst (by assumption) ?_

theorem keeps_execReleaseStep {s : State} {rq : Req} {job : BitVec 16} {step : BitVec 64} (h₀ : Keeps a₀ s) {t₀ : State}
    (e : execReleaseStep rq job step s = .next t₀) : Keeps a₀ t₀ := by
  unfold execReleaseStep at e
  injection e with e
  subst e
  repeat' with_reducible first
    | assumption | (intro x; first | (refine (fun (hx : Keeps a₀ x) => ?_) ?_; clear_value x) | clear_value x)
    | lift_lets | subst x | refine keeps_answerVerb (fun _ _ => ?_) ?_ | apply keeps_modJob | apply keeps_rset
    | apply keeps_modPlank | apply keeps_fileEvent | exact fun _ h => h | split | fail_if_no_progress apply keeps_free
    | refine keeps_snd (by assumption) ?_ | refine keeps_fst (by assumption) ?_

theorem keeps_joinDecision {s : State} {j : Job} {c : CheckRec} {decision : ℕ} {others : List (BitVec 14 × BitVec 8)} (h₀ : Keeps a₀ s) :
    Keeps a₀ (joinDecision s j c decision others) := by
  unfold joinDecision
  repeat' with_reducible first
    | assumption
    | (intro x; first | (refine (fun (hx : Keeps a₀ x) => ?_) ?_; clear_value x) | (refine (fun (hx : Keeps a₀ x.2) => ?_) ?_; clear_value x) | (refine (fun (hx : Keeps a₀ x.1) => ?_) ?_; clear_value x) | clear_value x)
    | lift_lets | subst x | apply keeps_resolveHeld | apply keeps_modJob | apply keeps_rset | apply keeps_modPlank
    | apply keeps_fileEvent | exact fun _ h => h | split | fail_if_no_progress apply keeps_free

theorem keeps_execVerdict {s : State} {rq : Req} {job : BitVec 16} {step : BitVec 64} {decision : BitVec 8} {others : List (BitVec 14 × BitVec 8)} (h₀ : Keeps a₀ s) {t₀ : State}
    (e : execVerdict rq job step decision others s = .next t₀) : Keeps a₀ t₀ := by
  unfold execVerdict at e
  injection e with e
  subst e
  repeat' with_reducible first
    | assumption | (intro x; first | (refine (fun (hx : Keeps a₀ x) => ?_) ?_; clear_value x) | clear_value x)
    | lift_lets | subst x | refine keeps_answerVerb (fun _ _ => ?_) ?_ | apply keeps_joinDecision | apply keeps_rset
    | apply keeps_modPlank | apply keeps_fileEvent | exact fun _ h => h | split | fail_if_no_progress apply keeps_free
    | refine keeps_snd (by assumption) ?_ | refine keeps_fst (by assumption) ?_

theorem keeps_execCheckpoint {s : State} {rq : Req} {job : BitVec 16} {stream : BitVec 16} (h₀ : Keeps a₀ s) {t₀ : State}
    (e : execCheckpoint rq job stream s = .next t₀) : Keeps a₀ t₀ := by
  unfold execCheckpoint at e
  injection e with e
  subst e
  repeat' with_reducible first
    | assumption | (intro x; first | (refine (fun (hx : Keeps a₀ x) => ?_) ?_; clear_value x) | clear_value x)
    | lift_lets | subst x | refine keeps_answerVerb (fun _ _ => ?_) ?_ | apply keeps_modJob | apply keeps_rset
    | apply keeps_modPlank | apply keeps_fileEvent | exact fun _ h => h | split | fail_if_no_progress apply keeps_free
    | refine keeps_snd (by assumption) ?_ | refine keeps_fst (by assumption) ?_

theorem keeps_checkpointBegins {s : State} {job : ℕ} {j : Job} {n : ℕ} (h₀ : Keeps a₀ s) :
    Keeps a₀ (checkpointBegins s job j n) := by
  unfold checkpointBegins
  repeat' with_reducible first
    | assumption
    | (intro x; first | (refine (fun (hx : Keeps a₀ x) => ?_) ?_; clear_value x) | (refine (fun (hx : Keeps a₀ x.2) => ?_) ?_; clear_value x) | (refine (fun (hx : Keeps a₀ x.1) => ?_) ?_; clear_value x) | clear_value x)
    | lift_lets | subst x | apply keeps_modJob | apply keeps_modData | apply keeps_streamRuns | apply keeps_streamDone
    | apply keeps_rset | apply keeps_modPlank | apply keeps_fileEvent | exact fun _ h => h | split
    | fail_if_no_progress apply keeps_free

theorem keeps_execCheckpointWrite {s : State} {job : BitVec 16} (h₀ : Keeps a₀ s) {t₀ : State}
    (e : execCheckpointWrite job s = .next t₀) : Keeps a₀ t₀ := by
  unfold execCheckpointWrite at e
  injection e with e
  subst e
  repeat' with_reducible first
    | assumption | (intro x; first | (refine (fun (hx : Keeps a₀ x) => ?_) ?_; clear_value x) | clear_value x)
    | lift_lets | subst x | apply keeps_checkpointBegins | apply keeps_rset | apply keeps_modPlank
    | apply keeps_fileEvent | exact fun _ h => h | split | fail_if_no_progress apply keeps_free
    | refine keeps_snd (by assumption) ?_ | refine keeps_fst (by assumption) ?_

theorem keeps_execDrainFabric {s : State} {rq : Req} (h₀ : Keeps a₀ s) {t₀ : State}
    (e : execDrainFabric rq s = .next t₀) : Keeps a₀ t₀ := by
  unfold execDrainFabric at e
  injection e with e
  subst e
  repeat' with_reducible first
    | assumption | (intro x; first | (refine (fun (hx : Keeps a₀ x) => ?_) ?_; clear_value x) | clear_value x)
    | lift_lets | subst x | refine keeps_answerVerb (fun _ _ => ?_) ?_ | apply keeps_drainAgain_startDrain
    | apply keeps_rset | apply keeps_modPlank | apply keeps_fileEvent | exact fun _ h => h | split
    | fail_if_no_progress apply keeps_free

theorem keeps_takeTable {s : State} {image : List Byte} (h₀ : Keeps a₀ s) :
    Keeps a₀ (takeTable s image) := by
  unfold takeTable
  repeat' with_reducible first
    | assumption | (intro x; first | (refine (fun (hx : Keeps a₀ x) => ?_) ?_; clear_value x) | clear_value x)
    | lift_lets | subst x | apply keeps_rset | apply keeps_enterTraining | apply keeps_makeStale
    | refine keeps_foldl (fun _ _ _ => ?_) ?_ | apply keeps_modPlank | apply keeps_fileEvent | exact fun _ h => h
    | split | fail_if_no_progress apply keeps_free

theorem keeps_execTableLoad {s : State} {rq : Req} {image : List Byte} (h₀ : Keeps a₀ s) {t₀ : State}
    (e : execTableLoad rq image s = .next t₀) : Keeps a₀ t₀ := by
  unfold execTableLoad at e
  injection e with e
  subst e
  repeat' with_reducible first
    | assumption | (intro x; first | (refine (fun (hx : Keeps a₀ x) => ?_) ?_; clear_value x) | clear_value x)
    | lift_lets | subst x | refine keeps_answerVerb (fun _ _ => ?_) ?_ | apply keeps_takeTable | apply keeps_rset
    | apply keeps_modPlank | apply keeps_fileEvent | exact fun _ h => h | split | fail_if_no_progress apply keeps_free

theorem keeps_execUndrain {s : State} {rq : Req} (h₀ : Keeps a₀ s) {t₀ : State}
    (e : execUndrain rq s = .next t₀) : Keeps a₀ t₀ := by
  unfold execUndrain at e
  injection e with e
  subst e
  repeat' with_reducible first
    | assumption | (intro x; first | (refine (fun (hx : Keeps a₀ x) => ?_) ?_; clear_value x) | clear_value x)
    | lift_lets | subst x | refine keeps_answerVerb (fun _ _ => ?_) ?_ | apply keeps_rset
    | refine keeps_foldl (fun _ _ _ => ?_) ?_ | apply keeps_modPlank | apply keeps_fileEvent | exact fun _ h => h
    | split | fail_if_no_progress apply keeps_free

theorem keeps_execSyncDump {s : State} {rq : Req} (h₀ : Keeps a₀ s) {t₀ : State}
    (e : execSyncDump rq s = .next t₀) : Keeps a₀ t₀ := by
  unfold execSyncDump at e
  injection e with e
  subst e
  repeat' with_reducible first
    | assumption | (intro x; first | (refine (fun (hx : Keeps a₀ x) => ?_) ?_; clear_value x) | clear_value x)
    | lift_lets | subst x | refine keeps_answerVerb (fun _ _ => ?_) ?_ | apply keeps_tick | apply keeps_rset
    | apply keeps_modPlank | apply keeps_fileEvent | exact fun _ h => h | split | fail_if_no_progress apply keeps_free

theorem keeps_execLogRead {s : State} {rq : Req} {first : BitVec 32} {count : BitVec 16} (h₀ : Keeps a₀ s) {t₀ : State}
    (e : execLogRead rq first count s = .next t₀) : Keeps a₀ t₀ := by
  unfold execLogRead at e
  injection e with e
  subst e
  repeat' with_reducible first
    | assumption
    | (intro x; first | (refine (fun (hx : Keeps a₀ x) => ?_) ?_; clear_value x) | (refine (fun (hx : Keeps a₀ x.2) => ?_) ?_; clear_value x) | (refine (fun (hx : Keeps a₀ x.1) => ?_) ?_; clear_value x) | clear_value x)
    | lift_lets | subst x | refine keeps_answerVerb (fun _ _ => ?_) ?_ | apply keeps_rset | apply keeps_modPlank
    | apply keeps_fileEvent | exact fun _ h => h | split | fail_if_no_progress apply keeps_free

theorem keeps_execPeatRead {s : State} {rq : Req} {first : BitVec 32} {count : BitVec 16} (h₀ : Keeps a₀ s) {t₀ : State}
    (e : execPeatRead rq first count s = .next t₀) : Keeps a₀ t₀ := by
  unfold execPeatRead at e
  injection e with e
  subst e
  repeat' with_reducible first
    | assumption
    | (intro x; first | (refine (fun (hx : Keeps a₀ x) => ?_) ?_; clear_value x) | (refine (fun (hx : Keeps a₀ x.2) => ?_) ?_; clear_value x) | (refine (fun (hx : Keeps a₀ x.1) => ?_) ?_; clear_value x) | clear_value x)
    | lift_lets | subst x | refine keeps_answerVerb (fun _ _ => ?_) ?_ | apply keeps_rset | apply keeps_modPlank
    | apply keeps_fileEvent | exact fun _ h => h | split | fail_if_no_progress apply keeps_free

end Sys2Proof.Machine
end

