-- ==== Sys2Proof/Laws/State.lean ====
section
/-! SUPPORT. What each primitive update leaves in each field of the state it does not write, so that no proof unfolds a record. -/
namespace Sys2Proof.Machine

variable (s : State)

/-! ## State.setWord -/
@[simp] theorem State.setWord_mem (off : Nat) (v : Word64) : (s.setWord off v).mem = s.mem := rfl
@[simp] theorem State.setWord_poison (off : Nat) (v : Word64) : (s.setWord off v).poison = s.poison := rfl
@[simp] theorem State.setWord_planks (off : Nat) (v : Word64) : (s.setWord off v).planks = s.planks := rfl
@[simp] theorem State.setWord_objs (off : Nat) (v : Word64) : (s.setWord off v).objs = s.objs := rfl
@[simp] theorem State.setWord_latch (off : Nat) (v : Word64) : (s.setWord off v).latch = s.latch := rfl
@[simp] theorem State.setWord_streams (off : Nat) (v : Word64) : (s.setWord off v).streams = s.streams := rfl
@[simp] theorem State.setWord_evlog (off : Nat) (v : Word64) : (s.setWord off v).evlog = s.evlog := rfl
@[simp] theorem State.setWord_fifo (off : Nat) (v : Word64) : (s.setWord off v).fifo = s.fifo := rfl
@[simp] theorem State.setWord_errq (off : Nat) (v : Word64) : (s.setWord off v).errq = s.errq := rfl
@[simp] theorem State.setWord_peat (off : Nat) (v : Word64) : (s.setWord off v).peat = s.peat := rfl
@[simp] theorem State.setWord_count (off : Nat) (v : Word64) : (s.setWord off v).count = s.count := rfl
@[simp] theorem State.setWord_wall (off : Nat) (v : Word64) : (s.setWord off v).wall = s.wall := rfl
@[simp] theorem State.setWord_wallAt (off : Nat) (v : Word64) : (s.setWord off v).wallAt = s.wallAt := rfl
@[simp] theorem State.setWord_jobs (off : Nat) (v : Word64) : (s.setWord off v).jobs = s.jobs := rfl
@[simp] theorem State.setWord_fab (off : Nat) (v : Word64) : (s.setWord off v).fab = s.fab := rfl
@[simp] theorem State.setWord_pcs (off : Nat) (v : Word64) : (s.setWord off v).pcs = s.pcs := rfl
@[simp] theorem State.setWord_board (off : Nat) (v : Word64) : (s.setWord off v).board = s.board := rfl
@[simp] theorem State.setWord_net (off : Nat) (v : Word64) : (s.setWord off v).net = s.net := rfl
@[simp] theorem State.setWord_out (off : Nat) (v : Word64) : (s.setWord off v).out = s.out := rfl
@[simp] theorem State.setWord_stamps (off : Nat) (v : Word64) : (s.setWord off v).stamps = s.stamps := rfl
@[simp] theorem State.setWord_draws (off : Nat) (v : Word64) : (s.setWord off v).draws = s.draws := rfl
@[simp] theorem State.setWord_pending (off : Nat) (v : Word64) : (s.setWord off v).pending = s.pending := rfl

/-! ## State.rset -/
@[simp] theorem State.rset_mem (f : RegF) (v : Nat) : (s.rset f v).mem = s.mem := rfl
@[simp] theorem State.rset_poison (f : RegF) (v : Nat) : (s.rset f v).poison = s.poison := rfl
@[simp] theorem State.rset_planks (f : RegF) (v : Nat) : (s.rset f v).planks = s.planks := rfl
@[simp] theorem State.rset_objs (f : RegF) (v : Nat) : (s.rset f v).objs = s.objs := rfl
@[simp] theorem State.rset_latch (f : RegF) (v : Nat) : (s.rset f v).latch = s.latch := rfl
@[simp] theorem State.rset_streams (f : RegF) (v : Nat) : (s.rset f v).streams = s.streams := rfl
@[simp] theorem State.rset_evlog (f : RegF) (v : Nat) : (s.rset f v).evlog = s.evlog := rfl
@[simp] theorem State.rset_fifo (f : RegF) (v : Nat) : (s.rset f v).fifo = s.fifo := rfl
@[simp] theorem State.rset_errq (f : RegF) (v : Nat) : (s.rset f v).errq = s.errq := rfl
@[simp] theorem State.rset_peat (f : RegF) (v : Nat) : (s.rset f v).peat = s.peat := rfl
@[simp] theorem State.rset_count (f : RegF) (v : Nat) : (s.rset f v).count = s.count := rfl
@[simp] theorem State.rset_wall (f : RegF) (v : Nat) : (s.rset f v).wall = s.wall := rfl
@[simp] theorem State.rset_wallAt (f : RegF) (v : Nat) : (s.rset f v).wallAt = s.wallAt := rfl
@[simp] theorem State.rset_jobs (f : RegF) (v : Nat) : (s.rset f v).jobs = s.jobs := rfl
@[simp] theorem State.rset_fab (f : RegF) (v : Nat) : (s.rset f v).fab = s.fab := rfl
@[simp] theorem State.rset_pcs (f : RegF) (v : Nat) : (s.rset f v).pcs = s.pcs := rfl
@[simp] theorem State.rset_board (f : RegF) (v : Nat) : (s.rset f v).board = s.board := rfl
@[simp] theorem State.rset_net (f : RegF) (v : Nat) : (s.rset f v).net = s.net := rfl
@[simp] theorem State.rset_out (f : RegF) (v : Nat) : (s.rset f v).out = s.out := rfl
@[simp] theorem State.rset_stamps (f : RegF) (v : Nat) : (s.rset f v).stamps = s.stamps := rfl
@[simp] theorem State.rset_draws (f : RegF) (v : Nat) : (s.rset f v).draws = s.draws := rfl
@[simp] theorem State.rset_pending (f : RegF) (v : Nat) : (s.rset f v).pending = s.pending := rfl

/-! ## State.radd -/
@[simp] theorem State.radd_mem (f : RegF) (v : Nat) : (s.radd f v).mem = s.mem := rfl
@[simp] theorem State.radd_poison (f : RegF) (v : Nat) : (s.radd f v).poison = s.poison := rfl
@[simp] theorem State.radd_planks (f : RegF) (v : Nat) : (s.radd f v).planks = s.planks := rfl
@[simp] theorem State.radd_objs (f : RegF) (v : Nat) : (s.radd f v).objs = s.objs := rfl
@[simp] theorem State.radd_latch (f : RegF) (v : Nat) : (s.radd f v).latch = s.latch := rfl
@[simp] theorem State.radd_streams (f : RegF) (v : Nat) : (s.radd f v).streams = s.streams := rfl
@[simp] theorem State.radd_evlog (f : RegF) (v : Nat) : (s.radd f v).evlog = s.evlog := rfl
@[simp] theorem State.radd_fifo (f : RegF) (v : Nat) : (s.radd f v).fifo = s.fifo := rfl
@[simp] theorem State.radd_errq (f : RegF) (v : Nat) : (s.radd f v).errq = s.errq := rfl
@[simp] theorem State.radd_peat (f : RegF) (v : Nat) : (s.radd f v).peat = s.peat := rfl
@[simp] theorem State.radd_count (f : RegF) (v : Nat) : (s.radd f v).count = s.count := rfl
@[simp] theorem State.radd_wall (f : RegF) (v : Nat) : (s.radd f v).wall = s.wall := rfl
@[simp] theorem State.radd_wallAt (f : RegF) (v : Nat) : (s.radd f v).wallAt = s.wallAt := rfl
@[simp] theorem State.radd_jobs (f : RegF) (v : Nat) : (s.radd f v).jobs = s.jobs := rfl
@[simp] theorem State.radd_fab (f : RegF) (v : Nat) : (s.radd f v).fab = s.fab := rfl
@[simp] theorem State.radd_pcs (f : RegF) (v : Nat) : (s.radd f v).pcs = s.pcs := rfl
@[simp] theorem State.radd_board (f : RegF) (v : Nat) : (s.radd f v).board = s.board := rfl
@[simp] theorem State.radd_net (f : RegF) (v : Nat) : (s.radd f v).net = s.net := rfl
@[simp] theorem State.radd_out (f : RegF) (v : Nat) : (s.radd f v).out = s.out := rfl
@[simp] theorem State.radd_stamps (f : RegF) (v : Nat) : (s.radd f v).stamps = s.stamps := rfl
@[simp] theorem State.radd_draws (f : RegF) (v : Nat) : (s.radd f v).draws = s.draws := rfl
@[simp] theorem State.radd_pending (f : RegF) (v : Nat) : (s.radd f v).pending = s.pending := rfl

/-! ## State.rsat -/
@[simp] theorem State.rsat_mem (f : RegF) (v : Nat) : (s.rsat f v).mem = s.mem := rfl
@[simp] theorem State.rsat_poison (f : RegF) (v : Nat) : (s.rsat f v).poison = s.poison := rfl
@[simp] theorem State.rsat_planks (f : RegF) (v : Nat) : (s.rsat f v).planks = s.planks := rfl
@[simp] theorem State.rsat_objs (f : RegF) (v : Nat) : (s.rsat f v).objs = s.objs := rfl
@[simp] theorem State.rsat_latch (f : RegF) (v : Nat) : (s.rsat f v).latch = s.latch := rfl
@[simp] theorem State.rsat_streams (f : RegF) (v : Nat) : (s.rsat f v).streams = s.streams := rfl
@[simp] theorem State.rsat_evlog (f : RegF) (v : Nat) : (s.rsat f v).evlog = s.evlog := rfl
@[simp] theorem State.rsat_fifo (f : RegF) (v : Nat) : (s.rsat f v).fifo = s.fifo := rfl
@[simp] theorem State.rsat_errq (f : RegF) (v : Nat) : (s.rsat f v).errq = s.errq := rfl
@[simp] theorem State.rsat_peat (f : RegF) (v : Nat) : (s.rsat f v).peat = s.peat := rfl
@[simp] theorem State.rsat_count (f : RegF) (v : Nat) : (s.rsat f v).count = s.count := rfl
@[simp] theorem State.rsat_wall (f : RegF) (v : Nat) : (s.rsat f v).wall = s.wall := rfl
@[simp] theorem State.rsat_wallAt (f : RegF) (v : Nat) : (s.rsat f v).wallAt = s.wallAt := rfl
@[simp] theorem State.rsat_jobs (f : RegF) (v : Nat) : (s.rsat f v).jobs = s.jobs := rfl
@[simp] theorem State.rsat_fab (f : RegF) (v : Nat) : (s.rsat f v).fab = s.fab := rfl
@[simp] theorem State.rsat_pcs (f : RegF) (v : Nat) : (s.rsat f v).pcs = s.pcs := rfl
@[simp] theorem State.rsat_board (f : RegF) (v : Nat) : (s.rsat f v).board = s.board := rfl
@[simp] theorem State.rsat_net (f : RegF) (v : Nat) : (s.rsat f v).net = s.net := rfl
@[simp] theorem State.rsat_out (f : RegF) (v : Nat) : (s.rsat f v).out = s.out := rfl
@[simp] theorem State.rsat_stamps (f : RegF) (v : Nat) : (s.rsat f v).stamps = s.stamps := rfl
@[simp] theorem State.rsat_draws (f : RegF) (v : Nat) : (s.rsat f v).draws = s.draws := rfl
@[simp] theorem State.rsat_pending (f : RegF) (v : Nat) : (s.rsat f v).pending = s.pending := rfl

/-! ## State.setPlank -/
@[simp] theorem State.setPlank_win (p : Nat) (x : Plank) : (s.setPlank p x).win = s.win := rfl
@[simp] theorem State.setPlank_mem (p : Nat) (x : Plank) : (s.setPlank p x).mem = s.mem := rfl
@[simp] theorem State.setPlank_poison (p : Nat) (x : Plank) : (s.setPlank p x).poison = s.poison := rfl
@[simp] theorem State.setPlank_objs (p : Nat) (x : Plank) : (s.setPlank p x).objs = s.objs := rfl
@[simp] theorem State.setPlank_latch (p : Nat) (x : Plank) : (s.setPlank p x).latch = s.latch := rfl
@[simp] theorem State.setPlank_streams (p : Nat) (x : Plank) : (s.setPlank p x).streams = s.streams := rfl
@[simp] theorem State.setPlank_evlog (p : Nat) (x : Plank) : (s.setPlank p x).evlog = s.evlog := rfl
@[simp] theorem State.setPlank_fifo (p : Nat) (x : Plank) : (s.setPlank p x).fifo = s.fifo := rfl
@[simp] theorem State.setPlank_errq (p : Nat) (x : Plank) : (s.setPlank p x).errq = s.errq := rfl
@[simp] theorem State.setPlank_peat (p : Nat) (x : Plank) : (s.setPlank p x).peat = s.peat := rfl
@[simp] theorem State.setPlank_count (p : Nat) (x : Plank) : (s.setPlank p x).count = s.count := rfl
@[simp] theorem State.setPlank_wall (p : Nat) (x : Plank) : (s.setPlank p x).wall = s.wall := rfl
@[simp] theorem State.setPlank_wallAt (p : Nat) (x : Plank) : (s.setPlank p x).wallAt = s.wallAt := rfl
@[simp] theorem State.setPlank_jobs (p : Nat) (x : Plank) : (s.setPlank p x).jobs = s.jobs := rfl
@[simp] theorem State.setPlank_fab (p : Nat) (x : Plank) : (s.setPlank p x).fab = s.fab := rfl
@[simp] theorem State.setPlank_pcs (p : Nat) (x : Plank) : (s.setPlank p x).pcs = s.pcs := rfl
@[simp] theorem State.setPlank_board (p : Nat) (x : Plank) : (s.setPlank p x).board = s.board := rfl
@[simp] theorem State.setPlank_net (p : Nat) (x : Plank) : (s.setPlank p x).net = s.net := rfl
@[simp] theorem State.setPlank_out (p : Nat) (x : Plank) : (s.setPlank p x).out = s.out := rfl
@[simp] theorem State.setPlank_stamps (p : Nat) (x : Plank) : (s.setPlank p x).stamps = s.stamps := rfl
@[simp] theorem State.setPlank_draws (p : Nat) (x : Plank) : (s.setPlank p x).draws = s.draws := rfl
@[simp] theorem State.setPlank_pending (p : Nat) (x : Plank) : (s.setPlank p x).pending = s.pending := rfl

/-! ## State.modPlank -/
@[simp] theorem State.modPlank_win (p : Nat) (f : Plank → Plank) : (s.modPlank p f).win = s.win := rfl
@[simp] theorem State.modPlank_mem (p : Nat) (f : Plank → Plank) : (s.modPlank p f).mem = s.mem := rfl
@[simp] theorem State.modPlank_poison (p : Nat) (f : Plank → Plank) : (s.modPlank p f).poison = s.poison := rfl
@[simp] theorem State.modPlank_objs (p : Nat) (f : Plank → Plank) : (s.modPlank p f).objs = s.objs := rfl
@[simp] theorem State.modPlank_latch (p : Nat) (f : Plank → Plank) : (s.modPlank p f).latch = s.latch := rfl
@[simp] theorem State.modPlank_streams (p : Nat) (f : Plank → Plank) : (s.modPlank p f).streams = s.streams := rfl
@[simp] theorem State.modPlank_evlog (p : Nat) (f : Plank → Plank) : (s.modPlank p f).evlog = s.evlog := rfl
@[simp] theorem State.modPlank_fifo (p : Nat) (f : Plank → Plank) : (s.modPlank p f).fifo = s.fifo := rfl
@[simp] theorem State.modPlank_errq (p : Nat) (f : Plank → Plank) : (s.modPlank p f).errq = s.errq := rfl
@[simp] theorem State.modPlank_peat (p : Nat) (f : Plank → Plank) : (s.modPlank p f).peat = s.peat := rfl
@[simp] theorem State.modPlank_count (p : Nat) (f : Plank → Plank) : (s.modPlank p f).count = s.count := rfl
@[simp] theorem State.modPlank_wall (p : Nat) (f : Plank → Plank) : (s.modPlank p f).wall = s.wall := rfl
@[simp] theorem State.modPlank_wallAt (p : Nat) (f : Plank → Plank) : (s.modPlank p f).wallAt = s.wallAt := rfl
@[simp] theorem State.modPlank_jobs (p : Nat) (f : Plank → Plank) : (s.modPlank p f).jobs = s.jobs := rfl
@[simp] theorem State.modPlank_fab (p : Nat) (f : Plank → Plank) : (s.modPlank p f).fab = s.fab := rfl
@[simp] theorem State.modPlank_pcs (p : Nat) (f : Plank → Plank) : (s.modPlank p f).pcs = s.pcs := rfl
@[simp] theorem State.modPlank_board (p : Nat) (f : Plank → Plank) : (s.modPlank p f).board = s.board := rfl
@[simp] theorem State.modPlank_net (p : Nat) (f : Plank → Plank) : (s.modPlank p f).net = s.net := rfl
@[simp] theorem State.modPlank_out (p : Nat) (f : Plank → Plank) : (s.modPlank p f).out = s.out := rfl
@[simp] theorem State.modPlank_stamps (p : Nat) (f : Plank → Plank) : (s.modPlank p f).stamps = s.stamps := rfl
@[simp] theorem State.modPlank_draws (p : Nat) (f : Plank → Plank) : (s.modPlank p f).draws = s.draws := rfl
@[simp] theorem State.modPlank_pending (p : Nat) (f : Plank → Plank) : (s.modPlank p f).pending = s.pending := rfl

/-! ## State.storeKeep -/
@[simp] theorem State.storeKeep_win (o : Nat) (bs : List Byte) : (s.storeKeep o bs).win = s.win := rfl
@[simp] theorem State.storeKeep_poison (o : Nat) (bs : List Byte) : (s.storeKeep o bs).poison = s.poison := rfl
@[simp] theorem State.storeKeep_planks (o : Nat) (bs : List Byte) : (s.storeKeep o bs).planks = s.planks := rfl
@[simp] theorem State.storeKeep_objs (o : Nat) (bs : List Byte) : (s.storeKeep o bs).objs = s.objs := rfl
@[simp] theorem State.storeKeep_latch (o : Nat) (bs : List Byte) : (s.storeKeep o bs).latch = s.latch := rfl
@[simp] theorem State.storeKeep_streams (o : Nat) (bs : List Byte) : (s.storeKeep o bs).streams = s.streams := rfl
@[simp] theorem State.storeKeep_evlog (o : Nat) (bs : List Byte) : (s.storeKeep o bs).evlog = s.evlog := rfl
@[simp] theorem State.storeKeep_fifo (o : Nat) (bs : List Byte) : (s.storeKeep o bs).fifo = s.fifo := rfl
@[simp] theorem State.storeKeep_errq (o : Nat) (bs : List Byte) : (s.storeKeep o bs).errq = s.errq := rfl
@[simp] theorem State.storeKeep_peat (o : Nat) (bs : List Byte) : (s.storeKeep o bs).peat = s.peat := rfl
@[simp] theorem State.storeKeep_count (o : Nat) (bs : List Byte) : (s.storeKeep o bs).count = s.count := rfl
@[simp] theorem State.storeKeep_wall (o : Nat) (bs : List Byte) : (s.storeKeep o bs).wall = s.wall := rfl
@[simp] theorem State.storeKeep_wallAt (o : Nat) (bs : List Byte) : (s.storeKeep o bs).wallAt = s.wallAt := rfl
@[simp] theorem State.storeKeep_jobs (o : Nat) (bs : List Byte) : (s.storeKeep o bs).jobs = s.jobs := rfl
@[simp] theorem State.storeKeep_fab (o : Nat) (bs : List Byte) : (s.storeKeep o bs).fab = s.fab := rfl
@[simp] theorem State.storeKeep_pcs (o : Nat) (bs : List Byte) : (s.storeKeep o bs).pcs = s.pcs := rfl
@[simp] theorem State.storeKeep_board (o : Nat) (bs : List Byte) : (s.storeKeep o bs).board = s.board := rfl
@[simp] theorem State.storeKeep_net (o : Nat) (bs : List Byte) : (s.storeKeep o bs).net = s.net := rfl
@[simp] theorem State.storeKeep_out (o : Nat) (bs : List Byte) : (s.storeKeep o bs).out = s.out := rfl
@[simp] theorem State.storeKeep_stamps (o : Nat) (bs : List Byte) : (s.storeKeep o bs).stamps = s.stamps := rfl
@[simp] theorem State.storeKeep_draws (o : Nat) (bs : List Byte) : (s.storeKeep o bs).draws = s.draws := rfl
@[simp] theorem State.storeKeep_pending (o : Nat) (bs : List Byte) : (s.storeKeep o bs).pending = s.pending := rfl

/-! ## State.store -/
@[simp] theorem State.store_win (o : Nat) (bs : List Byte) : (s.store o bs).win = s.win := rfl
@[simp] theorem State.store_planks (o : Nat) (bs : List Byte) : (s.store o bs).planks = s.planks := rfl
@[simp] theorem State.store_objs (o : Nat) (bs : List Byte) : (s.store o bs).objs = s.objs := rfl
@[simp] theorem State.store_latch (o : Nat) (bs : List Byte) : (s.store o bs).latch = s.latch := rfl
@[simp] theorem State.store_streams (o : Nat) (bs : List Byte) : (s.store o bs).streams = s.streams := rfl
@[simp] theorem State.store_evlog (o : Nat) (bs : List Byte) : (s.store o bs).evlog = s.evlog := rfl
@[simp] theorem State.store_fifo (o : Nat) (bs : List Byte) : (s.store o bs).fifo = s.fifo := rfl
@[simp] theorem State.store_errq (o : Nat) (bs : List Byte) : (s.store o bs).errq = s.errq := rfl
@[simp] theorem State.store_peat (o : Nat) (bs : List Byte) : (s.store o bs).peat = s.peat := rfl
@[simp] theorem State.store_count (o : Nat) (bs : List Byte) : (s.store o bs).count = s.count := rfl
@[simp] theorem State.store_wall (o : Nat) (bs : List Byte) : (s.store o bs).wall = s.wall := rfl
@[simp] theorem State.store_wallAt (o : Nat) (bs : List Byte) : (s.store o bs).wallAt = s.wallAt := rfl
@[simp] theorem State.store_jobs (o : Nat) (bs : List Byte) : (s.store o bs).jobs = s.jobs := rfl
@[simp] theorem State.store_fab (o : Nat) (bs : List Byte) : (s.store o bs).fab = s.fab := rfl
@[simp] theorem State.store_pcs (o : Nat) (bs : List Byte) : (s.store o bs).pcs = s.pcs := rfl
@[simp] theorem State.store_board (o : Nat) (bs : List Byte) : (s.store o bs).board = s.board := rfl
@[simp] theorem State.store_net (o : Nat) (bs : List Byte) : (s.store o bs).net = s.net := rfl
@[simp] theorem State.store_out (o : Nat) (bs : List Byte) : (s.store o bs).out = s.out := rfl
@[simp] theorem State.store_stamps (o : Nat) (bs : List Byte) : (s.store o bs).stamps = s.stamps := rfl
@[simp] theorem State.store_draws (o : Nat) (bs : List Byte) : (s.store o bs).draws = s.draws := rfl
@[simp] theorem State.store_pending (o : Nat) (bs : List Byte) : (s.store o bs).pending = s.pending := rfl

/-! ## State.setObj -/
@[simp] theorem State.setObj_win (o : Nat) (r : ObjRec) : (s.setObj o r).win = s.win := rfl
@[simp] theorem State.setObj_mem (o : Nat) (r : ObjRec) : (s.setObj o r).mem = s.mem := rfl
@[simp] theorem State.setObj_poison (o : Nat) (r : ObjRec) : (s.setObj o r).poison = s.poison := rfl
@[simp] theorem State.setObj_planks (o : Nat) (r : ObjRec) : (s.setObj o r).planks = s.planks := rfl
@[simp] theorem State.setObj_latch (o : Nat) (r : ObjRec) : (s.setObj o r).latch = s.latch := rfl
@[simp] theorem State.setObj_streams (o : Nat) (r : ObjRec) : (s.setObj o r).streams = s.streams := rfl
@[simp] theorem State.setObj_evlog (o : Nat) (r : ObjRec) : (s.setObj o r).evlog = s.evlog := rfl
@[simp] theorem State.setObj_fifo (o : Nat) (r : ObjRec) : (s.setObj o r).fifo = s.fifo := rfl
@[simp] theorem State.setObj_errq (o : Nat) (r : ObjRec) : (s.setObj o r).errq = s.errq := rfl
@[simp] theorem State.setObj_peat (o : Nat) (r : ObjRec) : (s.setObj o r).peat = s.peat := rfl
@[simp] theorem State.setObj_count (o : Nat) (r : ObjRec) : (s.setObj o r).count = s.count := rfl
@[simp] theorem State.setObj_wall (o : Nat) (r : ObjRec) : (s.setObj o r).wall = s.wall := rfl
@[simp] theorem State.setObj_wallAt (o : Nat) (r : ObjRec) : (s.setObj o r).wallAt = s.wallAt := rfl
@[simp] theorem State.setObj_jobs (o : Nat) (r : ObjRec) : (s.setObj o r).jobs = s.jobs := rfl
@[simp] theorem State.setObj_fab (o : Nat) (r : ObjRec) : (s.setObj o r).fab = s.fab := rfl
@[simp] theorem State.setObj_pcs (o : Nat) (r : ObjRec) : (s.setObj o r).pcs = s.pcs := rfl
@[simp] theorem State.setObj_board (o : Nat) (r : ObjRec) : (s.setObj o r).board = s.board := rfl
@[simp] theorem State.setObj_net (o : Nat) (r : ObjRec) : (s.setObj o r).net = s.net := rfl
@[simp] theorem State.setObj_out (o : Nat) (r : ObjRec) : (s.setObj o r).out = s.out := rfl
@[simp] theorem State.setObj_stamps (o : Nat) (r : ObjRec) : (s.setObj o r).stamps = s.stamps := rfl
@[simp] theorem State.setObj_draws (o : Nat) (r : ObjRec) : (s.setObj o r).draws = s.draws := rfl
@[simp] theorem State.setObj_pending (o : Nat) (r : ObjRec) : (s.setObj o r).pending = s.pending := rfl

/-! ## State.setStrm -/
@[simp] theorem State.setStrm_win (n : Nat) (r : StreamRec) : (s.setStrm n r).win = s.win := rfl
@[simp] theorem State.setStrm_mem (n : Nat) (r : StreamRec) : (s.setStrm n r).mem = s.mem := rfl
@[simp] theorem State.setStrm_poison (n : Nat) (r : StreamRec) : (s.setStrm n r).poison = s.poison := rfl
@[simp] theorem State.setStrm_planks (n : Nat) (r : StreamRec) : (s.setStrm n r).planks = s.planks := rfl
@[simp] theorem State.setStrm_objs (n : Nat) (r : StreamRec) : (s.setStrm n r).objs = s.objs := rfl
@[simp] theorem State.setStrm_latch (n : Nat) (r : StreamRec) : (s.setStrm n r).latch = s.latch := rfl
@[simp] theorem State.setStrm_evlog (n : Nat) (r : StreamRec) : (s.setStrm n r).evlog = s.evlog := rfl
@[simp] theorem State.setStrm_fifo (n : Nat) (r : StreamRec) : (s.setStrm n r).fifo = s.fifo := rfl
@[simp] theorem State.setStrm_errq (n : Nat) (r : StreamRec) : (s.setStrm n r).errq = s.errq := rfl
@[simp] theorem State.setStrm_peat (n : Nat) (r : StreamRec) : (s.setStrm n r).peat = s.peat := rfl
@[simp] theorem State.setStrm_count (n : Nat) (r : StreamRec) : (s.setStrm n r).count = s.count := rfl
@[simp] theorem State.setStrm_wall (n : Nat) (r : StreamRec) : (s.setStrm n r).wall = s.wall := rfl
@[simp] theorem State.setStrm_wallAt (n : Nat) (r : StreamRec) : (s.setStrm n r).wallAt = s.wallAt := rfl
@[simp] theorem State.setStrm_jobs (n : Nat) (r : StreamRec) : (s.setStrm n r).jobs = s.jobs := rfl
@[simp] theorem State.setStrm_fab (n : Nat) (r : StreamRec) : (s.setStrm n r).fab = s.fab := rfl
@[simp] theorem State.setStrm_pcs (n : Nat) (r : StreamRec) : (s.setStrm n r).pcs = s.pcs := rfl
@[simp] theorem State.setStrm_board (n : Nat) (r : StreamRec) : (s.setStrm n r).board = s.board := rfl
@[simp] theorem State.setStrm_net (n : Nat) (r : StreamRec) : (s.setStrm n r).net = s.net := rfl
@[simp] theorem State.setStrm_out (n : Nat) (r : StreamRec) : (s.setStrm n r).out = s.out := rfl
@[simp] theorem State.setStrm_stamps (n : Nat) (r : StreamRec) : (s.setStrm n r).stamps = s.stamps := rfl
@[simp] theorem State.setStrm_draws (n : Nat) (r : StreamRec) : (s.setStrm n r).draws = s.draws := rfl
@[simp] theorem State.setStrm_pending (n : Nat) (r : StreamRec) : (s.setStrm n r).pending = s.pending := rfl

/-! ## State.tick -/
@[simp] theorem State.tick_win : (s.tick).win = s.win := rfl
@[simp] theorem State.tick_mem : (s.tick).mem = s.mem := rfl
@[simp] theorem State.tick_poison : (s.tick).poison = s.poison := rfl
@[simp] theorem State.tick_planks : (s.tick).planks = s.planks := rfl
@[simp] theorem State.tick_objs : (s.tick).objs = s.objs := rfl
@[simp] theorem State.tick_latch : (s.tick).latch = s.latch := rfl
@[simp] theorem State.tick_streams : (s.tick).streams = s.streams := rfl
@[simp] theorem State.tick_evlog : (s.tick).evlog = s.evlog := rfl
@[simp] theorem State.tick_fifo : (s.tick).fifo = s.fifo := rfl
@[simp] theorem State.tick_errq : (s.tick).errq = s.errq := rfl
@[simp] theorem State.tick_peat : (s.tick).peat = s.peat := rfl
@[simp] theorem State.tick_wall : (s.tick).wall = s.wall := rfl
@[simp] theorem State.tick_wallAt : (s.tick).wallAt = s.wallAt := rfl
@[simp] theorem State.tick_jobs : (s.tick).jobs = s.jobs := rfl
@[simp] theorem State.tick_fab : (s.tick).fab = s.fab := rfl
@[simp] theorem State.tick_pcs : (s.tick).pcs = s.pcs := rfl
@[simp] theorem State.tick_board : (s.tick).board = s.board := rfl
@[simp] theorem State.tick_net : (s.tick).net = s.net := rfl
@[simp] theorem State.tick_out : (s.tick).out = s.out := rfl
@[simp] theorem State.tick_draws : (s.tick).draws = s.draws := rfl
@[simp] theorem State.tick_pending : (s.tick).pending = s.pending := rfl

/-! ## State.drew -/
@[simp] theorem State.drew_win : (s.drew).win = s.win := rfl
@[simp] theorem State.drew_mem : (s.drew).mem = s.mem := rfl
@[simp] theorem State.drew_poison : (s.drew).poison = s.poison := rfl
@[simp] theorem State.drew_planks : (s.drew).planks = s.planks := rfl
@[simp] theorem State.drew_objs : (s.drew).objs = s.objs := rfl
@[simp] theorem State.drew_latch : (s.drew).latch = s.latch := rfl
@[simp] theorem State.drew_streams : (s.drew).streams = s.streams := rfl
@[simp] theorem State.drew_evlog : (s.drew).evlog = s.evlog := rfl
@[simp] theorem State.drew_fifo : (s.drew).fifo = s.fifo := rfl
@[simp] theorem State.drew_errq : (s.drew).errq = s.errq := rfl
@[simp] theorem State.drew_peat : (s.drew).peat = s.peat := rfl
@[simp] theorem State.drew_count : (s.drew).count = s.count := rfl
@[simp] theorem State.drew_wall : (s.drew).wall = s.wall := rfl
@[simp] theorem State.drew_wallAt : (s.drew).wallAt = s.wallAt := rfl
@[simp] theorem State.drew_jobs : (s.drew).jobs = s.jobs := rfl
@[simp] theorem State.drew_fab : (s.drew).fab = s.fab := rfl
@[simp] theorem State.drew_pcs : (s.drew).pcs = s.pcs := rfl
@[simp] theorem State.drew_board : (s.drew).board = s.board := rfl
@[simp] theorem State.drew_net : (s.drew).net = s.net := rfl
@[simp] theorem State.drew_out : (s.drew).out = s.out := rfl
@[simp] theorem State.drew_stamps : (s.drew).stamps = s.stamps := rfl
@[simp] theorem State.drew_pending : (s.drew).pending = s.pending := rfl

end Sys2Proof.Machine
end

