-- ==== Sys2Proof/Laws/Reads.lean ====
section
/-! SUPPORT. A read after a write: of register fields, planks, objects, streams and memory. -/
namespace Sys2Proof.Machine

variable {s : State}

/-- A register word after a write of any word. -/
theorem word_setWord (w : s.Wf) (o : Nat) (v : Word64) (i : Nat) :
    (s.setWord o v).word i = if i = o then v else s.word i := kget_kput (kwf_above w.win) o v i

/-- A register field reads the low bits of what was written to it. -/
theorem rget_rset (w : s.Wf) {f : RegF} (h : f.hi < 64) (v : Nat) : (s.rset f v).rget f = v % 2 ^ (f.hi + 1 - f.lo) := by
  unfold State.rget State.rset
  rw [word_setWord w, if_pos rfl, fld_setFld _ _ h]

/-- A register field of another word, or of other bits of the same word, reads as before. -/
theorem rget_rset_apart (w : s.Wf) {f g : RegF} (h : f.hi < 64) (a : g.off ≠ f.off ∨ g.hi < f.lo ∨ f.hi < g.lo) (v : Nat) :
    (s.rset f v).rget g = s.rget g := by
  unfold State.rget State.rset
  rw [word_setWord w]
  split
  · rename_i e
    rw [fld_setFld_apart _ _ h (a.resolve_left (fun n => n e)), e]
  · rfl

/-- A word that holds no written field reads as before. -/
theorem word_rset_apart (w : s.Wf) (f : RegF) (v : Nat) {i : Nat} (h : i ≠ f.off) : (s.rset f v).word i = s.word i := by
  unfold State.rset
  rw [word_setWord w, if_neg h]

/-- A register update leaves planks, objects, streams and memory as they read. -/
@[simp] theorem plank_rset (f : RegF) (v p : Nat) : (s.rset f v).plank p = s.plank p := rfl
@[simp] theorem obj_rset (f : RegF) (v o : Nat) : (s.rset f v).obj o = s.obj o := rfl
@[simp] theorem strm_rset (f : RegF) (v n : Nat) : (s.rset f v).strm n = s.strm n := rfl
@[simp] theorem byte_rset (f : RegF) (v a : Nat) : (s.rset f v).byte a = s.byte a := rfl
@[simp] theorem bytes_rset (f : RegF) (v a n : Nat) : (s.rset f v).bytes a n = s.bytes a n := rfl
@[simp] theorem rget_setPlank (p : Nat) (x : Plank) (f : RegF) : (s.setPlank p x).rget f = s.rget f := rfl
@[simp] theorem rget_modPlank (p : Nat) (g : Plank → Plank) (f : RegF) : (s.modPlank p g).rget f = s.rget f := rfl
@[simp] theorem rget_store (a : Nat) (bs : List Byte) (f : RegF) : (s.store a bs).rget f = s.rget f := rfl
@[simp] theorem plank_store (a : Nat) (bs : List Byte) (p : Nat) : (s.store a bs).plank p = s.plank p := rfl

theorem plank_setPlank (w : s.Wf) (p : Nat) (x : Plank) (q : Nat) :
    (s.setPlank p x).plank q = if q = p then x else s.plank q := kget_kput (kwf_above w.planks) p x q

theorem plank_modPlank (w : s.Wf) (p : Nat) (g : Plank → Plank) (q : Nat) :
    (s.modPlank p g).plank q = if q = p then g (s.plank p) else s.plank q := plank_setPlank w p _ q

theorem obj_setObj (w : s.Wf) (o : Nat) (r : ObjRec) (i : Nat) : (s.setObj o r).obj i = if i = o then r else s.obj i :=
  kget_kput (kwf_above w.objs) o r i

theorem strm_setStrm (w : s.Wf) (n : Nat) (r : StreamRec) (i : Nat) : (s.setStrm n r).strm i = if i = n then r else s.strm i :=
  kget_kput (kwf_above w.streams) n r i

/-- A byte of memory after a store: the stored byte inside the range, and as before outside it. -/
theorem byte_store (w : s.Wf) (a : Nat) (bs : List Byte) (i : Nat) :
    (s.store a bs).byte i = if h : a ≤ i ∧ i < a + bs.length then bs[i - a]'(by omega) else s.byte i :=
  kget_kputs w.mem a bs i

/-- The stored range reads as it was stored. -/
theorem bytes_store (w : s.Wf) (a : Nat) (bs : List Byte) : (s.store a bs).bytes a bs.length = bs :=
  kgets_kputs w.mem a bs

/-- Two states with canonical tables whose memories read alike hold the same memory. -/
theorem mem_ext {t : State} (w : s.Wf) (w' : t.Wf) (h : ∀ a, s.byte a = t.byte a) : s.mem = t.mem :=
  kwf_ext w.mem w'.mem h

end Sys2Proof.Machine
end

