-- ==== Sys2Proof/WellFormed.lean ====
section
/-!
DEFINITION. Well-formed commands: operand data that reaches the module in a format the manual fixes has that format. Where the
manual says what the module does with data of another form (a refused payload, a packet of a wrong length), the command is
well formed and its meaning says it.
-/
namespace Sys2Proof

/-- A packet is a header and at most 4,096 B of whole 64 B flits; the poison marks name its flits (R244, R247). -/
def Packet.wellFormed (p : Packet) : Bool :=
  decide (p.payload.length % 64 = 0) && decide (p.payload.length ≤ 4096)
    && p.poison.all (fun i => decide (i < p.payload.length / 64))

/-- A frame is four flit slots and its control word (R240). -/
def Frame.wellFormed (f : Frame) : Bool := decide (f.slots.length = 4)

/-- The counts of a statistics record fit its fields (Table 3-6). -/
def StatRec.wellFormed (r : StatRec) : Bool :=
  decide (r.elems < 2 ^ 64) && decide (r.blocks < 2 ^ 64)
    && [r.brimElems, r.sunkElems, r.brimBlocks, r.sunkBlocks, r.flatCh, r.nonfinite, r.sedgeOvf, r.lostlow].all
      (fun n => decide (n < 2 ^ 32))

/-- The fields of a check record fit (Table 7-2). -/
def CheckRec.wellFormed (r : CheckRec) : Bool :=
  decide (r.step < 2 ^ 64) && decide (r.attempt < 16) && decide (r.seqMasked < 2 ^ 16)
    && [r.suspect, r.gradNonfin, r.tokens, r.tokensAll, r.reblockTensors, r.triggers].all (fun n => decide (n < 2 ^ 32))

/-- A member's part of the check reduction: its records fit, and each tensor id is named once. -/
def MemberPart.wellFormed (p : MemberPart) : Bool :=
  p.check.wellFormed && p.stats.all (fun e => decide (e.1 < 2 ^ 16) && e.2.wellFormed) && decide (p.stats.map (·.1)).Nodup

/-- A run of bytes that lies in the module's address space (R247). -/
def Region.wellFormed (r : Region) : Bool := decide (r.off + r.data.length ≤ 2 ^ 44)

/-- A refresh plan names factors of rank 1 or more (R122). -/
def NapPlan.wellFormed (p : NapPlan) : Bool := decide (0 < p.rows) && decide (0 < p.cols)

/-- A program's code fits the instruction memory (R202). -/
def ProgEntry.wellFormed (e : ProgEntry) : Bool := decide (e.codeLen ≤ 65536)

/-- The lists of a manifest: programs that fit, and one stream, object and tree entry for each number. -/
def JobLists.wellFormed (l : JobLists) : Bool :=
  l.programs.all ProgEntry.wellFormed && decide (l.streams.map (·.id)).Nodup && decide (l.objects.map (·.obj)).Nodup
    && decide (l.trees.map (·.tree)).Nodup

/-- A Sluice fragment: the 40 B header, a payload of at most FRAG_MAX, and a 16 B tag or none (R362, R363). -/
def fragmentWellFormed (head payload tag : List Byte) : Bool :=
  decide (head.length = 40) && decide (payload.length ≤ 8192) && (decide (tag.length = 16) || tag.isEmpty)

/-- A measured eye does not end before it begins. -/
def SweepResult.wellFormed (r : SweepResult) : Bool :=
  decide (r.dqLo.toInt ≤ r.dqHi.toInt) && decide (r.vrefLo.toInt ≤ r.vrefHi.toInt)

/-- The command's operands have the form that the manual fixes. -/
def Instr.wellFormed (i : Instr) : Bool :=
  match i with
  | .checkReductionComplete _ others => others.all MemberPart.wellFormed
  | .updateStageU1 _ refetched => refetched.all Region.wellFormed
  | .updateStageU4 _ plans => plans.all NapPlan.wellFormed
  | .evaluationPoint _ _ others => others.all MemberPart.wellFormed
  | .bankRefresh _ _ _ slots => decide (0 < slots)
  | .frameReceive _ f _ _ => f.wellFormed
  | .pktWrite _ pkt => pkt.wellFormed
  | .pktAccum _ pkt => pkt.wellFormed
  | .pktReadReq _ pkt _ => pkt.wellFormed
  | .pktReadData _ pkt => pkt.wellFormed
  | .pktDone _ pkt => pkt.wellFormed
  | .pktSignal _ pkt => pkt.wellFormed
  | .pktChunk _ pkt => pkt.wellFormed
  | .dieCalibrationComplete _ _ _ sweeps _ lists => sweeps.all SweepResult.wellFormed && lists.wellFormed
  | .sluiceFragment _ _ _ head payload tag => fragmentWellFormed head payload tag
  | .poke _ _ data => decide (data.length < 2 ^ 32)
  | .jobLoad _ _ _ lists => lists.wellFormed
  | .calibrationSlice _ _ ecc _ => decide (ecc.length ≤ 32)
  | .retrainComplete _ _ dqLo dqHi vrefLo vrefHi _ _ => decide (dqLo.toInt ≤ dqHi.toInt) && decide (vrefLo.toInt ≤ vrefHi.toInt)
  | .passIssue .. | .passBegin .. | .passEnd .. | .sedgeSegment .. | .drainBegin .. | .drainComplete .. | .plankFault ..
  | .plankSuspendCmd .. | .plankFaultAck .. | .plankDiscardSpill .. | .spillStart .. | .spillComplete ..
  | .spillReloadComplete .. | .plankMask .. | .accAddout .. | .addoutBegin .. | .addoutComplete .. | .accLoadin ..
  | .loadinBegin .. | .loadinComplete .. | .passFence .. | .plankSusp .. | .vecIssue .. | .vecRun .. | .vecFence ..
  | .vecXi .. | .vecMvx .. | .vnop .. | .addF32 .. | .subF32 .. | .mulF32 .. | .fmaF32 .. | .minF32 .. | .maxF32 ..
  | .absF32 .. | .negF32 .. | .divF32 .. | .sqrtF32 .. | .cmp .. | .sel .. | .andB32 .. | .orB32 .. | .xorB32 ..
  | .shlB32 .. | .shrB32 .. | .ldW .. | .ldH .. | .stW .. | .stH .. | .cvtRegister .. | .cvtStream .. | .cvtRb ..
  | .cvtM .. | .cvtMxExport .. | .amaxTile .. | .statFold .. | .tabLd .. | .tabF .. | .redAdd .. | .amaxV .. | .rngV ..
  | .card .. | .uncard .. | .corrSum .. | .chkCmp .. | .optAdamw .. | .syncAdd .. | .syncSet .. | .syncWait ..
  | .syncWaitReturn .. | .fillPassIssue .. | .fillEnq .. | .fillFlush .. | .ilvNext .. | .strmQp .. | .strmState ..
  | .strmEnd .. | .xfer .. | .xferComplete .. | .coreAutoReset .. | .coreQuiesce .. | .contextWriteComplete ..
  | .coreResume .. | .coreStart .. | .coreReset .. | .coreDiscardCtx .. | .attemptBegin .. | .suspectReplay ..
  | .secondRoundReduction .. | .seqLossNonfinite .. | .updateStageU2 .. | .updateStageU3 .. | .updateStageU5 ..
  | .errorFiled .. | .soundingSlice .. | .soundingSliceEnd .. | .soundWinArm .. | .soundOverdue .. | .integRestore ..
  | .integUnmask .. | .slotServe .. | .calPeriodExpiry .. | .calRetrain ..
  | .stackTempRead .. | .pcSwitchArm .. | .shareSwitchApply .. | .bankSwitchArm .. | .bankSwitchApply ..
  | .psMapWrite .. | .linkTrainingDone .. | .linkTrainingTimeout .. | .linkIdentify .. | .codewordLockLost ..
  | .linkLossTimeout .. | .linkDisable .. | .linkRetrain .. | .linkTest .. | .packetHeadRoute .. | .causewayThreshold ..
  | .doneRecordFlush .. | .treeArrive .. | .treeRelease .. | .treeOwnerMessage .. | .treeAbort .. | .markerEcho ..
  | .fabricDrained .. | .objCmdWord0 .. | .objClaim .. | .objRearm .. | .objRetire .. | .waitWatchdog ..
  | .barrierWatchdog .. | .inputSample .. | .capCompare .. | .capUnmet .. | .powerCapWrite .. | .backstopEngage ..
  | .backstopRelease .. | .clockGlideStep .. | .energyRead .. | .tempSensorRead .. | .thermalClockStep ..
  | .railOutOfRange .. | .trip .. | .thrComputeWrite .. | .pwrEn .. | .presentN .. | .thermTripN .. | .resetN ..
  | .holdN .. | .chatterExit .. | .powerDownComplete .. | .hjelperWatchdogKick .. | .hjelperWatchdogReset ..
  | .hjelperRestart .. | .activationRevert .. | .refclkLoss .. | .refclkReturn .. | .slotSelect .. | .ethPortUp ..
  | .arpRequest .. | .neighbourSolicitation .. | .icmpEcho .. | .reassemblyTimeout .. | .sessionIdleTimeout ..
  | .hello .. | .finish .. | .ident .. | .statusVerb .. | .attest .. | .peek .. | .suspendStream .. | .resumeStream ..
  | .cancelStream .. | .streamQuiesced .. | .holdStep .. | .releaseStep .. | .verdict .. | .checkpoint ..
  | .checkpointWrite .. | .drainFabric .. | .tableLoad .. | .undrain .. | .syncDump .. | .logRead .. | .peatRead ..
  | .updateBegin .. | .updateChunk .. | .updateCommit .. | .updateActivate .. | .margin .. | .pattern ..
  | .keyDeliver .. | .streamOpen .. | .streamClose .. | .eventAck .. | .eventResend .. | .ingestRecord ..
  | .egressRecordWrite .. | .loadRecord .. | .roceAck .. | .roceAckTimeout .. | .cnpReceive .. | .rateIncrease ..
  | .registerWrite .. | .coreBaseInstruction .. | .outputPortCycle .. | .patternCheckerLock .. | .inputPathChange ..
  | .loadReadIssue .. | .creditRecord .. | .jobUnload .. | .checkBegin .. => true

end Sys2Proof
end

