-- ==== Sys2Proof/Tests/Slice0.lean ====
section
/-!
SUPPORT. Tests: small states that meet the hypotheses of every statement, clause by clause, one ill-formed command for each check
of WellFormed, and a few values taken from the manual's rules.
-/

open Sys2Proof Sys2Proof.Machine
namespace Sys2Proof.Tests
set_option Elab.async false

/-! ## States used below -/

/-- The module in service with Hjelper running, every die calibrated and powered, port E7 up. -/
def live : State :=
  { ((State.reset.rset Reg.MODULE_STATE_STATE 4).rset Reg.HJ_STATUS_STATE 1).rset (Reg.PORT_STATUS_UP 7) 1 with
    board := { State.reset.board with
      calDone := BitVec.allOnes _
      booted := true
      hjUp := true } }
/-- A plank used in the tests: the last one. -/
def lastP : PlankId := 159
/-- A core that runs, with nothing waiting. -/
def withCore (s : State) (p : Nat) : State := setCore s p CoreSt.running
/-- The same core at a register value. -/
def coreAt (r : XReg) (v : Word64) : State := (withCore live 159).setX 159 r v

/-! ## The array -/

/-- A pass of accumulator 1 at plank-store offset 0. -/
def somePass : PassRun := ⟨fset 0 Desc.SEL 1, 0, 0, 0, 0, 0, 0, none⟩
/-- Every bank of the last plank belongs to the owner code given. -/
def banksOf (code : Nat) (s : State) : State :=
  (s.setWord (Reg.BANK_OWN_LO_OWN 159).off (BitVec.ofNat 64 (code * 0x1111111111111111))).setWord (Reg.BANK_OWN_HI_OWN 159).off
    (BitVec.ofNat 64 (code * 0x1111111111111111))
/-- The array of the last plank with something in it. -/
def array (f : Plank → Plank) : State := banksOf 1 (live.modPlank 159 f)

theorem test_pass_issue_meets : coreReady (coreAt 31 32) 159 = true ∧ stopDue (coreAt 31 32) 159 = false ∧
    ((coreAt 31 32).xreg 159 31).toNat % 32 = 0 ∧ slotFull (coreAt 31 32) 159 = false := by decide +kernel
theorem test_pass_begin_meets : mayBegin (array (fun k => { k with wait := some somePass })) 159 somePass = true := by
  decide +kernel
theorem test_pass_end_meets : ∃ s : State, (s.plank 159).run = some somePass ∧
    accState s 159 (fget somePass.desc Desc.SEL) = AccSt.accumulating :=
  ⟨setAccState (array (fun k => { k with run := some somePass })) 159 1 AccSt.accumulating, by decide +kernel⟩
theorem test_sedge_segment_meets : ∃ (s : State) (j : SegJob), (s.plank 159).segs = [j] ∧ segFault s 159 [j] .clean = none :=
  ⟨array (fun k => { k with segs := [⟨0, 0, 0, 0, 0, 0, 1, true, []⟩] }), ⟨0, 0, 0, 0, 0, 0, 1, true, []⟩, by decide +kernel⟩
theorem test_drain_begin_meets : drainBusy (setAccState live 159 1 AccSt.pending) 159 = false ∧
    drainNext (setAccState live 159 1 AccSt.pending) 159 = some 1 := by decide +kernel
theorem test_drain_complete_meets : accState (setAccState live 159 0 AccSt.draining) 159 0 = AccSt.draining ∧
    accState (setAccState live 159 1 AccSt.draining) 159 0 ≠ AccSt.draining ∧
    accState (setAccState live 159 1 AccSt.draining) 159 1 = AccSt.draining := by decide +kernel

theorem test_plank_control_meets : blockCause live (Reg.PLANK_CTL_SUSPEND 159).off = 0 := by decide +kernel

/-- A plank that suspends with a pass of four K-blocks under way. -/
def suspends : State := setPlankState (setAccState (array (fun k => { k with
    run := some { somePass with desc := fset somePass.desc Desc.K_BLOCKS_M1 3 } })) 159 1 AccSt.accumulating) 159 PlankSt.suspending
theorem test_spill_start_meets : plankState (setPlankState live 159 2) 159 = PlankSt.suspending ∧
    (live.plank 159).spilling = false ∧ (live.plank 159).reload = none ∧ (live.plank 159).run = none ∧
    live.rbit (Reg.SOUND_STATUS_RUNNING 159) = false ∧ accState live 159 1 ≠ AccSt.pending ∧
    drainBusy (setPlankState live 159 2) 159 = false ∧ accState (setPlankState live 159 2) 159 0 ≠ AccSt.pending ∧
    segFault (setPlankState live 159 2) 159 (segsDone ((setPlankState live 159 2).plank 159).segs 0) .clean = none := by
  decide +kernel
theorem test_spill_of_a_pass_meets : plankState suspends 159 = PlankSt.suspending ∧ drainBusy suspends 159 = false ∧
    suspends.rbit (Reg.SOUND_STATUS_RUNNING 159) = false ∧ accState suspends 159 1 = AccSt.accumulating ∧
    ((suspends.plank 159).run.map (fun r => (decide (3 < passBlocks r.desc),
      (feedCheck suspends 159 r (getAcc suspends 159 1).sampled).isNone))) = some (true, true) ∧
    segFault suspends 159 (segsDone (suspends.plank 159).segs 3) .clean = none := by decide +kernel
theorem test_spill_reload_meets : ∃ s : State, (s.plank 159).reload = some somePass ∧
    firstBad s 159 [ownCells] (reloadRanges s 159) = none ∧ storeErrs s 159 .clean (reloadRanges s 159) = 0 :=
  ⟨array (fun k => { k with reload := some somePass }), by decide +kernel⟩

theorem test_image_issue_meets : coreReady (coreAt 31 0xFFF000) 159 = true ∧
    ((coreAt 31 0xFFF000).xreg 159 31).toNat % 4096 = 0 ∧ ((coreAt 31 0xFFF000).plank 159).image = none := by decide +kernel
/-- An add-out or load-in of accumulator 0 and the image at 0. -/
def someImage (load begun : Bool) : ImageReq := ⟨load, 0, 0, 5, begun, 0, false⟩
theorem test_image_begin_meets (load : Bool) : ∃ s, imageWaiting s 159 = some (someImage load false) ∧
    imageReady s 159 (someImage load false) = true :=
  ⟨array (fun k => { k with image := some (someImage load false) }), by revert load; decide +kernel⟩
theorem test_image_complete_meets (load : Bool) : ∃ s : State, (s.plank 159).image = some (someImage load true) ∧
    firstBad s 159 [ownCells] (chkSums s 159 (getAcc s 159 0) ++ imageRanges 0) = none ∧
    storeErrs s 159 .clean (imageRanges 0) = 0 :=
  ⟨array (fun k => { k with image := some (someImage load true) }), by revert load; decide +kernel⟩

/-! ## The vector engine and the plank core -/

theorem test_core_fences_hold : ∃ s, coreReady s 159 = true ∧ plankState s 159 ≠ PlankSt.faulted ∧
    (s.plank 159).run.isSome = true ∧ slotFull s 159 = true ∧ accState s 159 0 = AccSt.pending ∧ accState s 159 1 = AccSt.draining ∧
    (s.plank 159).port2 ≠ [] ∧ (s.plank 159).port3 ≠ [] := ⟨setAccState (setAccState ((coreAt 31 0).modPlank 159 (fun k => { k with
      run := some somePass
      wait := some somePass
      port2 := [⟨0, 0, 0⟩]
      port3 := [⟨0, 0, 0⟩] })) 159 0 AccSt.pending) 159 1 AccSt.draining, by decide +kernel⟩
theorem test_core_fences_of_held_and_faulted_meet : ∃ s t, coreReady s 159 = true ∧ plankState s 159 ≠ PlankSt.faulted ∧
    accState s 159 0 = AccSt.held ∧ accState s 159 1 = AccSt.held ∧ coreReady t 159 = true ∧ plankState t 159 = PlankSt.faulted :=
  ⟨setAccState (setAccState (coreAt 31 0) 159 0 AccSt.held) 159 1 AccSt.held, setPlankState (coreAt 31 0) 159 PlankSt.faulted,
    by decide +kernel⟩
theorem test_core_fences_meet : coreReady (coreAt 31 0) 159 = true ∧ plankState (coreAt 31 0) 159 ≠ PlankSt.faulted ∧
    accState (coreAt 31 0) 159 0 = AccSt.free ∧ accState (coreAt 31 0) 159 1 = AccSt.free ∧
    ((coreAt 31 0).plank 159).port2 = [] ∧ ((coreAt 31 0).plank 159).port3 = [] := by decide +kernel
theorem test_vec_issue_meets : vecRefusal (coreAt 31 1) 159 ((coreAt 31 1).xreg 159 31) = 0 ∧
    portFull (coreAt 31 1) 159 ((coreAt 31 1).xreg 159 31) = false := by decide +kernel

/-- An instruction of the code given: VD 0, VA 0, VB 1. -/
def vec (opc : Nat) : VecSlot := ⟨7, fset (fset (0 : Word64) Vec.OPC opc) Vec.VB 1, 0⟩
/-- It stands first on port 2; V0 has 1.0 and V1 has -2.0 in lane 511. -/
def lanes (opc : Nat) : State := live.modPlank 159 (fun k => { k with
  port2 := [vec opc]
  v := [(511, 0x3F800000), (1023, 0xC0000000)] })
theorem test_lane_instructions_meet : ∀ opc : Fin 256, ((lanes opc).plank 159).port2 = [vec opc] ∧
    fget (vec opc).word Vec.OPC = opc := by decide +kernel
theorem test_tab_ld_meets : imageNamed (lanes 0x50) 159 ((lanes 0x50).rget (slotF 159 3)) = false := by decide +kernel

/-- It stands first on port 3, and the vector engine owns every bank. -/
def onPort3 (opc : Nat) : State := banksOf 2 (live.modPlank 159 (fun k => { k with port3 := [vec opc] }))
theorem test_stream_instructions_meet : ∀ opc ∈ [0x42, 0x43, 0x48, 0x49, 0x70, 0x74, 0x78, 0x7C, 0x7E],
    StreamClear (onPort3 opc) lastP (vec opc) [] noRanges ∧ fget (vec opc).word Vec.OPC = opc := by
  intro opc h
  exact ⟨⟨by revert opc; decide +kernel, by revert opc; decide +kernel, by revert opc; decide +kernel,
    by revert opc; decide +kernel⟩, by revert opc; decide +kernel⟩
theorem test_stream_writers_meet : StreamClear (onPort3 0x40) lastP (vec 0x40) [] (fun s o => cvtWrites s lastP o) ∧
    StreamClear (onPort3 0x41) lastP (vec 0x41) [] (fun s o => cvtRbReads s lastP o) ∧
    StreamClear (onPort3 0x7F) lastP (vec 0x7F) [] (fun s o => (chkRanges s lastP o, [])) ∧
    StreamClear (onPort3 0x80) lastP (vec 0x80) [] (fun s o => adamWord s lastP o) :=
  ⟨⟨by decide +kernel, by decide +kernel, by decide +kernel, by decide +kernel⟩,
    ⟨by decide +kernel, by decide +kernel, by decide +kernel, by decide +kernel⟩,
    ⟨by decide +kernel, by decide +kernel, by decide +kernel, by decide +kernel⟩,
    ⟨by decide +kernel, by decide +kernel, by decide +kernel, by decide +kernel⟩⟩

/-! ## Synchronisation, streams and transfers of a core -/

/-- An Active object of the value given under the highest number, on this chip, which is number 0 in these tests. -/
def withObj (v : Nat) (s : State) : State := s.setObj 32767 (fset (fset (objReset 32767) Obj.STATE 1) Obj.VALUE v)
/-- A core whose x31 names that object and whose x30 holds a target of 5. -/
def waiter (v : Nat) : State := withObj v ((coreAt 31 0x7FFF).setX 159 30 5)
theorem test_wait_on_reached_meets : coreReady (waiter 5) 159 = true ∧ suspPend (waiter 5) 159 = false ∧
    bit ((waiter 5).xreg 159 31).toNat 15 = false ∧ bits ((waiter 5).xreg 159 31).toNat 16 14 = chipNo (waiter 5) ∧
    fget ((waiter 5).obj 32767) Obj.STATE ≠ 0 ∧ waitStatus (waiter 5) 32767 5 = some 0 := by decide +kernel
theorem test_wait_window : waitStatus (waiter 4) 32767 5 = none ∧ waitStatus (waiter 0x80000004) 32767 5 = some 0 ∧
    waitStatus (waiter 0x80000005) 32767 5 = none := by decide +kernel
theorem test_wait_traps_meet : fget ((coreAt 31 0x7FFF).obj 32767) Obj.STATE = 0 ∧
    ((coreAt 31 0x8000).xreg 159 31).getLsbD 15 = true ∧ coreReady (coreAt 31 0x8000) 159 = true := by decide +kernel
theorem test_release_without_record_meets : ∀ j, plankJob (waiter 5) 159 = some j → j.red = none := by
  have h : plankJob (waiter 5) 159 = none := by decide +kernel
  simp [h]
theorem test_wait_on_orphaned_meets : ∃ s, coreReady s 159 = true ∧ bits (s.xreg 159 31).toNat 16 14 = chipNo s ∧
    fget (s.obj 32767) Obj.STATE = 3 ∧ fget (s.obj 32767) Obj.CAUSE = 2 :=
  ⟨(waiter 5).setObj 32767 (fset (fset (objReset 32767) Obj.STATE 3) Obj.CAUSE 2), by decide +kernel⟩

/-- A fill entry of one pass at the last 64 bytes of the plank store, and a ring of one entry. -/
def fillState : State := ((banksOf 3 (coreAt 31 0xFFFFC0)).storeRec (storeBase 159 + 0xFFFFC0) (fset (0 : BitVec 512) Fill.PASSES 1)).rset
  (Reg.FILL_RING_SIZE 159) 1
theorem test_fill_enq_meets : firstBad fillState 159 [ownCore] [(0xFFFFC0, 64), fillRing fillState 159] = none ∧
    storeBad fillState 159 [ownCore] (fillRing fillState 159) = none ∧ coreReady fillState 159 = true ∧ (fillState.xreg 159 31).toNat = 0xFFFFC0 ∧
    storeErrs fillState 159 .clean [(0xFFFFC0, 64)] = 0 ∧
    fget ((eccCounts fillState 159 .clean 0).recAt (storeBase 159 + 0xFFFFC0) 512) Fill.PASSES ≠ 0 ∧
    ((eccCounts fillState 159 .clean 0).plank 159).fillN < fillState.rget (Reg.FILL_RING_SIZE 159) := by decide +kernel
theorem test_fill_flush_meets : (fillState.plank 159).fillN = 0 ∧ ∃ s, coreReady s 159 = true ∧ (s.plank 159).fillN ≠ 0 ∧
    storeBad s 159 [ownCore] (fillRing s 159) = none :=
  ⟨by decide +kernel, fillState.modPlank 159 (fun k => { k with fillN := 1 }), by decide +kernel⟩
theorem test_ilv_next_meets : ((coreAt 31 0).rset (Reg.ILV_EN 159) 1).rbit (Reg.ILV_EN 159) = true ∧
    coreReady ((coreAt 31 0).rset (Reg.ILV_EN 159) 1) 159 = true := by decide +kernel

/-- The core waits on the object with target 5. -/
def waiting (v : Nat) : State := waitBegins (waiter v) 159 1 32767 5
theorem test_waiting_core_meets : storeBad (waiting 4) 159 [ownCore] (fillRing (waiting 4) 159) = none ∧ waitHolds (waiting 4) 159 = true ∧ suspPend (waiting 4) 159 = false ∧
    waitStatus (waiting 4) 32767 5 = none ∧ ((waiting 4).plank 159).waitRd = some 1 ∧
    (waiting 4).rget (Reg.WAIT_STATE_OBJ 159) = 32767 ∧ (waiting 4).rget (Reg.WAIT_STATE_TARGET 159) = 5 ∧
    waitStatus (withObj 5 (waiting 4)) 32767 5 = some 0 ∧ waitHolds (withObj 5 (waiting 4)) 159 = true := by decide +kernel

/-- A transfer of one line within the plank's store, all banks the core's, its descriptor at 0. -/
def xferState : State := (banksOf 3 (coreAt 31 0)).storeRec (storeBase 159) (fset (fset (fset (0 : BitVec 512)
  Xd.SRC_OFS (storeBase 159)) Xd.DST_OFS (storeBase 159 + 64)) Xd.LENGTH 64)
theorem test_xfer_meets : ∃ d t, d = (eccCounts xferState 159 .clean 0).recAt (storeBase 159) 512 ∧
    t = applyHandovers (eccCounts xferState 159 .clean 0) ∧ coreReady xferState 159 = true ∧
    storeBad xferState 159 [ownCore, ownTransfer] (0, 64) = none ∧ storeErrs xferState 159 .clean [(0, 64)] = 0 ∧ xferForm t 159 d = none ∧
    runsBad t 159 (xferRuns t d) = none ∧ xferChans t 159 d = .inl [] ∧ fget d Xd.SRC_CHIP = chipNo t ∧
    fget d Xd.DST_CHIP = chipNo t ∧ outstanding t (plankLinkDie t 159) ≠ 4096 := by
  refine ⟨_, _, rfl, rfl, ?_⟩; decide +kernel
/-- A core whose x31 names an object of chip 1. -/
def farSignal : State := coreAt 31 0x17FFF
theorem test_far_signal_meets : coreReady farSignal 159 = true ∧ bit (farSignal.xreg 159 31).toNat 15 = false ∧
    bits (farSignal.xreg 159 31).toNat 16 14 ≠ chipNo (applyHandovers farSignal) ∧
    plankInject (applyHandovers farSignal) 159 = none ∧
    (plankInject (setChan farSignal (chanIndex 7 (dieOfLink 11) 1) 159) 159).isSome = true := by decide +kernel
theorem test_strm_end_meets : coreReady (coreAt 30 2) 159 = true ∧ ((coreAt 30 2).xreg 159 30).toNat ≤ 2 := by decide +kernel

/-- A transfer whose last write is done. -/
def lastXfer : Xfer := ⟨9, 159, 0, 0, 0, false, 3, 0, true, 0, [], 0, [], false⟩
theorem test_xfer_complete_meets : ∃ s, findXfer s 9 = some lastXfer ∧ lastXfer.num = 9 ∧ lastXfer.writing = true ∧
    lastXfer.left = 0 := ⟨{ live with fab := { live.fab with xfers := [lastXfer] } }, by decide +kernel⟩
theorem test_auto_reset_meets : ∃ s, coreState s 159 = CoreSt.trapped ∧ s.rget Reg.HJ_STATUS_STATE = 1 :=
  ⟨setCore live 159 CoreSt.trapped, by decide +kernel⟩
/-- A core that is asked to suspend. -/
def asked (s : State) : State := s.rset (Reg.CORE_STATUS_SUSP_PEND 159) 1
theorem test_quiesce_meets : ∃ s q, suspPend s 159 = true ∧ coreActive s 159 = true ∧ (s.plank 159).quiesce = none ∧ qpOnly s 159 = false ∧
    s.rbit (Reg.WAIT_STATE_WAITING 159) = false ∧ (s.plank 159).held = some q :=
  ⟨asked ((coreAt 1 0).modPlank 159 (fun k => { k with held := some 2 })), 2, by decide +kernel⟩
theorem test_quiesce_of_a_wait_meets : suspPend (asked (waiting 4)) 159 = true ∧ coreActive (asked (waiting 4)) 159 = true ∧
    ((asked (waiting 4)).plank 159).quiesce = none ∧ qpOnly (asked (waiting 4)) 159 = false ∧ (asked (waiting 4)).rbit (Reg.WAIT_STATE_WAITING 159) = true := by
  decide +kernel
theorem test_context_meets : ∃ s q, (s.plank 159).quiesce = some q ∧ coreActive s 159 = true ∧ s.fab.xfers = [] ∧
    arrayQuiet s 159 = true ∧ (s.plank 159).ctxLost = false ∧
    firstBad s 159 [ownCells] [(ctxOff s 159, ctxBytes)] = none :=
  ⟨setPlankState (banksOf 1 ((coreAt 1 0).modPlank 159 (fun k => { k with quiesce := some 0 }))) 159 PlankSt.suspended, 0,
    by decide +kernel⟩
theorem test_resume_meets : ∃ s, coreState s 159 = CoreSt.quiesced ∧ s.rbit (Reg.CORE_STATUS_CTX_VALID 159) = true ∧
    (s.plank 159).stream = some 8191 ∧ streamState s 8191 = St.running ∧
    firstBad s 159 [ownCells] [(ctxOff s 159, ctxBytes)] = none ∧ poisonCount s 159 (ctxOff s 159, ctxBytes) = 0 :=
  ⟨strmSet ((setCore (banksOf 1 (live.modPlank 159 (fun k => { k with stream := some 8191 }))) 159 CoreSt.quiesced).rset
    (Reg.CORE_STATUS_CTX_VALID 159) 1) 8191 Strm.STATE St.running, by decide +kernel⟩
/-- A core whose pc names addi x1, x0, -1 (0xFFF00093) in its instruction memory. -/
def addiState : State := ((coreAt 31 0).modPlank 159 (fun k => { k with imem := [(0, 0x93), (2, 0xF0), (3, 0xFF)] })).setPc 159
  imemBase
theorem test_addi : coreReady addiState 159 = true ∧ (match (coreFetch addiState 159 .clean).1 with
    | .goes t pc => t.xreg 159 1 == BitVec.allOnes 64 && pc == imemBase + 4
    | _ => false) = true := by decide +kernel

/-- A core whose pc names a word of its instruction memory. -/
def coreWith (w : Nat) : State := ((coreAt 31 (BitVec.ofNat 64 (dmemBase + 0x10000))).modPlank 159 (fun k => { k with
  imem := kputs noByte [] 0 (leBytes 4 w) })).setPc 159 imemBase
/-- A word of each form of a base instruction, with its operands at the ends of their ranges. -/
theorem test_base_forms_meet : ∀ w ∈ [rWord 0x33 5 0x20 31 30 29, rWord 0x33 7 1 31 30 29, rWord 0x3B 0 0x20 31 30 29, encI 0x13 7 31 30 0xFFF,
    encI 0x13 1 31 30 63, encI 0x13 5 31 30 63, encI 0x13 5 31 30 (0x400 + 63), encI 0x1B 0 31 30 0xFFF, 0x37 + 31 * 2 ^ 7 + 0xFFFFF * 2 ^ 12,
    0x17 + 31 * 2 ^ 7 + 0xFFFFF * 2 ^ 12, encJ 0x1FFFFE + 31 * 2 ^ 7, encI 0x67 0 31 30 0xFFF, encB 7 31 0x1FFE + 30 * 2 ^ 20,
    encI 0x0F 1 31 30 0xFFF, encI 0x03 3 30 31 0xFF8, encI 0x03 4 30 31 0xFFF, encS 3 31 30 0xFF8, encS 0 31 30 0xFFF],
    coreReady (coreWith w) 159 = true ∧ CoreWordAt (coreWith w) 159 w (imemBase + 4) := by
  unfold CoreWordAt
  decide +kernel
/-- c.addi x1, -1 (0x10FD) stands for addi x1, x1, -1, and ends after two bytes; sub on the low halves has a result; the last bytes of
the data memory may be reached. -/
theorem test_short_form_meets : CoreWordAt (coreWith 0x10FD) 159 (encI 0x13 0 1 1 0xFFF) (imemBase + 2) ∧
    (aluOp32 0 0x20 1 2).isSome = true ∧ ∀ i ∈ [(0xFF8, 8, 0xFFF8), (0xFFF, 1, 0xFFFF)],
      ((coreWith 0).xreg 159 31 + (BitVec.ofNat 12 i.1).signExtend 64).toNat = dmemBase + i.2.2 ∧ i.2.2 + i.2.1 ≤ 0x10000 := by
  unfold CoreWordAt
  decide +kernel

/-! ## The step transaction and integrity -/

/-- Lists of a job with one ingest-free training stream 1 and a stepless stream 2, both on tree map 15. -/
def lists : JobLists := ⟨0, 0, [], [⟨1, 0, 15⟩, ⟨2, 1, 15⟩], [], [], [], [], 0, [], false, [], [], []⟩
/-- Job 7, at a place of its step. -/
def job (phase stage verdict : Nat) (final : Bool) : Job :=
  { newJob live 0 lists with
    id := 7
    phase := phase
    stage := stage
    verdict := verdict
    final := final
    digest := []
    code := [] }
/-- The module, alone on tree map 15, with a job whose streams are in a state. -/
def withJob (j : Job) (st : Nat) : State :=
  let s := ((live.rset (Reg.TREE_PRESENT 15 0) 1).rset (Reg.TREE_MASK 15 0) 1)
  let s := (s.setStrm 1 (fset 0 Strm.STATE st)).setStrm 2 (fset (fset (fset 0 Strm.STATE st) Strm.KIND 1) Strm.JOB 7)
  { s with jobs := [j] }

theorem test_check_begin_meets : findJob (withJob (job 1 0 0 false) 2) 7 = some (job 1 0 0 false) ∧
    findJob (withJob (job 4 0 0 false) 2) 7 = some (job 4 0 0 false) ∧
    ∀ p ∈ jobPlanks ((withJob (job 4 0 0 false) 2).modPlank 159 (fun k => { k with stream := some 1 })) 7,
      partEnded ((withJob (job 4 0 0 false) 2).modPlank 159 (fun k => { k with stream := some 1 })) p = true := by decide +kernel
theorem test_reduction_meets : ∃ s j c, findJob s 7 = some j ∧ j.own = some c ∧ j.phase = 5 ∧ j.final = false ∧ j.red = none ∧
    treeGroup s (jobTree j) = [chipNo s] :=
  ⟨withJob { job 5 0 0 false with own := some (emptyCheck (job 5 0 0 false)) } 2, _, _, rfl, rfl, rfl, rfl, rfl, by decide +kernel⟩
theorem test_alone_on_a_tree (s : State) (t : Nat) (h : treeGroup s t = [chipNo s]) : allContributed s t [] = true := by
  simp [allContributed, h]
theorem test_next_attempt_meets : ∀ v ∈ [Vd.reblock, Vd.held], findJob (withJob (job 5 0 v true) 2) 7 = some (job 5 0 v true) ∧
    (job 5 0 v true).attempt < 15 := by decide +kernel
theorem test_first_attempt_meets : findJob (withJob (job 0 0 0 false) 2) 7 = some (job 0 0 0 false) ∧
    ∃ n ∈ stepStreams (job 0 0 0 false), streamKind (withJob (job 0 0 0 false) 2) n = 0 ∧
      streamState (withJob (job 0 0 0 false) 2) n = St.running := by decide +kernel
/-- Job 7 in Suspect, with two replay slots and a capsule in the first. -/
def suspectJob (n : Nat) : Job := { job 5 0 Vd.suspect false with
  man := fset 0 Man.REPLAY_SLOTS 2
  replayed := n
  red := some (emptyCheck (job 5 0 0 false)) }
def suspectState (n : Nat) : State := (withJob (suspectJob n) 2).store (capsuleOff (suspectJob n) 0) [1]
theorem test_suspect_meets : findJob (suspectState 0) 7 = some (suspectJob 0) ∧ 0 ∈ capsules (suspectState 0) (suspectJob 0) ∧
    replayReady (suspectState 0) (capsuleOff (suspectJob 0) 0) = true ∧ findJob (suspectState 1) 7 = some (suspectJob 1) ∧ (capsules (suspectState 1) (suspectJob 1)).length ≤ 1 ∧
    treeGroup (suspectState 1) (jobTree (suspectJob 1)) = [chipNo (suspectState 1)] := by decide +kernel
theorem test_update_meets : ∀ st ∈ [0, 1, 2, 3, 4], findJob (withJob (job 6 st 0 false) 2) 7 = some (job 6 st 0 false) ∧
    ckptBusy (withJob (job 6 st 0 false) 2) (job 6 st 0 false) = false ∧
    (∀ p, p < 160 → blocksDone (withJob (job 6 st 0 false) 2) (job 6 st 0 false) p = true) ∧
    updatedTids (job 6 st 0 false) = [] ∧ napTids (withJob (job 6 st 0 false) 2) (job 6 st 0 false) = [] := by decide +kernel
theorem test_telemetry_meets : ∀ t ∈ updatedTids { job 6 4 0 false with lists := { lists with blocks := [(159, 5)] } },
    ∃ x ∈ [(⟨5, []⟩ : TelemPart), ⟨6, []⟩], x.tid.toNat = t := by decide +kernel
theorem test_void_meets : findJob (withJob (job 5 0 Vd.void true) 2) 7 = some (job 5 0 Vd.void true) := by decide +kernel
theorem test_evaluation_meets : ∀ st ∈ [St.running, St.suspending],
    findJob (withJob (job 0 0 0 false) st) 7 = some (job 0 0 0 false) ∧ streamKind (withJob (job 0 0 0 false) st) 2 = 1 ∧
    fget ((withJob (job 0 0 0 false) st).strm 2) Strm.JOB = 7 ∧ streamState (withJob (job 0 0 0 false) st) 2 = st ∧
    treeGroup (withJob (job 0 0 0 false) st) (streamTree (job 0 0 0 false) 2) = [chipNo (withJob (job 0 0 0 false) st)] ∧
    ∀ i ∈ evalCapsules (withJob (job 0 0 0 false) st) (job 0 0 0 false),
      replayReady (withJob (job 0 0 0 false) st) (capsuleOff (job 0 0 0 false) i) = true := by decide +kernel
theorem test_unload_meets : ∀ n ∈ jobStreams (job 0 0 0 false), streamEnded (withJob (job 0 0 0 false) St.done) n = true := by
  decide +kernel

theorem test_integrity_meets : maySound (live.rset (Reg.SOUND_WIN_REMAIN 159) 1) 159 = true ∧
    (live.rset (Reg.SOUND_STATUS_RUNNING 159) 1).rbit (Reg.SOUND_STATUS_RUNNING 159) = true ∧ maskedPlank live 159 = false ∧
    blockCause live (Reg.SOUND_WIN_ARM 159).off = 0 ∧ blockCause live (Reg.INTEG_CTL_RESTORE 159).off = 0 ∧ live.jobs = [] := by
  decide +kernel

/-! ## Memory -/

/-- Stack 7 serves; the last pseudo-channel has a read of offset 0 in the queue of the owner of its slot. -/
def stack : State := live.rset (Reg.STACK_STATUS_STATE 7) 2
def oneRead : HbmReq := ⟨false, 0, ⟨[], false⟩, .xfer 0, 0⟩
def queued : State := setPcState stack 7 63 { getPc stack 7 63 with
  queues := [(shareOwner stack 7 63 0, [oneRead])]
  slot := 200 }
theorem test_slot_meets : stackServes queued 7 = true ∧ inSlice (getPc queued 7 63) 63 = false ∧
    kget (fun _ => []) (getPc queued 7 63).queues (shareOwner queued 7 63 ((getPc queued 7 63).slot % 200)) = [oneRead] ∧
    (getPc queued 7 63).refresh = [] ∧ 3 ≤ (getPc queued 7 63).sinceAct ∧ (getPc queued 7 63).lastWrite = none := by
  decide +kernel
/-- That request meets each condition under which a slot passes idle: its bank under refresh, a row to be opened at once after another,
and a reversal of the direction. -/
theorem test_idle_slots_meet : ∀ x ∈ [{ getPc queued 7 63 with refresh := [(hbmBank 0, 1)] }, { getPc queued 7 63 with sinceAct := 2 },
    { getPc queued 7 63 with lastWrite := some true }], ∃ s, stackServes s 7 = true ∧ inSlice (getPc s 7 63) 63 = false ∧
      kget (fun _ => []) (getPc s 7 63).queues (shareOwner s 7 63 ((getPc s 7 63).slot % 200)) = [oneRead] ∧
      ((getPc s 7 63).lastWrite = none ∧ ((∃ e ∈ (getPc s 7 63).refresh, e.1 = hbmBank oneRead.off) ∨
        (((getPc s 7 63).rows.find? (fun e => e.1 == hbmBank oneRead.off)).map (·.2) ≠ some (hbmRow oneRead.off) ∧
          (getPc s 7 63).sinceAct < 3)) ∨
        ((getPc s 7 63).lastWrite = some (!oneRead.write) ∧ shareOwner s 7 63 ((getPc s 7 63).slot % 200) ∉ (getPc s 7 63).turned)) := by
  intro x h
  refine ⟨setPcState stack 7 63 x, ?_⟩
  revert x
  decide +kernel
theorem test_empty_slot_meets : stackServes stack 7 = true ∧ kget (fun _ => []) (getPc stack 7 63).queues
    (shareOwner stack 7 63 ((getPc stack 7 63).slot % 200)) = [] := by decide +kernel
theorem test_slice_meets : ∃ slot, inSlice { getPc stack 7 63 with slot := slot } 63 = true ∧
    stackServes (setPcState stack 7 63 { getPc stack 7 63 with slot := slot }) 7 = true := ⟨37800, by decide +kernel⟩
theorem test_margin_point_meets : ∃ s, stackServes s 7 = false ∧ (getPc s 7 63).points ≠ [] :=
  ⟨setPcState live 7 63 { getPc live 7 63 with points := [255] }, by decide +kernel⟩
theorem test_calibration_meets : stackServes stack 7 = true ∧ blockCause stack (Reg.CAL_CTL_RETRAIN 7).off = 0 ∧
    (stack.rset (Reg.CAL_CTL_CAL_PERIOD 7) 1).rget (Reg.CAL_CTL_CAL_PERIOD 7) ≠ 0 ∧
    (getPc (setPcState stack 7 63 { getPc stack 7 63 with train := 1 }) 7 63).train = 1 := by decide +kernel

theorem test_switch_arm_meets : blockCause live (Reg.PC_SWITCH_ARM 7 63).off = 0 ∧
    live.rbit (Reg.PC_STATUS_ARMED 7 63) = false ∧ blockCause live (Reg.BANK_SWITCH_ARM 159).off = 0 ∧
    live.rbit (Reg.BANK_SWITCH_ARMED 159) = false ∧ blockCause live (Reg.PS_MAP_SPAN 159).off = 0 := by decide +kernel
/-- A switch armed on the last object, which has reached its target; bank 31 is to change. -/
def armed : State := withObj 9 (((live.rset (Reg.PC_STATUS_ARMED 7 63) 1).rset (Reg.PC_SWITCH_OBJ 7 63) 32767).rset
  (Reg.PC_SWITCH_TARGET 7 63) 9)
def bankArmed : State := withObj 9 ((((live.rset (Reg.BANK_SWITCH_ARMED 159) 1).rset (Reg.BANK_SWITCH_OBJ 159) 32767).rset
  (Reg.BANK_SWITCH_TARGET 159) 9).rset (Reg.BANK_NEXT_HI_NEXT 159) (2 ^ 60))
theorem test_share_switch_meets : armed.rbit (Reg.PC_STATUS_ARMED 7 63) = true ∧ inSlice (getPc armed 7 63) 63 = false ∧
    objReached armed (armed.rget (Reg.PC_SWITCH_OBJ 7 63)) (armed.rget (Reg.PC_SWITCH_TARGET 7 63)) = true ∧
    (getPc armed 7 63).queues = [] := by decide +kernel
theorem test_masked_share_meets : ownsNothing (armed.rset (Reg.PLANK_STATUS_MASKED 159) 1) 159 = true := by decide +kernel
theorem test_bank_switch_meets : bankArmed.rbit (Reg.BANK_SWITCH_ARMED 159) = true ∧
    bankArmed.rbit (Reg.PLANK_STATUS_MASKED 159) = false ∧
    objReached bankArmed (bankArmed.rget (Reg.BANK_SWITCH_OBJ 159)) (bankArmed.rget (Reg.BANK_SWITCH_TARGET 159)) = true ∧
    bankNext bankArmed 159 31 ≠ bankOwner bankArmed 159 31 ∧
    ∀ b, b < 32 → bankNext bankArmed 159 b ≠ bankOwner bankArmed 159 b →
      b ∉ heldBanks bankArmed 159 ∧ b ∉ busyBanks bankArmed 159 := by decide +kernel

/-! ## Links and the router -/

/-- The last link in a state. -/
def link (st : Nat) : State := setLinkState live 47 st
/-- A frame of four slots with the SEQ and the lane codes given, and the CRC of its bytes. -/
def frame (seq lanes : Nat) : Frame :=
  let f : Frame := ⟨List.replicate 4 0, 0, fset (fset 0 Ctl.SEQ seq) (34, 23) lanes⟩
  { f with ctl := fset f.ctl Ctl.CRC (frameCrc f).toNat }
set_option maxRecDepth 100000 in
theorem test_frame_meets : linkState (link LinkSt.active) 47 = LinkSt.active ∧
    (∀ f ∈ [frame 0 0xFFF, frame 1 0xFF8], f.wellFormed = true ∧ fget f.ctl Ctl.CRC = (frameCrc f).toNat ∧
      fget f.ctl Ctl.SEQ = (if (List.range 4).all (fun i => slotLane f.ctl i == 7) then (getLink (link LinkSt.active) 47).rxSeq
        else ((getLink (link LinkSt.active) 47).rxSeq + 1) % 512)) := by decide +kernel
theorem test_training_meets : isTraining (link LinkSt.training) 47 = true ∧
    (getLink (link LinkSt.training) 47).failed < 2 ∧
    2 ≤ (getLink (modLink (link LinkSt.training) 47 (fun x => { x with failed := 2 })) 47).failed ∧
    isTraining (modLink (link LinkSt.training) 47 (fun x => { x with failed := 2 })) 47 = true := by decide +kernel
theorem test_link_states_meet : linkState (link LinkSt.identify) 47 = LinkSt.identify ∧ linkState (link LinkSt.failed) 47 ≠
    LinkSt.active ∧ (getLink (modLink (link LinkSt.down) 47 (fun x => { x with lost := true })) 47).lost = true ∧
    blockCause live (Reg.LINK_CTL_DISABLE 11 3).off = 0 := by decide +kernel
theorem test_marker_echo_meets : ∃ s, (getLink s 47).echoWait = [⟨[], [3]⟩, ⟨[2], []⟩] ∧ ∀ h ∈ s.fab.heads, h.id ∉ [3] :=
  ⟨{ modLink live 47 (fun x => { x with echoWait := [⟨[], [3]⟩, ⟨[2], []⟩] }) with fab := { live.fab with
    links := (modLink live 47 (fun x => { x with echoWait := [⟨[], [3]⟩, ⟨[2], []⟩] })).fab.links
    heads := [⟨4, 11, 16, 7, ⟨0, [], [], false⟩, none, none, false, [], false⟩] } }, by decide +kernel⟩

/-- A packet of a type for a chip, with its head at the last die. -/
def packet (ty dst : Nat) : Packet := ⟨fset (fset 0 Pk.TYPE ty) Pk.DST_CHIP dst, [], [], false⟩
def head (ty dst : Nat) (l : Option Nat) : Head := ⟨0, 11, 16, 7, packet ty dst, l, none, false, [], false⟩
def atHead (ty dst : Nat) (l : Option Nat) (s : State) : State := { s with fab := { s.fab with heads := [head ty dst l] } }
theorem test_head_route_meets : ∀ ty ∈ [0, 1, 8, 9], (dieHeads (atHead ty 0 none live) 11)[0]? = some (head ty 0 none) ∧
    heldBack (atHead ty 0 none live) (head ty 0 none) = false ∧ linkActive (link LinkSt.active) 47 = true ∧
    heldBack (atHead ty 5 (some 47) (link LinkSt.active)) (head ty 5 (some 47)) = false ∧
    (dieHeads (atHead ty 5 (some 47) (link LinkSt.active)) 11)[0]? = some (head ty 5 (some 47)) := by decide +kernel
/-- A routing table whose entry of member 5 leads to the first port, on link 47 alone. -/
def waitTable : List Byte := List.replicate 69 0 ++ [0x80, 5, 0x80] ++ List.replicate 4896 0 ++ [0x40] ++ List.replicate 215 0
/-- That link is Active and has no credit. -/
def noCredit : State :=
  let s := modLink (atHead 1 5 none (link LinkSt.active)) 47 (fun x => { x with credits := (List.range 7).map (fun i => (i, 0)) })
  { s with fab := { s.fab with table := waitTable } }
theorem test_causeway_meets : (dieHeads noCredit 11)[0]? = some (head 1 5 none) ∧
    heldBack noCredit (head 1 5 none) = false ∧ fget (head 1 5 none).pkt.hdr Pk.LANE ≠ 4 ∧
    routeHead noCredit 11 (head 1 5 none).pkt.hdr = .wait := by decide +kernel
theorem test_ports_meet : meshNeighbour 11 7 = true ∧ linkActive (tableTaken (link LinkSt.active) 11) 47 = true ∧
    linkState (tableTaken (link LinkSt.test) 11) 47 = LinkSt.test := by decide +kernel
theorem test_checker_meets : ∃ s, linkState s 47 = LinkSt.test ∧ s.rget (Reg.PAT_CTL_CHK 11 3 1) ≠ 0 := ⟨(link LinkSt.test).rset (Reg.PAT_CTL_CHK 11 3 1) 1, by decide +kernel⟩
theorem test_drained_meets : ∃ s, s.rget (Reg.FAB_STATUS_MODE 0) = 1 ∧ linkActive s 47 = true ∧
    (∀ l, l < 48 → linkActive s l = true → markBack (getLink s l) = true) ∧ (∀ d, d < 12 → routerHolds s d = false) ∧
    (∀ x ∈ s.fab.xfers, awaits s x = false) ∧ s.fab.dones = [] ∧ s.fab.serves = [] :=
  ⟨modLink ((link LinkSt.active).rset (Reg.FAB_STATUS_MODE 0) 1) 47 (fun x => { x with
    drainMark := 2
    echoes := 2 }), by decide +kernel⟩
theorem test_done_meets : ∃ (s : State) (x : DoneRec), (s.fab.dones.filter (fun x => x.die == 11))[0]? = some x :=
  ⟨{ live with fab := { live.fab with dones := [⟨11, 0, 0, 0, 0, 0, 0, 1⟩] } }, _, rfl⟩
theorem test_packets_meet : ∀ ty ∈ [1, 2, 3, 4, 5, 6, 7], forMe live ty (packet ty 0) = true := by decide +kernel
theorem test_flits_meet : ∀ k ∈ [1, 2, 3, 4], fget (fset (0 : BitVec 512) Tf.KIND k) Tf.KIND = k := by decide +kernel

/-! ## Objects -/

theorem test_object_words_meet : blockCause live (objCmdOff 32767 0) = 0 ∧ blockCause live (objCmdOff 32767 1) = 0 := by
  decide +kernel
/-- The last object in a state, owned by the writer of the tests. -/
def objIn (st : Nat) : State := live.setObj 32767 (fset (fset (objReset 32767) Obj.STATE st) Obj.OWNER 159)
theorem test_no_barrier_meets : live.fab.selfSig = [] ∧ ∀ b : BarId, live.rbit (Reg.BAR_VALID b) = false := by decide +kernel
theorem test_object_commands_meet : (objCommand live (.plank 159) 32767 1).isSome = true ∧
    (objCommand (objIn 1) (.plank 159) 32767 2).isSome = true ∧ (objCommand (objIn 3) (.plank 159) 32767 3).isSome = true ∧
    ownsObj (.plank 159) ((objIn 1).obj 32767) = true ∧ ownsObj (.plank 158) ((objIn 1).obj 32767) = false ∧
    fget (1 : Word64) OCmd.CMD = 1 ∧ fget (2 : Word64) OCmd.CMD = 2 ∧ fget (3 : Word64) OCmd.CMD = 3 := by decide +kernel
theorem test_watchdogs_meet : ∃ s, s.rbit (Reg.BAR_VALID 1023) = true ∧ s.rget Reg.BAR_WDOG_LIMIT ≠ 0 ∧ genBegun s 1023 = true ∧
    s.rbit (Reg.WAIT_STATE_WAITING 159) = true ∧ s.rget (Reg.WAIT_WDOG_LIMIT 159) ≠ 0 :=
  ⟨((((waiting 4).rset (Reg.BAR_VALID 1023) 1).rset Reg.BAR_WDOG_LIMIT 1).rset (Reg.BAR_HUM_COUNT 1023) 1).rset
    (Reg.WAIT_WDOG_LIMIT 159) 1, by decide +kernel⟩
theorem test_step_watchdogs_meet : ∀ j ∈ [job 5 0 Vd.held false, { job 5 0 0 false with own := some (emptyCheck (job 5 0 0 false)) }],
    ∃ s, findJob s 7 = some j ∧ s.rget Reg.BAR_WDOG_LIMIT ≠ 0 ∧ isRoot s (jobTree j) = true ∧
      (stepHeld j = true ∨ checkWaits j = true) := by
  intro j h
  refine ⟨(withJob j 2).rset Reg.BAR_WDOG_LIMIT 1, ?_⟩
  revert j
  decide +kernel

/-! ## Power, pins and management -/

theorem test_samples_meet : alwaysOn live = true ∧ hjRuns live = true ∧ (live.rset Reg.VIN_MV 31999).rget Reg.VIN_MV < 32000 ∧
    alwaysOn (live.rset Reg.VIN_MV 31999) = true ∧ 40000 < (live.rset Reg.VIN_MV 40001).rget Reg.VIN_MV ∧
    (live.rset (Reg.VMON_TARGET 191) 700).rget (Reg.VMON_TARGET 191) = 700 := by decide +kernel
theorem test_input_path_meets : ∃ s, s.board.inputClosed = true ∧ modState s ≠ 0 :=
  ⟨{ live with board := { live.board with inputClosed := true } }, by decide +kernel⟩
/-- The cap is on at 100 W; the input takes an average of some milliwatts. -/
def capped (mw : Nat) : State := ((live.rset Reg.POWER_CAP_EN 1).rset Reg.POWER_CAP_CAP_W 100).rset Reg.INPUT_PWR_AVG_MW mw
theorem test_cap_meets : hjRuns (capped 100001) = true ∧ (capped 100001).rbit Reg.POWER_CAP_EN = true ∧
    (capped 100001).rget Reg.POWER_CAP_CAP_W * 1000 < (capped 100001).rget Reg.INPUT_PWR_AVG_MW ∧
    (live.rset Reg.POWER_CAP_EN 0).rbit Reg.POWER_CAP_EN = false ∧ (((capped 100001).rset Reg.POWER_STATUS_CAP_MHZ 1350).rget Reg.POWER_STATUS_CAP_MHZ) = 1350 ∧
    (capped 100001).rbit Reg.POWER_STATUS_UNMET = false ∧ blockCause live Reg.POWER_CAP_CAP_W.off = 0 ∧
    blockCause live Reg.THR_COMPUTE_WARN.off = 0 := by decide +kernel
theorem test_backstop_meets : ∃ s t, alwaysOn s = true ∧ s.rbit Reg.POWER_STATUS_BACKSTOP = false ∧
    s.rget Reg.IIN_LIMIT_LIMIT < s.rget Reg.IIN_CUR ∧ hjRuns t = true ∧ t.rbit Reg.POWER_STATUS_BACKSTOP = true ∧
    t.rget Reg.INPUT_PWR_AVG_MW < t.rget Reg.POWER_CAP_CAP_W * 1000 :=
  ⟨(live.rset Reg.IIN_LIMIT_LIMIT 100).rset Reg.IIN_CUR 101, (capped 99999).rset Reg.POWER_STATUS_BACKSTOP 1, by decide +kernel⟩
theorem test_thermal_step_meets : ∃ s : State, hjRuns s = true ∧
    (16 * s.rget Reg.THR_COMPUTE_THROTTLE : Int) ≤ sensorTemp s (20 * 7 + 19) :=
  ⟨live.rset (Reg.SENSOR_TEMP_TEMP 159) (16 * live.rget Reg.THR_COMPUTE_THROTTLE), by decide +kernel⟩
theorem test_trip_meets : ∃ s, modState s = 4 ∧ causeHolds s (.sensor 199) = true ∧
    causeHolds (live.rset Reg.VIN_MV 29999) .vin = true := ⟨live.rset (Reg.SENSOR_TEMP_LEVEL 199) 3, by decide +kernel⟩
theorem test_glide_meets : powered live 159 = true ∧ live.rget (Reg.PLANK_CLOCK_MHZ 159) < targetMhz live 159 := by decide +kernel
theorem test_pins_meet : ∃ s : State, modState s ≠ 0 ∧ (kget pinReset s.board.pins 4).chatter = true :=
  ⟨{ live with board := { live.board with pins := [(4, ⟨true, true, true, true, []⟩)] } }, by decide +kernel⟩
theorem test_power_down_meets : ∃ s, modState s = 0 ∧ s.board.inputClosed = true :=
  ⟨{ setModState State.reset 0 with board := { State.reset.board with inputClosed := true } }, by decide +kernel⟩
theorem test_management_meets : hjRuns live = true ∧ live.board.hjUp = true ∧ hjMayRun (live.rset Reg.HJ_STATUS_STATE 2) = true ∧
    modState live ≠ 0 ∧ modState live ≠ 1 ∧ (live.rset (refOk 1) 1).rbit (refOk 1) = true ∧
    (live.rset (refOk 1) 0).rbit (refOk 1) = false ∧ (signed (500 : BitVec 16).toNat 16).natAbs ≤ 500 ∧
    (signed (0xFE0C : BitVec 16).toNat 16).natAbs ≤ 500 := by decide +kernel
def someActivation : Activation := ⟨⟨none, 0, 0, ⟨false, 1, 2⟩⟩, 0, 0, 0, 0, [], ⟨0, 0, [], 0, []⟩⟩
theorem test_activation_meets : ∃ (s : State) (a : Activation), s.board.activation = some a ∧ s.rget Reg.HJ_STATUS_STATE = 2 :=
  ⟨{ live.rset Reg.HJ_STATUS_STATE 2 with board := { live.board with activation := some someActivation } }, someActivation,
    by decide +kernel⟩
theorem test_boot_meets : ∃ s t, modState s = 2 ∧ s.board.booted = false ∧ s.board.recoveryFailed = false ∧
    t.board.booted = true ∧ hjRuns t = true ∧ t.board.calNext = 7 ∧ modState t = 2 :=
  ⟨setModState State.reset 2, setModState { live with board := { live.board with calNext := 7 } } 2, by decide +kernel⟩

/-! ## Host networks and sessions -/

/-- Port E7 is up; the configuration record gives every port an address. -/
def portUp : State :=
  let s := (live.rset (Reg.PORT_STATUS_UP 7) 1).rset Reg.REFCLK_STATUS_REF1_OK 1
  { s with board := { s.board with bootConf := some (List.replicate 1024 1) } }
/-- An Ethernet frame that arrives whole, unmarked, after no corrected codeword; and one with a bad check sequence. -/
def frameIn : EthIn := ⟨0, 0, 64, [], false, false, false, false⟩
/-- With the VLAN tag 257, which is that of the port in the configuration above. -/
def tagged : EthIn := { frameIn with tags := [257] }
/-- Frames that are dropped: a bad check sequence, a fragment, a bad UDP checksum, the two lengths beyond the bounds, a second tag and
another VLAN id. -/
def badFrames : List EthIn := [{ tagged with bad := true }, { tagged with fragment := true }, { tagged with sumBad := true },
  { tagged with bytes := 63 }, { tagged with bytes := 9217 }, { tagged with tags := [257, 257] }, frameIn]
theorem test_network_meets : portServed portUp 7 = true ∧ portInTest portUp 7 = false ∧
    portUp.rbit Reg.REFCLK_STATUS_REF1_OK = true ∧ portIsUp portUp 7 = true ∧ portIp4 (portRx portUp 7 tagged 1) 7 ≠ 0 ∧
    frameDropped (portRx portUp 7 tagged 1) 7 tagged = false ∧ frameDropped (portRx portUp 7 tagged 1) 7 { tagged with bytes := 9216 } = false ∧
    (∀ x ∈ badFrames, frameDropped (portRx portUp 7 x 1) 7 x = true) := by decide +kernel
/-- The header of a setup message of one fragment: version 1, KIND and verb as given, NFRAG 1, no payload. -/
def fragHead (kind verb : Byte) : List Byte := [1, kind, 0, verb, 0, 0, 0, 1] ++ List.replicate 32 0
theorem test_fragment_meets : portIsUp portUp 7 = true ∧ frameDropped (endSpent (portRx portUp 7 tagged 1)) 7 tagged = false ∧
    (∀ h ∈ [fragHead 0 1, fragHead 1 0x10], headOk h (parseHead h) = true ∧
      kindAllowed (parseHead h) = true) ∧ (parseHead (fragHead 0 1)).kind ≠ 1 ∧ (parseHead (fragHead 1 0x10)).kind = 1 := by
  decide +kernel
/-- A host of the tests: IPv4 address 1, UDP port 2. -/
def host : Peer := ⟨false, 1, 2⟩
/-- The module in Mire hold with port E0 up and a half-open session 1. -/
def half : Session := ⟨1, false, 3, [], 4, [], [], [], [], [], 0, 0, 1, 0, host, [], [], 0⟩
def mire : State :=
  let s := setModState (live.rset (Reg.PORT_STATUS_UP 0) 1) 3
  { s with net := { s.net with sessions := [half] } }
theorem test_setup_meets : netAnswers (endSpent mire) 0 = true ∧ setupGate (helloTaken (endSpent mire) 1) = none ∧
    (liveSessions (helloTaken (endSpent mire) 1)).length < 16 ∧ setupGate (finishTaken (endSpent mire) 1 1) = none ∧
    findSession (finishTaken (endSpent mire) 1 1) 1 = some half ∧ half.opened = false ∧ keptOf half 1 0x02 = none ∧
    (∀ payload, (liveSessions (helloTaken (endSpent mire) 1)).find? (fun x => x.helloReq == 1 && x.hello == payload) = none) := by
  refine ⟨by decide +kernel, by decide +kernel, by decide +kernel, by decide +kernel, by decide +kernel, rfl, rfl, fun payload => ?_⟩
  have e : liveSessions (helloTaken (endSpent mire) 1) = [half] := by decide +kernel
  rw [e]
  simp [half]
theorem test_enrolment_role (digest : List Byte) : roleOf (helloTaken (endSpent mire) 1) digest = some 3 := by
  have h : modState (helloTaken (endSpent mire) 1) = 3 := by decide +kernel
  have c : (helloTaken (endSpent mire) 1).board.config = none := rfl
  unfold roleOf
  rw [c]
  exact if_pos h
theorem test_idle_session_meets : mire.net.sessions.any (fun x => x.num == 1) = true := by decide +kernel

/-! ## The verbs -/

/-- Session 1 is open, an operator's, and has kept nothing. -/
def operator : Session := { half with
  opened := true
  role := 1 }
def inSession (s : State) : State := { s with net := { s.net with sessions := [operator] } }
def rq : Req := ⟨some 1, 9, 7, host⟩
/-- What a verb finds: the request is the session's, and no longer waits. -/
def found (s : State) : State := acceptReq (endSpent (inSession s)) 1 rq
theorem test_accepted (s : State) (v : Verb) (hm : modState s = 4) (hh : hjelperUp s = true) (hp : portIsUp s 7 = true) :
    Accepted (inSession s) rq v 1 operator (found s) := by
  have e : endSpent (inSession s) = inSession s := by simp [endSpent, inSession, operator, half, Session.usable, lastSeq]
  have m : modState (endSpent (inSession s)) = 4 := by rw [e]; exact hm
  refine ⟨rfl, by rw [m]; decide, by rw [e]; exact hp, ?_, rfl, rfl, rfl, ?_⟩
  · rw [e]; simp [findSession, inSession, operator, half, Session.usable, lastSeq]
  · have ma : modState (found s) = 4 := by rw [found, e]; exact hm
    have ha : hjelperUp (found s) = true := by rw [found, e]; exact hh
    simp [verbGate, ma, ha, operator]

theorem test_service_meets : portIsUp live 7 = true ∧ modState live = 4 ∧ hjelperUp live = true ∧ inWindow identBase = true := by
  decide +kernel
/-- A policy record at 4,096 and a manifest of job 7 at 0 that names it and nothing else. -/
def loadable : State := (live.storeRec 4096 (fset (fset (0 : BitVec 512) Policy.SPIKE_K 1) Policy.SPIKE_M 1)).storeRec 0
  (fset (fset (0 : BitVec 2048) Man.JOB_ID 7) Man.POLICY 4096)
def noLists : JobLists := ⟨0, 0, [], [], [], [], [], [], 0, [], false, [], [], []⟩
theorem test_job_load_meets : (loadJob (found live) 0 noLists).1 = some 0x10 ∧ (loadConfigured (found live) noLists).1 = some 0 ∧
    (loadJob (found loadable) 0 noLists).1 = none ∧ (loadJob (found loadable) 0 noLists).2.jobs.getLast?.isSome = true := by
  decide +kernel
theorem test_stream_verbs_meet : ∃ s, modState s = 4 ∧ hjelperUp s = true ∧ namedStreams (found s) 1 1 7 = [1, 2] ∧
    namedStreams (found s) 2 0 0 = [2] ∧ [1, 2].any (namesMasked (found s)) = false ∧ [1, 2].all (streamEnded (found s)) = false :=
  ⟨let s := withJob (job 1 0 0 false) 2; s.setStrm 1 (fset (s.strm 1) Strm.JOB 7), by decide +kernel⟩
/-- Job 7 held at step 3, with its reduced record. -/
def heldJob : Job := { job 5 0 Vd.held false with
  step := 3
  red := some (emptyCheck (job 5 0 0 false)) }
theorem test_step_verbs_meet : modState (withJob heldJob 2) = 4 ∧ hjelperUp (withJob heldJob 2) = true ∧
    findJob (found (withJob heldJob 2)) 7 = some heldJob ∧ heldJob.step < (4 : BitVec 64).toNat ∧
    (3 : BitVec 64).toNat = heldJob.step ∧ heldJob.final = false := by decide +kernel

/-- The data stream of entry 8,191, on queue pair 4,095 of port E7: slots of 4,096 B. -/
def dataStream (busy : Bool) : DataStream := ⟨1, false, 0, 4095, none, 0, 1, 4096, 1, 2, 0, 0, 1, 0, 0, busy, false, [(0, 64)]⟩
def withData (kind st : Nat) (busy : Bool) (s : State) : State :=
  let s := (s.setStrm 8191 (fset (fset (fset 0 Strm.STATE st) Strm.KIND kind) Strm.JOB 7)).rset (Reg.PORT_STATUS_UP 7) 1
  (s.setData 8191 (some (dataStream busy))).setQp 4095 { qpReset 0 with
    connected := true
    port := 7 }
/-- The bytes of a STREAM_OPEN of KIND 3 for stream 8,191: QP 4,095 to be connected, no ALT_QP, one slot of 4,096 B, port E7. -/
def openBytes : List Byte := [0x1F, 0xFF, 3, 4, 0, 0, 0, 0, 0xFF, 0xFF, 0x0F, 0xFF, 0xFF, 0xFF] ++ List.replicate 10 0 ++
  [0, 0, 0, 1, 0, 0, 0x10, 0] ++ List.replicate 20 0 ++ [7] ++ List.replicate 35 0
theorem test_poke_meets : (pokeWords (.host 1 1) 0 (payloadWords (List.replicate 8 (0 : Byte))) (identBase + 0xFFF8) 0
      ((found live).drew, none)).2 = some 0 ∧
    (pokeWords (.host 1 1) 0 (payloadWords (List.replicate 8 (0 : Byte))) Reg.POWER_CAP_CAP_W.off 0
      ((found live).drew, none)).2 = none ∧ identBase % 8 = 0 ∧ identBase + 0x10000 ≤ 2 ^ 44 := by decide +kernel
theorem leAt_zeros (n i k : Nat) : leAt (List.replicate n 0) i k = 0 := by
  unfold leAt slice
  simp
  generalize min k (n - i) = m
  induction m with
  | zero => rfl
  | succ m ih => simp [List.replicate_succ, leNat, ih]
theorem test_table_load_meets : routingOk (List.replicate 5184 0) 0 0 = true := by
  simp only [routingOk, leAt_zeros, List.length_replicate]
  decide +kernel
theorem test_table_drained_meets : (found (live.rset (Reg.FAB_STATUS_MODE 0) 2)).rget (Reg.FAB_STATUS_MODE 0) = 2 := by decide +kernel
theorem test_lanes_and_margins_meet : laneExists 0 47 1 = true ∧ laneExists 3 1023 31 = true ∧ sweepPoints 0x80 0x7F 0xFF ≠ [] ∧
    sweepPoints 5 5 1 = [5] ∧ (found live).net.margin = none := by decide +kernel
theorem test_keys_meet : ∃ s r, modState s = 4 ∧ hjelperUp s = true ∧ (found s).net.report = some r ∧ r.stale = false ∧ r.id = 3 :=
  ⟨{ live with net := { live.net with report := some ⟨3, [], [], false⟩ } }, ⟨3, [], [], false⟩, by decide +kernel⟩
theorem test_stream_open_meets : openBytes.length = 88 ∧ (parseOpen openBytes).job = 0xFFFF ∧
    openRefused (found live) openBytes (parseOpen openBytes) = false := by decide +kernel
theorem test_stream_close_meets : streamEnded (found (withJob (job 1 0 0 false) St.done)) 2 = true := by decide +kernel
theorem test_checkpoint_meets : ∃ s, modState s = 4 ∧ hjelperUp s = true ∧ findJob (found s) 7 = some (job 1 0 0 false) ∧
    streamState (found s) 8191 = St.queued ∧ streamKind (found s) 8191 = 5 ∧ fget ((found s).strm 8191) Strm.JOB = 7 ∧
    ((found s).data 8191).isSome = true := ⟨withData 5 St.queued false (withJob (job 1 0 0 false) 2), by decide +kernel⟩
theorem test_activate_meets : modState (found live) ≠ 3 ∧ (found live).board.activation = none ∧
    modState (found (setModState live 3)) = 3 := by decide +kernel
theorem test_accepted_in_mire (v : Verb) (h : v.inMire = true) :
    Accepted (inSession (setModState live 3)) rq v 1 operator (found (setModState live 3)) := by
  have e : endSpent (inSession (setModState live 3)) = inSession (setModState live 3) := by
    simp [endSpent, inSession, operator, half, Session.usable, lastSeq]
  have ma : modState (found (setModState live 3)) = 3 := by decide +kernel
  have ha : hjelperUp (found (setModState live 3)) = true := by decide +kernel
  refine ⟨rfl, by decide +kernel, by rw [e]; decide +kernel, ?_, rfl, rfl, rfl, ?_⟩
  · rw [e]; simp [findSession, inSession, operator, half, Session.usable, lastSeq]
  · simp [verbGate, ma, ha, operator, h]

/-! ## Streams of the hosts -/

theorem test_event_meets : ∃ s x v, findSession (endSpent s) 1 = some x ∧ x.events.find? (fun v => v.reqId == 4) = some v ∧
    v.tries ≤ 8 :=
  ⟨{ live with net := { live.net with sessions := [{ operator with events := [⟨4, 0, 8⟩] }] } },
    { operator with events := [⟨4, 0, 8⟩] }, ⟨4, 0, 8⟩, by decide +kernel⟩
/-- The header of an ingest record and of a credit for stream 8,191. -/
def recordBytes (flags : Byte) : List Byte := [0xFF, 0x1F, flags] ++ List.replicate 29 0
theorem test_ingest_meets : qpDropped (withData 3 2 false live) 4095 frameIn = false ∧ qpUp (withData 3 2 false live) 4095 = true ∧ bit (parseRec (recordBytes 0)).flags 2 = false := by
  decide +kernel
theorem test_egress_meets : (withData 5 2 false live).data 8191 = some (dataStream false) ∧
    streamState (withData 5 2 false live) 8191 = St.running ∧ qpUp (withData 5 2 false live) 4095 = true ∧
    (dataStream false).next < (dataStream false).remoteSlots + (dataStream false).freed ∧
    keyHeld (withData 5 2 false live) 8191 (dataStream false) = true ∧
    (nextRecord (withData 5 2 false live) 8191 (dataStream false)).isSome = true := by decide +kernel
theorem test_moved_record_meets : ∃ s d, s.data 8191 = some d ∧ d.moved = true ∧ streamLive s 8191 = true ∧ streamKind s 8191 ≠ 7 ∧
    qpUp s d.qp = true := ⟨(withData 5 2 true live).setData 8191 (some { dataStream true with moved := true }), { dataStream true with
      moved := true }, by decide +kernel⟩
theorem test_load_meets : streamKind (withData 7 2 true live) 8191 = 7 ∧ (dataStream true).busy = true ∧
    slotFree (withData 7 2 false live) (dataStream false) 0 = true ∧
    loadAllowed (withData 7 2 false live) (dataStream false) = true ∧ qpUp (withData 7 2 true live) 4095 = true ∧
    qpDropped (withData 7 2 true live) 4095 frameIn = false ∧
    streamState (withData 7 2 false live) 8191 = St.running := by decide +kernel
theorem test_qp_meets : qpUsable (withData 7 2 true live) 4095 = true ∧ (dataStream true).qp = 4095 ∧
    (withData 7 2 true live).data 8191 = some (dataStream true) ∧ dataOut (withData 7 2 true live) 8191 = true ∧
    qpUp (withData 7 2 true live) 4095 = true ∧
    (qpUsers (withData 7 2 true live) 4095).filter (dataOut (withData 7 2 true live)) = [8191] ∧
    ((withData 7 2 true live).qp 4095).connected = true := by decide +kernel
theorem test_credit_meets : ∃ t : State, bit (parseRec (recordBytes 4)).flags 2 = true ∧ (parseRec (recordBytes 4)).len = 0 ∧
    t = qpAck (qpReceive (withData 4 2 false live) 4095 frameIn 32) 4095 32 ∧ t.data 8191 = some (dataStream false) ∧
    boundTo (dataStream false) 4095 = true ∧ streamKind t 8191 = 4 := by
  refine ⟨_, ?_, ?_, rfl, ?_, ?_, ?_⟩ <;> decide +kernel
theorem test_stream_ends_meet : streamState (withData 3 St.cancelling false live) 8191 = St.cancelling ∧
    streamState (withData 3 St.suspending false live) 8191 = St.suspending ∧
    dataBusy (withData 3 St.suspending false live) 8191 = false ∧
    streamPlanks (withData 3 St.suspending false live) 8191 = [] ∧
    findJob (withJob { job 0 0 0 false with ckpt := some (8191, false) } 2) 7 = some { job 0 0 0 false with
      ckpt := some (8191, false) } := by decide +kernel

/-! ## The register window, and what else statements take for granted -/

theorem test_live_wf : live.Wf :=
  ⟨by decide +kernel, rfl, rfl, rfl, rfl, rfl, rfl, rfl, rfl, rfl, fun p => ⟨rfl, rfl, rfl, rfl, rfl⟩⟩
theorem test_lost_write_meets : modState (setModState live 0) = 0 ∧ modState (setModState live 1) = 1 ∧ modState live = 4 := by decide +kernel
theorem test_hidden_words_meet : powered State.reset 159 = false ∧ inWindow (plankBase 159 + 8) = true ∧
    modState (setModState live 3) = 3 ∧ mireExcluded syncBase = true ∧ inWindow syncBase = true := by decide +kernel
theorem test_masked_block_meets : ∃ s, powered s 159 = true ∧ s.rbit (Reg.PLANK_STATUS_MASKED 159) = true ∧
    wordExists (Reg.SPILL_BASE_BASE 159).off = true ∧ wordExists (identBase + 0xFFF8) = false ∧ blockCause s (identBase + 0xFFF8) = 0 :=
  ⟨live.rset (Reg.PLANK_STATUS_MASKED 159) 1, by decide +kernel⟩
/-- A word of the last plank's block, of the last pseudo-channel, tree map or barrier reaches its guard. -/
theorem test_guarded_words_reach : ∀ off ∈ [(Reg.SPILL_BASE_BASE 159).off, (Reg.CTX_BASE_BASE 159).off, (Reg.FTAB_BASE 159).off,
    (Reg.EXC_RING_BASE 159).off, (Reg.CHK_BUF_BASE 159).off, (Reg.FILL_RING_BASE 159).off, (Reg.CORE_ENTRY_ENTRY 159).off,
    (Reg.BANK_NEXT_LO_NEXT 159).off, (Reg.BANK_NEXT_HI_NEXT 159).off, (Reg.BANK_SWITCH_ARM 159).off, (Reg.INTEG_CTL_RESTORE 159).off,
    (Reg.PS_MAP_SPAN 159).off, shareOff 15 63 1 24, (Reg.PC_SWITCH_ARM 15 63).off, treeMapOff 15 0 + 8 * 127,
    treeMaskOff 15 0 + 8 * 255, barOff 1023 7], blockCause live off = 0 := by decide +kernel
theorem test_guards_meet : (live.rset (Reg.PLANK_STATUS_SPILL_VALID 159) 1).rbit (Reg.PLANK_STATUS_SPILL_VALID 159) = true ∧
    (live.rset (Reg.CORE_STATUS_CTX_VALID 159) 1).rbit (Reg.CORE_STATUS_CTX_VALID 159) = true ∧
    (∀ v ∈ [1, 2], (live.rset (Reg.PLANK_STATUS_STATE 159) v).rget (Reg.PLANK_STATUS_STATE 159) = v) ∧
    (∀ i ∈ [0, 1], accState (setAccState live 159 i 2) 159 i ≠ AccSt.free) ∧
    (live.rset (Reg.FILL_PTR_HEAD 159) 1).rget (Reg.FILL_PTR_HEAD 159) ≠ live.rget (Reg.FILL_PTR_TAIL 159) ∧
    (live.rset (Reg.FILL_PTR_ITEM_HELD 159) 1).rbit (Reg.FILL_PTR_ITEM_HELD 159) = true ∧
    (live.rset (Reg.CORE_STATUS_STATE 159) 1).rget (Reg.CORE_STATUS_STATE 159) ≠ 0 ∧
    (live.rset (Reg.BANK_SWITCH_ARMED 159) 1).rbit (Reg.BANK_SWITCH_ARMED 159) = true ∧
    (withJob (job 0 0 0 false) 2).jobs ≠ [] ∧ (live.rset (Reg.PC_STATUS_ARMED 15 63) 1).rbit (Reg.PC_STATUS_ARMED 15 63) = true ∧
    live.rget (Reg.PC_STATUS_ACTIVE 15 63) = 0 ∧ treeNamed (live.setObj 9 (fset (fset (objReset 9) Obj.STATE 1) Obj.TREE 15)) 15 = true ∧
    (live.rset (Reg.BAR_VALID 1023) 1).rbit (Reg.BAR_VALID 1023) = true ∧ (1 <<< 48 : Word64).getLsbD 48 = true := by decide +kernel
theorem test_ps_map_meets : blockCause live (Reg.PS_MAP_SPAN 159).off = 0 ∧ bits (0xFFFF : Word64).toNat 14 2 ≠ spanCode live 159 7 ∧
    (∃ i, i < 4 ∧ bankOwner live 159 (28 + i) ≠ ownCore) ∧ (∀ i, i < 4 → bankOwner (banksOf 3 live) 159 (28 + i) = ownCore) ∧
    coreActive (coreAt 1 0) 159 = true := by decide +kernel
theorem test_plain_write_meets : ∃ r, regRow (identBase + 0x1200) = some r ∧ identBase ≤ identBase + 0x1200 ∧
    mireExcluded (identBase + 0x1200) = false := ⟨(regRow (identBase + 0x1200)).get (by decide +kernel), by decide +kernel⟩

theorem test_min_max : minF 0x3F800000 0xC0000000 = 0xC0000000 ∧ maxF 0x3F800000 0xC0000000 = 0x3F800000 ∧
    amaxF 0x3F800000 0xC0000000 = 0x40000000 ∧ minF 0x7F800001 0 = f32Nan := by decide +kernel
theorem test_add : (match exec (.addF32 lastP .clean) (lanes 1) with
    | .next t => kget noF32 (t.plank 159).v 511
    | _ => 0) = 0xBF800000 := by decide +kernel
theorem test_refused_pass_meets : ∃ s, coreReady s 159 = true ∧ slotFull s 159 = false ∧ (issuePass s 159 32 none .clean).1 ≠ 0 ∧
    maskedPlank s 159 = true := ⟨(coreAt 31 32).rset (Reg.PLANK_STATUS_MASKED 159) 1, by decide +kernel⟩
/-- A Suspended plank whose spill holds no accumulator, and a descriptor with a reserved bit. -/
def emptySpill : State := setPlankState (((banksOf 1 (coreAt 31 32)).rset (Reg.PLANK_STATUS_SPILL_VALID 159) 1).storeRec (storeBase 159 + 32)
  (BitVec.allOnes 256)) 159 PlankSt.suspended
theorem test_empty_spill_meets : ∃ s d, d = s.recAt (storeBase 159 + 32) 256 ∧ coreReady s 159 = true ∧ slotFull s 159 = false ∧
    (issuePass s 159 32 none .clean).1 ≠ 0 ∧ maskedPlank s 159 = false ∧ plankState s 159 ≠ PlankSt.faulted ∧ fget d Desc.ACC ≠ 2 ∧
    s.rbit (Reg.PLANK_STATUS_SPILL_VALID 159) = true ∧ spillLive s 159 = 0 := ⟨emptySpill, _, rfl, by decide +kernel⟩
/-- A WRITE of one line for the last plank store, whose banks are the transfers'. -/
def storeWrite : Packet := ⟨fset (fset (fset 0 Pk.TYPE 1) Pk.DST_OFS (storeBase 159)) Pk.FLITS 2, List.replicate 64 7, [], false⟩
theorem test_packet_store_meets : forMe (banksOf 4 live) 1 storeWrite = true ∧ storeWrite.wellFormed = true ∧
    isHbm (fget storeWrite.hdr Pk.DST_OFS) = false ∧ (payloadLines storeWrite).length = 1 ∧
    (checkTarget (takeArrived (banksOf 4 live) 11 storeWrite) 11 storeWrite (storeBase 159) 64 false).1 = 0 ∧
    isHbm (2 ^ 40 - 64) = true := by decide +kernel

/-- Session 1 with an answer kept for REQ_ID 9, and one with REQ_ID 9 in work. -/
def keeping (m : Option Msg) : Session := { operator with kept := [⟨9, m⟩] }
theorem test_repeated_meets : ∀ m ∈ [none, some ⟨1, 1, 0, 1, 9, []⟩], ∃ s x, modState (endSpent s) = 4 ∧ portIsUp (endSpent s) 7 = true ∧
    findSession (endSpent s) 1 = some x ∧ x.opened = true ∧ x.kept.find? (fun k => k.reqId == rq.reqId) = some ⟨9, m⟩ := by
  intro m h
  refine ⟨{ live with net := { live.net with sessions := [keeping m] } }, keeping m, ?_⟩
  revert m
  decide +kernel
/-- The session with an observer's role. -/
def observer : Session := { operator with role := 2 }
def enrolling : Session := { operator with role := 3 }
theorem test_turned_away_meets : ∀ st ∈ [2, 3, 4, 6, 8], ∀ x ∈ [operator, observer, enrolling], ∃ s, modState (endSpent s) = st ∧
    portIsUp (endSpent s) 7 = true ∧ s.board.activation = none ∧ keptOf x 9 0x10 = none ∧
    findSession (endSpent s) 1 = some x ∧ hjelperUp (acceptReq (endSpent s) 1 rq) = true ∧
    modState (acceptReq (endSpent s) 1 rq) = st := by
  intro st h x hx
  refine ⟨{ setModState live st with net := { live.net with sessions := [x] } }, ?_⟩
  revert st x
  decide +kernel
theorem test_hjelper_down_meets : ∃ s, modState (endSpent s) = 4 ∧ findSession (endSpent s) 1 = some operator ∧
    hjelperUp (acceptReq (endSpent s) 1 rq) = false := ⟨inSession (live.rset Reg.HJ_STATUS_STATE 2), by decide +kernel⟩

/-! ## Ill-formed commands -/

/-- A packet with so many payload bytes and a poison mark. -/
def pkt (n i : Nat) : Packet := ⟨0, List.replicate n 0, [i], false⟩
theorem test_packet_refused : (pkt 64 0).wellFormed = true ∧ (pkt 63 0).wellFormed = false ∧ (pkt 64 1).wellFormed = false ∧
    (pkt 4096 63).wellFormed = true ∧ (pkt 4160 0).wellFormed = false ∧
    (∀ c ∈ [Instr.pktWrite 0 (pkt 63 0), .pktAccum 0 (pkt 63 0), .pktReadReq 0 (pkt 63 0) .clean, .pktReadData 0 (pkt 63 0),
      .pktDone 0 (pkt 63 0), .pktSignal 0 (pkt 63 0), .pktChunk 0 (pkt 63 0)], c.wellFormed = false) := by decide +kernel
theorem test_frame_refused : (Instr.frameReceive 0 ⟨[0, 0, 0], 0, 0⟩ true 0).wellFormed = false := by decide +kernel
theorem test_stat_refused : (noRec 0).wellFormed = true ∧ { noRec 0 with elems := 2 ^ 64 }.wellFormed = false ∧
    { noRec 0 with blocks := 2 ^ 64 }.wellFormed = false ∧ { noRec 0 with lostlow := 2 ^ 32 }.wellFormed = false := by decide +kernel
/-- A check record, and a member's part. -/
def check : CheckRec := emptyCheck (job 0 0 0 false)
def part (c : CheckRec) (tids : List Nat) : MemberPart := ⟨1, c, tids.map (fun t => (t, noRec 0)), 0⟩
theorem test_check_refused : check.wellFormed = true ∧ { check with step := 2 ^ 64 }.wellFormed = false ∧
    { check with attempt := 16 }.wellFormed = false ∧ { check with seqMasked := 2 ^ 16 }.wellFormed = false ∧
    { check with triggers := 2 ^ 32 }.wellFormed = false ∧ (part check [1, 2]).wellFormed = true ∧
    (part check [1, 1]).wellFormed = false ∧ (part check [2 ^ 16]).wellFormed = false ∧
    (Instr.checkReductionComplete 7 [part check [1, 1]]).wellFormed = false ∧
    (Instr.evaluationPoint 7 2 [part check [1, 1]]).wellFormed = false := by decide +kernel
/-- The buffers of a factor. -/
def factor : NapBuf × NapBuf := (⟨0, 0, 0, 0, 0⟩, ⟨0, 0, 0, 0, 0⟩)
theorem test_update_refused : (Instr.updateStageU1 7 [⟨2 ^ 44, [0]⟩]).wellFormed = false ∧
    (Instr.updateStageU4 7 [⟨0, 0, 0, 1, 0, 0, 0, 0, factor, factor, []⟩]).wellFormed = false ∧
    (Instr.updateStageU4 7 [⟨0, 0, 1, 0, 0, 0, 0, 0, factor, factor, []⟩]).wellFormed = false ∧
    (Instr.updateStageU4 7 [⟨0, 0, 1, 1, 0, 0, 0, 0, factor, factor, []⟩]).wellFormed = true ∧
    (Instr.calibrationSlice 0 0 (List.replicate 33 .clean) 0).wellFormed = false ∧
    (Instr.retrainComplete 0 0 5 4 0 0 0 0).wellFormed = false ∧ (Instr.retrainComplete 0 0 0 0 5 4 0 0).wellFormed = false ∧
    (Instr.bankRefresh 0 0 0 0).wellFormed = false := by decide +kernel
theorem test_lists_refused : noLists.wellFormed = true ∧ { noLists with programs := [⟨0, 0, 0, 65537, 0, []⟩] }.wellFormed = false ∧
    { noLists with streams := [⟨1, 0, 0⟩, ⟨1, 0, 0⟩] }.wellFormed = false ∧
    { noLists with objects := [⟨1, 0, 0⟩, ⟨1, 0, 0⟩] }.wellFormed = false ∧
    { noLists with trees := [⟨1, 0, 0⟩, ⟨1, 0, 0⟩] }.wellFormed = false ∧
    (Instr.jobLoad rq 0 0 { noLists with trees := [⟨1, 0, 0⟩, ⟨1, 0, 0⟩] }).wellFormed = false ∧
    (Instr.dieCalibrationComplete 0 true true [] [] { noLists with trees := [⟨1, 0, 0⟩, ⟨1, 0, 0⟩] }).wellFormed = false := by decide +kernel
theorem test_fragment_refused : (Instr.sluiceFragment 0 frameIn host (List.replicate 40 0) [] []).wellFormed = true ∧
    (Instr.sluiceFragment 0 frameIn host (List.replicate 39 0) [] []).wellFormed = false ∧
    (Instr.sluiceFragment 0 frameIn host (List.replicate 40 0) (List.replicate 8193 0) []).wellFormed = false ∧
    (Instr.sluiceFragment 0 frameIn host (List.replicate 40 0) [] [1]).wellFormed = false := by
  simp only [Instr.wellFormed, fragmentWellFormed, List.length_replicate]
  decide +kernel
theorem test_poke_refused : (Instr.poke rq 0 (List.replicate (2 ^ 32) 0)).wellFormed = false := by
  simp only [Instr.wellFormed, List.length_replicate]
  decide +kernel

end Sys2Proof.Tests
end

section
/-! PROOFS. A write of a word without behaviour of its own (O46): the rules of a write of the management window that is
not ignored, the places that the identity, Hjelper, sensor and peat-log blocks are not, and the access codes bit by bit. -/
namespace Sys2Proof.Machine

variable {s : State} {off : Nat} {r : RegRow}

/-! ## A write that is not ignored -/

@[simp] theorem drew_word (i : Nat) : s.drew.word i = s.word i := rfl

/-- A row of the register map stands at an aligned offset. -/
theorem aligned_of_regRow (h : regRow off = some r) : off % 8 = 0 := by
  by_contra hoff
  unfold regRow at h
  rw [if_pos hoff] at h
  contradiction

/-- A row of the register map is a word of the window. -/
theorem wordExists_of_regRow (h : regRow off = some r) : wordExists off = true := by
  simp [wordExists, h]

theorem plainWrite_of_regRow (h : regRow off = some r) (v : Word64) :
    plainWrite s off v = s.setWord off (regWrite r (s.word off) v) := by
  simp [plainWrite, h]

/-- REGISTER_WRITE of an aligned offset of the window is one write of its word. -/
theorem exec_registerWrite_aligned {off : BitVec 64} (hin : inWindow off.toNat = true) (h8 : off.toNat % 8 = 0)
    (w : Writer) (v : Word64) :
    exec (.registerWrite w off v) s = .next (writeWord s.drew w off.toNat v (s.fresh.toNat % 2 ^ 32)).1 := by
  simp [exec, execRegisterWrite, hin, h8]

/-- A write to a module that has power, which nothing makes it ignore, has its effect. -/
theorem writeWord_of_writeCause_zero {v : Word64} (h0 : modState s ≠ 0) (h1 : modState s ≠ 1)
    (hc : writeCause s off v = 0) (w : Writer) (insn : Nat) :
    writeWord s w off v insn = writeEffect s w off v insn := by
  simp [writeWord, h0, h1, hc]

/-- A word that is there, in a block that takes writes and behind no guard of Table 18-2, is not ignored. -/
theorem writeCause_zero {v : Word64} (hb : blockCause s off = 0) (he : wordExists off = true) (hg : guarded s off v = false) :
    writeCause s off v = 0 := by
  simp [writeCause, hb, he, hg]

/-! ## The identity, Hjelper, sensor and peat-log blocks -/

/-- An offset of the identity, Hjelper or sensor block, or of the words of the peat-log block. -/
def InPlainBlock (off : Nat) : Prop :=
  (identBase ≤ off ∧ off < sensorBase + 0x10000) ∨ (peatBase ≤ off ∧ off < peatBase + 0x100000)

namespace InPlainBlock

theorem inWindow_eq_true (h : InPlainBlock off) : inWindow off = true := by
  unfold InPlainBlock identBase sensorBase peatBase at h
  simp only [inWindow, Bool.and_eq_true, decide_eq_true_eq]
  omega

/-- The plank, stack, link-die and synchronisation blocks stand between the sensor block and the peat log. The range is
tested as the model's places test it. -/
theorem not_between {lo hi : Nat} (h : InPlainBlock off) (hlo : sensorBase + 0x10000 ≤ lo) (hhi : hi ≤ peatBase) :
    ¬ (decide (lo ≤ off) && decide (off < hi)) = true := by
  unfold InPlainBlock identBase at h
  simp only [Bool.and_eq_true, decide_eq_true_eq]
  omega

theorem blockPlank_eq_none (h : InPlainBlock off) : blockPlank off = none := if_neg (h.not_between (by decide) (by decide))

theorem stackAt_eq_none (h : InPlainBlock off) : stackAt off = none := if_neg (h.not_between (by decide) (by decide))

theorem linkAt_eq_none (h : InPlainBlock off) : linkAt off = none := if_neg (h.not_between (by decide) (by decide))

theorem objCmdAt_eq_none (h : InPlainBlock off) : objCmdAt off = none := if_neg (h.not_between (by decide) (by decide))

/-- Table 18-2 guards no word of these blocks. -/
theorem guarded_eq_false (h : InPlainBlock off) (s : State) (v : Word64) : guarded s off v = false := by
  unfold guarded
  rw [h.blockPlank_eq_none, h.stackAt_eq_none]
  exact if_neg (h.not_between (by decide) (by decide))

/-- No plank is masked or without power here, so only Mire hold keeps a write from these blocks. -/
theorem blockCause_eq_zero (h : InPlainBlock off) (hm : modState s ≠ 3 ∨ mireExcluded off = false) : blockCause s off = 0 := by
  have hmire : (modState s == 3 && mireExcluded off) = false := by simpa [or_iff_not_imp_left] using hm
  simp [blockCause, hmire, h.blockPlank_eq_none]

/-- Past POWER_CAP and THR_COMPUTE, a write here is one under the access codes alone. -/
theorem writeEffect_eq_plainWrite (h : InPlainBlock off) (hcap : off ≠ Reg.POWER_CAP_CAP_W.off)
    (hthr : off ≠ Reg.THR_COMPUTE_WARN.off) (s : State) (w : Writer) (v : Word64) (insn : Nat) :
    writeEffect s w off v insn = (plainWrite s off v, false) := by
  have hbar : ¬ (decide (barOff 0 0 ≤ off) && decide (off < barOff 1024 0)) = true := h.not_between (by decide) (by decide)
  unfold writeEffect
  rw [h.objCmdAt_eq_none, h.blockPlank_eq_none, h.stackAt_eq_none, h.linkAt_eq_none]
  dsimp only
  rw [if_neg hcap, if_neg hthr, if_neg hbar]

/-- REGISTER_WRITE of such a word: what its access codes leave of the old value and the new. -/
theorem exec_registerWrite {off : BitVec 64} (h : InPlainBlock off.toNat) (hr : regRow off.toNat = some r)
    (hcap : off.toNat ≠ Reg.POWER_CAP_CAP_W.off) (hthr : off.toNat ≠ Reg.THR_COMPUTE_WARN.off) (h0 : modState s ≠ 0)
    (h1 : modState s ≠ 1) (hm : modState s ≠ 3 ∨ mireExcluded off.toNat = false) (w : Writer) (v : Word64) :
    exec (.registerWrite w off v) s = .next (s.drew.setWord off.toNat (regWrite r (s.word off.toNat) v)) := by
  have hc : writeCause s.drew off.toNat v = 0 :=
    writeCause_zero (h.blockCause_eq_zero hm) (wordExists_of_regRow hr) (h.guarded_eq_false _ v)
  rw [exec_registerWrite_aligned h.inWindow_eq_true (aligned_of_regRow hr), writeWord_of_writeCause_zero (s := s.drew) h0 h1 hc,
    h.writeEffect_eq_plainWrite hcap hthr, plainWrite_of_regRow hr, drew_word]

end InPlainBlock

/-! ## The access codes (R5, R6, R441) -/

/-- What `regWrite` leaves in each bit, by the code of the bit; a bit that had both codes would take the value and keep a
one that the value does not clear. -/
theorem getLsbD_regWrite (r : RegRow) (old v : Word64) {i : Nat} (hi : i < 64) :
    (regWrite r old v).getLsbD i =
      (if r.rw.testBit i then v.getLsbD i || old.getLsbD i && r.w1c.testBit i && !v.getLsbD i
        else if r.w1c.testBit i then old.getLsbD i && !v.getLsbD i
        else old.getLsbD i) := by
  simp only [regWrite, BitVec.getLsbD_or, BitVec.getLsbD_and, BitVec.getLsbD_not, BitVec.getLsbD_ofNat, hi, decide_true,
    Bool.true_and]
  cases r.rw.testBit i <;> cases r.w1c.testBit i <;> simp

/-- Settles O46: in these blocks the write is not ignored and has no effect but `regWrite` on its own word. -/
theorem plainWritesFollowTheAccessCodes : Obligations.PlainWritesFollowTheAccessCodes := by
  intro s t w off v r hs hr hblock hcap hthr h0 h1 hm ht
  rw [InPlainBlock.exec_registerWrite hblock hr hcap hthr h0 h1 hm] at ht
  obtain rfl := Host.Outcome.next.inj ht
  have hdrew : s.drew.Wf := (keeps_drew (Keeps.refl s)).wf hs
  refine ⟨fun i hi => ?_, fun i hi => ?_, rfl⟩
  · rw [word_setWord hdrew, if_pos rfl, getLsbD_regWrite r _ v hi]
  · rw [word_setWord hdrew, if_neg hi, drew_word]

end Sys2Proof.Machine
end

section
/-! PROOFS. The switches of share tables and of a plank's banks (O19): the rules of a command on a register that its block
takes and no guard keeps out, and for each switch what holds it up (R16, R216, R229, R230). -/
namespace Sys2Proof.Machine

variable {s : State}

/-! ## A command on a register that is not ignored -/

/-- A block that takes the write leaves the command its effect. -/
theorem regCommand_of_blockCause_zero {off : Nat} (hb : blockCause s off = 0) (w : Writer) (act : State → State) :
    regCommand s w off act = act s := by
  simp [regCommand, hb]

/-- So does a guard of Table 18-2 whose condition does not hold. -/
theorem guardedCommand_of_blockCause_zero {off : Nat} {ignored : Bool} (hb : blockCause s off = 0) (hi : ignored = false)
    (w : Writer) (act : State → State) : guardedCommand s w off ignored act = act s := by
  simp [guardedCommand, regCommand_of_blockCause_zero hb, hi]

/-! ## Share tables (R216) -/

/-- An armed switch guards its gate: only a write that arms nothing, or finds the switch unarmed, gets past it (R444). -/
theorem exec_pcSwitchArm {m : StackId} {c : PcId} {v : Word64} (hb : blockCause s (Reg.PC_SWITCH_ARM m c).off = 0)
    (hg : v.getLsbD 48 = false ∨ s.rbit (Reg.PC_STATUS_ARMED m c) = false) (w : Writer) :
    ∃ t, t = (s.rset (Reg.PC_SWITCH_OBJ m c) (fld v 14 0)).rset (Reg.PC_SWITCH_TARGET m c) (fld v 47 16) ∧
      exec (.pcSwitchArm m c w v) s = .next (if v.getLsbD 48 then t.rset (Reg.PC_STATUS_ARMED m c) 1 else t) := by
  have hignored : (v.getLsbD 48 && s.rbit (Reg.PC_STATUS_ARMED m c)) = false := Bool.and_eq_false_iff.mpr hg
  exact ⟨_, rfl, congrArg Host.Outcome.next (guardedCommand_of_blockCause_zero hb hignored w _)⟩

/-- No outgoing owner holds a switch to table b up when each owner of an entry that changes owns nothing or has no
request queued. -/
theorem outgoing_any_eq_false {m c a b : Nat} {queues : List (Nat × List HbmReq)}
    (hidle : ∀ i, i < 200 → tableOwner s m c a i ≠ tableOwner s m c b i →
      ownsNothing s (tableOwner s m c a i) = true ∨ kget (fun _ => []) queues (tableOwner s m c a i) = []) :
    (((List.range 200).filter (fun i => tableOwner s m c a i != tableOwner s m c b i)).map (tableOwner s m c a)).any
      (fun o => !ownsNothing s o && !(kget (fun _ => []) queues o).isEmpty) = false := by
  rw [List.any_eq_false]
  intro o ho
  obtain ⟨i, hi, rfl⟩ := List.mem_map.mp ho
  obtain ⟨hlt, hne⟩ := List.mem_filter.mp hi
  rcases hidle i (List.mem_range.mp hlt) (bne_iff_ne.mp hne) with hmasked | hnone
  · simp [hmasked]
  · simp [hnone]

/-- Past its four conditions the switch applies; `outgoing_any_eq_false` gives the last. -/
theorem exec_shareSwitchApply {m : StackId} {c : PcId} (harm : s.rbit (Reg.PC_STATUS_ARMED m c) = true)
    (hslice : inSlice (getPc s m c) c = false)
    (hgate : objReached s (s.rget (Reg.PC_SWITCH_OBJ m c)) (s.rget (Reg.PC_SWITCH_TARGET m c)) = true)
    (hidle : ∀ i, i < 200 → tableOwner s m c (s.rget (Reg.PC_STATUS_ACTIVE m c)) i ≠
        tableOwner s m c (1 - s.rget (Reg.PC_STATUS_ACTIVE m c)) i →
      ownsNothing s (tableOwner s m c (s.rget (Reg.PC_STATUS_ACTIVE m c)) i) = true ∨
        kget (fun _ => []) (getPc s m c).queues (tableOwner s m c (s.rget (Reg.PC_STATUS_ACTIVE m c)) i) = []) :
    exec (.shareSwitchApply m c) s = .next ((s.rset (Reg.PC_STATUS_ACTIVE m c)
      (1 - s.rget (Reg.PC_STATUS_ACTIVE m c))).rset (Reg.PC_STATUS_ARMED m c) 0) := by
  have hfree := outgoing_any_eq_false hidle
  simp only [exec, execShareSwitchApply]
  rw [harm, hslice, hgate, hfree]
  rfl

/-! ## A plank's banks (R229, R230) -/

/-- The guard of R444 is that of a share table's switch. -/
theorem exec_bankSwitchArm {p : PlankId} {v : Word64} (hb : blockCause s (Reg.BANK_SWITCH_ARM p).off = 0)
    (hg : v.getLsbD 48 = false ∨ s.rbit (Reg.BANK_SWITCH_ARMED p) = false) (w : Writer) :
    ∃ t, t = (s.rset (Reg.BANK_SWITCH_OBJ p) (fld v 14 0)).rset (Reg.BANK_SWITCH_TARGET p) (fld v 47 16) ∧
      exec (.bankSwitchArm p w v) s = .next (if v.getLsbD 48 then t.rset (Reg.BANK_SWITCH_ARMED p) 1 else t) := by
  have hignored : (v.getLsbD 48 && s.rbit (Reg.BANK_SWITCH_ARMED p)) = false := Bool.and_eq_false_iff.mpr hg
  exact ⟨_, rfl, congrArg Host.Outcome.next (guardedCommand_of_blockCause_zero hb hignored w _)⟩

/-- No bank holds the switch up when each bank that changes is neither held nor busy. -/
theorem changing_any_eq_false {p : Nat}
    (hidle : ∀ b, b < 32 → bankNext s p b ≠ bankOwner s p b → b ∉ heldBanks s p ∧ b ∉ busyBanks s p) :
    ((List.range 32).filter (fun b => bankNext s p b != bankOwner s p b)).any
      (fun b => (heldBanks s p ++ busyBanks s p).contains b) = false := by
  rw [List.any_eq_false]
  intro b hb
  obtain ⟨hlt, hne⟩ := List.mem_filter.mp hb
  obtain ⟨hheld, hbusy⟩ := hidle b (List.mem_range.mp hlt) (bne_iff_ne.mp hne)
  simp [hheld, hbusy]

/-- Past its four conditions the switch applies; `changing_any_eq_false` gives the last. -/
theorem exec_bankSwitchApply {p : PlankId} (harm : s.rbit (Reg.BANK_SWITCH_ARMED p) = true)
    (hmask : s.rbit (Reg.PLANK_STATUS_MASKED p) = false)
    (hgate : objReached s (s.rget (Reg.BANK_SWITCH_OBJ p)) (s.rget (Reg.BANK_SWITCH_TARGET p)) = true)
    (hidle : ∀ b, b < 32 → bankNext s p b ≠ bankOwner s p b → b ∉ heldBanks s p ∧ b ∉ busyBanks s p) :
    exec (.bankSwitchApply p) s = .next (bankSwitch s p) := by
  have hfree := changing_any_eq_false hidle
  simp only [exec, execBankSwitchApply]
  rw [harm, hmask, hgate, hfree]
  rfl

/-- What becomes of each quad's field is `psMapWrite`'s to say (R229). -/
theorem exec_psMapWrite {p : PlankId} (hb : blockCause s (Reg.PS_MAP_SPAN p).off = 0) (w : Writer) (v : Word64) :
    exec (.psMapWrite p w v) s = .next (psMapWrite s.drew p v (s.fresh.toNat % 2 ^ 32) (writerSrc w)).1 :=
  congrArg Host.Outcome.next (regCommand_of_blockCause_zero hb w _)

/-- Settles O19: each command does what its rule above says. -/
theorem switchCommandsComplete : Obligations.SwitchCommandsComplete := fun _ _ _ _ w v =>
  ⟨fun hb hg => exec_pcSwitchArm hb hg w, exec_shareSwitchApply, fun hb hg => exec_bankSwitchArm hb hg w,
    exec_bankSwitchApply, fun hb => exec_psMapWrite hb w v⟩

end Sys2Proof.Machine
end

section
/-! PROOFS. Minimum, maximum and amax of binary32 (O50): the key of the total order takes the sign and the magnitude and
tells any two numbers apart, so both operations choose the same operand whichever comes first (R47). -/
namespace Sys2Proof.Machine

variable {a b : F32}

/-! ## Sign, magnitude and NaN -/

theorem toNat_of_sign_set (h : a.getLsbD 31 = true) : a.toNat = a.toNat % 2 ^ 31 + 2 ^ 31 := by
  have hlt := a.isLt
  simp only [BitVec.getLsbD, Nat.testBit_eq_decide_div_mod_eq, decide_eq_true_eq] at h
  omega

theorem toNat_of_sign_clear (h : a.getLsbD 31 = false) : a.toNat = a.toNat % 2 ^ 31 := by
  have hlt := a.isLt
  simp only [BitVec.getLsbD, Nat.testBit_eq_decide_div_mod_eq, decide_eq_false_iff_not] at h
  omega

theorem toNat_absF (a : F32) : (absF a).toNat = a.toNat % 2 ^ 31 := by
  rw [absF, BitVec.toNat_and]
  exact Nat.and_two_pow_sub_one_eq_mod a.toNat 31

theorem absF_sign_clear (a : F32) : (absF a).getLsbD 31 = false := by
  simp [absF]

/-- A NaN is a code whose magnitude lies above that of infinity. -/
theorem isNan32_iff (a : F32) : isNan32 a = true ↔ 0x7F800000 < a.toNat % 2 ^ 31 := by
  have hfields : isNan32 a = true ↔ bits a.toNat 23 8 = 255 ∧ bits a.toNat 0 23 ≠ 0 := by
    by_cases hexp : bits a.toNat 23 8 = 255
    · by_cases hfr : bits a.toNat 0 23 = 0 <;> simp [isNan32, f32, Fmt.decode, Fmt.layout, Fmt.hasInf, hexp, hfr]
    · by_cases hsub : bits a.toNat 23 8 = 0 <;>
        simp [isNan32, f32, Fmt.decode, Fmt.layout, Fmt.hasInf, Val.dy, hexp, hsub]
  rw [hfields]
  simp only [bits, Nat.shiftRight_eq_div_pow]
  omega

theorem isNan32_absF (a : F32) : isNan32 (absF a) = isNan32 a := by
  rw [Bool.eq_iff_iff, isNan32_iff, isNan32_iff, toNat_absF, Nat.mod_mod]

/-! ## The order of the numbers -/

theorem keyF_of_sign_set (h : a.getLsbD 31 = true) : keyF a = -((a.toNat % 2 ^ 31 : Nat) : Int) - 1 := if_pos h

theorem keyF_of_sign_clear (h : a.getLsbD 31 = false) : keyF a = (a.toNat : Int) := by
  have hmag := toNat_of_sign_clear h
  rw [keyF, if_neg (Bool.eq_false_iff.mp h)]
  exact congrArg Nat.cast hmag.symm

/-- No two codes have the same key, −0 and +0 included. -/
theorem keyF_injective (h : keyF a = keyF b) : a = b := by
  apply BitVec.eq_of_toNat_eq
  cases ha : a.getLsbD 31 <;> cases hb : b.getLsbD 31
  · rw [keyF_of_sign_clear ha, keyF_of_sign_clear hb] at h
    omega
  · rw [keyF_of_sign_clear ha, keyF_of_sign_set hb] at h
    omega
  · rw [keyF_of_sign_set ha, keyF_of_sign_clear hb] at h
    omega
  · rw [keyF_of_sign_set ha, keyF_of_sign_set hb] at h
    rw [toNat_of_sign_set ha, toNat_of_sign_set hb]
    omega

theorem keyF_le_of_signs_differ (ha : a.getLsbD 31 = true) (hb : b.getLsbD 31 = false) : keyF a ≤ keyF b := by
  rw [keyF_of_sign_set ha, keyF_of_sign_clear hb]
  omega

theorem keyF_le_of_signs_clear (ha : a.getLsbD 31 = false) (hb : b.getLsbD 31 = false) (h : a.toNat ≤ b.toNat) :
    keyF a ≤ keyF b := by
  rw [keyF_of_sign_clear ha, keyF_of_sign_clear hb]
  exact_mod_cast h

/-- Below zero the greater magnitude is the lesser number. -/
theorem keyF_le_of_signs_set (ha : a.getLsbD 31 = true) (hb : b.getLsbD 31 = true) (h : b.toNat ≤ a.toNat) :
    keyF a ≤ keyF b := by
  have hna := toNat_of_sign_set ha
  have hnb := toNat_of_sign_set hb
  rw [keyF_of_sign_set ha, keyF_of_sign_set hb]
  omega

/-! ## Minimum, maximum and amax -/

theorem minF_maxF_of_nan (h : isNan32 a = true ∨ isNan32 b = true) : minF a b = f32Nan ∧ maxF a b = f32Nan := by
  have hnan : (isNan32 a || isNan32 b) = true := Bool.or_eq_true_iff.mpr h
  exact ⟨if_pos hnan, if_pos hnan⟩

/-- Of two numbers in order the minimum is the first and the maximum the second, whichever operand stands first. -/
theorem minF_maxF_of_keyF_le (ha : isNan32 a = false) (hb : isNan32 b = false) (h : keyF a ≤ keyF b) :
    minF a b = a ∧ minF b a = a ∧ maxF a b = b ∧ maxF b a = b := by
  by_cases hback : keyF b ≤ keyF a
  · obtain rfl := keyF_injective (le_antisymm h hback)
    simp [minF, maxF, ha]
  · simp [minF, maxF, ha, hb, h, hback]

theorem amaxF_of_nan (h : isNan32 a = true ∨ isNan32 b = true) : amaxF a b = f32Nan :=
  (minF_maxF_of_nan (by rwa [isNan32_absF, isNan32_absF])).2

/-- amax is the greater magnitude, in either order. -/
theorem toNat_amaxF (ha : isNan32 a = false) (hb : isNan32 b = false) (h : a.toNat % 2 ^ 31 ≤ b.toNat % 2 ^ 31) :
    (amaxF a b).toNat = b.toNat % 2 ^ 31 ∧ (amaxF b a).toNat = b.toNat % 2 ^ 31 := by
  have hle : keyF (absF a) ≤ keyF (absF b) :=
    keyF_le_of_signs_clear (absF_sign_clear a) (absF_sign_clear b) (by rwa [toNat_absF, toNat_absF])
  obtain ⟨-, -, hab, hba⟩ :=
    minF_maxF_of_keyF_le ((isNan32_absF a).trans ha) ((isNan32_absF b).trans hb) hle
  simp only [amaxF, hab, hba, toNat_absF, and_self]

/-- Settles O50: the operands stand in the order of their keys, by sign and magnitude; the zeros are the case of signs
that differ. -/
theorem minimumMaximumAndAmax : Obligations.MinimumMaximumAndAmax := by
  intro a b
  refine ⟨fun h => ?_, fun ha hb => ⟨fun hsa hsb => ?_, fun hsa hsb h => ?_, fun hsa hsb h => ?_, toNat_amaxF ha hb⟩,
    ?_, ?_, ?_⟩
  · obtain ⟨hmin, hmax⟩ := minF_maxF_of_nan h
    exact ⟨hmin, hmax, amaxF_of_nan h⟩
  · exact minF_maxF_of_keyF_le ha hb (keyF_le_of_signs_differ hsa hsb)
  · exact minF_maxF_of_keyF_le ha hb (keyF_le_of_signs_clear hsa hsb h)
  · exact minF_maxF_of_keyF_le ha hb (keyF_le_of_signs_set hsa hsb h)
  · decide
  · decide
  · decide

end Sys2Proof.Machine
end

section
/-! PROOFS. The lane instructions of port 2 (O6, O7, O8): what becomes of the instruction first on the port, once for all
of them (R187, R190). A command of port 2 is `onPort2` with its own opcode and work. -/
namespace Sys2Proof.Machine

section
variable {s : State} {p : Nat} {e : VecSlot} {es : List VecSlot} {o : Nat} {ecc : CoreEcc} {act : State → VecSlot → State}

/-- The instruction first on the port, of the opcode asked for, is taken off it and works when no register word stops it. -/
theorem onPort2_first (hq : (s.plank p).port2 = e :: es) (hecc : ecc ≠ .vreg) (ho : fget e.word Vec.OPC = o) :
    (.next (onPort2 s p [o] ecc act) : Out) = .next (act (s.pop2 p es) e) := by
  simp [onPort2, hq, ho, hecc, State.pop2]

/-- One that reads a register word that cannot be corrected is taken off too, and traps instead of working. -/
theorem onPort2_first_vreg (hq : (s.plank p).port2 = e :: es) (hread : readsVreg o = true) (ho : fget e.word Vec.OPC = o) :
    (.next (onPort2 s p [o] .vreg act) : Out) = .next (vecTrap (mixDest (s.pop2 p es) p e.word) p e.word 27 4) := by
  simp [onPort2, hq, ho, hread, State.pop2]

/-- A table load works as the others do once no pass that is issued names the image of its slot (R195). -/
theorem exec_tabLd_first {p : PlankId} (hq : (s.plank p).port2 = e :: es) (hecc : ecc ≠ .vreg)
    (ho : fget e.word Vec.OPC = 0x50) (hfree : imageNamed s p (s.rget (slotF p (fget e.word Vec.IMM % 4))) = false) :
    exec (.tabLd p ecc) s = .next (laneTabLd (s.pop2 p es) p ecc e) := by
  have hhead : (s.plank p).port2.head? = some e := by rw [hq, List.head?_cons]
  have hwork : exec (.tabLd p ecc) s = .next (onPort2 s p [0x50] ecc (fun s e => laneTabLd s p ecc e)) := by
    simp [exec, execTabLd, hhead, hfree]
  exact hwork.trans (onPort2_first hq hecc ho)

end

/-- Settles O6: each command works as the instruction first on the port; `vnop` reads no register, so it stands with no
error to exclude. -/
theorem laneArithmeticCompletes : Obligations.LaneArithmeticCompletes := by
  intro s p e es ecc hq hecc
  exact ⟨onPort2_first hq (by decide), onPort2_first hq hecc, onPort2_first hq hecc, onPort2_first hq hecc,
    onPort2_first hq hecc, onPort2_first hq hecc, onPort2_first hq hecc, onPort2_first hq hecc, onPort2_first hq hecc,
    onPort2_first hq hecc, onPort2_first hq hecc⟩

/-- Settles O7, by the same rule. -/
theorem laneLogicCompletes : Obligations.LaneLogicCompletes := by
  intro s p e es ecc hq hecc
  exact ⟨onPort2_first hq hecc, onPort2_first hq hecc, onPort2_first hq hecc, onPort2_first hq hecc, onPort2_first hq hecc,
    onPort2_first hq hecc, onPort2_first hq hecc, onPort2_first hq hecc, onPort2_first hq hecc⟩

/-- Settles O8: a table load has a rule of its own, `rngV` stands with no error to exclude, and every opcode of the list
reads a register, so that it traps. -/
theorem laneMovesComplete : Obligations.LaneMovesComplete := by
  intro s p e es hq
  refine ⟨fun ecc hecc => ?_, fun c o hc => ?_⟩
  · exact ⟨onPort2_first hq hecc, onPort2_first hq hecc, onPort2_first hq hecc, onPort2_first hq hecc,
      onPort2_first hq hecc, exec_tabLd_first hq hecc, onPort2_first hq hecc, onPort2_first hq (by decide)⟩
  · fin_cases hc <;> exact onPort2_first_vreg hq (by decide)

end Sys2Proof.Machine
end

section
/-! PROOFS. The stream instructions of port 3 (O9): what the guards of R190 and R232 leave of one that may run. -/
namespace Sys2Proof.Machine

section
variable {s : State} {p : Nat} {e : VecSlot} {es : List VecSlot} {ops : List Nat} {ecc : CoreEcc}
  {extra : State → StreamOp → List (Nat × Nat) × List (Nat × Nat)} {act : State → StreamOp → State}

/-- A read of clean ranges in which SECDED finds nothing new meets no uncorrectable word (R232). -/
theorem storeErrs_eq_zero {rs : List (Nat × Nat)} (hclean : poisonSum s p rs = 0) (hecc : ecc ≠ .store) :
    storeErrs s p ecc rs = 0 := by
  simp [storeErrs, hclean, hecc, boolNat]

/-- Past the guards of R190 and R232 a stream instruction works on, its corrected words counted. -/
theorem streamGuard_of_clear {w : Word64} {reads writes : List (Nat × Nat)} {work : State → State}
    (howned : firstBad s p [ownVector] ((streamDescOff w, 64) :: reads ++ writes) = none)
    (hclean : poisonSum s p ((streamDescOff w, 64) :: reads) = 0) (hecc : ecc ≠ .store) :
    streamGuard s p w ecc reads writes work = work (eccCounts s p ecc 0) := by
  rw [streamGuard, howned]
  dsimp only
  rw [storeErrs_eq_zero hclean hecc, if_pos rfl]

/-- One that may run is taken off the port and works on the operands of its record. -/
theorem runStream_of_clear (hrun : StreamClear s p e es extra) (hecc : ecc ≠ .store) (ho : fget e.word Vec.OPC ∈ ops) :
    (.next (runStream s p ops ecc extra act) : Out) =
      .next (act (eccCounts (s.pop3 p es) p ecc 0) (streamOp (s.pop3 p es) p e.word)) := by
  obtain ⟨hfirst, horder, howned, hclean⟩ := hrun
  have hgo : (ops.contains (fget e.word Vec.OPC) && (s.plank p).port2.all (fun x => decide (e.seq < x.seq))) = true := by
    rw [horder, List.contains_iff_mem.mpr ho, Bool.and_self]
  rw [runStream, onPort3, hfirst]
  dsimp only
  rw [if_pos hgo]
  exact congrArg _ (streamGuard_of_clear howned hclean hecc)

end

/-- Settles O9: each command runs under the guards with the ranges that its own clause adds; `card` and `uncard` take
five opcodes each. -/
theorem streamInstructionsComplete : Obligations.StreamInstructionsComplete := by
  rintro s p e es o ecc t rfl hecc rfl
  have run {opc extra act} (ho : fget e.word Vec.OPC = opc) (hrun : StreamClear s p e es extra) :
      (.next (runStream s p [opc] ecc extra act) : Out) =
        .next (act (eccCounts (s.pop3 p es) p ecc 0) (streamOp (s.pop3 p es) p e.word)) :=
    runStream_of_clear hrun hecc (List.mem_singleton.mpr ho)
  refine ⟨run, run, fun hrun => ⟨fun ho => run ho hrun, fun ho => run ho hrun, fun ho => run ho hrun,
    fun ho => run ho hrun, fun hlo hhi => ?card, fun hlo hhi => ?uncard, fun ho => run ho hrun⟩, run, run⟩
  case card =>
    exact runStream_of_clear hrun hecc (by simp only [List.mem_cons, List.not_mem_nil]; omega)
  case uncard =>
    exact runStream_of_clear hrun hecc (by simp only [List.mem_cons, List.not_mem_nil]; omega)

end Sys2Proof.Machine
end

section
/-! PROOFS. What a refusal files and fails: the event log, a stream with its objects and barriers, a pass exception record. All
of it spares the planks and the words that hold the state of an array (R17, R89, R103). -/
namespace Sys2Proof.Machine

section
variable {a s : State}

/-! ## The words of an array -/

/-- The words of the plank blocks that hold PLANK_STATUS, PASS_COUNT, KBLOCK_COUNT and CORE_PC (Tables 4-10 and 8-13). -/
def ArrayWord (off : Nat) : Prop :=
  plankBase 0 ≤ off ∧ off < plankBase 160 ∧ off % 0x10000 ∈ [0x08, 0x40, 0x48, 0xB0]

/-- The state s has the planks of a, and its words that hold the state of an array. -/
structure SparesArrays (a s : State) : Prop extends Keeps a s where
  planks : s.planks = a.planks
  words : a.Wf → ∀ off, ArrayWord off → s.word off = a.word off

theorem arrayWord_of_place {p : PlankId} {i : Nat} (hi : i ∈ [0x08, 0x40, 0x48, 0xB0]) : ArrayWord (plankBase p + i) := by
  have hp := p.isLt
  unfold ArrayWord plankBase
  simp only [List.mem_cons, List.not_mem_nil, or_false] at hi ⊢
  omega

theorem not_arrayWord_of_place {p i : Nat} (hi : i < 0x10000) (hn : i ∉ [0x08, 0x40, 0x48, 0xB0]) :
    ¬ ArrayWord (plankBase p + i) := by
  unfold ArrayWord plankBase
  simp only [List.mem_cons, List.not_mem_nil, or_false] at hn ⊢
  omega

theorem not_arrayWord_of_lt {off : Nat} (h : off < plankBase 0) : ¬ ArrayWord off := fun hw => absurd hw.1 (not_le.mpr h)

theorem not_arrayWord_of_ge {off : Nat} (h : plankBase 160 ≤ off) : ¬ ArrayWord off := fun hw => absurd hw.2.1 (not_lt.mpr h)

/-- No port number leads the word of PORT_TX_FRAMES to one of an array: their places in 64 bytes differ. -/
theorem not_arrayWord_portTxFrames (e : Nat) : ¬ ArrayWord (Reg.PORT_TX_FRAMES e).off := by
  unfold ArrayWord Reg.PORT_TX_FRAMES identBase
  simp only [List.mem_cons, List.not_mem_nil, or_false]
  omega

namespace SparesArrays

/-! ## Changes that spare the arrays -/

theorem refl (a : State) : SparesArrays a a := ⟨Keeps.refl a, rfl, fun _ _ _ => rfl⟩

theorem plank_eq (h : SparesArrays a s) (q : Nat) : s.plank q = a.plank q := congrArg (kget plankReset · q) h.planks

theorem rget_eq (h : SparesArrays a s) (w : a.Wf) {f : RegF} (hf : ArrayWord f.off) : s.rget f = a.rget f := by
  rw [State.rget, State.rget, h.words w _ hf]

theorem foldl {β : Type} {f : State → β → State} {l : List β} (hf : ∀ s b, SparesArrays a s → SparesArrays a (f s b))
    (h : SparesArrays a s) : SparesArrays a (l.foldl f s) := by
  induction l generalizing s with
  | nil => exact h
  | cons b l ih => exact ih (hf _ _ h)

/-- Any change that leaves the window and the planks. -/
theorem of_eq {t : State} (h : SparesArrays a s) (hk : Keeps a t) (hwin : t.win = s.win) (hplanks : t.planks = s.planks) :
    SparesArrays a t :=
  ⟨hk, hplanks.trans h.planks, fun w off ho => (congrArg (kget winReset · off) hwin).trans (h.words w off ho)⟩

theorem ite {c : Prop} [Decidable c] {t : State} (h : SparesArrays a s) (h' : SparesArrays a t) :
    SparesArrays a (if c then s else t) := by
  split <;> assumption

theorem fab (h : SparesArrays a s) (x : Fabric) : SparesArrays a { s with fab := x } :=
  h.of_eq (keeps_free h.toKeeps ..) rfl rfl

theorem rset (h : SparesArrays a s) {f : RegF} (hf : ¬ ArrayWord f.off) (v : Nat) : SparesArrays a (s.rset f v) :=
  ⟨keeps_rset h.toKeeps, h.planks, fun w off ho =>
    (word_rset_apart (h.wf w) f v (fun e => hf (e ▸ ho))).trans (h.words w off ho)⟩

/-! ## The event log and the streams' failures -/

theorem sendMsg (h : SparesArrays a s) (e : Nat) (peer : Peer) (m : Msg) : SparesArrays a (sendMsg s e peer m) := by
  unfold Machine.sendMsg
  split
  · exact h
  next port _ =>
    have sent {u : State} (hu : SparesArrays a u) (n : Nat) (out : List OutMsg) :
        SparesArrays a { u.radd (Reg.PORT_TX_FRAMES port) n with out := out } :=
      of_eq (hu.rset (not_arrayWord_portTxFrames port) _) (keeps_free (keeps_radd hu.toKeeps) ..) rfl rfl
    dsimp only
    split
    · split
      · exact h
      · split
        · exact h.of_eq (keeps_modSession h.toKeeps) rfl rfl
        · exact sent (h.of_eq (keeps_modSession h.toKeeps) rfl rfl) _ _
    · exact sent h _ _

theorem sendEvent (h : SparesArrays a s) (er : BitVec 1024) : SparesArrays a (sendEvent s er) :=
  foldl (fun _ _ hs => (hs.of_eq (keeps_modSession hs.toKeeps) rfl rfl).sendMsg _ _ _) h

theorem logEvent (h : SparesArrays a s) (e : Event) : SparesArrays a (logEvent s e) := by
  have hlog : ¬ ArrayWord Reg.EVLOG_STATUS_SEQ.off := not_arrayWord_of_lt (by decide)
  have pointers {u : State} (hu : SparesArrays a u) (seq head oldest : Nat) :
      SparesArrays a (((u.rset Reg.EVLOG_STATUS_SEQ seq).rset Reg.EVLOG_STATUS_HEAD head).rset Reg.EVLOG_STATUS_OLDEST oldest) :=
    ((hu.rset hlog seq).rset (f := Reg.EVLOG_STATUS_HEAD) hlog head).rset (f := Reg.EVLOG_STATUS_OLDEST) hlog oldest
  have hrec (k : Nat) (x : BitVec 1024) (b : Board) :
      SparesArrays a { s with evlog := kput (fun _ => 0) s.evlog k x, board := b } :=
    h.of_eq (keeps_free (keeps_evlog h.toKeeps) ..) rfl rfl
  exact ite ((pointers (hrec ..) ..).sendEvent _) (pointers (hrec ..) ..)

theorem fileEvent (h : SparesArrays a s) (cls kind unitClass unit step : Nat) (payload : BitVec 512) :
    SparesArrays a (fileEvent s cls kind unitClass unit step payload) := by
  have htick : SparesArrays a s.tick := h.of_eq (keeps_tick h.toKeeps) rfl rfl
  unfold Machine.fileEvent
  dsimp only
  split
  · exact htick.logEvent _
  · split
    · exact htick.of_eq (keeps_free htick.toKeeps ..) rfl rfl
    · exact htick.rset (not_arrayWord_of_lt (by decide)) _

theorem strmSet (h : SparesArrays a s) (n : Nat) (f : Fd) (v : Nat) : SparesArrays a (strmSet s n f v) :=
  h.of_eq (keeps_strmSet h.toKeeps) rfl rfl

theorem streamTo (h : SparesArrays a s) (n st : Nat) : SparesArrays a (streamTo s n st) := by
  have hset := ((h.of_eq (keeps_tick h.toKeeps) rfl rfl).strmSet n Strm.STATE st).strmSet n Strm.HC_LAST s.hc.toNat
  unfold Machine.streamTo
  dsimp only
  split
  · exact (hset.strmSet _ _ _).fileEvent ..
  · exact hset.fileEvent ..

theorem breakBarrier (h : SparesArrays a s) (b : Nat) : SparesArrays a (breakBarrier s b) := by
  have hbar (w : Nat) : ¬ ArrayWord (barOff b w) :=
    not_arrayWord_of_ge (by unfold barOff syncBase plankBase; omega)
  exact ((h.fab _).rset (f := Reg.BAR_BROKEN b) (hbar 2) 1).rset (f := Reg.BAR_VALID b) (hbar 0) 0

theorem ownerMessage (h : SparesArrays a s) (stream event cause tree : Nat) :
    SparesArrays a (ownerMessage s stream event cause tree) :=
  ite h (foldl (fun _ _ hs => hs.fab _) (h.fab _))

theorem orphanOne (h : SparesArrays a s) (o cause : Nat) : SparesArrays a (orphanOne s o cause).1 := by
  unfold Machine.orphanOne
  dsimp only
  split
  · exact h
  · exact foldl (fun _ _ hs => hs.ownerMessage ..)
      (foldl (fun _ _ hs => hs.breakBarrier _) (h.of_eq (keeps_setObj h.toKeeps) rfl rfl))

theorem orphanWork (fuel : Nat) (os : List Nat) (cause : Nat) (h : SparesArrays a s) :
    SparesArrays a (orphanWork fuel os cause s) := by
  induction fuel generalizing os s with
  | zero => exact h
  | succ n ih =>
    cases os with
    | nil => exact h
    | cons o os => exact ih _ (h.orphanOne o cause)

theorem failStream (h : SparesArrays a s) (n code : Nat) : SparesArrays a (failStream s n code) :=
  ite h (orphanWork _ _ _ ((h.strmSet ..).streamTo ..))

theorem stepFault (h : SparesArrays a s) (p : Nat) (f : StepFlag) (code : Nat) : SparesArrays a (stepFault s p f code) := by
  unfold Machine.stepFault
  split
  · exact h
  · exact ite h (ite (h.failStream ..) (h.of_eq (keeps_jobFlag h.toKeeps) rfl rfl))

theorem bankViolation (h : SparesArrays a s) (p b tag : Nat) : SparesArrays a (bankViolation s p b tag) :=
  (h.fileEvent ..).stepFault ..

/-! ## A refusal -/

theorem excRecord (h : SparesArrays a s) (p : Nat) (e : Exc) : SparesArrays a (excRecord s p e) := by
  unfold Machine.excRecord
  dsimp only
  split
  · exact h
  · split
    · exact h.rset (not_arrayWord_of_place (by decide) (by decide)) _
    · split
      · exact h.bankViolation ..
      · exact rset (of_eq (s := s) h (keeps_storeRec (keeps_tick h.toKeeps)) rfl rfl)
          (not_arrayWord_of_place (by decide) (by decide)) _

theorem refusePass (h : SparesArrays a s) (p code tag tid sel fillTag : Nat) :
    SparesArrays a (refusePass s p code tag tid sel fillTag) :=
  (h.excRecord ..).stepFault ..

theorem eccCounts (h : SparesArrays a s) (p : Nat) (ecc : CoreEcc) (n : Nat) : SparesArrays a (eccCounts s p ecc n) := by
  have hecc : ¬ ArrayWord (plankBase p + 0x0110) := not_arrayWord_of_place (by decide) (by decide)
  exact (h.rset (f := Reg.PS_ECC_CORR p) hecc _).rset (f := Reg.PS_ECC_UNCORR p) hecc _

end SparesArrays

end
end Sys2Proof.Machine
end

section
/-! PROOFS. A refused pass (O54): past the core's own step, what shows in its plank is the drop of a spill that holds no
accumulator (R89, R93, R107). -/
namespace Sys2Proof.Machine

section
variable {s : State} {p : Nat}

/-! ## The state in which a descriptor is checked (R107, R110) -/

/-- Before the checks the issue has dropped a spill record that holds no accumulator, but for a plank that is masked or
Faulted and for a continue-from-spill. -/
def issueStart (s : State) (p : Nat) (d : BitVec 256) : State :=
  if maskedPlank s p || plankState s p == PlankSt.faulted || fget d Desc.ACC == 2 then s else dropIdleSpill s p

theorem keeps_issueStart (s : State) (p : Nat) (d : BitVec 256) : Keeps s (issueStart s p d) :=
  keeps_ite (Keeps.refl s) (keeps_dropIdleSpill (Keeps.refl s))

/-- What an issue answers, a code and a state, spares the arrays when it is a refusal. -/
def RefusalSpares (a : State) (r : Nat × State) : Prop := r.1 ≠ 0 → SparesArrays a r.2

theorem refusalSpares_zero (a t : State) : RefusalSpares a (0, t) := fun h => absurd rfl h

theorem refusalSpares_ite {a : State} {c : Prop} [Decidable c] {x y : Nat × State} (hx : RefusalSpares a x)
    (hy : RefusalSpares a y) : RefusalSpares a (if c then x else y) := by
  split <;> assumption

/-- A descriptor is refused in the state that the drop left, its side record read and counted. -/
theorem refusalSpares_issueDesc (s : State) (p : Nat) (d : BitVec 256) (off : Nat) (fill : Option Nat) (ecc : CoreEcc) :
    RefusalSpares (issueStart s p d) (issueDesc s p d off fill ecc) := by
  have start := SparesArrays.refl (issueStart s p d)
  unfold issueDesc
  dsimp only
  split
  · exact refusalSpares_zero _ _
  · exact refusalSpares_ite (refusalSpares_zero _ _) (refusalSpares_ite
      (fun _ => (start.ite (start.eccCounts p ecc 0)).refusePass ..)
      (refusalSpares_ite (refusalSpares_zero _ _) (refusalSpares_zero _ _)))

/-- So is the descriptor of a pass, which stands at `off`. -/
theorem refusalSpares_issuePass (s : State) (p off : Nat) (fill : Option Nat) (ecc : CoreEcc) :
    RefusalSpares (issueStart s p (s.recAt (storeBase p + off) 256)) (issuePass s p off fill ecc) := by
  have issued := refusalSpares_issueDesc s p (s.recAt (storeBase p + off) 256) off fill ecc
  unfold issuePass
  refine refusalSpares_ite issued ?_
  split
  · exact refusalSpares_zero _ _
  · exact refusalSpares_ite (refusalSpares_zero _ _) issued

theorem planks_dropIdleSpill (s : State) (p : Nat) : (dropIdleSpill s p).planks = s.planks := by
  unfold dropIdleSpill
  dsimp only
  split
  · split <;> rfl
  · rfl

/-- The drop writes SPILL_VALID and STATE and nothing else. -/
theorem rget_dropIdleSpill_apart (w : s.Wf) {f : RegF} (h : f.off ≠ (Reg.PLANK_STATUS_STATE p).off ∨ 2 < f.lo ∧ f.hi < 10) :
    (dropIdleSpill s p).rget f = s.rget f := by
  have w' : (s.rset (Reg.PLANK_STATUS_SPILL_VALID p) 0).Wf := (keeps_rset (Keeps.refl s)).wf w
  have hvalid : (s.rset (Reg.PLANK_STATUS_SPILL_VALID p) 0).rget f = s.rget f :=
    rget_rset_apart (f := Reg.PLANK_STATUS_SPILL_VALID p) w (by decide : 10 < 64) (h.imp_right fun hb => .inl hb.2) 0
  unfold dropIdleSpill
  dsimp only
  split
  · split
    · exact (rget_rset_apart (f := Reg.PLANK_STATUS_STATE p) w' (by decide : 2 < 64) (h.imp_right fun hb => .inr hb.1) _).trans hvalid
    · exact hvalid
  · rfl

/-- A spill that holds no accumulator is dropped, and a Suspended plank returns to Idle (R107). -/
theorem dropIdleSpill_of_idle (w : s.Wf) (hv : s.rbit (Reg.PLANK_STATUS_SPILL_VALID p) = true) (hl : spillLive s p = 0) :
    (dropIdleSpill s p).rget (Reg.PLANK_STATUS_SPILL_VALID p) = 0 ∧
      plankState (dropIdleSpill s p) p = (if plankState s p = PlankSt.suspended then PlankSt.idle else plankState s p) := by
  have hdropped : dropIdleSpill s p = (if plankState (s.rset (Reg.PLANK_STATUS_SPILL_VALID p) 0) p = PlankSt.suspended then
      setPlankState (s.rset (Reg.PLANK_STATUS_SPILL_VALID p) 0) p PlankSt.idle else s.rset (Reg.PLANK_STATUS_SPILL_VALID p) 0) := by
    simp [dropIdleSpill, hv, hl]
  have w' : (s.rset (Reg.PLANK_STATUS_SPILL_VALID p) 0).Wf := (keeps_rset (Keeps.refl s)).wf w
  have hvalid : (s.rset (Reg.PLANK_STATUS_SPILL_VALID p) 0).rget (Reg.PLANK_STATUS_SPILL_VALID p) = 0 :=
    rget_rset w (by decide : 10 < 64) 0
  have hstate : plankState (s.rset (Reg.PLANK_STATUS_SPILL_VALID p) 0) p = plankState s p :=
    rget_rset_apart w (by decide : 10 < 64) (.inr (.inl (by decide : 2 < 10))) 0
  rw [hdropped, hstate]
  split
  · exact ⟨(rget_rset_apart w' (by decide : 2 < 64) (.inr (.inr (by decide : 2 < 10))) _).trans hvalid,
      rget_rset w' (by decide : 2 < 64) _⟩
  · exact ⟨hvalid, hstate⟩

/-- The drop of the issue leaves every plank as it is. -/
theorem plank_issueStart (s : State) (p : Nat) (d : BitVec 256) (q : Nat) : (issueStart s p d).plank q = s.plank q := by
  unfold issueStart
  split
  · rfl
  · exact congrArg (kget plankReset · q) (planks_dropIdleSpill s p)

theorem rget_issueStart_apart (w : s.Wf) (d : BitVec 256) {f : RegF}
    (h : f.off ≠ (Reg.PLANK_STATUS_STATE p).off ∨ 2 < f.lo ∧ f.hi < 10) : (issueStart s p d).rget f = s.rget f := by
  unfold issueStart
  split
  · rfl
  · exact rget_dropIdleSpill_apart w h

/-- Nothing is dropped from a plank that is masked or Faulted, by a continue-from-spill, or where no idle spill stands. -/
theorem issueStart_eq_self {d : BitVec 256} (h : maskedPlank s p = true ∨ plankState s p = PlankSt.faulted ∨ fget d Desc.ACC = 2 ∨
    s.rbit (Reg.PLANK_STATUS_SPILL_VALID p) = false ∨ spillLive s p ≠ 0) : issueStart s p d = s := by
  unfold issueStart
  split
  · rfl
  next hearly =>
    simp only [Bool.or_eq_true, beq_iff_eq, not_or] at hearly
    obtain ⟨⟨hmask, hfault⟩, hcont⟩ := hearly
    have hidle : (s.rbit (Reg.PLANK_STATUS_SPILL_VALID p) && spillLive s p == 0) = false := by
      simpa [hmask, hfault, hcont, ← Bool.not_eq_true, or_iff_not_imp_left] using h
    exact if_neg (Bool.eq_false_iff.mp hidle)

theorem issueStart_eq_dropIdleSpill {d : BitVec 256} (hmask : maskedPlank s p = false) (hfault : plankState s p ≠ PlankSt.faulted)
    (hcont : fget d Desc.ACC ≠ 2) : issueStart s p d = dropIdleSpill s p := by
  simp [issueStart, hmask, hfault, hcont]

/-! ## The core's own step (R203) -/

@[simp] theorem rget_setX (r : Nat) (v : Word64) (f : RegF) : (s.setX p r v).rget f = s.rget f := by
  unfold State.setX
  split <;> rfl

theorem xreg_setX (w : s.Wf) {r : Nat} (hr : r ≠ 0) (v : Word64) : (s.setX p r v).xreg p r = v := by
  obtain ⟨hx, -⟩ := w.cores p
  rw [State.xreg, if_neg hr, State.setX, if_neg hr, plank_modPlank w, if_pos rfl, kget_kput (kwf_above hx), if_pos rfl]

theorem plank_setX_other (w : s.Wf) (r : Nat) (v : Word64) {q : Nat} (hq : q ≠ p) : (s.setX p r v).plank q = s.plank q := by
  unfold State.setX
  split
  · rfl
  · rw [plank_modPlank w, if_neg hq]

/-- A write of x1 to x31 changes the registers of its core alone. -/
theorem plank_setX (w : s.Wf) (r : Nat) (v : Word64) : ∃ x, (s.setX p r v).plank p = { s.plank p with x := x } := by
  unfold State.setX
  split
  · exact ⟨_, rfl⟩
  · exact ⟨_, by rw [plank_modPlank w, if_pos rfl]⟩

/-- The core's step to the next instruction changes in its plank the mark of a held instruction. -/
theorem plank_coreNext (w : s.Wf) (q : Nat) :
    (coreNext s p).plank q = if q = p then { s.plank p with held := none } else s.plank q :=
  plank_modPlank ((keeps_setCore (keeps_setPc (Keeps.refl s))).wf w) p _ q

theorem xreg_coreNext (w : s.Wf) (r : Nat) : (coreNext s p).xreg p r = s.xreg p r := by
  rw [State.xreg, State.xreg, plank_coreNext w, if_pos rfl]

theorem rget_coreNext (w : s.Wf) {f : RegF} (hpc : f.off ≠ (Reg.CORE_PC_PC p).off) (hst : f.off ≠ (Reg.CORE_STATUS_STATE p).off) :
    (coreNext s p).rget f = s.rget f := by
  have w' : (s.setPc p (s.pc p + 4)).Wf := (keeps_setPc (Keeps.refl s)).wf w
  rw [coreNext, rget_modPlank, setCore, rget_rset_apart w' (by decide : 2 < 64) (.inl hst), State.setPc,
    rget_rset_apart w (by decide : 63 < 64) (.inl hpc)]

theorem pc_coreNext (w : s.Wf) : (coreNext s p).pc p = (s.pc p + 4) % 2 ^ 64 := by
  have w' : (s.setPc p (s.pc p + 4)).Wf := (keeps_setPc (Keeps.refl s)).wf w
  have hapart : (Reg.CORE_PC_PC p).off ≠ (Reg.CORE_STATUS_STATE p).off := by simp [Reg.CORE_PC_PC, Reg.CORE_STATUS_STATE]
  rw [coreNext, State.pc, rget_modPlank, setCore, rget_rset_apart w' (by decide : 2 < 64) (.inl hapart), State.setPc,
    rget_rset w (by decide : 63 < 64)]
  rfl

/-! ## Reading the words of the array after a refusal -/

/-- Words at different places of a plank's block are different. -/
theorem off_ne_of_place_ne {f g : RegF} {i j : Nat} (hf : f.off = plankBase p + i) (hg : g.off = plankBase p + j) (h : i ≠ j) :
    f.off ≠ g.off := by
  omega

/-- PLANK_STATUS, PASS_COUNT and KBLOCK_COUNT read as they did before the refusal. -/
theorem rget_refused {p : PlankId} {a u : State} (w : a.Wf) (h : SparesArrays a u) (r : Nat) (v : Word64) {f : RegF} {i : Nat}
    (hf : f.off = plankBase p + i) (hi : i ∈ [0x08, 0x40, 0x48]) : (coreNext (u.setX p r v) p).rget f = a.rget f := by
  have hpc : f.off ≠ (Reg.CORE_PC_PC p).off := off_ne_of_place_ne hf (j := 0xB0) rfl (by rintro rfl; revert hi; decide)
  have hst : f.off ≠ (Reg.CORE_STATUS_STATE p).off := off_ne_of_place_ne hf (j := 0xA8) rfl (by rintro rfl; revert hi; decide)
  have harr : ArrayWord f.off := hf ▸ arrayWord_of_place (List.mem_append_left [0xB0] hi)
  rw [rget_coreNext ((keeps_setX (Keeps.refl u)).wf (h.wf w)) hpc hst, rget_setX, h.rget_eq w harr]

theorem pc_refused {p : PlankId} {a u : State} (w : a.Wf) (h : SparesArrays a u) (r : Nat) (v : Word64) :
    (coreNext (u.setX p r v) p).pc p = (a.pc p + 4) % 2 ^ 64 := by
  have harr : ArrayWord (Reg.CORE_PC_PC p).off := arrayWord_of_place (i := 0xB0) (by decide)
  rw [pc_coreNext ((keeps_setX (Keeps.refl u)).wf (h.wf w)), State.pc, rget_setX, h.rget_eq w harr, State.pc]

end

/-- PASS_ISSUE past its guards: the code of the issue in rd, and the core goes on (R89, R93). -/
theorem exec_passIssue {s : State} {p : PlankId} {rs1 : XReg} (hready : coreReady s p = true) (hstop : stopDue s p = false)
    (halign : (s.xreg p rs1).toNat % 32 = 0) (hslot : slotFull s p = false) (rd : XReg) (ecc : CoreEcc) :
    exec (.passIssue p rd rs1 ecc) s = .next (coreNext ((issuePass s p ((s.xreg p rs1).toNat % 2 ^ 24) none ecc).2.setX p rd
      (BitVec.ofNat 64 (issuePass s p ((s.xreg p rs1).toNat % 2 ^ 24) none ecc).1)) p) := by
  simp [exec, execPassIssue, hready, hstop, halign, hslot]

/-- Settles O54: `refusalSpares_issuePass` carries what the refusal does, `dropIdleSpill_of_idle` the drop before it, and the
core's step is that of any issue. -/
theorem aRefusedPassChangesNoAccumulator : Obligations.ARefusedPassChangesNoAccumulator := by
  rintro s p rd rs1 off ecc w hready hstop halign hslot hoff hcode
  have hspares := refusalSpares_issuePass s p off none ecc hcode
  have hexec := exec_passIssue hready hstop halign hslot rd ecc
  rw [← hoff] at hexec
  generalize s.recAt (storeBase p + off) 256 = d at hspares ⊢
  generalize issuePass s p off none ecc = r at hspares hexec ⊢
  obtain ⟨code, u⟩ := r
  dsimp only at hspares hexec ⊢
  have w₀ : (issueStart s p d).Wf := (keeps_issueStart s p d).wf w
  have wu : u.Wf := hspares.wf w₀
  have wx : (u.setX p rd (BitVec.ofNat 64 code)).Wf := (keeps_setX (Keeps.refl u)).wf wu
  have hplank (q : Nat) : u.plank q = s.plank q := (hspares.plank_eq q).trans (plank_issueStart s p d q)
  have hread {f : RegF} {i : Nat} (hf : f.off = plankBase p + i) (hi : i ∈ [0x08, 0x40, 0x48]) :=
    rget_refused w₀ hspares rd (BitVec.ofNat 64 code) hf hi
  refine ⟨_, hexec, fun hrd => ?rd, ?plank, fun q hq => ?others, ?pc, fun f hf => ?counts, d, rfl, fun hkept => ?kept,
    fun hmask hfault hcont hv hl => ?dropped⟩
  case rd => rw [xreg_coreNext wx, xreg_setX wu hrd]
  case plank =>
    obtain ⟨x, hx⟩ := plank_setX (p := p) wu rd (BitVec.ofNat 64 code)
    exact ⟨x, by rw [plank_coreNext wx, if_pos rfl, hx, hplank]⟩
  case others => rw [plank_coreNext wx, if_neg hq, plank_setX_other wu _ _ hq, hplank]
  case pc =>
    have hpc : (issueStart s p d).pc p = s.pc p :=
      rget_issueStart_apart w d (.inl (off_ne_of_place_ne (i := 0xB0) (j := 0x08) rfl rfl (by decide)))
    rw [pc_refused w₀ hspares, hpc]
  case counts =>
    simp only [List.mem_cons, List.not_mem_nil, or_false] at hf
    obtain rfl | rfl | rfl | rfl := hf
    · exact (hread (i := 0x40) rfl (by decide)).trans
        (rget_issueStart_apart w d (.inl (off_ne_of_place_ne (i := 0x40) (j := 0x08) rfl rfl (by decide))))
    · exact (hread (i := 0x48) rfl (by decide)).trans
        (rget_issueStart_apart w d (.inl (off_ne_of_place_ne (i := 0x48) (j := 0x08) rfl rfl (by decide))))
    · exact (hread (i := 0x08) rfl (by decide)).trans
        (rget_issueStart_apart w d (.inr (by decide : 2 < 4 ∧ 6 < 10)))
    · exact (hread (i := 0x08) rfl (by decide)).trans
        (rget_issueStart_apart w d (.inr (by decide : 2 < 7 ∧ 9 < 10)))
  case kept =>
    rw [issueStart_eq_self hkept] at hread
    exact ⟨hread (i := 0x08) rfl (by decide), hread (i := 0x08) rfl (by decide)⟩
  case dropped =>
    obtain ⟨hvalid, hstate⟩ := dropIdleSpill_of_idle w hv hl
    rw [issueStart_eq_dropIdleSpill hmask hfault hcont] at hread
    exact ⟨(hread (i := 0x08) rfl (by decide)).trans hvalid, (hread (i := 0x08) rfl (by decide)).trans hstate⟩

end Sys2Proof.Machine
end

section
/-! PROOFS. The commands of a pass, of PLANK_CTL and of the spill (O1, O2, O3), and the clock's glide (O26): what each does past
the guards that its clause names. -/
namespace Sys2Proof.Machine

section
variable {s : State} {p : PlankId} {r : PassRun} {ecc : CoreEcc}

/-! ## Passes, segments and drains (R92, R93, R94, R117) -/

theorem exec_passBegin (hwait : (s.plank p).wait = some r) (hmay : mayBegin s p r = true) (c : BitVec 32) :
    ∃ t, t = ((s.modPlank p (fun k => { k with run := some r, wait := none })).rsat (Reg.FEED_CORR_COUNT p) c.toNat).rsat
        (Reg.PS_ECC_CORR p) c.toNat ∧
      exec (.passBegin p c) s = .next (refreshPlank
        (if accState t p (fget r.desc Desc.SEL) == AccSt.draining then t else enterPass t p r) p) := by
  refine ⟨_, rfl, ?_⟩
  simp [exec, execPassBegin, hwait, hmay]

theorem exec_passEnd (hrun : (s.plank p).run = some r) (hacc : accState s p (fget r.desc Desc.SEL) = AccSt.accumulating) :
    exec (.passEnd p) s = .next (endPass s p r) := by
  simp [exec, execPassEnd, hrun, hacc]

theorem exec_sedgeSegment {j : SegJob} {js : List SegJob} (hsegs : (s.plank p).segs = j :: js) (hread : segFault s p [j] ecc = none) :
    exec (.sedgeSegment p ecc) s =
      .next ((runSeg (eccCounts s p ecc 0) p j).modPlank p (fun k => { k with segs := js })) := by
  simp [exec, execSedgeSegment, hsegs, hread]

theorem exec_drainBegin {sel : Nat} (hfree : drainBusy s p = false) (hnext : drainNext s p = some sel) :
    exec (.drainBegin p) s = .next (refreshPlank (setAccState s p sel AccSt.draining) p) := by
  simp [exec, execDrainBegin, hfree, hnext]

theorem exec_drainComplete_acc0 (h0 : accState s p 0 = AccSt.draining) :
    exec (.drainComplete p ecc) s = .next (finishDrain s p 0 ecc) := by
  simp [exec, execDrainComplete, h0]

/-- The drain path serves ACC1 where it does not serve ACC0. -/
theorem exec_drainComplete_acc1 (h0 : accState s p 0 ≠ AccSt.draining) (h1 : accState s p 1 = AccSt.draining) :
    exec (.drainComplete p ecc) s = .next (finishDrain s p 1 ecc) := by
  simp [exec, execDrainComplete, h0, h1]

/-! ## Faults, and the commands of PLANK_CTL (R105, R109, R110, R316) -/

theorem exec_plankFault {c : BitVec 8} (hlo : 1 ≤ c.toNat) (hhi : c.toNat ≤ 5) (hfeed : c ≠ 2) :
    exec (.plankFault p c) s = .next (plankFaultOp s p c.toNat) := by
  have hcode : (decide (1 ≤ c.toNat) && decide (c.toNat ≤ 5)) = true := by simp [hlo, hhi]
  simp only [exec, execPlankFault]
  rw [if_neg hfeed, if_pos hcode]

/-- Code 2 is an uncorrectable word that the feed read, which PS_ECC counts before the array stops (R232). -/
theorem exec_plankFault_feed : exec (.plankFault p 2) s = .next (plankFaultOp (s.rsat (Reg.PS_ECC_UNCORR p) 1) p 2) := by
  simp only [exec, execPlankFault, feedFault, if_true]

/-! ## The spill (R105, R106, R107) -/

/-- The array may begin a spill, whatever its pass under way: Suspending, no spill, reload, drain or sounding under way, and no
accumulator that is still to drain (R105). -/
structure MaySpill (s : State) (p : Nat) : Prop where
  suspending : plankState s p = PlankSt.suspending
  spilling : (s.plank p).spilling = false
  reload : (s.plank p).reload = none
  drain : drainBusy s p = false
  sounding : s.rbit (Reg.SOUND_STATUS_RUNNING p) = false
  acc0 : accState s p 0 ≠ AccSt.pending
  acc1 : accState s p 1 ≠ AccSt.pending

/-- The feed may stop at K-block `pos` of a pass: the pass accumulates, has still to reach the K-block, and has met no fault. -/
structure MayStopAt (s : State) (p pos : Nat) (r : PassRun) : Prop where
  accumulating : accState s p (fget r.desc Desc.SEL) = AccSt.accumulating
  reached : r.pos ≤ pos
  inside : pos < passBlocks r.desc
  feed : feedCheck s p r (getAcc s p (fget r.desc Desc.SEL)).sampled = none

theorem exec_spillStart {pos : BitVec 24} (hmay : MaySpill s p) (hpass : ∀ r, (s.plank p).run = some r → MayStopAt s p pos.toNat r)
    (hsegs : segFault s p (segsDone (s.plank p).segs pos.toNat)
      (if (segsDone (s.plank p).segs pos.toNat).isEmpty then .clean else ecc) = none) :
    exec (.spillStart p pos ecc) s = .next (beginSpill (stopFeed (eccCounts s p ecc 0) p pos.toNat) p ecc) := by
  obtain ⟨hstate, hspilling, hreload, hdrain, hsounding, hacc0, hacc1⟩ := hmay
  cases hrun : (s.plank p).run with
  | none =>
    simp [exec, execSpillStart, hrun, hstate, hspilling, hreload, hdrain, hsounding, hacc0, hacc1, hsegs, -List.isEmpty_iff]
  | some r =>
    obtain ⟨hacc, hreached, hinside, hfeed⟩ := hpass r hrun
    simp [exec, execSpillStart, hrun, hstate, hspilling, hreload, hdrain, hsounding, hacc0, hacc1, hsegs, -List.isEmpty_iff,
      hacc, hreached, hinside, hfeed]

theorem exec_spillComplete (hspilling : (s.plank p).spilling = true) : exec (.spillComplete p) s = .next (spillDone s p) := by
  simp [exec, execSpillComplete, hspilling]

theorem exec_spillReloadComplete (hreload : (s.plank p).reload = some r) (howned : firstBad s p [ownCells] (reloadRanges s p) = none)
    (hread : storeErrs s p ecc (reloadRanges s p) = 0) :
    exec (.spillReloadComplete p ecc) s = .next (reloadDone (eccCounts s p ecc 0) p r) := by
  simp [exec, execSpillReloadComplete, hreload, howned, hread]

/-! ## The island clock (R334, R335) -/

theorem exec_clockGlideStep {new : Nat} (hpow : powered s p = true)
    (hnew : new = (if s.rget (Reg.PLANK_CLOCK_MHZ p) < targetMhz s p then min (targetMhz s p) (s.rget (Reg.PLANK_CLOCK_MHZ p) + 27)
      else max (targetMhz s p) (s.rget (Reg.PLANK_CLOCK_MHZ p) - 27))) :
    exec (.clockGlideStep p) s = .next ((s.rset (Reg.VMON_TARGET p) (targetMv s p new)).rset (Reg.PLANK_CLOCK_MHZ p) new) := by
  subst hnew
  simp [exec, execClockGlideStep, hpow]

end

/-- Settles O1: each command past its own guards; `exec_passIssue` is the first. -/
theorem passCommandsComplete : Obligations.PassCommandsComplete := fun _ _ =>
  ⟨fun rd _ ecc hready hstop halign hslot => exec_passIssue hready hstop halign hslot rd ecc,
    fun c _ hwait hmay => exec_passBegin hwait hmay c, fun _ => exec_passEnd, fun _ _ _ => exec_sedgeSegment,
    fun _ => exec_drainBegin, fun _ => exec_drainComplete_acc0, fun _ => exec_drainComplete_acc1⟩

/-- Settles O2: the three bits of PLANK_CTL stand in one word, so that one condition of its block lets all three writes act. -/
theorem plankControlCompletes : Obligations.PlankControlCompletes := fun _ _ w =>
  ⟨fun _ => exec_plankFault, exec_plankFault_feed,
    fun hblock => ⟨congrArg Host.Outcome.next (regCommand_of_blockCause_zero hblock w _),
      congrArg Host.Outcome.next (regCommand_of_blockCause_zero hblock w _),
      congrArg Host.Outcome.next (regCommand_of_blockCause_zero hblock w _)⟩, rfl⟩

/-- Settles O3: a spill may begin with no pass under way, or at a K-block that the one under way has still to reach. -/
theorem spillCommandsComplete : Obligations.SpillCommandsComplete := by
  refine fun s p => ⟨fun pos ecc hstate hspilling hreload hdrain hsounding hacc0 hacc1 => ?_, exec_spillComplete,
    fun _ _ => exec_spillReloadComplete⟩
  have hmay : MaySpill s p := ⟨hstate, hspilling, hreload, hdrain, hsounding, hacc0, hacc1⟩
  refine ⟨fun hrun => exec_spillStart hmay (fun r hr => ?_), fun r hrun hacc hreached hinside hfeed =>
    exec_spillStart hmay (fun r' hr => ?_)⟩
  · rw [hrun] at hr
    contradiction
  · obtain rfl := Option.some.inj (hrun.symm.trans hr)
    exact ⟨hacc, hreached, hinside, hfeed⟩

/-- Settles O26: the new clock is the one that the statement names. -/
theorem clockGlides : Obligations.ClockGlides := fun _ _ _ => exec_clockGlideStep

end Sys2Proof.Machine
end

section
/-! PROOFS. The stages of Update, the evaluation points of a stepless program and the unloading of a job (O16): the guard of each
command, as its clause gives it. -/
namespace Sys2Proof.Machine

/-- Each id that is asked for has its entry: the test of U4 on the plans and of U5 on the telemetry. -/
theorem all_any_eq_true {α : Type} {ids : List Nat} {xs : List α} {id : α → Nat} (h : ∀ t ∈ ids, ∃ x ∈ xs, id x = t) :
    ids.all (fun t => xs.any (fun x => id x == t)) = true := by
  refine List.all_eq_true.mpr (fun t ht => List.any_eq_true.mpr ?_)
  obtain ⟨x, hx, hid⟩ := h t ht
  exact ⟨x, hx, beq_iff_eq.mpr hid⟩

section
variable {s : State} {job : BitVec 16} {j : Job}

/-! ## The stages of Update (R122, R172 to R182) -/

/-- U1 is the first stage, and waits for the checkpoint that still writes the records of the step before (R388). -/
theorem exec_updateStageU1 (hj : findJob s job.toNat = some j) (hphase : j.phase = 6) (hstage : j.stage = 0)
    (hckpt : ckptBusy s j = false) (rs : List Sys2Proof.Region) :
      exec (.updateStageU1 job rs) s = .next (stageU1 s j rs) := by
  simp [exec, execUpdateStageU1, hj, hphase, hstage, hckpt]

/-- U2 ends once no plank has an update block to come. -/
theorem exec_updateStageU2 (hj : findJob s job.toNat = some j) (hphase : j.phase = 6) (hstage : j.stage = 1)
    (hblocks : ∀ p, p < 160 → blocksDone s j p = true) : exec (.updateStageU2 job) s = .next (stageU2 s j) := by
  have hdone : (List.range 160).all (blocksDone s j) = true :=
    List.all_eq_true.mpr (fun p hp => hblocks p (List.mem_range.mp hp))
  simp only [exec, execUpdateStageU2, hj, hphase, hstage, hdone]
  rfl

theorem exec_updateStageU3 (hj : findJob s job.toNat = some j) (hphase : j.phase = 6) (hstage : j.stage = 2) :
    exec (.updateStageU3 job) s = .next (setStep s j.id.toNat (fun k => { k with stage := 3 })) := by
  simp [exec, execUpdateStageU3, hj, hphase, hstage]

/-- A Void step is in Check still, at its final verdict, and has no Update: its U3 ends it (R179). -/
theorem exec_updateStageU3_void (hj : findJob s job.toNat = some j) (hphase : j.phase = 5) (hfinal : j.final = true)
    (hverdict : j.verdict = Vd.void) : exec (.updateStageU3 job) s = .next (endStep s j.id.toNat j.stage) := by
  simp [exec, execUpdateStageU3, hj, hphase, hfinal, hverdict]

theorem exec_updateStageU4 {plans : List NapPlan} (hj : findJob s job.toNat = some j) (hphase : j.phase = 6) (hstage : j.stage = 3)
    (hplans : ∀ t ∈ napTids s j, ∃ n ∈ plans, n.tid.toNat = t) :
    exec (.updateStageU4 job plans) s = .next (stageU4 s j plans) := by
  have hall := all_any_eq_true hplans
  simp only [exec, execUpdateStageU4, hj, hphase, hstage, hall]
  rfl

/-- An entry of a tensor that the member did not update is left out. -/
theorem exec_updateStageU5 {tids : List TelemPart} (hj : findJob s job.toNat = some j) (hphase : j.phase = 6) (hstage : j.stage = 4)
    (htids : ∀ t ∈ updatedTids j, ∃ x ∈ tids, x.tid.toNat = t) :
    exec (.updateStageU5 job tids) s =
      .next (stageU5 s j (tids.filter (fun x => (updatedTids j).contains x.tid.toNat))) := by
  have hall := all_any_eq_true htids
  simp only [exec, execUpdateStageU5, hj, hphase, hstage, hall]
  rfl

/-! ## Evaluation points and unloading (R131, R374, R448) -/

/-- A stream with no group is whole by itself, and one with a group once each member has contributed. -/
theorem exec_evaluationPoint {n : StreamId} {others : List MemberPart} (hj : findJob s job.toNat = some j)
    (hkind : streamKind s n = 1) (hjob : fget (s.strm n) Strm.JOB = job.toNat)
    (hstate : streamState s n = St.running ∨ streamState s n = St.suspending)
    (hgroup : (treeGroup s (streamTree j n) = [] ∧ others = []) ∨
      allContributed s (streamTree j n) (others.map (fun o => o.chip.toNat)) = true)
    (hcapsules : ∀ i ∈ evalCapsules s j, replayReady s (capsuleOff j i) = true) :
    exec (.evaluationPoint job n others) s = .next (evaluate s j n others) := by
  have hlive : (streamKind s n == 1 && fget (s.strm n) Strm.JOB == job.toNat &&
      (streamState s n == St.running || streamState s n == St.suspending)) = true := by
    simpa [hkind, hjob] using hstate
  have hwhole : ((treeGroup s (streamTree j n)).isEmpty && others.isEmpty ||
      allContributed s (streamTree j n) (others.map (fun o => o.chip.toNat))) = true := by
    simpa using hgroup
  have hready : (evalCapsules s j).all (fun i => replayReady s (capsuleOff j i)) = true := List.all_eq_true.mpr hcapsules
  simp only [exec, execEvaluationPoint, hj, hlive, hwhole, hready]
  rfl

theorem exec_jobUnload (hj : findJob s job.toNat = some j)
    (hended : ∀ n ∈ jobStreams j, streamEnded s n = true ∨ streamState s n = St.idle) :
    exec (.jobUnload job) s = .next (unloadJob s j) := by
  have hall : (jobStreams j).all (fun n => streamEnded s n || streamState s n == St.idle) = true := by
    simpa using hended
  simp only [exec, execJobUnload, hj, hall]
  rfl

end

/-- Settles O16: each command past its guard; U3 has two, of a committed step and of a Void one. -/
theorem updateStagesComplete : Obligations.UpdateStagesComplete := fun _ _ _ hj =>
  ⟨fun hphase => ⟨fun rs hstage hckpt => exec_updateStageU1 hj hphase hstage hckpt rs, exec_updateStageU2 hj hphase,
      exec_updateStageU3 hj hphase, fun _ => exec_updateStageU4 hj hphase, fun _ => exec_updateStageU5 hj hphase⟩,
    exec_updateStageU3_void hj, fun _ _ => exec_evaluationPoint hj, exec_jobUnload hj⟩

end Sys2Proof.Machine
end

section
/-! PROOFS. The image commands (O4): the core that asks for an add-out or a load-in, and what the image path does past the guards
of R143 to R145. -/
namespace Sys2Proof.Machine

section
variable {s : State} {p : PlankId} {q : ImageReq} {ecc : CoreEcc}

/-- A ready core hands its request to an image path that is free, and holds until the answer (R143, assumption 12). -/
theorem requestImage_of_ready {rs1 : XReg} (hready : coreReady s p = true) (halign : (s.xreg p rs1).toNat % 4096 = 0)
    (hfree : (s.plank p).image = none) (load : Bool) (rd rs2 : XReg) :
    requestImage s p load rd rs1 rs2 = coreHold (s.modPlank p (fun k => { k with
      image := some (ImageReq.mk load ((s.xreg p rs2).toNat % 2) ((s.xreg p rs1).toNat % 2 ^ 24) rd false 0 false) })) p none := by
  simp [requestImage, hready, halign, hfree]

theorem exec_addoutBegin (hwait : imageWaiting s p = some q) (hmay : imageReady s p q = true) (hadd : q.load = false) :
    exec (.addoutBegin p ecc) s = .next (beginImage s p q ecc) := by
  simp [exec, execAddoutBegin, hwait, hmay, hadd]

theorem exec_loadinBegin (hwait : imageWaiting s p = some q) (hmay : imageReady s p q = true) (hload : q.load = true) :
    exec (.loadinBegin p ecc) s = .next (beginImage s p q ecc) := by
  simp [exec, execLoadinBegin, hwait, hmay, hload]

/-- An add-out ends where the cells own its column sums and its image, and SECDED finds no uncorrectable word (R144, R232). -/
theorem exec_addoutComplete (himage : (s.plank p).image = some q) (hbegun : q.begun = true) (hadd : q.load = false)
    (howned : firstBad s p [ownCells] (chkSums s p (getAcc s p q.sel) ++ imageRanges q.image) = none) (hecc : ecc ≠ .store) :
    exec (.addoutComplete p ecc) s = .next (addoutDone (eccCounts s p ecc 0) p q) := by
  simp [exec, execAddoutComplete, himage, hbegun, hadd, howned, hecc, boolNat]

/-- A load-in reads the image that it loads, so that a poisoned word of it stands in the way too (R145, R220). -/
theorem exec_loadinComplete (himage : (s.plank p).image = some q) (hbegun : q.begun = true) (hload : q.load = true)
    (howned : firstBad s p [ownCells] (imageRanges q.image) = none) (hread : storeErrs s p ecc (imageRanges q.image) = 0) :
    exec (.loadinComplete p ecc) s = .next (loadinDone (eccCounts s p ecc 0) p q) := by
  simp [exec, execLoadinComplete, himage, hbegun, hload, howned, hread]

end

/-- Settles O4: add-out and load-in are one request, told apart by its `load` bit, and each of their commands runs past its own guard. -/
theorem imageCommandsComplete : Obligations.ImageCommandsComplete := fun _ _ =>
  ⟨fun rd _ rs2 hready halign hfree =>
      ⟨congrArg Host.Outcome.next (requestImage_of_ready hready halign hfree false rd rs2),
        congrArg Host.Outcome.next (requestImage_of_ready hready halign hfree true rd rs2)⟩,
    fun _ _ hwait hmay => ⟨exec_addoutBegin hwait hmay, exec_loadinBegin hwait hmay⟩,
    fun _ _ himage hbegun => ⟨exec_addoutComplete himage hbegun, exec_loadinComplete himage hbegun⟩⟩

end Sys2Proof.Machine
end

section
/-! PROOFS. Signals, waits, the fill list and the interleave table of a plank core (O10), and what goes on while its core waits
(O11). -/
namespace Sys2Proof.Machine

section
variable {s t : State} {p : PlankId} {rd rs1 rs2 : XReg} {o target st : Nat} {ecc : CoreEcc}

/-! ## Signals (R252, R272) -/

/-- A signal goes out to an object of this chip, and to one of another chip over a direction to a link die that the plank owns,
as the channels stand once the handovers are applied. -/
theorem syncSignal_sends (hready : coreReady s p = true) (hobj : bit (s.xreg p rs1).toNat 15 = false)
    (ht : t = applyHandovers s)
    (hway : bits (s.xreg p rs1).toNat 16 14 = chipNo t ∨ (plankInject t p).isSome = true) (isSet : Bool) :
    syncSignal s p rs1 rs2 isSet = coreNext (plankSignal t p (bits (s.xreg p rs1).toNat 16 14)
      (bits (s.xreg p rs1).toNat 0 15) (t.xreg p rs2).toNat isSet) p := by
  subst ht
  have hgo : (bits (s.xreg p rs1).toNat 16 14 != chipNo (applyHandovers s) &&
      (plankInject (applyHandovers s) p).isNone) = false := by
    rcases hway with hchip | hinject
    · simp [hchip]
    · simp [Option.isNone_eq_false_iff.mpr hinject]
  simp [syncSignal, hready, hobj, hgo]

/-- A signal to another chip with no such direction is refused (R252, assumptions 8 and 109). -/
theorem syncSignal_refused (hready : coreReady s p = true) (hobj : bit (s.xreg p rs1).toNat 15 = false)
    (ht : t = applyHandovers s) (hchip : bits (s.xreg p rs1).toNat 16 14 ≠ chipNo t) (hinject : plankInject t p = none)
    (isSet : Bool) :
    syncSignal s p rs1 rs2 isSet =
      chanRefused t p (chanIndex (p / 20) (dieOfLink (p / 20 % 4)) 0) (c1 0 (boolNat isSet) 0 rs1 rs2) := by
  subst ht
  simp [syncSignal, hready, hobj, hchip, hinject]

/-! ## Waits (R204, R273) -/

/-- A core that need not stop may wait on an object of this chip that is in use. -/
structure MayWait (s : State) (p : PlankId) (rs1 : XReg) : Prop where
  ready : coreReady s p = true
  going : stopDue s p = false
  object : bit (s.xreg p rs1).toNat 15 = false
  here : bits (s.xreg p rs1).toNat 16 14 = chipNo s
  inUse : fget (s.obj (bits (s.xreg p rs1).toNat 0 15)) Obj.STATE ≠ 0

theorem exec_syncWait_returns (hmay : MayWait s p rs1)
    (hover : waitStatus s (bits (s.xreg p rs1).toNat 0 15) (bits (s.xreg p rs2).toNat 0 32) = some st) :
    exec (.syncWait p rd rs1 rs2) s = .next (waitReturns s p rd st) := by
  obtain ⟨hready, hgoing, hobj, hhere, hused⟩ := hmay
  simp [exec, execSyncWait, hready, hgoing, hobj, hhere, hused, hover]

theorem exec_syncWait_begins (hmay : MayWait s p rs1)
    (hopen : waitStatus s (bits (s.xreg p rs1).toNat 0 15) (bits (s.xreg p rs2).toNat 0 32) = none) :
    exec (.syncWait p rd rs1 rs2) s = .next (waitBegins s p rd (bits (s.xreg p rs1).toNat 0 15)
      (bits (s.xreg p rs2).toNat 0 32)) := by
  obtain ⟨hready, hgoing, hobj, hhere, hused⟩ := hmay
  simp [exec, execSyncWait, hready, hgoing, hobj, hhere, hused, hopen]

/-- The status goes to the register that the wait names. -/
theorem exec_syncWaitReturn (hholds : waitHolds s p = true)
    (hover : waitStatus s (s.rget (Reg.WAIT_STATE_OBJ p)) (s.rget (Reg.WAIT_STATE_TARGET p)) = some st)
    (hrd : (s.plank p).waitRd = some rd) :
    exec (.syncWaitReturn p) s = .next (waitReturns (fillWithdraw (endWait s p) p) p rd st) := by
  simp [exec, execSyncWaitReturn, hholds, hover, hrd]

/-! ## The fill list (R147, R149, R151) -/

/-- The guards of fill.enq: a line of the store that the core owns, with its ring, and that reads without error. -/
theorem exec_fillEnq {e : BitVec 512} (hready : coreReady s p = true) (halign : (s.xreg p rs1).toNat % 64 = 0)
    (hinside : (s.xreg p rs1).toNat + 64 ≤ 0x1000000) (hread : storeErrs s p ecc [((s.xreg p rs1).toNat, 64)] = 0)
    (ht : t = eccCounts s p ecc 0) (howned : firstBad s p [ownCore] [((s.xreg p rs1).toNat, 64), fillRing s p] = none)
    (he : e = t.recAt (storeBase p + (s.xreg p rs1).toNat) 512) (hpasses : fget e Fill.PASSES ≠ 0)
    (hsize : s.rget (Reg.FILL_RING_SIZE p) ≠ 0) (hroom : (t.plank p).fillN < s.rget (Reg.FILL_RING_SIZE p)) :
    exec (.fillEnq p rs1 ecc) s = .next (fillPut t p e) := by
  subst ht he
  simp [exec, execFillEnq, hready, halign, Nat.not_lt.mpr hinside, howned, hread, hpasses, hsize, Nat.not_le.mpr hroom]

theorem exec_fillFlush_empty (hready : coreReady s p = true) (hempty : (s.plank p).fillN = 0) :
    exec (.fillFlush p ecc) s = .next (coreNext s p) := by
  simp [exec, execFillFlush, hready, hempty]

theorem exec_fillFlush_holds (hready : coreReady s p = true) (hitems : (s.plank p).fillN ≠ 0)
    (howned : storeBad s p [ownCore] (fillRing s p) = none) :
    exec (.fillFlush p ecc) s = .next (coreHold (fillIssueNext s p (s.plank p).fillN ecc) p none) := by
  simp [exec, execFillFlush, hready, hitems, howned]

/-- The list issues while the wait is not over and no suspend stops the core. -/
theorem exec_fillPassIssue (hholds : waitHolds s p = true)
    (hopen : waitStatus s (s.rget (Reg.WAIT_STATE_OBJ p)) (s.rget (Reg.WAIT_STATE_TARGET p)) = none)
    (hgoing : stopDue s p = false) (howned : storeBad s p [ownCore] (fillRing s p) = none) :
    exec (.fillPassIssue p ecc) s = .next (fillIssueNext s p (s.plank p).fillN ecc) := by
  simp [exec, execFillPassIssue, hholds, hopen, hgoing, howned]

/-! ## The interleave table (R152) -/

theorem exec_ilvNext (hready : coreReady s p = true) (henabled : s.rbit (Reg.ILV_EN p) = true) :
    exec (.ilvNext p rd ecc) s = .next (ilvTake s p rd ecc) := by
  simp [exec, execIlvNext, hready, henabled]

end

/-- Settles O10: sync.add and sync.set are one operation, `syncSignal`; a wait splits on whether it is over, a flush on whether
the list is empty. -/
theorem syncAndFillInstructionsComplete : Obligations.SyncAndFillInstructionsComplete := by
  refine fun s p hready => ⟨fun rs1 rs2 t hobj ht => ⟨fun hway => ⟨?add, ?set⟩, fun hchip hinject => ?refused⟩, ?wait,
    fun _ _ _ _ => exec_fillEnq hready, fun _ => exec_fillFlush_empty hready, fun _ => exec_fillFlush_holds hready,
    fun henabled _ _ => exec_ilvNext hready henabled⟩
  case add => exact congrArg Host.Outcome.next (syncSignal_sends hready hobj ht hway false)
  case set => exact congrArg Host.Outcome.next (syncSignal_sends hready hobj ht hway true)
  case refused => exact congrArg Host.Outcome.next (syncSignal_refused hready hobj ht hchip hinject false)
  case wait =>
    rintro rd rs1 rs2 o target rfl rfl hgoing hobj hhere hused
    have hmay : MayWait s p rs1 := ⟨hready, hgoing, hobj, hhere, hused⟩
    exact ⟨fun _ => exec_syncWait_returns hmay, exec_syncWait_begins hmay⟩

/-- Settles O11: the wait is over, or it is not and the fill list may issue. -/
theorem waitingCoreGoesOn : Obligations.WaitingCoreGoesOn := fun _ _ hholds =>
  ⟨fun _ _ => exec_syncWaitReturn hholds, fun hopen hgoing _ => exec_fillPassIssue hholds hopen hgoing⟩

end Sys2Proof.Machine
end

section
/-! PROOFS. The commands of Check and of an attempt (O15): what each does past the guards of R156 and R159 to R168. -/
namespace Sys2Proof.Machine

section
variable {s : State} {job : BitVec 16} {j : Job}

/-! ## The beginning of Check, and its reduction (R159, R160, R168) -/

/-- Check begins in phases 1 to 4, once every plank of the job has ended its part. -/
theorem exec_checkBegin (hj : findJob s job.toNat = some j) (hbegun : 1 ≤ j.phase) (hbefore : j.phase < 5)
    (hfinal : j.final = false) (hparts : ∀ p ∈ jobPlanks s job.toNat, partEnded s p = true) (views : List ReplicaView) :
    exec (.checkBegin job views) s = .next (checkBegins s j views) := by
  have hall : (jobPlanks s job.toNat).all (partEnded s) = true := List.all_eq_true.mpr hparts
  have hphase : j.phase ≠ 0 := Nat.one_le_iff_ne_zero.mp hbegun
  simp only [exec, execCheckBegin, checkBeginOp, hj, hfinal, hall]
  simp [hphase, hbefore]

/-- The first reduction: the member has its own record, and no reduced one yet. -/
theorem exec_checkReductionComplete {mine : CheckRec} {others : List MemberPart} (hj : findJob s job.toNat = some j)
    (hown : j.own = some mine) (hphase : j.phase = 5) (hfinal : j.final = false) (hred : j.red = none)
    (hgroup : allContributed s (jobTree j) (others.map (fun o => o.chip.toNat)) = true) :
    exec (.checkReductionComplete job others) s = .next (checkFolds s j mine others) := by
  simp [exec, execCheckReductionComplete, checkReduced, hj, hown, hphase, hfinal, hred, hgroup]

theorem exec_seqLossNonfinite (hj : findJob s job.toNat = some j) (hbegun : 1 ≤ j.phase) (hbefore : j.phase < 5) (slot : Fin 128) :
    exec (.seqLossNonfinite job slot) s = .next (seqNonfinite s j slot) := by
  have hphase : j.phase ≠ 0 := Nat.one_le_iff_ne_zero.mp hbegun
  simp [exec, execSeqLossNonfinite, hj, hphase, hbefore]

/-! ## Attempts (R155, R156, R165) -/

/-- A final verdict of Reblock, or of Held that was resolved to a replay, asks for another attempt. -/
theorem exec_attemptBegin_replays (hj : findJob s job.toNat = some j) (hphase : j.phase = 5) (hfinal : j.final = true)
    (hverdict : j.verdict = Vd.reblock ∨ j.verdict = Vd.held) (hattempt : j.attempt < 15) :
    exec (.attemptBegin job) s = .next (replayAttempt s j) := by
  have hasks : (j.verdict == Vd.reblock || j.verdict == Vd.held) = true := by simpa using hverdict
  simp only [exec, execAttemptBegin, attemptBegin, hj, hasks]
  simp [hphase, hfinal, hattempt]

/-- Phase 0 is the step boundary, where no attempt can have been lost. -/
theorem exec_attemptBegin_first (hj : findJob s job.toNat = some j) (hphase : j.phase = 0)
    (hrunning : ∃ n ∈ stepStreams j, streamKind s n = 0 ∧ streamState s n = St.running) :
    exec (.attemptBegin job) s = .next (firstAttempt s j) := by
  have hany : (stepStreams j).any (fun n => streamKind s n == 0 && streamState s n == St.running) = true := by
    simpa using hrunning
  simp only [exec, execAttemptBegin, attemptBegin, hj, hany]
  simp [hphase]

/-! ## Suspect accumulations (R163, R309) -/

theorem exec_suspectReplay {slot : Nat} (hj : findJob s job.toNat = some j) (hphase : j.phase = 5) (hfinal : j.final = false)
    (hverdict : j.verdict = Vd.suspect) (hnext : slot = j.replayed) (hcapsule : slot ∈ capsules s j)
    (hready : replayReady s (capsuleOff j slot) = true) :
    exec (.suspectReplay job slot) s = .next (suspectOnce s j slot) := by
  subst hnext
  simp [exec, execSuspectReplay, hj, hphase, hfinal, hverdict, hcapsule, hready]

/-- The second round waits for the replay of every capsule. -/
theorem exec_secondRoundReduction {c : CheckRec} {others : List FlagPart} (hj : findJob s job.toNat = some j)
    (hred : j.red = some c) (hphase : j.phase = 5) (hfinal : j.final = false) (hverdict : j.verdict = Vd.suspect)
    (hreplayed : (capsules s j).length ≤ j.replayed)
    (hgroup : allContributed s (jobTree j) (others.map (fun o => o.chip.toNat)) = true) :
    exec (.secondRoundReduction job others) s = .next (secondRound s j c others) := by
  simp [exec, execSecondRoundReduction, hj, hred, hphase, hfinal, hverdict, Nat.not_lt.mpr hreplayed, hgroup]

end

/-- Settles O15: each command past its guard; an attempt begins in two ways, as a replay of the step or as its first. -/
theorem checkCommandsComplete : Obligations.CheckCommandsComplete := fun _ _ _ hj =>
  ⟨fun views hbegun hbefore hfinal hparts => exec_checkBegin hj hbegun hbefore hfinal hparts views,
    fun _ _ => exec_checkReductionComplete hj, exec_attemptBegin_replays hj, exec_attemptBegin_first hj,
    fun slot hbegun hbefore => exec_seqLossNonfinite hj hbegun hbefore slot, fun _ => exec_suspectReplay hj,
    fun _ _ => exec_secondRoundReduction hj⟩

end Sys2Proof.Machine
end

section
/-! PROOFS. The object commands and the stall watchdogs (O23): a word of an object's command register that its block takes, and
what a wait or a barrier reports past its limit. -/
namespace Sys2Proof.Machine

section
variable {s t : State} {w : Writer} {o : ObjId} {v : Word64}

/-! ## The words of an object command (R269, R270) -/

theorem exec_objCmdWord0 (hblock : blockCause s (objCmdOff o 0) = 0) :
    exec (.objCmdWord0 w o v) s = .next (setLatch s w v) := by
  simp only [exec, execObjCmdWord0, regCommand_of_blockCause_zero hblock]

/-- Word 1 acts by its CMD once the condition of R270 holds: the three commands share this write. -/
theorem objWrite_of_objCommand {cmd : Nat} (hblock : blockCause s (objCmdOff o 1) = 0) (ht : objCommand s w o v = some t)
    (hcmd : fget v OCmd.CMD = cmd) : objWrite s w o v cmd = t := by
  simp [objWrite, hcmd, regCommand_of_blockCause_zero hblock, ht]

/-! ## Watchdogs (R160, R164, R282) -/

theorem exec_waitWatchdog_plank {p : PlankId} (hwaiting : s.rbit (Reg.WAIT_STATE_WAITING p) = true)
    (hlimit : s.rget (Reg.WAIT_WDOG_LIMIT p) ≠ 0) : exec (.waitWatchdog (.plank p)) s = .next (waitReport s p) := by
  simp [exec, execWaitWatchdog, hwaiting, hlimit]

/-- A Held step goes by the limit of the barrier engine (assumption 106). -/
theorem exec_waitWatchdog_held {job : BitVec 16} {j : Job} (hj : findJob s job.toNat = some j)
    (hlimit : s.rget Reg.BAR_WDOG_LIMIT ≠ 0) (hheld : stepHeld j = true) :
    exec (.waitWatchdog (.held job)) s = .next (stepReport s j 0 0 0 0) := by
  simp [exec, execWaitWatchdog, hj, hlimit, hheld]

theorem exec_barrierWatchdog_barrier {b : BarId} (hvalid : s.rbit (Reg.BAR_VALID b) = true)
    (hlimit : s.rget Reg.BAR_WDOG_LIMIT ≠ 0) (hbegun : genBegun s b = true) :
    exec (.barrierWatchdog (.barrier b)) s = .next (barrierReport s b) := by
  simp [exec, execBarrierWatchdog, hvalid, hlimit, hbegun]

/-- Only a leader and the root of the job's tree know who has come, and report. -/
theorem exec_barrierWatchdog_check {job : BitVec 16} {arrived hums : BitVec 32} {j : Job} (hj : findJob s job.toNat = some j)
    (hlimit : s.rget Reg.BAR_WDOG_LIMIT ≠ 0) (hwaits : checkWaits j = true)
    (hknows : isLeader s (jobTree j) = true ∨ isRoot s (jobTree j) = true) :
    exec (.barrierWatchdog (.check job arrived hums)) s = .next (checkReport s j arrived.toNat hums.toNat) := by
  have hplace : (isLeader s (jobTree j) || isRoot s (jobTree j)) = true := Bool.or_eq_true_iff.mpr hknows
  simp only [exec, execBarrierWatchdog, hj, hwaits, hplace]
  simp [hlimit]

end

/-- Settles O23: claim, re-arm and retire are one write of word 1, told apart by its CMD; each watchdog reports past its guard. -/
theorem objectCommandsComplete : Obligations.ObjectCommandsComplete := by
  refine fun s w o v t => ⟨exec_objCmdWord0, fun hblock ht => ⟨fun hcmd => ?claim, fun hcmd => ?rearm, fun hcmd => ?retire⟩,
    fun _ => exec_waitWatchdog_plank, fun _ => exec_barrierWatchdog_barrier, fun job j hj hlimit => ⟨?held, ?check⟩⟩
  case claim => exact congrArg Host.Outcome.next (objWrite_of_objCommand hblock ht hcmd)
  case rearm => exact congrArg Host.Outcome.next (objWrite_of_objCommand hblock ht hcmd)
  case retire => exact congrArg Host.Outcome.next (objWrite_of_objCommand hblock ht hcmd)
  case held =>
    rintro n rfl
    exact exec_waitWatchdog_held hj hlimit
  case check =>
    rintro n arrived hums rfl
    exact exec_barrierWatchdog_check hj hlimit

end Sys2Proof.Machine
end

section
/-! PROOFS. The verbs on a job, its streams and its steps (O32): a request that is accepted is answered with what its verb gives in
the state that it was accepted in, and what each verb gives past the conditions of R165, R166, R373, R377 to R379 and R388. -/
namespace Sys2Proof.Machine

section
variable {s a : State} {rq : Req} {v : Verb} {n : Nat} {x : Session}

/-! ## An accepted request (R364, R367, R369) -/

/-- What an accepted request comes to: the verb's answer goes out and is kept, or its REQ_ID is kept for an answer to come. -/
theorem runVerb_of_accepted (h : Accepted s rq v n x a) (act : State → Option Answer × State) :
    runVerb s rq v act = (act a).1.elim (keep (act a).2 n rq.reqId none) (respond (act a).2 rq v.code) := by
  obtain ⟨hsession, ⟨hnotOff, hnotReset⟩, hport, hfound, hopened, hfresh, rfl, hgate⟩ := h
  simp only [runVerb, hsession, hnotOff, hnotReset, hport, hfound, hopened, hfresh, hgate]
  cases hanswer : (act (acceptReq (endSpent s) n rq)).1 <;> rfl

/-- A verb that answers at once. -/
theorem answerVerb_of_accepted (h : Accepted s rq v n x a) (act : State → Answer × State) :
    answerVerb s rq v act = respond (act a).2 rq v.code (act a).1 :=
  runVerb_of_accepted h _

end

section
variable {s a b : State} {rq : Req} {n : Nat} {x : Session} {j : Job} {job stream : BitVec 16} {flags : BitVec 8}

/-! ## JOB_LOAD (R373, R406) -/

/-- Where JOB_LOAD finds the job: in the load list of the image, or at an offset in HBM. -/
theorem exec_jobLoad {source : BitVec 8} {off : BitVec 64} {lists : JobLists} {r : Option Nat × State}
    (h : Accepted s rq { code := 0x20, operator := true } n x a) (hsource : source.toNat ≤ 1) (hoff : off.toNat < 2 ^ 44)
    (hr : r = (if source = 0 then loadConfigured a lists else loadJob a off.toNat lists)) :
    (∀ d, r.1 = some d → exec (.jobLoad rq source off lists) s = .next (respond r.2 rq 0x20 (.refused d))) ∧
    (∀ j, r.1 = none → r.2.jobs.getLast? = some j →
      exec (.jobLoad rq source off lists) s = .next (respond r.2 rq 0x20 (.done (be 2 j.id.toNat)))) := by
  have hwell : (decide (1 < source.toNat) || decide (2 ^ 44 ≤ off.toNat)) = false := by
    rw [decide_eq_false (Nat.not_lt.mpr hsource), decide_eq_false (Nat.not_le.mpr hoff), Bool.or_self]
  refine ⟨fun d hd => ?refused, fun j hnone hlast => ?loaded⟩
  all_goals simp only [exec, execJobLoad, answerVerb_of_accepted h, ← hr, hwell]
  case refused => simp [hd]
  case loaded => simp [hnone, hlast]

/-! ## SUSPEND, RESUME, CANCEL (R377 to R379) -/

/-- The three verbs are one request on the streams named, lowest first, told apart by their act: the answer is the new state of the
stream named, else of the first (assumption 58). -/
theorem answerVerb_streamVerb {v : Verb} {first shown : Nat} {act : List Nat → State → Option State} (h : Accepted s rq v n x a)
    (hflags : flags.toNat ≤ 1) (hfirst : (namedStreams a stream flags job).head? = some first)
    (hshown : shown = (if (namedStreams a stream flags job).contains stream.toNat then stream.toNat else first))
    (hact : act (namedStreams a stream flags job) a = some b) :
    answerVerb s rq v (fun s => streamVerb s stream flags job act) = respond b rq v.code (.done (be 1 (streamState b shown))) := by
  subst hshown
  simp [answerVerb_of_accepted h, streamVerb, Nat.not_lt.mpr hflags, hfirst, hact]

/-! ## HOLD_STEP, RELEASE_STEP, VERDICT (R165, R166) -/

/-- A step may be held that is to come, or that runs and has no final verdict. -/
theorem exec_holdStep {step : BitVec 64} (h : Accepted s rq { code := 0x24, operator := true } n x a)
    (hj : findJob a job.toNat = some j) (hopen : j.step < step.toNat ∨ (step.toNat = j.step ∧ j.final = false)) :
    exec (.holdStep rq job step) s = .next (respond (modJob a job.toNat (fun j =>
      { j with holds := step.toNat :: j.holds.filter (· != step.toNat) })) rq 0x24 (.done [])) := by
  have hmay : (decide (step.toNat < j.step) || decide (step.toNat = j.step) && j.final) = false := by
    rcases hopen with hlater | ⟨hnow, hfinal⟩
    · simp [Nat.not_lt.mpr hlater.le, hlater.ne']
    · simp [hnow, hfinal]
  simp only [exec, execHoldStep, answerVerb_of_accepted h, hj, hmay]
  rfl

theorem exec_releaseStep {step : BitVec 64} (h : Accepted s rq { code := 0x25, operator := true } n x a)
    (hj : findJob a job.toNat = some j) (hheld : step.toNat ∈ j.holds) :
    exec (.releaseStep rq job step) s = .next (respond (modJob a job.toNat (fun j =>
      { j with holds := j.holds.filter (· != step.toNat) })) rq 0x25 (.done [])) := by
  simp [exec, execReleaseStep, answerVerb_of_accepted h, hj, hheld]

/-- A decision is taken on the step under way, Held and not final. -/
theorem exec_verdict {step : BitVec 64} {d : BitVec 8} {others : List (BitVec 14 × BitVec 8)} {c : CheckRec}
    (h : Accepted s rq { code := 0x26, operator := true } n x a) (hj : findJob a job.toNat = some j) (hlo : 1 ≤ d.toNat)
    (hhi : d.toNat ≤ 3) (hstep : j.step = step.toNat) (hphase : j.phase = 5) (hverdict : j.verdict = Vd.held)
    (hfinal : j.final = false) (hred : j.red = some c) :
    exec (.verdict rq job step d others) s = .next (respond (joinDecision a j c d.toNat others) rq 0x26 (.done [])) := by
  have hdecision : (decide (d.toNat < 1) || decide (3 < d.toNat)) = false := by
    simp [Nat.one_le_iff_ne_zero.mp hlo, Nat.not_lt.mpr hhi]
  simp only [exec, execVerdict, answerVerb_of_accepted h, hdecision, hj]
  simp [hstep, hphase, hverdict, hfinal, hred]

/-! ## CHECKPOINT (R388) -/

/-- A stream that is Queued or Running is not Idle, so that the request finds it. -/
theorem exec_checkpoint (h : Accepted s rq { code := 0x27, operator := true } n x a) (hj : findJob a job.toNat = some j)
    (hstate : streamState a stream.toNat = St.queued ∨ streamState a stream.toNat = St.running)
    (hkind : streamKind a stream.toNat = 5) (hjob : fget (a.strm stream.toNat) Strm.JOB = job.toNat)
    (hdata : (a.data stream.toNat).isSome = true) (hckpt : j.ckpt = none) :
    exec (.checkpoint rq job stream) s = .next (respond (modJob a job.toNat (fun j =>
      { j with ckpt := some (stream.toNat, false) })) rq 0x27 (.done (be 8 (ckptStep j)))) := by
  have hfound : streamState a stream.toNat ≠ St.idle := by
    rcases hstate with hqueued | hrunning
    · rw [hqueued]; decide
    · rw [hrunning]; decide
  have hlive : ¬(streamState a stream.toNat ≠ St.queued ∧ streamState a stream.toNat ≠ St.running) :=
    fun ⟨hnotQueued, hnotRunning⟩ => hstate.elim hnotQueued hnotRunning
  have hopen : a.data stream.toNat ≠ none := Option.isSome_iff_ne_none.mp hdata
  simp [exec, execCheckpoint, answerVerb_of_accepted h, hj, hfound, hlive, hkind, hjob, hopen, hckpt]

end

/-- Settles O32: each verb past its own conditions; the verbs on streams are one request, `answerVerb_streamVerb`. -/
theorem jobVerbsComplete : Obligations.JobVerbsComplete := by
  refine fun s rq n x a job => ⟨fun _ _ _ _ => exec_jobLoad, ?streams,
    fun step j hj => ⟨fun h => exec_holdStep h hj, fun h => exec_releaseStep h hj, fun _ _ _ h => exec_verdict h hj⟩,
    fun _ _ => exec_checkpoint⟩
  rintro stream flags _ b first shown hflags rfl hfirst hshown
  refine ⟨fun h hb => ?suspend, fun h hmasked hb => ?resume, fun h hended hb => ?cancel⟩
  case suspend => exact congrArg Host.Outcome.next (answerVerb_streamVerb h hflags hfirst hshown (congrArg some hb.symm))
  case resume =>
    refine congrArg Host.Outcome.next (answerVerb_streamVerb h hflags hfirst hshown ?_)
    simp [hmasked, hb]
  case cancel =>
    refine congrArg Host.Outcome.next (answerVerb_streamVerb h hflags hfirst hshown ?_)
    simp [hended, hb]

end Sys2Proof.Machine
end

section
/-! PROOFS. The lanes of the vector engine (O51, O52): what a write of a vector register leaves in each lane, and that the
instructions which work on registers alone change nothing but lanes (R185, R189 to R191). -/
namespace Sys2Proof.Machine

section
variable {s t : State} {p : Nat} {e : VecSlot} {es : List VecSlot} {ecc : CoreEcc}

/-! ## A vector register after a write (R189) -/

theorem vreg_length (s : State) (p r : Nat) : (vreg s p r).length = 512 := kgets_length ..

theorem vreg_getElem (s : State) (p r : Nat) {l : Nat} (h : l < (vreg s p r).length) :
    (vreg s p r)[l] = kget noF32 (s.plank p).v (r * 512 + l) := kgets_getElem ..

/-- A write of VD changes the vector registers of its plank alone. -/
theorem plank_setVreg (w : s.Wf) (word : Word64) (outs : List F32) :
    ∃ v, (setVreg s p word outs).plank p = { s.plank p with v := v } :=
  ⟨_, (plank_modPlank w ..).trans (if_pos rfl)⟩

/-- A lane of VD takes its value, or with PRED and a clear bit of VM keeps what it held. -/
theorem kget_setVreg_lane (w : s.Wf) (word : Word64) {outs : List F32} (hlen : outs.length = 512) {l : Nat} (hl : l < 512) :
    kget noF32 ((setVreg s p word outs).plank p).v (fget word Vec.VD * 512 + l) =
      if fget word Vec.PRED = 1 ∧ (s.plank p).vm.getLsbD l = false then kget noF32 (s.plank p).v (fget word Vec.VD * 512 + l)
      else outs[l] := by
  obtain ⟨-, -, hv, -⟩ := w.cores p
  have hnew : ((vreg s p (fget word Vec.VD)).zip outs).zipIdx.length = 512 := by simp [vreg_length, hlen]
  unfold setVreg
  rw [plank_modPlank w, if_pos rfl]
  dsimp only
  rw [kget_kputs hv, dif_pos (by rw [List.length_map, hnew]; omega)]
  simp [vreg_getElem]

/-- Every other vector register keeps its lanes. -/
theorem kget_setVreg_other (w : s.Wf) (word : Word64) {outs : List F32} (hlen : outs.length = 512) {i : Nat}
    (hi : i / 512 ≠ fget word Vec.VD) :
    kget noF32 ((setVreg s p word outs).plank p).v i = kget noF32 (s.plank p).v i := by
  obtain ⟨-, -, hv, -⟩ := w.cores p
  have hnew : ((vreg s p (fget word Vec.VD)).zip outs).zipIdx.length = 512 := by simp [vreg_length, hlen]
  unfold setVreg
  rw [plank_modPlank w, if_pos rfl]
  dsimp only
  rw [kget_kputs hv, dif_neg (by rw [List.length_map, hnew]; omega)]

@[simp] theorem plank_noteInvalid (b : Bool) (q : Nat) : (noteInvalid s p b).plank q = s.plank q := by
  unfold noteInvalid
  split <;> rfl

@[simp] theorem plank_laneCycles (n q : Nat) : (laneCycles s p n).plank q = s.plank q := rfl

/-! ## Two operands, lane by lane (R191) -/

/-- The values that an operation of two registers gives. -/
def laneResults (s : State) (p : Nat) (word : Word64) (f : F32 → F32 → F32) : List F32 :=
  ((vreg s p (fget word Vec.VA)).zip (vreg s p (fget word Vec.VB))).map (fun x => f x.1 x.2)

theorem laneResults_length (s : State) (p : Nat) (word : Word64) (f : F32 → F32 → F32) :
    (laneResults s p word f).length = 512 := by
  simp [laneResults, vreg_length]

theorem laneResults_getElem (s : State) (p : Nat) (word : Word64) (f : F32 → F32 → F32) {l : Nat}
    (h : l < (laneResults s p word f).length) : (laneResults s p word f)[l] =
      f (kget noF32 (s.plank p).v (fget word Vec.VA * 512 + l)) (kget noF32 (s.plank p).v (fget word Vec.VB * 512 + l)) := by
  simp [laneResults, vreg_getElem]

/-- A rounded operation and a bitwise one write the same values; they differ in VEC_STATUS and VEC_CYCLES. -/
theorem plank_laneOp2 (cyc : Nat) (f : Rnd → F32 → F32 → F32) (q : Nat) : (laneOp2 s p e cyc f).plank q =
    (setVreg s p e.word (laneResults s p e.word (f (Rnd.ofCode (fget e.word Vec.RND) 0 0)))).plank q := by
  unfold laneOp2
  dsimp only
  rw [plank_laneCycles, plank_noteInvalid, laneResults]

theorem plank_laneBits (f : F32 → F32 → F32) (q : Nat) :
    (laneBits s p e f).plank q = (setVreg s p e.word (laneResults s p e.word f)).plank q := rfl

theorem wf_pop2 (w : s.Wf) : (s.pop2 p es).Wf := (keeps_modPlank (Keeps.refl s)).wf w

theorem plank_pop2 (w : s.Wf) : (s.pop2 p es).plank p = { s.plank p with port2 := es } := (plank_modPlank w ..).trans (if_pos rfl)

/-- What the lanes hold once the results are written and the instruction is off its port. -/
theorem lanes_of_plank_eq (w : s.Wf) {f : F32 → F32 → F32} {l : Nat} (hl : l < 512)
    (ht : t.plank p = (setVreg (s.pop2 p es) p e.word (laneResults (s.pop2 p es) p e.word f)).plank p) :
    kget noF32 (t.plank p).v (fget e.word Vec.VD * 512 + l) =
        (if fget e.word Vec.PRED = 1 ∧ (s.plank p).vm.getLsbD l = false then kget noF32 (s.plank p).v (fget e.word Vec.VD * 512 + l)
          else f (kget noF32 (s.plank p).v (fget e.word Vec.VA * 512 + l)) (kget noF32 (s.plank p).v (fget e.word Vec.VB * 512 + l))) ∧
      (∀ i, i / 512 ≠ fget e.word Vec.VD → kget noF32 (t.plank p).v i = kget noF32 (s.plank p).v i) ∧
      (t.plank p).vm = (s.plank p).vm := by
  have wpop : (s.pop2 p es).Wf := wf_pop2 w
  have hlen := laneResults_length (s.pop2 p es) p e.word f
  have hpop : (s.pop2 p es).plank p = { s.plank p with port2 := es } := plank_pop2 w
  refine ⟨?lane, fun i hi => ?other, ?mask⟩
  case lane => rw [ht, kget_setVreg_lane wpop _ hlen hl, laneResults_getElem, hpop]
  case other => rw [ht, kget_setVreg_other wpop _ hlen hi, hpop]
  case mask =>
    obtain ⟨v, hv⟩ := plank_setVreg (p := p) wpop e.word (laneResults (s.pop2 p es) p e.word f)
    rw [ht, hv, hpop]

end

/-- Settles O51: a rounded and a bitwise operation write the same kind of results, `plank_laneOp2` and `plank_laneBits`. -/
theorem lanesTakeTheirOwnResults : Obligations.LanesTakeTheirOwnResults := by
  rintro s p e es l m f c ecc w hecc hq hl rfl hc
  simp only [List.mem_cons, Prod.mk.injEq, List.not_mem_nil, or_false] at hc
  obtain ⟨rfl, ho, rfl⟩ | ⟨rfl, ho, rfl⟩ | ⟨rfl, ho, rfl⟩ | ⟨rfl, ho, rfl⟩ | ⟨rfl, ho, rfl⟩ | ⟨rfl, ho, rfl⟩ | ⟨rfl, ho, rfl⟩ |
    ⟨rfl, ho, rfl⟩ | ⟨rfl, ho, rfl⟩ := hc
  iterate 6 exact ⟨_, onPort2_first hq hecc ho, lanes_of_plank_eq w hl (plank_laneOp2 ..)⟩
  all_goals exact ⟨_, onPort2_first hq hecc ho, lanes_of_plank_eq w hl (plank_laneBits ..)⟩

/-! ## The frame of a lane instruction (R185, R190) -/

namespace OnlyLanes

variable {s t : State} {p : Nat}

theorem refl (s : State) (p : Nat) : OnlyLanes s s p := ⟨fun _ _ _ => rfl, fun _ _ => rfl, ⟨_, _, _, rfl⟩, rfl⟩

/-- A change of lanes, of VM and of port 2 stays in the frame. -/
theorem modPlank (h : OnlyLanes s t p) (w : t.Wf) {g : Plank → Plank}
    (hg : ∀ k, ∃ v vm es, g k = { k with v := v, vm := vm, port2 := es }) : OnlyLanes s (t.modPlank p g) p where
  words := h.words
  planks q hq := by rw [plank_modPlank w, if_neg hq, h.planks q hq]
  lanes := by
    obtain ⟨v, vm, es, ht⟩ := h.lanes
    obtain ⟨v', vm', es', hg⟩ := hg (t.plank p)
    exact ⟨v', vm', es', by rw [plank_modPlank w, if_pos rfl, hg, ht]⟩
  rest := h.rest

/-- So does a write of a field of VEC_STATUS or VEC_CYCLES. -/
theorem rset (h : OnlyLanes s t p) (w : t.Wf) {f : RegF}
    (hf : f.off = (Reg.VEC_STATUS_INVALID p).off ∨ f.off = (Reg.VEC_CYCLES_CYCLES p).off) (v : Nat) : OnlyLanes s (t.rset f v) p where
  words i hstatus hcycles := by
    have hi : i ≠ f.off := by rintro rfl; exact hf.elim hstatus hcycles
    rw [word_rset_apart w f v hi, h.words i hstatus hcycles]
  planks := h.planks
  lanes := h.lanes
  rest := h.rest

theorem laneCycles (h : OnlyLanes s t p) (w : t.Wf) (n : Nat) : OnlyLanes s (laneCycles t p n) p := h.rset w (.inr rfl) _

theorem noteInvalid (h : OnlyLanes s t p) (w : t.Wf) (b : Bool) : OnlyLanes s (noteInvalid t p b) p := by
  unfold Machine.noteInvalid
  split
  · exact h.rset w (.inl rfl) 1
  · exact h

theorem setVreg (h : OnlyLanes s t p) (w : t.Wf) (word : Word64) (outs : List F32) : OnlyLanes s (setVreg t p word outs) p :=
  h.modPlank w fun _ => ⟨_, _, _, rfl⟩

/-- An instruction on numbers writes VD, notes an invalid operation and counts its cycles. -/
theorem numbersWritten (h : OnlyLanes s t p) (w : t.Wf) (word : Word64) (outs : List F32) (b : Bool) (cyc : Nat) :
    OnlyLanes s (Machine.laneCycles (Machine.noteInvalid (Machine.setVreg t p word outs) p b) p cyc) p :=
  have wset : (Machine.setVreg t p word outs).Wf := (keeps_setVreg (Keeps.refl t)).wf w
  ((h.setVreg w word outs).noteInvalid wset b).laneCycles ((keeps_noteInvalid (Keeps.refl _)).wf wset) cyc

/-- One on bits notes nothing. -/
theorem bitsWritten (h : OnlyLanes s t p) (w : t.Wf) (word : Word64) (outs : List F32) (cyc : Nat) :
    OnlyLanes s (Machine.laneCycles (Machine.setVreg t p word outs) p cyc) p :=
  (h.setVreg w word outs).laneCycles ((keeps_setVreg (Keeps.refl t)).wf w) cyc

/-- A comparison writes VM instead. -/
theorem laneCmp (h : OnlyLanes s t p) (w : t.Wf) (e : VecSlot) : OnlyLanes s (laneCmp t p e) p := by
  have hset {vm : BitVec 512} : OnlyLanes s (t.modPlank p (fun k => { k with vm := vm })) p := h.modPlank w fun _ => ⟨_, _, _, rfl⟩
  have wset {vm : BitVec 512} : (t.modPlank p (fun k => { k with vm := vm })).Wf := (keeps_modPlank (Keeps.refl t)).wf w
  exact (hset.noteInvalid wset _).laneCycles ((keeps_noteInvalid (Keeps.refl _)).wf wset) 1

/-- The command takes the instruction off port 2 and runs it, or finds another one there and does nothing. -/
theorem onPort2 (w : s.Wf) {ecc : CoreEcc} (hecc : ecc ≠ .vreg) {ops : List Nat} {act : State → VecSlot → State}
    (hact : ∀ u e, u.Wf → OnlyLanes s u p → OnlyLanes s (act u e) p) : OnlyLanes s (onPort2 s p ops ecc act) p := by
  unfold Machine.onPort2
  split
  next e es hq =>
    split
    · exact refl s p
    · have hclean : (ecc = .vreg && readsVreg (fget e.word Vec.OPC)) = false := by simp [hecc]
      dsimp only
      rw [hclean, if_neg Bool.false_ne_true]
      exact hact _ e (wf_pop2 w) ((refl s p).modPlank w fun _ => ⟨_, _, _, rfl⟩)
  next => exact refl s p

end OnlyLanes

/-- Settles O52: `vnop` counts its cycle, a comparison writes VM, and every other instruction of the list writes VD, with
numbers read or with bits. -/
theorem laneInstructionsChangeOnlyTheirLanes : Obligations.LaneInstructionsChangeOnlyTheirLanes := by
  rintro s t p ecc c w hecc hc ht
  have run {ecc' : CoreEcc} (hecc : ecc' ≠ .vreg) {ops : List Nat} {act : State → VecSlot → State}
      (ht : (.next (onPort2 s p ops ecc' act) : Out) = .next t)
      (hact : ∀ u e, u.Wf → OnlyLanes s u p → OnlyLanes s (act u e) p) : OnlyLanes s t p :=
    Host.Outcome.next.inj ht ▸ OnlyLanes.onPort2 w hecc hact
  simp only [List.mem_cons, List.not_mem_nil, or_false] at hc
  obtain rfl | rfl | rfl | rfl | rfl | rfl | rfl | rfl | rfl | rfl | rfl | rfl | rfl | rfl | rfl | rfl | rfl | rfl | rfl | rfl := hc
  · exact run (by decide) ht fun _ _ wu hu => hu.laneCycles wu 1
  iterate 10 exact run hecc ht fun _ _ wu hu => hu.numbersWritten wu ..
  · exact run hecc ht fun _ e wu hu => hu.laneCmp wu e
  iterate 6 exact run hecc ht fun _ _ wu hu => hu.bitsWritten wu ..
  all_goals exact run hecc ht fun _ _ wu hu => hu.numbersWritten wu ..

end Sys2Proof.Machine
end

section
/-! PROOFS. What the filing of an event, the failure of a stream and the end of an object write (R17, R274, R276, R333): the words
of the event log, of a port's counter and of barriers, and objects that become Orphaned. -/
namespace Sys2Proof.Machine

section
variable {a s : State}

/-- The words that an event or an Orphaned object writes. -/
def FiledWord (off : Nat) : Prop :=
  off = Reg.EVLOG_STATUS_SEQ.off ∨ off = Reg.EVLOG_LOST_COUNT.off ∨ (∃ e, off = (Reg.PORT_TX_FRAMES e).off) ∨ ∃ b w, off = barOff b w

/-- The state s differs from a in such words, and an object that is in use is as it was or Orphaned. -/
structure Files (a s : State) : Prop extends Keeps a s where
  words : a.Wf → ∀ off, ¬ FiledWord off → s.word off = a.word off
  objs : a.Wf → ∀ o, fget (s.obj o) Obj.STATE = fget (a.obj o) Obj.STATE ∨
    fget (a.obj o) Obj.STATE ≠ 0 ∧ fget (s.obj o) Obj.STATE = 3

theorem not_filedWord_of_plank {p i : Nat} (hp : p < 160) (hi : i < 0x10000) (hmod : i % 64 ≠ 0x18) : ¬ FiledWord (plankBase p + i) := by
  rintro (h | h | ⟨e, h⟩ | ⟨b, w, h⟩)
  · simp only [Reg.EVLOG_STATUS_SEQ, plankBase, hjBase] at h; omega
  · simp only [Reg.EVLOG_LOST_COUNT, plankBase, hjBase] at h; omega
  · simp only [Reg.PORT_TX_FRAMES, plankBase, identBase] at h; omega
  · simp only [barOff, plankBase, syncBase] at h; omega

/-- The mark of an Orphaned object. -/
theorem state_orphanMark (r : ObjRec) (cause : Nat) : fget (fset (fset r Obj.STATE 3) Obj.CAUSE cause) Obj.STATE = 3 := by
  rw [fget_fset_apart _ _ _ _ (by decide) (by decide), fget_fset _ _ _ (by decide)]
  rfl

namespace Files

theorem refl (a : State) : Files a a := ⟨Keeps.refl a, fun _ _ _ => rfl, fun _ _ => .inl rfl⟩

theorem rget_eq (h : Files a s) (w : a.Wf) {f : RegF} (hf : ¬ FiledWord f.off) : s.rget f = a.rget f := by
  rw [State.rget, State.rget, h.words w _ hf]

/-- An object in use stays in use, and an Orphaned one stays Orphaned. -/
theorem state_ne_zero (h : Files a s) (w : a.Wf) {o : Nat} (ho : fget (a.obj o) Obj.STATE ≠ 0) : fget (s.obj o) Obj.STATE ≠ 0 := by
  rcases h.objs w o with heq | ⟨-, horphan⟩ <;> omega

theorem state_eq_three (h : Files a s) (w : a.Wf) {o : Nat} (ho : fget (a.obj o) Obj.STATE = 3) : fget (s.obj o) Obj.STATE = 3 := by
  rcases h.objs w o with heq | ⟨-, horphan⟩ <;> omega

theorem foldl {β : Type} {f : State → β → State} {l : List β} (hf : ∀ s b, Files a s → Files a (f s b)) (h : Files a s) :
    Files a (l.foldl f s) := by
  induction l generalizing s with
  | nil => exact h
  | cons b l ih => exact ih (hf _ _ h)

theorem ite {c : Prop} [Decidable c] {t : State} (h : Files a s) (h' : Files a t) : Files a (if c then s else t) := by
  split <;> assumption

/-- Any change that leaves the window and the objects. -/
theorem of_eq {t : State} (h : Files a s) (hk : Keeps a t) (hwin : t.win = s.win) (hobjs : t.objs = s.objs) : Files a t where
  toKeeps := hk
  words w off ho := (congrArg (kget winReset · off) hwin).trans (h.words w off ho)
  objs w o := by
    have hobj : t.obj o = s.obj o := congrArg (kget objReset · o) hobjs
    rw [hobj]
    exact h.objs w o

theorem rset (h : Files a s) {f : RegF} (hf : FiledWord f.off) (v : Nat) : Files a (s.rset f v) where
  toKeeps := keeps_rset h.toKeeps
  words w off ho := (word_rset_apart (h.wf w) f v (by rintro rfl; exact ho hf)).trans (h.words w off ho)
  objs := h.objs

/-! ## The event log -/

theorem sendMsg (h : Files a s) (e : Nat) (peer : Peer) (m : Msg) : Files a (sendMsg s e peer m) := by
  unfold Machine.sendMsg
  split
  · exact h
  next port _ =>
    have sent {u : State} (hu : Files a u) (n : Nat) (out : List OutMsg) :
        Files a { u.radd (Reg.PORT_TX_FRAMES port) n with out := out } :=
      of_eq (hu.rset (.inr (.inr (.inl ⟨port, rfl⟩))) _) (keeps_free (keeps_radd hu.toKeeps) ..) rfl rfl
    dsimp only
    split
    · split
      · exact h
      · exact ite (h.of_eq (keeps_modSession h.toKeeps) rfl rfl) (sent (h.of_eq (keeps_modSession h.toKeeps) rfl rfl) _ _)
    · exact sent h _ _

theorem logEvent (h : Files a s) (e : Event) : Files a (logEvent s e) := by
  have hlog : FiledWord Reg.EVLOG_STATUS_SEQ.off := .inl rfl
  have listed {u : State} (hu : Files a u) (seq head oldest : Nat) :
      Files a (((u.rset Reg.EVLOG_STATUS_SEQ seq).rset Reg.EVLOG_STATUS_HEAD head).rset Reg.EVLOG_STATUS_OLDEST oldest) :=
    ((hu.rset hlog seq).rset (f := Reg.EVLOG_STATUS_HEAD) hlog head).rset (f := Reg.EVLOG_STATUS_OLDEST) hlog oldest
  have kept (k : Nat) (x : BitVec 1024) (b : Board) : Files a { s with evlog := kput (fun _ => 0) s.evlog k x, board := b } :=
    h.of_eq (keeps_free (keeps_evlog h.toKeeps) ..) rfl rfl
  exact ite (foldl (fun _ _ hs => (hs.of_eq (keeps_modSession hs.toKeeps) rfl rfl).sendMsg ..) (listed (kept ..) ..))
    (listed (kept ..) ..)

theorem fileEvent (h : Files a s) (cls kind unitClass unit step : Nat) (payload : BitVec 512) :
    Files a (fileEvent s cls kind unitClass unit step payload) := by
  have htick : Files a s.tick := h.of_eq (keeps_tick h.toKeeps) rfl rfl
  exact ite (htick.logEvent _)
    (ite (htick.of_eq (keeps_free htick.toKeeps ..) rfl rfl) (htick.rset (.inr (.inl rfl)) _))

/-! ## Streams, barriers and objects -/

theorem strmSet (h : Files a s) (n : Nat) (f : Fd) (v : Nat) : Files a (strmSet s n f v) :=
  h.of_eq (keeps_strmSet h.toKeeps) rfl rfl

theorem streamTo (h : Files a s) (n st : Nat) : Files a (streamTo s n st) := by
  have hset := ((h.of_eq (keeps_tick h.toKeeps) rfl rfl).strmSet n Strm.STATE st).strmSet n Strm.HC_LAST s.hc.toNat
  exact (ite (hset.strmSet ..) hset).fileEvent ..

theorem fab (h : Files a s) (x : Fabric) : Files a { s with fab := x } := h.of_eq (keeps_free h.toKeeps ..) rfl rfl

theorem breakBarrier (h : Files a s) (b : Nat) : Files a (breakBarrier s b) :=
  ((h.fab _).rset (f := Reg.BAR_BROKEN b) (.inr (.inr (.inr ⟨b, 2, rfl⟩))) 1).rset
    (f := Reg.BAR_VALID b) (.inr (.inr (.inr ⟨b, 0, rfl⟩))) 0

theorem ownerMessage (h : Files a s) (stream event cause tree : Nat) : Files a (ownerMessage s stream event cause tree) :=
  ite h (foldl (fun _ _ hs => hs.fab _) (h.fab _))

/-- An object in use is marked Orphaned. -/
theorem orphaned (h : Files a s) {o : Nat} (ho : fget (s.obj o) Obj.STATE ≠ 0) {r : ObjRec} (hr : fget r Obj.STATE = 3) :
    Files a (s.setObj o r) where
  toKeeps := keeps_setObj h.toKeeps
  words := h.words
  objs w i := by
    rw [obj_setObj (h.wf w)]
    split
    next hi =>
      subst hi
      rcases h.objs w i with heq | ⟨hused, -⟩
      · exact .inr ⟨heq ▸ ho, hr⟩
      · exact .inr ⟨hused, hr⟩
    next => exact h.objs w i

/-- One object in use becomes Orphaned; barriers break, and messages leave. -/
theorem orphanOne (h : Files a s) (o cause : Nat) : Files a (orphanOne s o cause).1 := by
  unfold Machine.orphanOne
  dsimp only
  split
  · exact h
  next hlive =>
    have hused : fget (s.obj o) Obj.STATE ≠ 0 := by simp_all
    exact foldl (fun _ _ hs => hs.ownerMessage ..)
      (foldl (fun _ _ hs => hs.breakBarrier _) (h.orphaned hused (state_orphanMark ..)))

theorem orphanWork (fuel : Nat) (os : List Nat) (cause : Nat) (h : Files a s) : Files a (orphanWork fuel os cause s) := by
  induction fuel generalizing os s with
  | zero => exact h
  | succ n ih =>
    cases os with
    | nil => exact h
    | cons o os => exact ih _ (h.orphanOne o cause)

theorem failStream (h : Files a s) (n code : Nat) : Files a (failStream s n code) :=
  ite h (orphanWork _ _ _ ((h.strmSet ..).streamTo ..))

theorem stepFault (h : Files a s) (p : Nat) (f : StepFlag) (code : Nat) : Files a (stepFault s p f code) := by
  unfold Machine.stepFault
  split
  · exact h
  · exact ite h (ite (h.failStream ..) (h.of_eq (keeps_jobFlag h.toKeeps) rfl rfl))

end Files

/-! ## A list of objects becomes Orphaned (R274) -/

/-- The object that the work comes to is Orphaned after it, if it was in use. -/
theorem state_orphanOne (w : s.Wf) {o : Nat} (ho : fget (s.obj o) Obj.STATE ≠ 0) (cause : Nat) :
    fget ((orphanOne s o cause).1.obj o) Obj.STATE = 3 := by
  by_cases h3 : fget (s.obj o) Obj.STATE = 3
  · exact ((Files.refl s).orphanOne o cause).state_eq_three w h3
  have hlive : ¬ (fget (s.obj o) Obj.STATE == 0 || fget (s.obj o) Obj.STATE == 3) = true := by simp [ho, h3]
  have wmark : (s.setObj o (fset (fset (s.obj o) Obj.STATE 3) Obj.CAUSE cause)).Wf := (keeps_setObj (Keeps.refl s)).wf w
  have hmark : fget ((s.setObj o (fset (fset (s.obj o) Obj.STATE 3) Obj.CAUSE cause)).obj o) Obj.STATE = 3 := by
    rw [obj_setObj w, if_pos rfl, state_orphanMark]
  unfold orphanOne
  dsimp only
  rw [if_neg hlive]
  exact (Files.foldl (fun _ _ hs => hs.ownerMessage ..)
    (Files.foldl (fun _ _ hs => hs.breakBarrier _) (Files.refl _))).state_eq_three wmark hmark

/-- Objects that follow others here come after the list, so as many turns as it is long reach all of it. -/
theorem state_orphanWork (w : s.Wf) {os : List Nat} (more : List Nat) {fuel : Nat} (hfuel : os.length ≤ fuel) (cause : Nat) {o : Nat}
    (hmem : o ∈ os) (ho : fget (s.obj o) Obj.STATE ≠ 0) :
    fget ((orphanWork fuel (os ++ more) cause s).obj o) Obj.STATE = 3 := by
  induction os generalizing s fuel more with
  | nil => exact absurd hmem List.not_mem_nil
  | cons i os ih =>
    obtain _ | fuel := fuel
    · exact absurd hfuel (Nat.not_succ_le_zero _)
    have hone := (Files.refl s).orphanOne i cause
    rw [List.cons_append, orphanWork, List.append_assoc]
    rcases List.mem_cons.mp hmem with rfl | htail
    · exact ((Files.refl _).orphanWork ..).state_eq_three (hone.wf w) (state_orphanOne w ho cause)
    · exact ih (hone.wf w) _ (Nat.le_of_succ_le_succ hfuel) htail (hone.state_ne_zero w ho)

theorem state_orphan (w : s.Wf) {os : List Nat} (cause : Nat) {o : Nat} (hmem : o ∈ os) (ho : fget (s.obj o) Obj.STATE ≠ 0) :
    fget ((orphan s os cause).obj o) Obj.STATE = 3 := by
  have hwork := state_orphanWork w [] (fuel := (s.objs.length + os.length + (validBarriers s).length + 2) *
    (s.objs.length + os.length + (validBarriers s).length + 2)) (by nlinarith) cause hmem ho
  rwa [List.append_nil] at hwork

/-- A key whose value is not the default is listed. -/
theorem mem_of_kget_ne {α : Type} {d : Nat → α} {m : List (Nat × α)} {k : Nat} (h : kget d m k ≠ d k) : (k, kget d m k) ∈ m := by
  induction m with
  | nil => exact absurd rfl h
  | cons e m ih =>
    obtain ⟨j, v⟩ := e
    rw [kget] at h ⊢
    split at h
    next hj => simp [hj]
    next hj => simp [hj, ih h]

/-- An object in use is among those of its owner. -/
theorem mem_ownedBy {o unit : Nat} (howner : fget (s.obj o) Obj.OWNER = unit) (hused : fget (s.obj o) Obj.STATE ≠ 0) :
    o ∈ ownedBy s unit := by
  have hlisted : kget objReset s.objs o ≠ objReset o := fun h =>
    hused ((congrArg (fget · Obj.STATE) h).trans (by decide : fget (objReset 0) Obj.STATE = 0))
  refine List.mem_map.mpr ⟨(o, s.obj o), List.mem_filter.mpr ⟨mem_of_kget_ne hlisted, ?_⟩, rfl⟩
  simp [howner, hused]

end
end Sys2Proof.Machine
end

section
/-! PROOFS. A trap of the plank core (O53): what it leaves in TRAP_INFO, in the core and in the objects that the core owns (R209). -/
namespace Sys2Proof.Machine

section
variable {s : State} {p cause sub insn tval : Nat}

/-! ## The core halts -/

def trapInfo (s : State) (p cause sub insn : Nat) : State :=
  ((s.rset (Reg.TRAP_INFO_CAUSE p) cause).rset (Reg.TRAP_INFO_SUB p) sub).rset (Reg.TRAP_INFO_INSN p) insn

def trapCsrs (s : State) (p cause tval : Nat) : State :=
  ((s.setCsr p Csr.mepc (BitVec.ofNat 64 (s.pc p))).setCsr p Csr.mcause (BitVec.ofNat 64 cause)).setCsr p Csr.mtval (BitVec.ofNat 64 tval)

def trapCore (s : State) (p cause sub insn tval : Nat) : State :=
  (setCore (trapCsrs (trapInfo s p cause sub insn) p cause tval) p CoreSt.trapped).modPlank p
    (fun k => { k with quiesce := none, held := none, waitRd := none, image := coreImage k.image })

/-- A core that waits on no object, halted by a trap that is not filed as an error: before its objects and its work follow. -/
def trapHalt (s : State) (p cause sub insn tval : Nat) : State := emptyFill (trapCore s p cause sub insn tval) p

theorem endWait_of_not_waiting (h : s.rbit (Reg.WAIT_STATE_WAITING p) = false) : endWait s p = s := by
  simp [endWait, h]

/-- A trap's halt, its objects, and the step or stream that fails; a context write under way fails the stream as well. -/
def trapFails (h : State) (p cause sub : Nat) : State :=
  stepFault (orphan h (ownedBy h p) 0) p .vRefusal (cause * 256 + sub)

theorem coreTrap_cases (hwait : s.rbit (Reg.WAIT_STATE_WAITING p) = false) (hcause : cause ≠ 27) :
    coreTrap s p cause sub insn tval = trapFails (trapHalt s p cause sub insn tval) p cause sub ∨
      ∃ n, coreTrap s p cause sub insn tval = failStream (trapFails (trapHalt s p cause sub insn tval) p cause sub) n 0xFF07 := by
  unfold coreTrap
  rw [endWait_of_not_waiting hwait]
  dsimp only
  rw [if_neg hcause]
  split
  next n _ =>
    split
    · exact .inr ⟨n.val, rfl⟩
    · exact .inl rfl
  next => exact .inl rfl

theorem files_coreTrap (hwait : s.rbit (Reg.WAIT_STATE_WAITING p) = false) (hcause : cause ≠ 27) :
    Files (orphan (trapHalt s p cause sub insn tval) (ownedBy (trapHalt s p cause sub insn tval) p) 0)
      (coreTrap s p cause sub insn tval) := by
  rcases coreTrap_cases (sub := sub) (insn := insn) (tval := tval) hwait hcause with h | ⟨n, h⟩ <;> rw [h]
  · exact (Files.refl _).stepFault ..
  · exact ((Files.refl _).stepFault ..).failStream ..

theorem sparesArrays_coreTrap (hwait : s.rbit (Reg.WAIT_STATE_WAITING p) = false) (hcause : cause ≠ 27) :
    SparesArrays (trapHalt s p cause sub insn tval) (coreTrap s p cause sub insn tval) := by
  rcases coreTrap_cases (sub := sub) (insn := insn) (tval := tval) hwait hcause with h | ⟨n, h⟩ <;> rw [h]
  · exact ((SparesArrays.refl _).orphanWork ..).stepFault ..
  · exact (((SparesArrays.refl _).orphanWork ..).stepFault ..).failStream ..

/-! ## What the halt shows -/

theorem wf_trapInfo (w : s.Wf) : (trapInfo s p cause sub insn).Wf := (keeps_rset (keeps_rset (keeps_rset (Keeps.refl s)))).wf w

theorem keeps_trapHalt : Keeps s (trapHalt s p cause sub insn tval) :=
  keeps_emptyFill (keeps_modPlank (keeps_setCore (keeps_setCsr (keeps_setCsr (keeps_setCsr
    (keeps_rset (keeps_rset (keeps_rset (Keeps.refl s)))))))))

/-- TRAP_INFO holds the cause and the sub-code, and no other word has changed. -/
theorem rget_trapInfo (w : s.Wf) : (trapInfo s p cause sub insn).rget (Reg.TRAP_INFO_CAUSE p) = cause % 256 ∧
    (trapInfo s p cause sub insn).rget (Reg.TRAP_INFO_SUB p) = sub % 256 ∧
    ∀ f : RegF, f.off ≠ (Reg.TRAP_INFO_CAUSE p).off → (trapInfo s p cause sub insn).rget f = s.rget f := by
  have wcause : (s.rset (Reg.TRAP_INFO_CAUSE p) cause).Wf := (keeps_rset (Keeps.refl s)).wf w
  have wsub : ((s.rset (Reg.TRAP_INFO_CAUSE p) cause).rset (Reg.TRAP_INFO_SUB p) sub).Wf := (keeps_rset (Keeps.refl _)).wf wcause
  refine ⟨?_, ?_, fun f hf => ?_⟩ <;> rw [trapInfo]
  · rw [rget_rset_apart wsub (by decide : 63 < 64) (.inr (.inl (by decide : 7 < 32))),
      rget_rset_apart wcause (by decide : 15 < 64) (.inr (.inl (by decide : 7 < 8))), rget_rset w (by decide : 7 < 64)]
    rfl
  · rw [rget_rset_apart wsub (by decide : 63 < 64) (.inr (.inl (by decide : 15 < 32))), rget_rset wcause (by decide : 15 < 64)]
    rfl
  · rw [rget_rset_apart (f := Reg.TRAP_INFO_INSN p) wsub (by decide : 63 < 64) (.inl hf),
      rget_rset_apart (f := Reg.TRAP_INFO_SUB p) wcause (by decide : 15 < 64) (.inl hf),
      rget_rset_apart w (by decide : 7 < 64) (.inl hf)]

/-- Beside TRAP_INFO the halt writes CORE_STATUS.STATE and FILL_PTR. -/
theorem word_trapHalt (off : Nat) : (trapHalt s p cause sub insn tval).word off =
    ((setCore (trapInfo s p cause sub insn) p CoreSt.trapped).setWord (Reg.FILL_PTR_HEAD p).off 0).word off := rfl

theorem rget_trapHalt (w : s.Wf) {f : RegF} (hf : f.off ≠ (Reg.FILL_PTR_HEAD p).off) :
    (trapHalt s p cause sub insn tval).rget f = (setCore (trapInfo s p cause sub insn) p CoreSt.trapped).rget f := by
  rw [State.rget, word_trapHalt, word_setWord ((keeps_setCore (Keeps.refl _)).wf (wf_trapInfo w)), if_neg hf, State.rget]

theorem rget_trapHalt_apart (w : s.Wf) {f : RegF} {i : Nat} (hf : f.off = plankBase p + i) (hi : i ≠ 0xA8 ∧ i ≠ 0x70) :
    (trapHalt s p cause sub insn tval).rget f = (trapInfo s p cause sub insn).rget f := by
  rw [rget_trapHalt w (off_ne_of_place_ne hf rfl hi.2), setCore,
    rget_rset_apart (wf_trapInfo w) (by decide : 2 < 64) (.inl (off_ne_of_place_ne hf rfl hi.1))]

theorem coreState_trapHalt (w : s.Wf) : coreState (trapHalt s p cause sub insn tval) p = CoreSt.trapped := by
  rw [coreState, rget_trapHalt w (off_ne_of_place_ne (i := 0xA8) (j := 0x70) rfl rfl (by decide)), setCore,
    rget_rset (wf_trapInfo w) (by decide : 2 < 64)]
  rfl

theorem xreg_setCsr (w : s.Wf) (c : Nat) (v : Word64) (r : Nat) : (s.setCsr p c v).xreg p r = s.xreg p r := by
  rw [State.xreg, State.setCsr, plank_modPlank w, if_pos rfl, State.xreg]

theorem wf_setCsr (w : s.Wf) (c : Nat) (v : Word64) : (s.setCsr p c v).Wf := (keeps_setCsr (Keeps.refl s)).wf w

theorem xreg_trapCsrs (w : s.Wf) (r : Nat) : (trapCsrs s p cause tval).xreg p r = s.xreg p r := by
  have wepc := wf_setCsr (p := p) w Csr.mepc (BitVec.ofNat 64 (s.pc p))
  have wcause := wf_setCsr (p := p) wepc Csr.mcause (BitVec.ofNat 64 cause)
  exact (xreg_setCsr wcause ..).trans ((xreg_setCsr wepc ..).trans (xreg_setCsr w ..))

theorem xreg_trapCore (w : s.Wf) (r : Nat) : (trapCore s p cause sub insn tval).xreg p r = s.xreg p r := by
  have wtrapped : (setCore (trapCsrs (trapInfo s p cause sub insn) p cause tval) p CoreSt.trapped).Wf :=
    (keeps_setCore (keeps_setCsr (keeps_setCsr (keeps_setCsr (Keeps.refl _))))).wf (wf_trapInfo w)
  have hcsrs : (trapCsrs (trapInfo s p cause sub insn) p cause tval).xreg p r = s.xreg p r := xreg_trapCsrs (wf_trapInfo w) r
  rw [← hcsrs, State.xreg, trapCore, plank_modPlank wtrapped, if_pos rfl, setCore, plank_rset, State.xreg]

theorem plank_emptyFill (w : s.Wf) : (emptyFill s p).plank p = { s.plank p with fillN := 0, fillIssued := 0 } :=
  (plank_modPlank ((keeps_setWord (Keeps.refl s)).wf w) ..).trans (if_pos rfl)

theorem wf_trapCore (w : s.Wf) : (trapCore s p cause sub insn tval).Wf :=
  (keeps_modPlank (keeps_setCore (keeps_setCsr (keeps_setCsr (keeps_setCsr (Keeps.refl _)))))).wf (wf_trapInfo w)

theorem fillN_trapHalt (w : s.Wf) : ((trapHalt s p cause sub insn tval).plank p).fillN = 0 := by
  rw [trapHalt, plank_emptyFill (wf_trapCore w)]

theorem xreg_trapHalt (w : s.Wf) (r : Nat) : (trapHalt s p cause sub insn tval).xreg p r = s.xreg p r := by
  rw [← xreg_trapCore w r, State.xreg, trapHalt, plank_emptyFill (wf_trapCore w), State.xreg]

end

/-! ## The trap -/

section
variable {s : State} {p : PlankId} {cause : Nat}

theorem not_filedWord_trapInfo : ¬ FiledWord (Reg.TRAP_INFO_CAUSE p).off := not_filedWord_of_plank p.isLt (by decide) (by decide)

theorem not_filedWord_coreStatus : ¬ FiledWord (Reg.CORE_STATUS_STATE p).off := not_filedWord_of_plank p.isLt (by decide) (by decide)

theorem not_filedWord_corePc : ¬ FiledWord (Reg.CORE_PC_PC p).off := not_filedWord_of_plank p.isLt (by decide) (by decide)

/-- A trap of a core that waits on no object: TRAP_INFO, Trapped, the pc and the registers as they were, no fill item, and the
core's objects Orphaned. -/
theorem coreTrap_halts (w : s.Wf) (hwait : s.rbit (Reg.WAIT_STATE_WAITING p) = false) (hcause : cause ≠ 27) (sub insn tval : Nat)
    {t : State} (ht : coreTrap s p cause sub insn tval = t) :
    coreState t p = CoreSt.trapped ∧ t.rget (Reg.TRAP_INFO_CAUSE p) = cause % 256 ∧ t.rget (Reg.TRAP_INFO_SUB p) = sub % 256 ∧
      t.pc p = s.pc p ∧ (t.plank p).fillN = 0 ∧ (∀ r, t.xreg p r = s.xreg p r) ∧ SameMemory s t ∧
      ∀ o, fget (s.obj o) Obj.OWNER = p.val → fget (s.obj o) Obj.STATE ≠ 0 → fget (t.obj o) Obj.STATE = 3 := by
  subst ht
  have whalt : (trapHalt s p cause sub insn tval).Wf := keeps_trapHalt.wf w
  have horphan := (Files.refl (trapHalt s p cause sub insn tval)).orphanWork
  have htrap := files_coreTrap (sub := sub) (insn := insn) (tval := tval) hwait hcause
  have hplanks := (sparesArrays_coreTrap (sub := sub) (insn := insn) (tval := tval) hwait hcause).plank_eq p
  have hread {f : RegF} (hf : ¬ FiledWord f.off) :
      (coreTrap s p cause sub insn tval).rget f = (trapHalt s p cause sub insn tval).rget f :=
    (htrap.rget_eq ((horphan ..).wf whalt) hf).trans ((horphan ..).rget_eq whalt hf)
  obtain ⟨hcauseIs, hsub, hother⟩ := rget_trapInfo (p := p) (cause := cause) (sub := sub) (insn := insn) w
  refine ⟨?state, ?cause, ?sub, ?pc, ?fill, fun r => ?regs, ?mem, fun o howner hused => ?objs⟩
  case state => exact (hread not_filedWord_coreStatus).trans (coreState_trapHalt w)
  case cause => rw [hread not_filedWord_trapInfo, rget_trapHalt_apart w (i := 0xB8) rfl (by decide), hcauseIs]
  case sub => rw [hread (f := Reg.TRAP_INFO_SUB p) not_filedWord_trapInfo, rget_trapHalt_apart w (i := 0xB8) rfl (by decide), hsub]
  case pc =>
    rw [State.pc, hread not_filedWord_corePc, rget_trapHalt_apart w (i := 0xB0) rfl (by decide),
      hother _ (off_ne_of_place_ne (i := 0xB0) (j := 0xB8) rfl rfl (by decide)), State.pc]
  case fill => rw [hplanks, fillN_trapHalt w]
  case regs =>
    rw [State.xreg, hplanks]
    exact xreg_trapHalt w r
  case mem =>
    have hcalm := calm_coreTrap (p := p) (cause := cause) (sub := sub) (insn := insn) (tval := tval) (Calm.refl s)
    exact ⟨fun a => congrArg (kget noByte · a) hcalm.mem, fun a => congrArg (kget noFlag · a) hcalm.poison⟩
  case objs =>
    have hobj : (trapHalt s p cause sub insn tval).obj o = s.obj o := rfl
    rw [← hobj] at howner hused
    exact htrap.state_eq_three ((horphan ..).wf whalt) (state_orphan whalt 0 (mem_ownedBy howner hused) hused)

theorem exec_syncWait_retired {rd rs1 rs2 : XReg} (hready : coreReady s p = true) (hgoing : stopDue s p = false)
    (hobj : bit (s.xreg p rs1).toNat 15 = false) (hretired : fget (s.obj (bits (s.xreg p rs1).toNat 0 15)) Obj.STATE = 0) :
    exec (.syncWait p rd rs1 rs2) s = .next (coreTrap s p 24 0x0A (c1 1 0 rd rs1 rs2) 0) := by
  simp [exec, execSyncWait, hready, hgoing, hobj, hretired]

theorem exec_syncWait_reserved {rd rs1 rs2 : XReg} (hready : coreReady s p = true) (hgoing : stopDue s p = false)
    (hobj : bit (s.xreg p rs1).toNat 15 = true) :
    exec (.syncWait p rd rs1 rs2) s = .next (coreTrap s p 24 3 (c1 1 0 rd rs1 rs2) 0) := by
  simp [exec, execSyncWait, hready, hgoing, hobj]

theorem exec_syncAdd_reserved {rs1 rs2 : XReg} (hready : coreReady s p = true) (hobj : bit (s.xreg p rs1).toNat 15 = true) :
    exec (.syncAdd p rs1 rs2) s = .next (coreTrap s p 24 3 (c1 0 (boolNat false) 0 rs1 rs2) 0) := by
  simp [exec, execSyncAdd, syncSignal, hready, hobj]

end

/-- Settles O53: all three instructions take the same trap, of a core that is ready and so waits on no object. -/
theorem aTrapHaltsTheCore : Obligations.ATrapHaltsTheCore := by
  rintro s t p rd rs1 rs2 sub w hready hgoing hcase
  have hwait : s.rbit (Reg.WAIT_STATE_WAITING p) = false := by
    simp only [coreReady, Bool.and_eq_true, Bool.not_eq_true'] at hready
    exact hready.2
  rcases hcase with ⟨rfl, hobj, hretired, hexec⟩ | ⟨rfl, hobj, hexec | hexec⟩
  · rw [exec_syncWait_retired hready hgoing hobj hretired] at hexec
    exact coreTrap_halts w hwait (by decide) _ _ _ (Host.Outcome.next.inj hexec)
  · rw [exec_syncWait_reserved hready hgoing hobj] at hexec
    exact coreTrap_halts w hwait (by decide) _ _ _ (Host.Outcome.next.inj hexec)
  · rw [exec_syncAdd_reserved hready hobj] at hexec
    exact coreTrap_halts w hwait (by decide) _ _ _ (Host.Outcome.next.inj hexec)

end Sys2Proof.Machine
end

section
/-! PROOFS. Fences, issue and moves of a ready core (O5): each instruction past its guards (R186 to R188, R203). -/
namespace Sys2Proof.Machine

section
variable {s : State} {p : PlankId} {rd rs1 rs2 : XReg} {ecc : CoreEcc}

/-! ## The fence of passes (R203) -/

/-- No pass is under way or waits, and both accumulators are Free or Held. -/
def PassesDone (s : State) (p : Nat) : Prop :=
  (s.plank p).run = none ∧ slotFull s p = false ∧ (accState s p 0 = AccSt.free ∨ accState s p 0 = AccSt.held) ∧
    (accState s p 1 = AccSt.free ∨ accState s p 1 = AccSt.held)

theorem exec_passFence_done (hready : coreReady s p = true) (hfault : plankState s p ≠ PlankSt.faulted) (hdone : PassesDone s p) :
    exec (.passFence p rd) s = .next (coreNext (s.setX p rd
      (BitVec.ofNat 64 (s.rget (Reg.PASS_COUNT_DRAINS p) % 2 ^ 63))) p) := by
  obtain ⟨hrun, hslot, h0, h1⟩ := hdone
  simp [exec, execPassFence, hready, hfault, hrun, hslot, h0, h1]

theorem exec_passFence_faulted (hready : coreReady s p = true) (hfault : plankState s p = PlankSt.faulted) :
    exec (.passFence p rd) s = .next (coreNext (s.setX p rd
      (BitVec.ofNat 64 (s.rget (Reg.PASS_COUNT_DRAINS p) % 2 ^ 63 + 2 ^ 63))) p) := by
  simp [exec, execPassFence, hready, hfault]

theorem exec_passFence_holds (hready : coreReady s p = true) (hfault : plankState s p ≠ PlankSt.faulted) (hbusy : ¬ PassesDone s p) :
    exec (.passFence p rd) s = .next (coreHold s p none) := by
  have hgo : ((s.plank p).run.isNone && !slotFull s p && (accState s p 0 == AccSt.free || accState s p 0 == AccSt.held) &&
      (accState s p 1 == AccSt.free || accState s p 1 == AccSt.held)) = false := by
    simpa [PassesDone, ← Bool.not_eq_true, and_assoc] using hbusy
  simp [exec, execPassFence, hready, hfault, hgo]

/-! ## The vector engine (R186 to R188, R201, R203) -/

theorem exec_plankSusp (hready : coreReady s p = true) :
    exec (.plankSusp p) s = .next (coreStop (s.rset (Reg.CORE_STATUS_SUSP_PEND p) 1) p 3) := by
  simp [exec, execPlankSusp, hready]

theorem exec_vecIssue (hready : coreReady s p = true) (htaken : vecRefusal s p (s.xreg p rs1) = 0)
    (hroom : portFull s p (s.xreg p rs1) = false) :
    exec (.vecIssue p rs1) s = .next (coreNext (vecEnqueue s p (s.xreg p rs1)) p) := by
  simp [exec, execVecIssue, hready, htaken, hroom]

theorem exec_vecRun (hready : coreReady s p = true) (halign : (s.xreg p rs1).toNat % 8 = 0) :
    exec (.vecRun p rs1 rs2 ecc) s = .next (vecRunLoop p (s.xreg p rs1).toNat (s.xreg p rs2).toNat (c0 4 1 0 rs1 rs2) ecc 8194
      (s.plank p).vecRun s) := by
  simp [exec, execVecRun, hready, halign]

theorem exec_vecFence (hready : coreReady s p = true) : exec (.vecFence p) s =
    .next (if (s.plank p).port2 = [] ∧ (s.plank p).port3 = [] then coreNext s p else coreHold s p none) := by
  simp [exec, execVecFence, hready]

theorem exec_vecXi (hready : coreReady s p = true) :
    exec (.vecXi p rs1) s = .next (coreNext (s.setWord (Reg.XI_XI p).off (s.xreg p rs1)) p) := by
  simp [exec, execVecXi, hready]

theorem exec_vecMvx (hready : coreReady s p = true) (hempty : (s.plank p).port2 = []) (hecc : ecc ≠ .vreg) :
    exec (.vecMvx p rd rs2 ecc) s = .next (coreNext (s.setX p rd
      ((kget noF32 (s.plank p).v ((s.xreg p rs2).toNat % 32 * 512)).setWidth 64)) p) := by
  simp [exec, execVecMvx, hready, hempty, hecc]

end

/-- Settles O5: the fences split on whether what they wait for is done. -/
theorem coreFencesAndIssueComplete : Obligations.CoreFencesAndIssueComplete := by
  refine fun s p hready => ⟨fun rd hfault hrun hslot h0 h1 => exec_passFence_done hready hfault ⟨hrun, hslot, h0, h1⟩,
    fun rd => exec_passFence_faulted hready, fun rd hfault hbusy => exec_passFence_holds hready hfault ?busy, exec_plankSusp hready,
    fun _ => exec_vecIssue hready, fun _ _ _ => exec_vecRun hready, fun h2 h3 => ?empty, fun hqueued => ?queued, fun _ => exec_vecXi hready,
    fun _ _ _ => exec_vecMvx hready⟩
  case busy =>
    rintro ⟨hrun, hslot, h0, h1⟩
    rcases hbusy with hpass | hwait | ⟨hfree, hheld⟩ | ⟨hfree, hheld⟩
    · simp [hrun] at hpass
    · simp [hslot] at hwait
    · exact h0.elim hfree hheld
    · exact h1.elim hfree hheld
  case empty => rw [exec_vecFence hready, if_pos ⟨h2, h3⟩]
  case queued => rw [exec_vecFence hready, if_neg (by tauto)]

end Sys2Proof.Machine
end

section
/-! PROOFS. Stream and transfer instructions, transfers that end, and the context of a core that suspends (O12, O13): each command past
its guards (R205 to R208, R250, R298, R374). -/
namespace Sys2Proof.Machine

section
variable {s t : State} {p : PlankId} {rd rs1 rs2 : XReg} {ecc : CoreEcc} {n q : Nat}

/-! ## Streams (R207, R298, R374) -/

theorem exec_strmQp (hready : coreReady s p = true) (hn : n = (s.xreg p rs1).toNat % 65536) (hgoing : suspPend s p = false) :
    exec (.strmQp p rs1) s = .next (coreNext
      (if streamKind s n = 2 then strmSet s n Strm.RECORDS (fget (s.strm n) Strm.RECORDS + 1) else s) p) := by
  subst hn
  simp [exec, execStrmQp, hready, hgoing]

theorem exec_strmState (hready : coreReady s p = true) (hn : n = (s.xreg p rs1).toNat % 65536) :
    exec (.strmState p rd rs1) s = .next (coreNext (s.setX p rd (BitVec.ofNat 64 (streamState s n))) p) := by
  subst hn
  simp [exec, execStrmState, hready]

theorem exec_strmEnd (hready : coreReady s p = true) (hn : n = (s.xreg p rs1).toNat % 65536) (houtcome : (s.xreg p rs2).toNat ≤ 2) :
    exec (.strmEnd p rs1 rs2) s = .next (coreNext (strmEnds (s.modPlank p (fun k =>
      { k with ended := k.ended || (s.plank p).stream.map (·.val) == some n })) n (s.xreg p rs2).toNat) p) := by
  subst hn
  simp [exec, execStrmEnd, hready, Nat.not_lt.mpr houtcome]

/-! ## Transfers (R205, R206, R250) -/

/-- A transfer whose form, banks, slots and channels are in order starts. -/
theorem xferStart_of_clear {insn : Nat} {d : BitVec 512} {cs : List Nat} (hform : xferForm s p d = none)
    (hruns : runsBad s p (xferRuns s d) = none) (hchans : xferChans s p d = .inl cs) :
    xferStart s p insn d ecc = xferTakes s p insn d cs (badLine ecc) := by
  simp [xferStart, hform, hruns, hchans]

theorem exec_xfer {d : BitVec 512} {cs : List Nat} (hready : coreReady s p = true) (halign : (s.xreg p rs1).toNat % 64 = 0)
    (hinside : (s.xreg p rs1).toNat + 64 ≤ 0x1000000)
    (howned : storeBad s p [ownCore, ownTransfer] ((s.xreg p rs1).toNat, 64) = none)
    (hread : storeErrs s p ecc [((s.xreg p rs1).toNat, 64)] = 0) (ht : t = applyHandovers (eccCounts s p ecc 0))
    (hd : d = (eccCounts s p ecc 0).recAt (storeBase p + (s.xreg p rs1).toNat) 512) (hform : xferForm t p d = none)
    (hruns : runsBad t p (xferRuns t d) = none) (hchans : xferChans t p d = .inl cs) :
    exec (.xfer p rs1 ecc) s = .next (xferTakes t p (rWord custom1 4 0 0 rs1 0) d cs (badLine ecc)) := by
  subst ht hd
  simp [exec, execXfer, hready, halign, Nat.not_lt.mpr hinside, howned, hread, xferStart_of_clear hform hruns hchans]

theorem exec_xferComplete {x : Nat} {y : Xfer} (hx : findXfer s x = some y) (hwriting : y.writing = true) (hleft : y.left = 0) :
    exec (.xferComplete x) s = .next (xferEnds s y) := by
  simp [exec, execXferComplete, hx, hwriting, hleft]

/-! ## Quiesce, context and resume (R207 to R209) -/

theorem exec_coreAutoReset (htrapped : coreState s p = CoreSt.trapped) (hrun : s.rget Reg.HJ_STATUS_STATE = 1) :
    exec (.coreAutoReset p) s = .next (resetCore s p) := by
  simp [exec, execCoreAutoReset, htrapped, hrun]

/-- A core that is asked to suspend and has not stopped. -/
structure MayQuiesce (s : State) (p : PlankId) : Prop where
  asked : suspPend s p = true
  active : coreActive s p = true
  going : (s.plank p).quiesce = none

theorem exec_coreQuiesce_wait (hmay : MayQuiesce s p) (hwait : s.rbit (Reg.WAIT_STATE_WAITING p) = true) (hany : qpOnly s p = false) :
    exec (.coreQuiesce p) s = .next (coreStop s p 0) := by
  obtain ⟨hasked, hactive, hgoing⟩ := hmay
  simp [exec, execCoreQuiesce, hasked, hactive, hgoing, hwait, hany]

/-- At an instruction that holds the core stops, with QP_ONLY at strm.qp alone. -/
theorem exec_coreQuiesce_held (hmay : MayQuiesce s p) (hwait : s.rbit (Reg.WAIT_STATE_WAITING p) = false)
    (hheld : (s.plank p).held = some q) (hany : qpOnly s p = false ∨ q = 1) :
    exec (.coreQuiesce p) s = .next (coreStop s p q) := by
  obtain ⟨hasked, hactive, hgoing⟩ := hmay
  have hstop : (qpOnly s p && q != 1) = false := by rcases hany with h | h <;> simp [h]
  simp [exec, execCoreQuiesce, hasked, hactive, hgoing, hwait, hheld, hstop]

theorem exec_contextWriteComplete (hquiesce : (s.plank p).quiesce = some q) (hactive : coreActive s p = true)
    (h2 : (s.plank p).port2 = []) (h3 : (s.plank p).port3 = []) (hxfers : ∀ x ∈ s.fab.xfers, x.plank ≠ p.val)
    (harray : arrayQuiet s p = true) (hkept : (s.plank p).ctxLost = false)
    (howned : firstBad s p [ownCells] [(ctxOff s p, ctxBytes)] = none) :
    exec (.contextWriteComplete p) s = .next (contextWritten s p q) := by
  have hnone : s.fab.xfers.any (fun x => x.plank == p.val) = false := by simpa using hxfers
  simp [exec, execContextWriteComplete, hquiesce, hactive, h2, h3, hnone, harray, hkept, howned]

theorem exec_coreResume (hstate : coreState s p = CoreSt.quiesced) (hvalid : s.rbit (Reg.CORE_STATUS_CTX_VALID p) = true)
    (hruns : ∀ n, (s.plank p).stream = some n → streamState s n = St.running)
    (howned : firstBad s p [ownCells] [(ctxOff s p, ctxBytes)] = none) (hread : storeErrs s p ecc [(ctxOff s p, ctxBytes)] = 0) :
    exec (.coreResume p ecc) s = .next (coreResumed (eccCounts s p ecc 0) p) := by
  cases hs : (s.plank p).stream with
  | none => simp [exec, execCoreResume, hstate, hvalid, hs, howned, hread]
  | some n => simp [exec, execCoreResume, hstate, hvalid, hs, hruns n hs, howned, hread]

end

/-- Settles O12: the stream instructions need a ready core alone, xfer a descriptor in order. -/
theorem streamAndTransferInstructionsComplete : Obligations.StreamAndTransferInstructionsComplete := fun _ _ _ _ hready hn =>
  ⟨exec_strmQp hready hn, fun _ => exec_strmState hready hn, fun _ => exec_strmEnd hready hn,
    fun _ _ _ _ halign hinside howned hread ht hd hform hruns hchans _ =>
      exec_xfer hready halign hinside howned hread ht hd hform hruns hchans⟩

/-- Settles O13: each command past its guards. -/
theorem transferEndAndContextComplete : Obligations.TransferEndAndContextComplete := fun _ _ =>
  ⟨fun _ _ hx _ => exec_xferComplete hx, exec_coreAutoReset,
    fun hasked hactive hgoing => ⟨exec_coreQuiesce_wait ⟨hasked, hactive, hgoing⟩, fun _ => exec_coreQuiesce_held ⟨hasked, hactive, hgoing⟩⟩,
    fun _ => exec_contextWriteComplete, fun hstate hvalid hruns howned _ => exec_coreResume hstate hvalid hruns howned⟩

end Sys2Proof.Machine
end

section
/-! PROOFS. The words of the base instructions (O14): what the decoder reads in each form of the standard (R202, assumption 32). -/
namespace Sys2Proof.Machine

/-! ## The fields that the forms share -/

/-- A word by its opcode, bits [11:7], funct3, bits [19:15] and bits [31:20]. -/
def fieldWord (opc rd f3 rs1 top : Nat) : Nat := opc + rd * 2 ^ 7 + f3 * 2 ^ 12 + rs1 * 2 ^ 15 + top * 2 ^ 20

/-- What the decoder reads in a word. -/
structure HasFields (w opc rd f3 rs1 top : Nat) : Prop where
  opc : bits w 0 7 = opc
  rd : bits w 7 5 = rd
  f3 : bits w 12 3 = f3
  rs1 : bits w 15 5 = rs1
  rs2 : bits w 20 5 = top % 32
  f7 : bits w 25 7 = top / 32
  top : bits w 20 12 = top

theorem hasFields_fieldWord {opc rd f3 rs1 top : Nat} (hopc : opc < 128) (hrd : rd < 32) (hf3 : f3 < 8) (hrs1 : rs1 < 32)
    (htop : top < 4096) : HasFields (fieldWord opc rd f3 rs1 top) opc rd f3 rs1 top := by
  constructor <;> simp only [bits, fieldWord, Nat.shiftRight_eq_div_pow] <;> omega

theorem rWord_eq_fieldWord (opc f3 f7 rd rs1 rs2 : Nat) : rWord opc f3 f7 rd rs1 rs2 = fieldWord opc rd f3 rs1 (rs2 + f7 * 32) := by
  simp only [rWord, fieldWord]; omega

theorem encI_eq_fieldWord (opc f3 rd rs1 imm : Nat) : encI opc f3 rd rs1 imm = fieldWord opc rd f3 rs1 (imm % 4096) := by
  simp only [encI, fieldWord]; omega

theorem encS_eq_fieldWord (f3 rs1 rs2 imm : Nat) :
    encS f3 rs1 rs2 imm = fieldWord 0x23 (bits imm 0 5) f3 rs1 (rs2 + bits imm 5 7 * 32) := by
  simp only [encS, fieldWord]; omega

theorem encB_eq_fieldWord (f3 rs1 rs2 imm : Nat) : encB f3 rs1 imm + rs2 * 2 ^ 20 =
    fieldWord 0x63 (bits imm 11 1 + bits imm 1 4 * 2) f3 rs1 (rs2 + (bits imm 5 6 + bits imm 12 1 * 64) * 32) := by
  simp only [encB, fieldWord]; omega

section
variable {rd rs1 rs2 : XReg} {f3 : Nat}

theorem hasFields_rWord {opc f7 : Nat} (hopc : opc < 128) (hf3 : f3 < 8) (hf7 : f7 < 128) :
    HasFields (rWord opc f3 f7 rd rs1 rs2) opc rd f3 rs1 (rs2 + f7 * 32) := by
  rw [rWord_eq_fieldWord]
  exact hasFields_fieldWord hopc rd.isLt hf3 rs1.isLt (by omega)

theorem hasFields_encI {opc : Nat} (hopc : opc < 128) (hf3 : f3 < 8) {imm : Nat} (himm : imm < 4096) :
    HasFields (encI opc f3 rd rs1 imm) opc rd f3 rs1 imm := by
  rw [encI_eq_fieldWord, Nat.mod_eq_of_lt himm]
  exact hasFields_fieldWord hopc rd.isLt hf3 rs1.isLt himm

theorem hasFields_encS (hf3 : f3 < 8) (imm : Nat) :
    HasFields (encS f3 rs1 rs2 imm) 0x23 (bits imm 0 5) f3 rs1 (rs2 + bits imm 5 7 * 32) := by
  have hlow := bits_lt imm 0 5
  have hhigh := bits_lt imm 5 7
  rw [encS_eq_fieldWord]
  exact hasFields_fieldWord (by decide) hlow hf3 rs1.isLt (by omega)

theorem hasFields_encB (hf3 : f3 < 8) (imm : Nat) : HasFields (encB f3 rs1 imm + rs2 * 2 ^ 20) 0x63
    (bits imm 11 1 + bits imm 1 4 * 2) f3 rs1 (rs2 + (bits imm 5 6 + bits imm 12 1 * 64) * 32) := by
  have h11 := bits_lt imm 11 1
  have h1 := bits_lt imm 1 4
  have h5 := bits_lt imm 5 6
  have h12 := bits_lt imm 12 1
  rw [encB_eq_fieldWord]
  exact hasFields_fieldWord (by decide) (by omega) hf3 rs1.isLt (by omega)

/-! ## Immediates -/

/-- A field read in two's complement is the sign extension of its bits. -/
theorem ofInt_signed {n : Nat} (hn : 0 < n) (x : BitVec n) : BitVec.ofInt 64 (signed x.toNat n) = x.signExtend 64 := by
  have hpow : 2 ^ n = 2 * 2 ^ (n - 1) := by rw [← pow_succ']; congr 1; omega
  have hsigned : signed x.toNat n = x.toInt := by
    rw [signed, BitVec.toInt]
    push_cast
    split_ifs <;> omega
  rw [hsigned, BitVec.signExtend]

theorem immI_encI {opc : Nat} (hopc : opc < 128) (hf3 : f3 < 8) (imm : BitVec 12) :
    immI (encI opc f3 rd rs1 imm.toNat) = imm.signExtend 64 := by
  rw [immI, (hasFields_encI hopc hf3 imm.isLt).top, ofInt_signed (by decide)]

theorem immS_encS (hf3 : f3 < 8) (imm : BitVec 12) : immS (encS f3 rs1 rs2 imm.toNat) = imm.signExtend 64 := by
  have h := hasFields_encS (rs1 := rs1) (rs2 := rs2) hf3 imm.toNat
  have hsum : (rs2 + bits imm.toNat 5 7 * 32) / 32 * 32 + bits imm.toNat 0 5 = imm.toNat := by
    have hi := imm.isLt
    simp only [bits, Nat.shiftRight_eq_div_pow]
    omega
  rw [immS, h.f7, h.rd, hsum, ofInt_signed (by decide)]

/-- The four pieces of a branch's offset stand in the word as they were put. -/
theorem offset_encB (hf3 : f3 < 8) (imm : Nat) : bits (encB f3 rs1 imm + rs2 * 2 ^ 20) 31 1 = bits imm 12 1 ∧
    bits (encB f3 rs1 imm + rs2 * 2 ^ 20) 7 1 = bits imm 11 1 ∧ bits (encB f3 rs1 imm + rs2 * 2 ^ 20) 25 6 = bits imm 5 6 ∧
    bits (encB f3 rs1 imm + rs2 * 2 ^ 20) 8 4 = bits imm 1 4 := by
  have h11 := bits_lt imm 11 1
  have h1 := bits_lt imm 1 4
  have h5 := bits_lt imm 5 6
  have h12 := bits_lt imm 12 1
  unfold encB
  generalize bits imm 11 1 = b11 at h11 ⊢
  generalize bits imm 1 4 = b1 at h1 ⊢
  generalize bits imm 5 6 = b5 at h5 ⊢
  generalize bits imm 12 1 = b12 at h12 ⊢
  simp only [bits, Nat.shiftRight_eq_div_pow]
  refine ⟨?_, ?_, ?_, ?_⟩ <;> omega

theorem immB_encB (hf3 : f3 < 8) (i : BitVec 13) (heven : i.toNat % 2 = 0) :
    immB (encB f3 rs1 i.toNat + rs2 * 2 ^ 20) = i.signExtend 64 := by
  obtain ⟨h12, h11, h5, h1⟩ := offset_encB (rs1 := rs1) (rs2 := rs2) hf3 i.toNat
  have hsum : bits i.toNat 12 1 * 2 ^ 12 + bits i.toNat 11 1 * 2 ^ 11 + bits i.toNat 5 6 * 2 ^ 5 + bits i.toNat 1 4 * 2 = i.toNat := by
    have hi := i.isLt
    simp only [bits, Nat.shiftRight_eq_div_pow]
    omega
  rw [immB, h12, h11, h5, h1, hsum, ofInt_signed (by decide)]

/-! ## Jumps and upper immediates -/

theorem offset_encJ (imm : Nat) : bits (encJ imm + rd * 2 ^ 7) 0 7 = 0x6F ∧ bits (encJ imm + rd * 2 ^ 7) 7 5 = rd ∧
    bits (encJ imm + rd * 2 ^ 7) 31 1 = bits imm 20 1 ∧ bits (encJ imm + rd * 2 ^ 7) 12 8 = bits imm 12 8 ∧
    bits (encJ imm + rd * 2 ^ 7) 20 1 = bits imm 11 1 ∧ bits (encJ imm + rd * 2 ^ 7) 21 10 = bits imm 1 10 := by
  have h12 := bits_lt imm 12 8
  have h11 := bits_lt imm 11 1
  have h1 := bits_lt imm 1 10
  have h20 := bits_lt imm 20 1
  have hrd := rd.isLt
  unfold encJ
  generalize bits imm 11 1 = b11 at h11 ⊢
  generalize bits imm 1 10 = b1 at h1 ⊢
  generalize bits imm 12 8 = b12 at h12 ⊢
  generalize bits imm 20 1 = b20 at h20 ⊢
  simp only [bits, Nat.shiftRight_eq_div_pow]
  refine ⟨?_, ?_, ?_, ?_, ?_, ?_⟩ <;> omega

theorem immJ_encJ (i : BitVec 21) (heven : i.toNat % 2 = 0) : immJ (encJ i.toNat + rd * 2 ^ 7) = i.signExtend 64 := by
  obtain ⟨-, -, h20, h12, h11, h1⟩ := offset_encJ (rd := rd) i.toNat
  have hsum : bits i.toNat 20 1 * 2 ^ 20 + bits i.toNat 12 8 * 2 ^ 12 + bits i.toNat 11 1 * 2 ^ 11 + bits i.toNat 1 10 * 2 = i.toNat := by
    have hi := i.isLt
    simp only [bits, Nat.shiftRight_eq_div_pow]
    omega
  rw [immJ, h20, h12, h11, h1, hsum, ofInt_signed (by decide)]

/-- lui and auipc: 20 bits above the register. -/
theorem fields_upper {opc : Nat} (hopc : opc < 128) (i : BitVec 20) :
    bits (opc + rd * 2 ^ 7 + i.toNat * 2 ^ 12) 0 7 = opc ∧ bits (opc + rd * 2 ^ 7 + i.toNat * 2 ^ 12) 7 5 = rd ∧
      immU (opc + rd * 2 ^ 7 + i.toNat * 2 ^ 12) = (i ++ 0#12).signExtend 64 := by
  have hrd := rd.isLt
  have hi := i.isLt
  have htop : bits (opc + rd * 2 ^ 7 + i.toNat * 2 ^ 12) 12 20 = i.toNat := by
    simp only [bits, Nat.shiftRight_eq_div_pow]
    omega
  have happend : (i ++ 0#12).toNat = i.toNat * 2 ^ 12 := by
    rw [BitVec.toNat_append, BitVec.toNat_ofNat, Nat.zero_mod, Nat.or_zero, Nat.shiftLeft_eq]
  refine ⟨?_, ?_, ?_⟩
  · simp only [bits, Nat.shiftRight_eq_div_pow]
    omega
  · simp only [bits, Nat.shiftRight_eq_div_pow]
    omega
  · rw [immU, htop, ← happend, ofInt_signed (by decide)]

end
end Sys2Proof.Machine
end

section
/-! PROOFS. The plank core's control and its base instructions (O14): the fetch of a word, what each form does, and the writes of
CORE_CTL (R202, R209, assumption 32). -/
namespace Sys2Proof.Machine

section
variable {s t : State} {p : PlankId} {ecc : CoreEcc} {w next pc insn : Nat}

/-! ## The fetch -/

/-- A word at the pc that is no word of Table 8-8 is executed: of 4 bytes as it stands, or the one that 2 bytes stand for. -/
theorem coreFetch_of_coreWordAt (hecc : ecc ≠ .imem) (hword : CoreWordAt s p w next) (h0 : bits w 0 7 ≠ custom0)
    (h1 : bits w 0 7 ≠ custom1) : ∃ insn, (coreFetch s p ecc).1 = coreExecute s p w (s.pc p) next insn ecc := by
  obtain ⟨heven, ⟨hlow, hfetch, hw, rfl⟩ | ⟨hlow, hfetch, hexpand, rfl⟩⟩ := hword
  · have hhalf : fetchable (s.pc p) 2 = true := by
      simp only [fetchable, Bool.and_eq_true, decide_eq_true_eq] at hfetch ⊢
      omega
    have hlong : fetchHalf s p (s.pc p) + fetchHalf s p (s.pc p + 2) * 65536 = w := hw.symm
    exact ⟨w, by simp [coreFetch, heven, hhalf, hecc, hlow, hfetch, hlong, h0, h1]⟩
  · exact ⟨fetchHalf s p (s.pc p), by simp [coreFetch, heven, hfetch, hecc, hlow, hexpand]⟩

/-- A word that lets the core go on. -/
theorem exec_coreBaseInstruction (hready : coreReady s p = true) (hecc : ecc ≠ .imem) (hword : CoreWordAt s p w next)
    (h0 : bits w 0 7 ≠ custom0) (h1 : bits w 0 7 ≠ custom1) (hgo : ∀ insn, coreExecute s p w (s.pc p) next insn ecc = .goes t pc) :
    exec (.coreBaseInstruction p ecc) s = .next (coreGoes t p pc) := by
  obtain ⟨insn, hfetch⟩ := coreFetch_of_coreWordAt hecc hword h0 h1
  have hgoes : (coreFetch s p ecc).1 = .goes t pc := hfetch.trans (hgo insn)
  simp [exec, execCoreBaseInstruction, hready, hgoes, coreGoes]

/-! ## What each form does -/

theorem coreExecute_alu {v : Word64} (hopc : bits w 0 7 ∈ [0x33, 0x3B, 0x13, 0x1B])
    (hv : aluWord w (s.xreg p (bits w 15 5)) (s.xreg p (bits w 20 5)) = some v) :
    coreExecute s p w pc next insn ecc = .goes (s.setX p (bits w 7 5) v) next := by
  simp only [List.mem_cons, List.not_mem_nil, or_false] at hopc
  rcases hopc with h | h | h | h <;> simp [coreExecute, coreCompute, h, hv]

theorem coreExecute_lui (hopc : bits w 0 7 = 0x37) :
    coreExecute s p w pc next insn ecc = .goes (s.setX p (bits w 7 5) (immU w)) next := by
  simp only [coreExecute, coreCompute, hopc, Option.getD_some]

theorem coreExecute_auipc (hopc : bits w 0 7 = 0x17) :
    coreExecute s p w pc next insn ecc = .goes (s.setX p (bits w 7 5) (BitVec.ofNat 64 pc + immU w)) next := by
  simp only [coreExecute, coreCompute, hopc, Option.getD_some]

theorem coreExecute_jal (hopc : bits w 0 7 = 0x6F) : coreExecute s p w pc next insn ecc =
    .goes (s.setX p (bits w 7 5) (BitVec.ofNat 64 next)) (BitVec.ofNat 64 pc + immJ w).toNat := by
  simp only [coreExecute, coreCompute, hopc, Option.getD_some]

theorem coreExecute_jalr (hopc : bits w 0 7 = 0x67) (hf3 : bits w 12 3 = 0) : coreExecute s p w pc next insn ecc =
    .goes (s.setX p (bits w 7 5) (BitVec.ofNat 64 next)) ((s.xreg p (bits w 15 5) + immI w) &&& ~~~1).toNat := by
  simp only [coreExecute, coreCompute, hopc, hf3, if_true, Option.getD_some]

theorem coreExecute_branch {taken : Bool} (hopc : bits w 0 7 = 0x63)
    (htaken : branchTaken (bits w 12 3) (s.xreg p (bits w 15 5)) (s.xreg p (bits w 20 5)) = some taken) :
    coreExecute s p w pc next insn ecc = .goes s (if taken then (BitVec.ofNat 64 pc + immB w).toNat else next) := by
  simp [coreExecute, coreCompute, hopc, htaken]

theorem coreExecute_fence (hopc : bits w 0 7 = 0x0F) (hf3 : bits w 12 3 < 2) :
    coreExecute s p w pc next insn ecc = .goes s next := by
  simp only [coreExecute, coreCompute, hopc, hf3, if_true, Option.getD_some]

/-! ## The data memory -/

/-- An aligned access inside the data memory lies there and nowhere else. -/
theorem corePlace_dmem {o : Nat} (ho : o < 0x10000) : corePlace p (dmemBase + o) = .dmem o := by
  have himem : ¬ dmemBase + o < imemBase + 0x10000 := by unfold dmemBase imemBase; omega
  simp [corePlace, himem, ho]

theorem inWindow_dmem {o : Nat} : inWindow (dmemBase + o) = false := by
  have htop : ¬ dmemBase + o < 2 ^ 44 := by unfold dmemBase; omega
  rw [inWindow, decide_eq_false htop, Bool.and_false]

/-- The data memory begins at a multiple of every access width. -/
theorem dmem_aligned {k o : Nat} (hk : k < 4) (halign : o % 2 ^ k = 0) : (dmemBase + o) % 2 ^ k = 0 := by
  unfold dmemBase
  interval_cases k <;> omega

theorem coreExecute_load {f3 n o : Nat} (hopc : bits w 0 7 = 0x03) (hf3 : bits w 12 3 = f3) (hwidth : f3 < 7) (hn : n = 2 ^ (f3 % 4))
    (haddr : (s.xreg p (bits w 15 5) + immI w).toNat = dmemBase + o) (hinside : o + n ≤ 0x10000) (halign : o % n = 0)
    (hecc : ecc ≠ .dmem) : coreExecute s p w pc next insn ecc =
      .goes (s.setX p (bits w 7 5) (loadExtend f3 (leNat (kgets noByte (s.plank p).dmem o n)))) next := by
  subst hn
  have haligned := dmem_aligned (Nat.mod_lt _ (by decide)) halign
  have ho : o < 0x10000 := by have := Nat.two_pow_pos (f3 % 4); omega
  simp [coreExecute, hopc, hf3, hwidth.ne, haddr, coreLoad, haligned, corePlace_dmem ho, hecc]

theorem coreExecute_store {f3 n o : Nat} (hopc : bits w 0 7 = 0x23) (hf3 : bits w 12 3 = f3) (hwidth : f3 < 4) (hn : n = 2 ^ (f3 % 4))
    (haddr : (s.xreg p (bits w 15 5) + immS w).toNat = dmemBase + o) (hinside : o + n ≤ 0x10000) (halign : o % n = 0) :
    coreExecute s p w pc next insn ecc = .goes (s.modPlank p (fun k =>
      { k with dmem := kputs noByte k.dmem o (leBytes n (s.xreg p (bits w 20 5)).toNat) })) next := by
  rw [Nat.mod_eq_of_lt hwidth] at hn
  subst hn
  have haligned := dmem_aligned hwidth halign
  have ho : o < 0x10000 := by have := Nat.two_pow_pos f3; omega
  simp [coreExecute, hopc, hf3, Nat.not_lt.mpr (Nat.le_of_lt_succ hwidth), haddr, coreStore, inWindow_dmem, haligned, corePlace_dmem ho]

end

/-! ## Results (assumption 32) -/

section
variable {w opc rd f3 rs1 top : Nat} {a b : Word64}

theorem aluWord_op (h : HasFields w 0x33 rd f3 rs1 top) (a b : Word64) : aluWord w a b = aluOp f3 (top / 32) a b := by
  simp only [aluWord, h.opc, h.f3, h.f7]

theorem aluWord_op32 (h : HasFields w 0x3B rd f3 rs1 top) (a b : Word64) :
    aluWord w a b = (aluOp32 f3 (top / 32) (a.truncate 32) (b.truncate 32)).map (BitVec.signExtend 64) := by
  simp only [aluWord, h.opc, h.f3, h.f7, aluOpW]

/-- The immediate forms but for shifts. -/
theorem aluWord_opImm (h : HasFields w 0x13 rd f3 rs1 top) (h1 : f3 ≠ 1) (h5 : f3 ≠ 5) (a b : Word64) :
    aluWord w a b = aluOp f3 0 a (immI w) := by
  simp only [aluWord, h.opc, h.f3, if_neg h1, if_neg h5]

theorem aluWord_addiw (h : HasFields w 0x1B rd 0 rs1 top) (a b : Word64) : aluWord w a b =
    some ((a.truncate 32 + (immI w).truncate 32).signExtend 64) := by
  simp only [aluWord, h.opc, h.f3, if_true, aluOpW, aluOp32, Option.map_some]

/-- The shift amount of an immediate shift is 6 bits. -/
theorem shiftAmount (h : HasFields w opc rd f3 rs1 top) : bits w 20 6 = top % 64 := by
  have hw := h.top
  simp only [bits, Nat.shiftRight_eq_div_pow] at hw ⊢
  omega

theorem aluWord_slli (h : HasFields w 0x13 rd 1 rs1 top) (htop : top < 64) (a b : Word64) : aluWord w a b = some (a <<< top) := by
  have hhigh : top / 32 / 2 = 0 := by omega
  have hamount : (BitVec.ofNat 64 (top % 64)).toNat % 64 = top := by rw [BitVec.toNat_ofNat]; omega
  simp only [aluWord, h.opc, h.f3, h.f7, if_true, hhigh, shiftAmount h, aluOp, hamount]

/-- A right shift: of zeros, or of the sign with bit 10 of the immediate set. -/
theorem aluWord_srli (h : HasFields w 0x13 rd 5 rs1 top) (htop : top < 64) (a b : Word64) : aluWord w a b = some (a >>> top) := by
  have hhigh : top / 32 / 2 = 0 := by omega
  simp [aluWord, h.opc, h.f3, h.f7, hhigh, shiftAmount h, aluOp, Nat.mod_eq_of_lt htop]

theorem aluWord_srai {n : Nat} (h : HasFields w 0x13 rd 5 rs1 (0x400 + n)) (hn : n < 64) (a b : Word64) :
    aluWord w a b = some (a.sshiftRight n) := by
  have hhigh : (0x400 + n) / 32 / 2 = 0x10 := by omega
  have hamount : (0x400 + n) % 64 = n := by omega
  simp [aluWord, h.opc, h.f3, h.f7, hhigh, shiftAmount h, aluOp, hamount, Nat.mod_eq_of_lt hn]

end

/-! ## The rows of the standard's tables -/

/-- The register-register results by funct3 and funct7. -/
def opTable (a b : Word64) : List (Nat × Nat × Word64) :=
  [(0, 0, a + b), (0, 0x20, a - b), (1, 0, a <<< (b.toNat % 64)),
    (2, 0, BitVec.ofNat 64 (if a.slt b then 1 else 0)), (3, 0, BitVec.ofNat 64 (if a.ult b then 1 else 0)), (4, 0, a ^^^ b),
    (5, 0, a >>> (b.toNat % 64)), (5, 0x20, a.sshiftRight (b.toNat % 64)), (6, 0, a ||| b), (7, 0, a &&& b),
    (0, 1, a * b), (1, 1, BitVec.ofInt 64 (a.toInt * b.toInt / 2 ^ 64)), (2, 1, BitVec.ofInt 64 (a.toInt * b.toNat / 2 ^ 64)),
    (3, 1, BitVec.ofNat 64 (a.toNat * b.toNat / 2 ^ 64)), (4, 1, if b = 0 then BitVec.allOnes 64 else a.sdiv b),
    (5, 1, if b = 0 then BitVec.allOnes 64 else a / b), (6, 1, if b = 0 then a else a.srem b),
    (7, 1, if b = 0 then a else a % b)]

theorem aluOp_of_mem_opTable {f3 f7 : Nat} {a b v : Word64} (h : (f3, f7, v) ∈ opTable a b) :
    f3 < 8 ∧ f7 < 128 ∧ aluOp f3 f7 a b = some v := by
  have hrows : ∀ e ∈ opTable a b, e.1 < 8 ∧ e.2.1 < 128 ∧ aluOp e.1 e.2.1 a b = some e.2.2 := by
    simp only [opTable, List.forall_mem_cons]
    simp [aluOp, boolNat]
  exact hrows _ h

/-- The results with an immediate, but for shifts, by funct3. -/
def immTable (a i : Word64) : List (Nat × Word64) :=
  [(0, a + i), (2, BitVec.ofNat 64 (if a.slt i then 1 else 0)), (3, BitVec.ofNat 64 (if a.ult i then 1 else 0)), (4, a ^^^ i),
    (6, a ||| i), (7, a &&& i)]

theorem aluOp_of_mem_immTable {f3 : Nat} {a i v : Word64} (h : (f3, v) ∈ immTable a i) :
    f3 < 8 ∧ f3 ≠ 1 ∧ f3 ≠ 5 ∧ aluOp f3 0 a i = some v := by
  have hrows : ∀ e ∈ immTable a i, e.1 < 8 ∧ e.1 ≠ 1 ∧ e.1 ≠ 5 ∧ aluOp e.1 0 a i = some e.2 := by
    simp only [immTable, List.forall_mem_cons]
    simp [aluOp, boolNat]
  exact hrows _ h

/-- The conditions of the branches by funct3. -/
def branchTable (a b : Word64) : List (Nat × Bool) :=
  [(0, a == b), (1, a != b), (4, a.slt b), (5, !a.slt b), (6, a.ult b), (7, !a.ult b)]

theorem branchTaken_of_mem_branchTable {f3 : Nat} {a b : Word64} {taken : Bool} (h : (f3, taken) ∈ branchTable a b) :
    f3 < 8 ∧ branchTaken f3 a b = some taken := by
  have hrows : ∀ e ∈ branchTable a b, e.1 < 8 ∧ branchTaken e.1 a b = some e.2 := by
    simp only [branchTable, List.forall_mem_cons]
    simp [branchTaken]
  exact hrows _ h

/-! ## A turn of the core with one base instruction -/

/-- A ready core fetches the word w, no error being found in the instruction memory. -/
structure BaseTurn (s : State) (p : PlankId) (ecc : CoreEcc) (w next : Nat) : Prop where
  ready : coreReady s p = true
  clean : ecc ≠ .imem
  word : CoreWordAt s p w next

namespace BaseTurn
variable {s t : State} {p : PlankId} {ecc : CoreEcc} {w next pc opc f3 top : Nat} {rd rs1 rs2 : XReg} {imm : BitVec 12}

/-- A word of no opcode of Table 8-8 that lets the core go on. -/
theorem goes (turn : BaseTurn s p ecc w next) (hopc : bits w 0 7 = opc) (hplain : opc ≠ custom0 ∧ opc ≠ custom1)
    (hgo : ∀ insn, coreExecute s p w (s.pc p) next insn ecc = .goes t pc) :
    exec (.coreBaseInstruction p ecc) s = .next (coreGoes t p pc) := by
  subst hopc
  exact exec_coreBaseInstruction turn.ready turn.clean turn.word hplain.1 hplain.2 hgo

/-- A word that only computes. -/
theorem alu {v : Word64} (turn : BaseTurn s p ecc w next) (h : HasFields w opc rd f3 rs1 top) (hopc : opc ∈ [0x33, 0x3B, 0x13, 0x1B])
    (hv : aluWord w (s.xreg p rs1) (s.xreg p (top % 32)) = some v) :
    exec (.coreBaseInstruction p ecc) s = .next (coreGoes (s.setX p rd v) p next) := by
  have hplain : ∀ o ∈ [0x33, 0x3B, 0x13, 0x1B], o ≠ custom0 ∧ o ≠ custom1 := by decide
  refine turn.goes h.opc (hplain opc hopc) fun insn => ?_
  rw [← h.opc] at hopc
  rw [← h.rs1, ← h.rs2] at hv
  rw [coreExecute_alu hopc hv, h.rd]

theorem op {f7 : Nat} {v : Word64} (turn : BaseTurn s p ecc w next) (hrow : (f3, f7, v) ∈ opTable (s.xreg p rs1) (s.xreg p rs2))
    (hw : w = rWord 0x33 f3 f7 rd rs1 rs2) : exec (.coreBaseInstruction p ecc) s = .next (coreGoes (s.setX p rd v) p next) := by
  obtain ⟨hf3, hf7, hv⟩ := aluOp_of_mem_opTable hrow
  have h : HasFields w _ _ _ _ _ := hw ▸ hasFields_rWord (by decide) hf3 hf7
  have hrs2 : (rs2 + f7 * 32) % 32 = rs2 := by omega
  have hf7' : (rs2 + f7 * 32) / 32 = f7 := by omega
  exact turn.alu h (by decide) (by rw [aluWord_op h, hrs2, hf7', hv])

theorem op32 {f7 : Nat} {v : BitVec 32} (turn : BaseTurn s p ecc w next)
    (hv : aluOp32 f3 f7 ((s.xreg p rs1).truncate 32) ((s.xreg p rs2).truncate 32) = some v) (hf3 : f3 < 8) (hf7 : f7 < 128)
    (hw : w = rWord 0x3B f3 f7 rd rs1 rs2) :
    exec (.coreBaseInstruction p ecc) s = .next (coreGoes (s.setX p rd (v.signExtend 64)) p next) := by
  have h : HasFields w _ _ _ _ _ := hw ▸ hasFields_rWord (by decide) hf3 hf7
  have hrs2 : (rs2 + f7 * 32) % 32 = rs2 := by omega
  have hf7' : (rs2 + f7 * 32) / 32 = f7 := by omega
  exact turn.alu h (by decide) (by rw [aluWord_op32 h, hrs2, hf7', hv, Option.map_some])

theorem opImm {v : Word64} (turn : BaseTurn s p ecc w next) (hrow : (f3, v) ∈ immTable (s.xreg p rs1) (imm.signExtend 64))
    (hw : w = encI 0x13 f3 rd rs1 imm.toNat) : exec (.coreBaseInstruction p ecc) s = .next (coreGoes (s.setX p rd v) p next) := by
  obtain ⟨hf3, h1, h5, hv⟩ := aluOp_of_mem_immTable hrow
  subst hw
  have h := hasFields_encI (rd := rd) (rs1 := rs1) (opc := 0x13) (by decide) hf3 imm.isLt
  exact turn.alu h (by decide) (by rw [aluWord_opImm h h1 h5, immI_encI (by decide) hf3, hv])

/-- The immediate shifts: their amount is 6 bits, and bit 10 tells a shift of the sign. -/
theorem shifts (turn : BaseTurn s p ecc w next) (n : BitVec 6) :
    (w = encI 0x13 1 rd rs1 n.toNat →
      exec (.coreBaseInstruction p ecc) s = .next (coreGoes (s.setX p rd (s.xreg p rs1 <<< n.toNat)) p next)) ∧
    (w = encI 0x13 5 rd rs1 n.toNat →
      exec (.coreBaseInstruction p ecc) s = .next (coreGoes (s.setX p rd (s.xreg p rs1 >>> n.toNat)) p next)) ∧
    (w = encI 0x13 5 rd rs1 (0x400 + n.toNat) →
      exec (.coreBaseInstruction p ecc) s = .next (coreGoes (s.setX p rd ((s.xreg p rs1).sshiftRight n.toNat)) p next)) := by
  have hn := n.isLt
  refine ⟨fun hw => ?_, fun hw => ?_, fun hw => ?_⟩
  · have h : HasFields w _ _ _ _ _ := hw ▸ hasFields_encI (by decide) (by decide) (by omega)
    exact turn.alu h (by decide) (aluWord_slli h hn _ _)
  · have h : HasFields w _ _ _ _ _ := hw ▸ hasFields_encI (by decide) (by decide) (by omega)
    exact turn.alu h (by decide) (aluWord_srli h hn _ _)
  · have h : HasFields w _ _ _ _ _ := hw ▸ hasFields_encI (by decide) (by decide) (by omega)
    exact turn.alu h (by decide) (aluWord_srai h hn _ _)

theorem addiw (turn : BaseTurn s p ecc w next) (hw : w = encI 0x1B 0 rd rs1 imm.toNat) :
    exec (.coreBaseInstruction p ecc) s = .next (coreGoes (s.setX p rd
      (((s.xreg p rs1).truncate 32 + imm.signExtend 32).signExtend 64)) p next) := by
  subst hw
  have h := hasFields_encI (rd := rd) (rs1 := rs1) (opc := 0x1B) (f3 := 0) (by decide) (by decide) imm.isLt
  have hlow : (imm.signExtend 64).truncate 32 = imm.signExtend 32 := by
    ext i hi
    rw [BitVec.getElem_setWidth, BitVec.getLsbD_signExtend, BitVec.getElem_signExtend, decide_eq_true (by omega : i < 64),
      Bool.true_and]
    rfl
  exact turn.alu h (by decide) (by rw [aluWord_addiw h, immI_encI (by decide) (by decide), hlow])

/-! ### Upper immediates, jumps, branches and fences -/

theorem upper (turn : BaseTurn s p ecc w next) (i : BitVec 20) :
    (w = 0x37 + rd.val * 2 ^ 7 + i.toNat * 2 ^ 12 →
      exec (.coreBaseInstruction p ecc) s = .next (coreGoes (s.setX p rd ((i ++ 0#12).signExtend 64)) p next)) ∧
    (w = 0x17 + rd.val * 2 ^ 7 + i.toNat * 2 ^ 12 →
      exec (.coreBaseInstruction p ecc) s = .next (coreGoes (s.setX p rd
        (BitVec.ofNat 64 (s.pc p) + (i ++ 0#12).signExtend 64)) p next)) := by
  refine ⟨fun hw => ?_, fun hw => ?_⟩
  · obtain ⟨hopc, hrd, himm⟩ := fields_upper (rd := rd) (opc := 0x37) (by decide) i
    rw [← hw] at hopc hrd himm
    exact turn.goes hopc (by decide) fun insn => by rw [coreExecute_lui hopc, hrd, himm]
  · obtain ⟨hopc, hrd, himm⟩ := fields_upper (rd := rd) (opc := 0x17) (by decide) i
    rw [← hw] at hopc hrd himm
    exact turn.goes hopc (by decide) fun insn => by rw [coreExecute_auipc hopc, hrd, himm]

theorem jal {i : BitVec 21} (turn : BaseTurn s p ecc w next) (heven : i.toNat % 2 = 0) (hw : w = encJ i.toNat + rd.val * 2 ^ 7) :
    exec (.coreBaseInstruction p ecc) s = .next (coreGoes (s.setX p rd (BitVec.ofNat 64 next)) p
      (BitVec.ofNat 64 (s.pc p) + i.signExtend 64).toNat) := by
  subst hw
  obtain ⟨hopc, hrd, -⟩ := offset_encJ (rd := rd) i.toNat
  exact turn.goes hopc (by decide) fun insn => by rw [coreExecute_jal hopc, hrd, immJ_encJ i heven]

theorem jalr (turn : BaseTurn s p ecc w next) (hw : w = encI 0x67 0 rd rs1 imm.toNat) :
    exec (.coreBaseInstruction p ecc) s = .next (coreGoes (s.setX p rd (BitVec.ofNat 64 next)) p
      ((s.xreg p rs1 + imm.signExtend 64) &&& ~~~1).toNat) := by
  subst hw
  have h := hasFields_encI (rd := rd) (rs1 := rs1) (opc := 0x67) (f3 := 0) (by decide) (by decide) imm.isLt
  exact turn.goes h.opc (by decide) fun insn => by
    rw [coreExecute_jalr h.opc h.f3, h.rd, h.rs1, immI_encI (by decide) (by decide)]

theorem branch {taken : Bool} {i : BitVec 13} (turn : BaseTurn s p ecc w next)
    (hrow : (f3, taken) ∈ branchTable (s.xreg p rs1) (s.xreg p rs2)) (heven : i.toNat % 2 = 0)
    (hw : w = encB f3 rs1 i.toNat + rs2.val * 2 ^ 20) : exec (.coreBaseInstruction p ecc) s = .next (coreGoes s p
      (if taken then (BitVec.ofNat 64 (s.pc p) + i.signExtend 64).toNat else next)) := by
  obtain ⟨hf3, htaken⟩ := branchTaken_of_mem_branchTable hrow
  subst hw
  have h := hasFields_encB (rs1 := rs1) (rs2 := rs2) hf3 i.toNat
  have hrs2 := h.rs2
  rw [Nat.add_mul_mod_self_right, Nat.mod_eq_of_lt rs2.isLt] at hrs2
  exact turn.goes h.opc (by decide) fun insn => by
    rw [coreExecute_branch h.opc (by rw [h.f3, h.rs1, hrs2]; exact htaken), immB_encB hf3 i heven]

theorem fence (turn : BaseTurn s p ecc w next) (hf3 : f3 < 2) (hw : w = encI 0x0F f3 rd rs1 imm.toNat) :
    exec (.coreBaseInstruction p ecc) s = .next (coreGoes s p next) := by
  have h : HasFields w _ _ _ _ _ := hw ▸ hasFields_encI (by decide) (by omega) imm.isLt
  exact turn.goes h.opc (by decide) fun insn => coreExecute_fence h.opc (h.f3.symm ▸ hf3)

/-! ### Loads and stores -/

section
variable {n o : Nat} (turn : BaseTurn s p ecc w next) (hn : n = 2 ^ (f3 % 4))
  (haddr : (s.xreg p rs1 + imm.signExtend 64).toNat = dmemBase + o) (hinside : o + n ≤ 0x10000) (halign : o % n = 0)
include turn hn haddr hinside halign

theorem load (hf3 : f3 < 7) (hecc : ecc ≠ .dmem) (hw : w = encI 0x03 f3 rd rs1 imm.toNat) :
    exec (.coreBaseInstruction p ecc) s = .next (coreGoes (s.setX p rd
      (loadExtend f3 (leNat (kgets noByte (s.plank p).dmem o n)))) p next) := by
  have h : HasFields w _ _ _ _ _ := hw ▸ hasFields_encI (by decide) (by omega) imm.isLt
  have himm : immI w = imm.signExtend 64 := hw ▸ immI_encI (by decide) (by omega) imm
  rw [← himm, ← h.rs1] at haddr
  exact turn.goes h.opc (by decide) fun insn => by
    rw [coreExecute_load h.opc h.f3 hf3 hn haddr hinside halign hecc, h.rd]

theorem store (hf3 : f3 < 4) (hw : w = encS f3 rs1 rs2 imm.toNat) :
    exec (.coreBaseInstruction p ecc) s = .next (coreGoes (s.modPlank p (fun k =>
      { k with dmem := kputs noByte k.dmem o (leBytes n (s.xreg p rs2).toNat) })) p next) := by
  have h : HasFields w _ _ _ _ _ := hw ▸ hasFields_encS (by omega) imm.toNat
  have himm : immS w = imm.signExtend 64 := hw ▸ immS_encS (by omega) imm
  have hrs2 := h.rs2
  rw [Nat.add_mul_mod_self_right, Nat.mod_eq_of_lt rs2.isLt] at hrs2
  rw [← himm, ← h.rs1] at haddr
  exact turn.goes h.opc (by decide) fun insn => by
    rw [coreExecute_store h.opc h.f3 hf3 hn haddr hinside halign, hrs2]

end
end BaseTurn

/-! ## The writes of CORE_CTL -/

/-- The three commands are bits of one register, which its block takes or ignores as a whole. -/
theorem exec_coreCtl {s : State} {p : PlankId} {w : Writer} (hblock : blockCause s (Reg.CORE_CTL_START p).off = 0) :
    exec (.coreStart p w) s = .next (coreStartOp p s) ∧ exec (.coreReset p w) s = .next (resetCore s p) ∧
      exec (.coreDiscardCtx p w) s = .next (discardCtxOp p s) :=
  ⟨congrArg Host.Outcome.next (regCommand_of_blockCause_zero hblock w _),
    congrArg Host.Outcome.next (regCommand_of_blockCause_zero hblock w _),
    congrArg Host.Outcome.next (regCommand_of_blockCause_zero hblock w _)⟩

/-- Settles O14: each form's word is read back field by field, and what the fields ask for is what the core does. -/
theorem coreControlAndBaseInstructionComplete : Obligations.CoreControlAndBaseInstructionComplete := by
  intro s p w
  refine ⟨exec_coreCtl, ?_⟩
  intro ecc w next rd rs1 rs2 a b imm hready hecc hword ha hb
  have turn : BaseTurn s p ecc w next := ⟨hready, hecc, hword⟩
  subst ha hb
  exact ⟨fun _ _ _ => turn.op, fun _ _ _ => turn.op32, fun _ _ => turn.opImm, turn.shifts, turn.addiw, turn.upper,
    fun _ => turn.jal, turn.jalr, fun _ _ _ => turn.branch, fun _ => turn.fence,
    fun _ _ _ hn haddr hinside halign =>
      ⟨turn.load hn haddr hinside halign, turn.store hn haddr hinside halign⟩⟩

end Sys2Proof.Machine
end

section
/-! PROOFS. A write of PS_MAP (O47): what the new map gives each quad (R229), and that neither the count in WIN_ERR (R444, R446)
nor the trap (R209), of a core that runs or waits, touches it. -/
namespace Sys2Proof.Machine

section
variable {s : State} {p : Nat}

/-! ## The span codes of a map -/

theorem bits_two_eq_digit (x q : Nat) : bits x (2 * q) 2 = x / 4 ^ q % 4 := by
  rw [bits, Nat.shiftRight_eq_div_pow, Nat.pow_mul, show 2 ^ 2 = 4 from rfl]

/-- The number that the codes of n quads make up. -/
def mapOf (c : Nat → Nat) (n : Nat) : Nat := (List.range n).foldl (fun x q => x + c q * 4 ^ q) 0

theorem mapOf_succ (c : Nat → Nat) (n : Nat) : mapOf c (n + 1) = mapOf c n + c n * 4 ^ n := by
  simp [mapOf, List.range_succ]

/-- A map reads back code by code, as any number in base 4 does. -/
theorem bits_mapOf {c : Nat → Nat} (hc : ∀ q, c q < 4) (n : Nat) :
    mapOf c n < 4 ^ n ∧ ∀ q, q < n → bits (mapOf c n) (2 * q) 2 = c q := by
  induction n with
  | zero => exact ⟨Nat.one_pos, fun _ h => absurd h (Nat.not_lt_zero _)⟩
  | succ n ih =>
    obtain ⟨hlt, hdigit⟩ := ih
    rw [mapOf_succ, pow_succ]
    refine ⟨by nlinarith [hc n], fun q hq => ?_⟩
    rcases Nat.lt_succ_iff_lt_or_eq.mp hq with hlow | rfl
    · obtain ⟨k, rfl⟩ := Nat.exists_eq_add_of_lt hlow
      have hterm : c (q + k + 1) * 4 ^ (q + k + 1) = 4 ^ q * (4 * (c (q + k + 1) * 4 ^ k)) := by ring
      rw [← hdigit q hlow, bits_two_eq_digit, bits_two_eq_digit, hterm, Nat.add_mul_div_left _ _ (Nat.pow_pos (by decide)),
        Nat.add_mul_mod_self_left]
    · rw [bits_two_eq_digit, Nat.add_mul_div_right _ _ (Nat.pow_pos (by decide)), Nat.div_eq_of_lt hlt, Nat.zero_add,
        Nat.mod_eq_of_lt (hc q)]

/-- Under a new map a quad has the map's code. -/
theorem spanCode_setSpans (w : s.Wf) {map : Nat} (hmap : map < 4 ^ 8) (q : Nat) :
    spanCode (setSpans s p map) p q = bits map (2 * q) 2 := by
  have hread : (setSpans s p map).rget (Reg.PS_MAP_SPAN p) = map := by
    unfold setSpans
    split
    next hsame => exact hsame.symm
    next => exact (rget_rset w (by decide : 15 < 64) map).trans (Nat.mod_eq_of_lt hmap)
  rw [spanCode, hread]

theorem rget_setSpans (w : s.Wf) (map : Nat) {f : RegF} (h : f.off ≠ (Reg.PS_MAP_SPAN p).off) :
    (setSpans s p map).rget f = s.rget f := by
  unfold setSpans
  split
  · rfl
  · exact rget_rset_apart w (by decide : 15 < 64) (.inl h) map

/-! ## The write -/

/-- Quad q would change, and may not. -/
def QuadRefused (s : State) (p : Nat) (v : Word64) (q : Nat) : Prop :=
  bits v.toNat (2 * q) 2 ≠ spanCode s p q ∧ ∃ i, i < 4 ∧ bankOwner s p (4 * q + i) ≠ ownCore

/-- The code of quad q after the write. -/
def quadAfter (s : State) (p : Nat) (v : Word64) (q : Nat) : Nat :=
  if ∀ i, i < 4 → bankOwner s p (4 * q + i) = ownCore then bits v.toNat (2 * q) 2 else spanCode s p q

/-- The map after the write. -/
def mapAfter (s : State) (p : Nat) (v : Word64) : Nat := mapOf (quadAfter s p v) 8

/-- The state after the count of a refused quad. -/
def quadCounted (s : State) (p : Nat) (src : Nat) : State := winErr s 3 src (Reg.PS_MAP_SPAN p).off

/-- An active core then traps (R229). -/
def quadFault (s : State) (p insn src : Nat) : State :=
  if coreActive (quadCounted s p src) p then coreTrap (quadCounted s p src) p 26 1 insn 0 else quadCounted s p src

theorem spanCode_mapAfter (w : s.Wf) (v : Word64) {q : Nat} (hq : q < 8) :
    spanCode (setSpans s p (mapAfter s p v)) p q = quadAfter s p v q := by
  have hcodes (q : Nat) : quadAfter s p v q < 4 := by
    unfold quadAfter
    split <;> exact bits_lt ..
  obtain ⟨hlt, hdigit⟩ := bits_mapOf hcodes 8
  exact (spanCode_setSpans w hlt q).trans (hdigit q hq)

/-- The write of the model, quad by quad: the new map, and the fault when a quad is refused. -/
theorem psMapWrite_fst (v : Word64) (insn src : Nat) :
    (∀ q, q < 8 → ¬ QuadRefused s p v q) ∧ (psMapWrite s p v insn src).1 = setSpans s p (mapAfter s p v) ∨
      (psMapWrite s p v insn src).1 = quadFault (setSpans s p (mapAfter s p v)) p insn src := by
  have howned (q : Nat) : (List.range 4).all (fun i => bankOwner s p (4 * q + i) == ownCore) = true ↔
      ∀ i, i < 4 → bankOwner s p (4 * q + i) = ownCore := by
    simp only [List.all_eq_true, List.mem_range, beq_iff_eq]
  unfold psMapWrite
  dsimp only
  rw [List.foldl_ext _ (fun x q => x + quadAfter s p v q * 4 ^ q) 0 ?map]
  case map =>
    intro n q hq
    by_cases hall : ∀ i, i < 4 → bankOwner s p (4 * q + i) = ownCore
    · by_cases hsame : bits v.toNat (2 * q) 2 = spanCode s p q
      · simp [quadAfter, hsame]
      · simp [quadAfter, hsame, List.mem_range.mp hq]
    · simp only [quadAfter, howned q, hall, Bool.and_eq_true, and_false, if_false]
  split
  next hquads =>
    refine .inl ⟨fun q hq ⟨hchange, i, hi, hother⟩ => ?_, rfl⟩
    have hmem := List.all_eq_true.mp hquads q (List.mem_filter.mpr ⟨List.mem_range.mpr hq, bne_iff_ne.mpr hchange⟩)
    exact hother ((howned q).mp hmem i hi)
  next => exact .inr (by rw [quadFault, quadCounted, mapAfter, mapOf])

/-! ## The fault of a refused quad -/

/-- A counted access writes WIN_ERR and WIN_ERR_ADDR, and WIN_ERR holds its cause (R446). -/
theorem rget_winErr (w : s.Wf) {cause : Nat} (hcause : cause < 16) (src place : Nat) :
    (winErr s cause src place).rget Reg.WIN_ERR_CAUSE = cause ∧ ∀ f : RegF, f.off ≠ Reg.WIN_ERR_COUNT.off →
      f.off ≠ Reg.WIN_ERR_ADDR_OFFSET.off → (winErr s cause src place).rget f = s.rget f := by
  have w1 : (s.rsat Reg.WIN_ERR_COUNT 1).Wf := (keeps_rsat (Keeps.refl s)).wf w
  have w2 : ((s.rsat Reg.WIN_ERR_COUNT 1).rset Reg.WIN_ERR_CAUSE cause).Wf := (keeps_rset (Keeps.refl _)).wf w1
  have w3 := (keeps_rset (f := Reg.WIN_ERR_SRC) (v := src) (Keeps.refl _)).wf w2
  unfold winErr
  refine ⟨?_, fun f hcount haddr => ?_⟩
  · rw [rget_rset_apart w3 (by decide : 43 < 64) (.inl (by decide)),
      rget_rset_apart w2 (by decide : 47 < 64) (.inr (.inl (by decide : 35 < 40))), rget_rset w1 (by decide : 35 < 64)]
    exact Nat.mod_eq_of_lt hcause
  · rw [rget_rset_apart w3 (by decide : 43 < 64) (.inl haddr),
      rget_rset_apart (f := Reg.WIN_ERR_SRC) w2 (by decide : 47 < 64) (.inl hcount),
      rget_rset_apart (f := Reg.WIN_ERR_CAUSE) w1 (by decide : 35 < 64) (.inl hcount), State.rsat,
      rget_rset_apart w (by decide : 31 < 64) (.inl hcount)]

/-- The wait of a core that waits ends before it halts. -/
theorem endWait_ends (w : s.Wf) : (endWait s p).rbit (Reg.WAIT_STATE_WAITING p) = false := by
  unfold endWait
  split
  next hgoing => simpa using hgoing
  next =>
    have wobj (r : ObjRec) : (s.setObj (s.rget (Reg.WAIT_STATE_OBJ p)) r).Wf := (keeps_setObj (Keeps.refl s)).wf w
    rw [State.rbit, rget_modPlank, State.rget, word_setWord (wobj _), if_pos rfl]
    rfl

theorem quiesce_endWait (w : s.Wf) : ((endWait s p).plank p).quiesce = (s.plank p).quiesce := by
  unfold endWait
  split
  · rfl
  · rw [plank_modPlank ((keeps_setWord (keeps_setObj (Keeps.refl s))).wf w), if_pos rfl]
    rfl

theorem rget_endWait (w : s.Wf) {f : RegF} (h : f.off ≠ (Reg.WAIT_STATE_WAITING p).off) : (endWait s p).rget f = s.rget f := by
  unfold endWait
  split
  · rfl
  · rw [rget_modPlank, State.rget, word_setWord ((keeps_setObj (Keeps.refl s)).wf w), if_neg h]
    rfl

/-- So the trap of a core that waits is that of a core that does not. -/
theorem coreTrap_endWait (w : s.Wf) (cause sub insn tval : Nat) :
    coreTrap (endWait s p) p cause sub insn tval = coreTrap s p cause sub insn tval := by
  unfold coreTrap
  rw [endWait_of_not_waiting (endWait_ends w), quiesce_endWait w]

/-- The words that a trap writes beside those of what it files: TRAP_INFO, CORE_STATUS, FILL_PTR and WAIT_STATE. -/
def TrapWord (p off : Nat) : Prop :=
  off = (Reg.TRAP_INFO_CAUSE p).off ∨ off = (Reg.CORE_STATUS_STATE p).off ∨ off = (Reg.FILL_PTR_HEAD p).off ∨
    off = (Reg.WAIT_STATE_WAITING p).off

/-- Whether or not the core waits, a trap leaves every other word. -/
theorem rget_coreTrap (w : s.Wf) {cause : Nat} (hcause : cause ≠ 27) (sub insn tval : Nat) {f : RegF} (hword : ¬ TrapWord p f.off)
    (hfiled : ¬ FiledWord f.off) : (coreTrap s p cause sub insn tval).rget f = s.rget f := by
  simp only [TrapWord, not_or] at hword
  obtain ⟨hinfo, hstatus, hfill, hwait⟩ := hword
  have wend : (endWait s p).Wf := (keeps_endWait (Keeps.refl s)).wf w
  have whalt := (keeps_trapHalt (p := p) (cause := cause) (sub := sub) (insn := insn) (tval := tval)).wf wend
  have horphan := (Files.refl (trapHalt (endWait s p) p cause sub insn tval)).orphanWork
  rw [← coreTrap_endWait w, (files_coreTrap (endWait_ends w) hcause).rget_eq ((horphan ..).wf whalt) hfiled, orphan,
    (horphan ..).rget_eq whalt hfiled, rget_trapHalt wend hfill, setCore,
    rget_rset_apart (wf_trapInfo wend) (by decide : 2 < 64) (.inl hstatus), (rget_trapInfo wend).2.2 f hinfo, rget_endWait w hwait]

end

section
variable {s : State} {p : PlankId}

theorem not_filedWord_winErr : ¬ FiledWord Reg.WIN_ERR_CAUSE.off := by
  rintro (h | h | ⟨e, h⟩ | ⟨b, w, h⟩)
  · exact absurd h (by decide)
  · exact absurd h (by decide)
  · simp only [Reg.PORT_TX_FRAMES, Reg.WIN_ERR_CAUSE, identBase] at h; omega
  · simp only [barOff, syncBase, Reg.WIN_ERR_CAUSE, identBase] at h; omega

/-- WIN_ERR and WIN_ERR_ADDR are no words of a plank's block. -/
theorem plankWord_ne_winErr (i : Nat) : plankBase p + i ≠ Reg.WIN_ERR_COUNT.off ∧ plankBase p + i ≠ Reg.WIN_ERR_ADDR_OFFSET.off := by
  simp only [plankBase, Reg.WIN_ERR_COUNT, Reg.WIN_ERR_ADDR_OFFSET, identBase]
  omega

theorem not_trapWord_winErr : ¬ TrapWord p Reg.WIN_ERR_CAUSE.off := by
  rintro (h | h | h | h) <;> exact (plankWord_ne_winErr _).1 h.symm

theorem not_trapWord_psMap : ¬ TrapWord p (Reg.PS_MAP_SPAN p).off := by
  rintro (h | h | h | h) <;> exact absurd (Nat.add_left_cancel h) (by decide)

/-- The count touches no word of a plank's block. -/
theorem rget_quadCounted (w : s.Wf) (src : Nat) {f : RegF} {i : Nat} (hf : f.off = plankBase p + i) :
    (quadCounted s p src).rget f = s.rget f := by
  obtain ⟨hcount, haddr⟩ := plankWord_ne_winErr (p := p) i
  exact (rget_winErr w (by decide) ..).2 f (hf ▸ hcount) (hf ▸ haddr)

theorem coreActive_quadCounted (w : s.Wf) (src : Nat) : coreActive (quadCounted s p src) p = coreActive s p := by
  have hstate : coreState (quadCounted s p src) p = coreState s p := rget_quadCounted w src (i := 0xA8) rfl
  rw [coreActive, hstate, coreActive]

/-- The fault leaves the codes of the quads. -/
theorem spanCode_quadFault (w : s.Wf) (insn src q : Nat) : spanCode (quadFault s p insn src) p q = spanCode s p q := by
  have wcounted : (quadCounted s p src).Wf := (keeps_winErr (Keeps.refl s)).wf w
  have hcounted : (quadCounted s p src).rget (Reg.PS_MAP_SPAN p) = s.rget (Reg.PS_MAP_SPAN p) :=
    rget_quadCounted w src (i := 0xE0) rfl
  unfold quadFault
  split
  · rw [spanCode, rget_coreTrap wcounted (by decide) _ _ _ not_trapWord_psMap
      (not_filedWord_of_plank p.isLt (by decide) (by decide)), hcounted, spanCode]
  · rw [spanCode, hcounted, spanCode]

/-- The fault is counted with cause 3, and an active core traps with cause 26, sub-code 1. -/
theorem quadFault_shows (w : s.Wf) (insn src : Nat) {t : State} (ht : t = quadFault s p insn src) :
    t.rget Reg.WIN_ERR_CAUSE = 3 ∧ (coreActive s p = true →
      coreState t p = CoreSt.trapped ∧ t.rget (Reg.TRAP_INFO_CAUSE p) = 26 ∧ t.rget (Reg.TRAP_INFO_SUB p) = 1) := by
  have wcounted : (quadCounted s p src).Wf := (keeps_winErr (Keeps.refl s)).wf w
  have hcause : (quadCounted s p src).rget Reg.WIN_ERR_CAUSE = 3 := (rget_winErr w (by decide) ..).1
  rw [quadFault, coreActive_quadCounted w] at ht
  by_cases hactive : coreActive s p = true
  · rw [if_pos hactive] at ht
    subst ht
    obtain ⟨hstate, hcauseIs, hsub, -⟩ := coreTrap_halts ((keeps_endWait (Keeps.refl _)).wf wcounted) (endWait_ends wcounted)
      (by decide : 26 ≠ 27) 1 insn 0 (coreTrap_endWait wcounted ..)
    exact ⟨(rget_coreTrap wcounted (by decide) _ _ _ not_trapWord_winErr not_filedWord_winErr).trans hcause,
      fun _ => ⟨hstate, hcauseIs, hsub⟩⟩
  · rw [if_neg hactive] at ht
    exact ⟨ht ▸ hcause, fun h => absurd h hactive⟩

end

/-- Settles O47: the new map has each quad's code, and the fault of a refused quad leaves the map. -/
theorem psMapChangesOwnedQuadsOnly : Obligations.PsMapChangesOwnedQuadsOnly := by
  intro s p w v hs hblock
  refine ⟨_, exec_psMapWrite hblock w v, ?_⟩
  have hdrew : s.drew.Wf := (keeps_drew (Keeps.refl s)).wf hs
  have hmapped : (setSpans s.drew p (mapAfter s.drew p v)).Wf := (keeps_setSpans (Keeps.refl _)).wf hdrew
  have hactive : coreActive (setSpans s.drew p (mapAfter s.drew p v)) p = coreActive s p := by
    rw [coreActive, coreState, rget_setSpans hdrew _ (off_ne_of_place_ne (i := 0xA8) (j := 0xE0) rfl rfl (by decide))]
    rfl
  rcases psMapWrite_fst (s := s.drew) (p := p) v (s.fresh.toNat % 2 ^ 32) (writerSrc w) with ⟨hnone, hwrite⟩ | hwrite
  · rw [hwrite]
    exact ⟨fun q hq => spanCode_mapAfter hdrew v hq, fun q hq hchange hother => absurd ⟨hchange, hother⟩ (hnone q hq)⟩
  · refine ⟨fun q hq => ?_, fun q _ _ _ => hactive ▸ quadFault_shows hmapped _ _ hwrite⟩
    rw [hwrite, spanCode_quadFault hmapped]
    exact spanCode_mapAfter hdrew v hq

end Sys2Proof.Machine
end

section
/-! PROOFS. The commands of a stack (O18): when a slot serves and when it passes idle (R217, R218), and what refresh, calibration,
training and a temperature read do past their guards (R221 to R224, R233). -/
namespace Sys2Proof.Machine

section
variable {s : State} {m : StackId} {c : PcId}

/-! ## Slots (R217, R218) -/

/-- The owner of the slot that a pseudo-channel has come to. -/
abbrev slotOwner (s : State) (m c : Nat) : Nat := shareOwner s m c ((getPc s m c).slot % 200)

/-- The row of the open bank that an HBM offset names, if one is open. -/
abbrev openRow (x : Pc) (off : Nat) : Option Nat := (x.rows.find? (fun e => e.1 == hbmBank off)).map (·.2)

/-- A request that the slot may not take: its bank is under refresh, or its row is opened too soon after another. -/
def bankHolds (x : Pc) (q : HbmReq) : Bool :=
  x.refresh.any (fun e => e.1 == hbmBank q.off) || openRow x q.off != some (hbmRow q.off) && decide (x.sinceAct < 3)

/-- A request that reverses the direction, of an owner that has not passed a slot for it. -/
def reverses (x : Pc) (owner : Nat) (q : HbmReq) : Bool :=
  (match x.lastWrite with
    | some w => w != q.write
    | none => false) && !x.turned.contains owner

theorem bankHolds_eq_false_iff {x : Pc} {q : HbmReq} : bankHolds x q = false ↔
    (∀ e ∈ x.refresh, e.1 ≠ hbmBank q.off) ∧ (openRow x q.off = some (hbmRow q.off) ∨ 3 ≤ x.sinceAct) := by
  simp [bankHolds, or_iff_not_imp_left]

theorem reverses_eq_false_iff {x : Pc} {owner : Nat} {q : HbmReq} : reverses x owner q = false ↔
    x.lastWrite = none ∨ x.lastWrite = some q.write ∨ owner ∈ x.turned := by
  unfold reverses
  cases x.lastWrite <;> simp [or_iff_not_imp_left]

theorem exec_slotServe_idle (ecc : Ecc) (hserves : stackServes s m = true)
    (hidle : inSlice (getPc s m c) c = true ∨ kget (fun _ => []) (getPc s m c).queues (slotOwner s m c) = []) :
    exec (.slotServe m c ecc) s = .next (setPcState s m c (slotPasses (getPc s m c))) := by
  rcases hidle with hslice | hempty
  · simp [exec, execSlotServe, hserves, hslice]
  · simp [exec, execSlotServe, hserves, hempty]

/-- The slot of an owner with a request, outside the calibration slice. -/
theorem exec_slotServe_request {q : HbmReq} {rest : List HbmReq} (ecc : Ecc) (hserves : stackServes s m = true)
    (hslice : inSlice (getPc s m c) c = false)
    (hqueue : kget (fun _ => []) (getPc s m c).queues (slotOwner s m c) = q :: rest) :
    exec (.slotServe m c ecc) s = .next (
      if bankHolds (getPc s m c) q || reverses (getPc s m c) (slotOwner s m c) q then
        setPcState s m c { slotPasses (getPc s m c) with
          turned := if reverses (getPc s m c) (slotOwner s m c) q then slotOwner s m c :: (getPc s m c).turned
            else (getPc s m c).turned }
      else slotTakes s m c (slotOwner s m c) q rest ecc) := by
  simp only [exec, execSlotServe, hserves, hslice, hqueue]
  rfl

/-- The slot takes the oldest request when its bank is free, its row is open or may be opened, and the direction stands or has been
waited for. -/
theorem exec_slotServe_takes {q : HbmReq} {rest : List HbmReq} (ecc : Ecc) (hserves : stackServes s m = true)
    (hslice : inSlice (getPc s m c) c = false)
    (hqueue : kget (fun _ => []) (getPc s m c).queues (slotOwner s m c) = q :: rest)
    (hbank : ∀ e ∈ (getPc s m c).refresh, e.1 ≠ hbmBank q.off)
    (hrow : openRow (getPc s m c) q.off = some (hbmRow q.off) ∨ 3 ≤ (getPc s m c).sinceAct)
    (hturn : (getPc s m c).lastWrite = none ∨ (getPc s m c).lastWrite = some q.write ∨ slotOwner s m c ∈ (getPc s m c).turned) :
    exec (.slotServe m c ecc) s = .next (slotTakes s m c (slotOwner s m c) q rest ecc) := by
  rw [exec_slotServe_request ecc hserves hslice hqueue, bankHolds_eq_false_iff.mpr ⟨hbank, hrow⟩, reverses_eq_false_iff.mpr hturn]
  rfl

/-- A bank that holds the request back leaves the slot idle. -/
theorem exec_slotServe_held {q : HbmReq} {rest : List HbmReq} (ecc : Ecc) (hserves : stackServes s m = true)
    (hslice : inSlice (getPc s m c) c = false)
    (hqueue : kget (fun _ => []) (getPc s m c).queues (slotOwner s m c) = q :: rest)
    (hturn : (getPc s m c).lastWrite = none ∨ (getPc s m c).lastWrite = some q.write ∨ slotOwner s m c ∈ (getPc s m c).turned)
    (hheld : (∃ e ∈ (getPc s m c).refresh, e.1 = hbmBank q.off) ∨
      (openRow (getPc s m c) q.off ≠ some (hbmRow q.off) ∧ (getPc s m c).sinceAct < 3)) :
    exec (.slotServe m c ecc) s = .next (setPcState s m c (slotPasses (getPc s m c))) := by
  have hbank : bankHolds (getPc s m c) q = true := by simpa [bankHolds] using hheld
  rw [exec_slotServe_request ecc hserves hslice hqueue, hbank, reverses_eq_false_iff.mpr hturn]
  rfl

/-- The first slot of a request that reverses the direction is idle, and its owner has then passed one. -/
theorem exec_slotServe_turns {q : HbmReq} {rest : List HbmReq} (ecc : Ecc) (hserves : stackServes s m = true)
    (hslice : inSlice (getPc s m c) c = false)
    (hqueue : kget (fun _ => []) (getPc s m c).queues (slotOwner s m c) = q :: rest)
    (hother : (getPc s m c).lastWrite = some (!q.write)) (hnew : slotOwner s m c ∉ (getPc s m c).turned) :
    exec (.slotServe m c ecc) s = .next (setPcState s m c { slotPasses (getPc s m c) with
      turned := slotOwner s m c :: (getPc s m c).turned }) := by
  have hturns : reverses (getPc s m c) (slotOwner s m c) q = true := by simp [reverses, hother, hnew]
  rw [exec_slotServe_request ecc hserves hslice hqueue, hturns, Bool.or_true]
  rfl

/-! ## Refresh, calibration and training (R221 to R224, R233) -/

theorem exec_bankRefresh (bank : Fin 64) (slots : Nat) (hserves : stackServes s m = true) :
    exec (.bankRefresh m c bank slots) s = .next (setPcState s m c { getPc s m c with
      rows := (getPc s m c).rows.filter (fun e => e.1 != bank.val)
      refresh := if slots = 0 then (getPc s m c).refresh
        else (bank.val, slots) :: (getPc s m c).refresh.filter (fun e => e.1 != bank.val) }) := by
  simp only [exec, execBankRefresh, hserves]
  rfl

theorem exec_calibrationSlice (ecc : List Ecc) (laneBits : BitVec 32) (hserves : stackServes s m = true)
    (hslice : inSlice (getPc s m c) c = true) :
    exec (.calibrationSlice m c ecc laneBits) s = .next (calSlice s m c ecc laneBits) := by
  simp [exec, execCalibrationSlice, hserves, hslice]

/-- A stack that does not serve measures the points of a sweep all the same. -/
theorem exec_calibrationSlice_margin (ecc : List Ecc) (laneBits : BitVec 32) (hserves : stackServes s m = false)
    (hpoints : (getPc s m c).points ≠ []) : exec (.calibrationSlice m c ecc laneBits) s =
      .next (marginEnd (setPcState s m c (marginPoint (getPc s m c) laneBits)) m c) := by
  simp [exec, execCalibrationSlice, hserves, hpoints]

theorem exec_calPeriodExpiry (hserves : stackServes s m = true) (hperiod : s.rget (Reg.CAL_CTL_CAL_PERIOD m) ≠ 0) :
    exec (.calPeriodExpiry m) s = .next (retrainAll s m) := by
  simp [exec, execCalPeriodExpiry, hserves, hperiod]

theorem exec_calRetrain (w : Writer) (hblock : blockCause s (Reg.CAL_CTL_RETRAIN m).off = 0) (hserves : stackServes s m = true) :
    exec (.calRetrain m w) s = .next (retrainAll s m) := by
  simp only [exec, execCalRetrain, regCommand_of_blockCause_zero hblock, hserves]
  rfl

/-- The last slice of a training ends it. -/
theorem exec_retrainComplete (dqLo dqHi vrefLo vrefHi dq vref : BitVec 7) (hlast : (getPc s m c).train = 1) :
    exec (.retrainComplete m c dqLo dqHi vrefLo vrefHi dq vref) s =
      .next (retrainDone s m c dqLo dqHi vrefLo vrefHi dq vref) := by
  simp [exec, execRetrainComplete, hlast]

end

/-- Settles O18: the slot by what holds its oldest request back, and the other commands past their guards. -/
theorem stackCommandsComplete : Obligations.StackCommandsComplete := fun _ _ _ =>
  ⟨fun ecc _ _ => exec_slotServe_takes ecc, exec_slotServe_idle,
    fun ecc _ _ hserves hslice hqueue =>
      ⟨exec_slotServe_held ecc hserves hslice hqueue, exec_slotServe_turns ecc hserves hslice hqueue⟩,
    exec_bankRefresh, exec_calibrationSlice, exec_calibrationSlice_margin, exec_calPeriodExpiry, exec_calRetrain,
    exec_retrainComplete, fun _ => rfl⟩

end Sys2Proof.Machine
end

section
/-! PROOFS. The verbs on the fabric, the keys, the streams of hosts and the window (O33): each accepted verb past its own conditions
(R224, R253, R258, R259, R264, R380, R382, R439, R444). -/
namespace Sys2Proof.Machine

section
variable {s a : State} {rq : Req} {n : Nat} {x : Session}

/-! ## POKE (R380, R440, R444) -/

/-- The answer to a POKE names the first word that was ignored. -/
theorem exec_poke {off : BitVec 64} {data : List Byte} {r : State × Option Nat}
    (h : Accepted s rq { code := 0x11, inHold := true, operator := true } n x a) (hlen : 8 ≤ data.length)
    (hwhole : data.length % 8 = 0) (haligned : off.toNat % 8 = 0) (hin : inWindow off.toNat = true)
    (hend : off.toNat + data.length ≤ 2 ^ 44)
    (hr : r = pokeWords (.host n (if rq.port.val < 4 then 0 else 1)) (a.fresh.toNat % 2 ^ 32) (payloadWords data) off.toNat 0
      (a.drew, none)) :
    (r.2 = none → exec (.poke rq off data) s = .next (respond r.1 rq 0x11 (.done []))) ∧
      (∀ i, r.2 = some i → exec (.poke rq off data) s = .next (respond r.1 rq 0x11 (.refused i))) := by
  have hwell : (decide (data.length < 8) || decide (data.length % 8 ≠ 0) || decide (off.toNat % 8 ≠ 0)) = false := by
    simp [Nat.not_lt.mpr hlen, hwhole, haligned]
  have hinside : (!inWindow off.toNat || decide (2 ^ 44 < off.toNat + data.length)) = false := by
    simpa [hin] using hend
  refine ⟨fun hall => ?done, fun i hignored => ?refused⟩
  all_goals
    simp only [exec, execPoke, answerVerb_of_accepted h, h.session, Option.getD_some, hwell, hinside, ← hr]
  case done => simp [hall]
  case refused => simp [hignored]

/-! ## DRAIN_FABRIC, TABLE_LOAD, UNDRAIN (R253, R258, R259) -/

theorem exec_drainFabric (h : Accepted s rq { code := 0x30, operator := true } n x a) :
    ∃ b, b = (if a.rget (Reg.FAB_STATUS_MODE 0) = 0 then drainAgain.startDrain a else a) ∧
      exec (.drainFabric rq) s = .next (respond b rq 0x30 (.done (be 1 (b.rget (Reg.FAB_STATUS_MODE 0))))) :=
  ⟨_, rfl, congrArg Host.Outcome.next (answerVerb_of_accepted h _)⟩

theorem exec_undrain (h : Accepted s rq { code := 0x32, operator := true } n x a) :
    exec (.undrain rq) s = .next (respond
      ((List.range 12).foldl (fun s d => s.rset (Reg.FAB_STATUS_MODE d) 0) a) rq 0x32 (.done [])) :=
  congrArg Host.Outcome.next (answerVerb_of_accepted h _)

/-- A whole image that fits the chip, while the fabric is Drained. -/
theorem exec_tableLoad {image : List Byte} (h : Accepted s rq { code := 0x31, operator := true } n x a)
    (hlen : image.length = 5184) (hdrained : a.rget (Reg.FAB_STATUS_MODE 0) = 2)
    (hrouting : routingOk image (a.rget Reg.CHIP_ID_HUMMOCK) (a.rget Reg.CHIP_ID_MEMBER) = true) :
    exec (.tableLoad rq image) s = .next (respond (takeTable a image) rq 0x31 (.done [])) := by
  simp [exec, execTableLoad, answerVerb_of_accepted h, hlen, hdrained, hrouting]

/-! ## PATTERN and MARGIN (R224, R264) -/

theorem exec_pattern {lc : BitVec 8} {unit : BitVec 16} {lane gen chk : BitVec 8} {user : BitVec 64} {action : BitVec 8}
    {r : Answer × State} (h : Accepted s rq { code := 0x61, inHold := true, operator := true } n x a) (hclass : lc.toNat < 4)
    (hgen : gen.toNat < 8) (hchk : chk.toNat < 8) (haction : action.toNat < 3)
    (hlane : laneExists lc.toNat unit.toNat lane.toNat = true)
    (hr : r = (if lc = 0 then patternFabric unit.toNat lane.toNat gen.toNat chk.toNat user action.toNat a
      else patternOther lc.toNat unit.toNat lane.toNat gen.toNat chk.toNat user action.toNat a)) :
    exec (.pattern rq lc unit lane gen chk user action) s = .next (respond r.2 rq 0x61 r.1) := by
  have hwell : (decide (4 ≤ lc.toNat) || decide (8 ≤ gen.toNat) || decide (8 ≤ chk.toNat) || decide (3 ≤ action.toNat)
      || !laneExists lc.toNat unit.toNat lane.toNat) = false := by
    simp [Nat.not_le.mpr hclass, Nat.not_le.mpr hgen, Nat.not_le.mpr hchk, Nat.not_le.mpr haction, hlane]
  simp only [exec, execPattern, answerVerb_of_accepted h, hwell, hr]
  rfl

/-- The sweep begins; its answer comes when it is over. -/
theorem exec_margin {m : BitVec 8} {pcs : BitVec 64} {param first last stride : BitVec 8}
    (h : Accepted s rq { code := 0x60, inHold := true, inMire := true, operator := true } n x a) (hm : m.toNat < 16)
    (hparam : param.toNat < 4) (hpcs : pcs ≠ 0) (hpoints : sweepPoints first last stride ≠ []) (hfree : a.net.margin = none) :
    exec (.margin rq m pcs param first last stride) s = .next (keep
      (startMargin rq m.toNat pcs param.toNat (sweepPoints first last stride) a) n rq.reqId none) := by
  have hwell : (decide (16 ≤ m.toNat) || decide (4 ≤ param.toNat) || decide (pcs = 0)
      || (sweepPoints first last stride).isEmpty) = false := by
    simpa [Nat.not_le.mpr hm, Nat.not_le.mpr hparam, hpoints] using hpcs
  simp only [exec, execMargin, runVerb_of_accepted h, hwell, hfree]
  rfl

/-! ## KEY_DELIVER (R382) -/

/-- Keys that are wrapped for the report in force. -/
theorem exec_keyDeliver {reportId : BitVec 64} {ct : List Byte} {entries : List (List Byte)} {r : Report} {y : Nat × State}
    (h : Accepted s rq { code := 0x70, operator := true } n x a) (hct : ct.length = 1568) (hcount : entries.length ≤ 65535)
    (hentries : ∀ e ∈ entries, e.length = 64) (hreport : a.net.report = some r) (hstale : r.stale = false)
    (hid : r.id = reportId.toNat)
    (hy : y = entries.foldl (takeKey (Config.kmac256 (Config.kemDecaps r.dk ct) (Config.sha3_512 r.bytes) 256
      (ascii "EXM-T40 KEY WRAP"))) (0, a)) :
    exec (.keyDeliver rq reportId ct entries) s = .next (respond y.2 rq 0x70 (.done (be 2 y.1))) := by
  have hwell : (decide (ct.length ≠ 1568) || decide (65535 < entries.length) || entries.any (fun e => e.length != 64)) = false := by
    simpa [hct, hcount] using hentries
  simp only [exec, execKeyDeliver, answerVerb_of_accepted h, hwell, hreport, ← hy]
  simp [hstale, hid]

/-! ## STREAM_OPEN and STREAM_CLOSE (R380, R439) -/

theorem exec_streamOpen {payload : List Byte} (h : Accepted s rq { code := 0x71, operator := true } n x a)
    (hlen : payload.length = 88) (hjob : (parseOpen payload).job = 0xFFFF ∨ (findJob a (parseOpen payload).job).isSome = true)
    (hopen : openRefused a payload (parseOpen payload) = false) :
    exec (.streamOpen rq payload) s = .next (respond (openStream a n (parseOpen payload)) rq 0x71 (.done [])) := by
  have hfound : (decide ((parseOpen payload).job ≠ 0xFFFF) && (findJob a (parseOpen payload).job).isNone) = false := by
    rcases hjob with hnone | hsome
    · simp [hnone]
    · simp [Option.isNone_eq_false_iff.mpr hsome]
  simp only [exec, execStreamOpen, answerVerb_of_accepted h, hlen, hfound, hopen, h.session]
  rfl

/-- An ended stream is not Idle, so that the request finds it. -/
theorem exec_streamClose {stream : BitVec 16} (h : Accepted s rq { code := 0x72, operator := true } n x a)
    (hended : streamEnded a stream.toNat = true) :
    exec (.streamClose rq stream) s = .next (respond (closeStream a stream.toNat) rq 0x72 (.done [])) := by
  have hfound : streamState a stream.toNat ≠ St.idle := by
    intro hidle
    rw [streamState] at hidle
    rw [streamEnded, hidle] at hended
    exact absurd hended (by decide)
  simp [exec, execStreamClose, answerVerb_of_accepted h, hfound, hended]

end

/-- Settles O33: each verb past its own conditions. -/
theorem otherVerbsComplete : Obligations.OtherVerbsComplete := fun _ _ _ _ _ =>
  ⟨fun _ _ _ => exec_poke, exec_drainFabric, fun _ => exec_tableLoad, exec_undrain, fun _ _ _ _ _ _ _ _ => exec_pattern,
    fun _ _ _ _ _ _ => exec_margin, fun _ _ _ _ _ => exec_keyDeliver, fun _ => exec_streamOpen, fun _ => exec_streamClose⟩

end Sys2Proof.Machine
end

section
/-! PROOFS. The links of the fabric (O20): a frame past the checks of its receiver, the states that training and identification
lead through, and the writes of LINK_CTL (R239, R241 to R244, R258). -/
namespace Sys2Proof.Machine

section
variable {s t : State} {l : LinkId}

/-! ## Frames and markers (R240 to R242, R258) -/

/-- An Active link takes a frame whose codewords, CRC and sequence number are right. -/
theorem exec_frameReceive {f : Frame} {idle : Bool} {c : BitVec 32} (hactive : linkState s l = LinkSt.active)
    (ht : t = s.radd (Reg.LINK_FEC_CORR (l / 4) (l % 4)) c.toNat) (hcrc : fget f.ctl Ctl.CRC = (frameCrc f).toNat)
    (hidle : idle = (List.range 4).all (fun i => slotLane f.ctl i == 7))
    (hseq : fget f.ctl Ctl.SEQ = (if idle then (getLink t l).rxSeq else ((getLink t l).rxSeq + 1) % 512)) :
    exec (.frameReceive l f true c) s = .next (frameTaken t l f idle) := by
  subst ht hidle
  simp [exec, execFrameReceive, hactive, hcrc, hseq]

/-- The echo of a marker is due when its pools are empty and no head received before it is left. -/
theorem exec_markerEcho {e : EchoWait} {es : List EchoWait} (hwait : (getLink s l).echoWait = e :: es) (hpools : e.pools = [])
    (hheads : ∀ h ∈ s.fab.heads, h.id ∉ e.heads) :
    exec (.markerEcho l) s = .next (setLink s l { getLink s l with
      echoWait := es
      echoDue := (getLink s l).echoDue + 1 }) := by
  have hgone : s.fab.heads.any (fun h => e.heads.contains h.id) = false := by simpa using hheads
  simp only [exec, execMarkerEcho, hwait, hpools, hgone]
  rfl

/-! ## Training, identification and the loss of a link (R243, R244) -/

theorem exec_linkTrainingDone (htraining : isTraining s l = true)
    (ht : t = modLink (setLinkState s l LinkSt.identify) l (fun x => { x with failed := 0 })) :
    exec (.linkTrainingDone l) s = .next { t with out := .identity l (chipNo t) l :: t.out } := by
  subst ht
  simp [exec, execLinkTrainingDone, htraining]

/-- A first or second failure in a row begins the training anew. -/
theorem exec_linkTrainingTimeout_again (htraining : isTraining s l = true) (hfew : (getLink s l).failed < 2) :
    exec (.linkTrainingTimeout l) s = .next
      (enterDown (modLink s l (fun x => { x with failed := (getLink s l).failed + 1 })) l) := by
  have hcount : ¬ 3 ≤ (getLink s l).failed + 1 := by omega
  simp [exec, execLinkTrainingTimeout, htraining, hcount]

/-- The third failure in a row is filed. -/
theorem exec_linkTrainingTimeout_failed (htraining : isTraining s l = true) (hmany : 2 ≤ (getLink s l).failed) :
    exec (.linkTrainingTimeout l) s = .next
      (fileError ((setLinkState (modLink s l (fun x => { x with failed := (getLink s l).failed + 1 })) l
        LinkSt.failed).rsat (Reg.LINK_RETRY_FAILS (l / 4) (l % 4)) 1) 2 l 0 0 0 0) := by
  have hcount : 3 ≤ (getLink s l).failed + 1 := by omega
  simp [exec, execLinkTrainingTimeout, htraining, hcount]

theorem exec_linkIdentify (chip : BitVec 14) (peer : BitVec 6) (hidentify : linkState s l = LinkSt.identify) :
    exec (.linkIdentify l chip peer) s = .next (identified s l chip peer) := by
  simp [exec, execLinkIdentify, hidentify]

theorem exec_codewordLockLost (hactive : linkState s l = LinkSt.active) :
    exec (.codewordLockLost l) s = .next (enterTraining (leaveActive s l) l) := by
  simp [exec, execCodewordLockLost, hactive]

theorem exec_linkLossTimeout (hlost : (getLink s l).lost = true) (hdown : linkState s l ≠ LinkSt.active) :
    exec (.linkLossTimeout l) s = .next (linkLost s l) := by
  simp [exec, execLinkLossTimeout, hlost, hdown]

/-! ## LINK_CTL (R243, R264) -/

/-- A link die that takes the write leaves LINK_CTL its effect. -/
theorem linkCtl_of_blockCause_zero (hb : blockCause s (Reg.LINK_CTL_DISABLE (l / 4) (l % 4)).off = 0) (w : Writer)
    (act : State → State) : linkCtl s w l act = act s :=
  regCommand_of_blockCause_zero hb w act

theorem exec_linkDisable (hb : blockCause s (Reg.LINK_CTL_DISABLE (l / 4) (l % 4)).off = 0) (w : Writer) (on : Bool) :
    exec (.linkDisable l w on) s = .next (linkDisableOp l on s) :=
  congrArg Host.Outcome.next (linkCtl_of_blockCause_zero hb w _)

theorem exec_linkRetrain (hb : blockCause s (Reg.LINK_CTL_DISABLE (l / 4) (l % 4)).off = 0) (w : Writer) :
    exec (.linkRetrain l w) s = .next (linkRetrainOp l s) :=
  congrArg Host.Outcome.next (linkCtl_of_blockCause_zero hb w _)

theorem exec_linkTest (hb : blockCause s (Reg.LINK_CTL_DISABLE (l / 4) (l % 4)).off = 0) (w : Writer) (on : Bool) :
    exec (.linkTest l w on) s = .next (linkTestOp l on s) :=
  congrArg Host.Outcome.next (linkCtl_of_blockCause_zero hb w _)

end

/-- Settles O20: each command past the conditions that its rule above names. -/
theorem linkCommandsComplete : Obligations.LinkCommandsComplete := fun _ _ w =>
  ⟨fun _ _ _ _ => exec_frameReceive, fun _ => exec_linkTrainingDone, exec_linkTrainingTimeout_again,
    exec_linkTrainingTimeout_failed, exec_linkIdentify, exec_codewordLockLost, exec_linkLossTimeout,
    fun hb => ⟨exec_linkDisable hb w, exec_linkRetrain hb w, exec_linkTest hb w⟩, fun _ _ => exec_markerEcho⟩

end Sys2Proof.Machine
end

section
/-! PROOFS. The routers of the link dies (O21): a head is routed when nothing holds it back, a port moves what its state lets it
move, and a fabric in which nothing is under way is drained (R245, R249, R255 to R258, R264). -/
namespace Sys2Proof.Machine

section
variable {s t : State} {d : LinkDieId}

/-! ## Packet heads (R245, R255) -/

section
variable {i : Nat} {h : Head}

/-- A TYPE of Table 10-5 is not one of the reserved ones. -/
theorem type_not_reserved {ty : Nat} (hlo : 1 ≤ ty) (hhi : ty ≤ 8) : ¬ (ty = 0 ∨ 8 < ty) := by
  omega

/-- A chosen link is kept while it is Active. -/
theorem exec_packetHeadRoute_cross {l : Nat} (hhead : (dieHeads s d)[i]? = some h) (hfree : h.granted = false)
    (hgoes : heldBack s h = false) (hlo : 1 ≤ fget h.pkt.hdr Pk.TYPE) (hhi : fget h.pkt.hdr Pk.TYPE ≤ 8)
    (hlink : h.link = some l) (hactive : linkActive s l = true) :
    exec (.packetHeadRoute d i) s = .next (crossHead s h l) := by
  simp [exec, execPacketHeadRoute, hhead, hfree, hgoes, type_not_reserved hlo hhi, hlink, hactive]

/-- A head with no link, or one that is Active no longer, is routed anew. -/
theorem exec_packetHeadRoute_route (hhead : (dieHeads s d)[i]? = some h) (hfree : h.granted = false)
    (hgoes : heldBack s h = false) (hlo : 1 ≤ fget h.pkt.hdr Pk.TYPE) (hhi : fget h.pkt.hdr Pk.TYPE ≤ 8)
    (hdown : ∀ l, h.link = some l → linkActive s l = false) :
    exec (.packetHeadRoute d i) s = .next (takeRoute s h (routeHead s d h.pkt.hdr)) := by
  have hreserved := type_not_reserved hlo hhi
  cases hlink : h.link with
  | none => simp [exec, execPacketHeadRoute, hhead, hfree, hgoes, hreserved, hlink]
  | some l => simp [exec, execPacketHeadRoute, hhead, hfree, hgoes, hreserved, hlink, hdown l hlink]

/-- A head of a reserved TYPE is dropped and counted. -/
theorem exec_packetHeadRoute_reserved (hhead : (dieHeads s d)[i]? = some h) (hfree : h.granted = false)
    (hgoes : heldBack s h = false) (htype : fget h.pkt.hdr Pk.TYPE = 0 ∨ 8 < fget h.pkt.hdr Pk.TYPE) :
    exec (.packetHeadRoute d i) s = .next
      ((freePool (dropHead s h.id) h (packetFlits h.pkt.hdr)).radd (Reg.ROUTER_DROP_BADPKT d) 1) := by
  simp [exec, execPacketHeadRoute, hhead, hfree, hgoes, htype]

/-- A head on a normal lane whose route is to wait goes on with its header on the causeway lane. -/
theorem exec_causewayThreshold {hdr : BitVec 512} (hhead : (dieHeads s d)[i]? = some h) (hfree : h.granted = false)
    (hgoes : heldBack s h = false) (hlane : fget h.pkt.hdr Pk.LANE ≠ 4) (hwaits : routeHead s d h.pkt.hdr = .wait)
    (hhdr : hdr = fset h.pkt.hdr Pk.LANE 4) :
    ∃ t, t = (modHead s h.id (fun h => { h with
        pkt := { h.pkt with hdr := hdr }
        link := none
        out := none })).radd (Reg.CW_COUNT_COUNT d) 1 ∧
      exec (.causewayThreshold d i) s = .next (takeRoute t { h with
        pkt := { h.pkt with hdr := hdr }
        link := none
        out := none } (routeHead t d hdr)) := by
  subst hhdr
  refine ⟨_, rfl, ?_⟩
  simp [exec, execCausewayThreshold, hhead, hfree, hgoes, hlane, hwaits]

end

/-! ## Output ports and pattern checkers (R257, R264) -/

theorem exec_outputPortCycle_mesh {k : LinkDieId} (hnext : meshNeighbour d k = true) :
    exec (.outputPortCycle d (.mesh k)) s = .next (meshCycle (tableTaken s d) d k) := by
  simp [exec, execOutputPortCycle, hnext]

theorem exec_outputPortCycle_test {j : Fin 4} (ht : t = tableTaken s d)
    (htest : linkState t (4 * d.val + j.val) = LinkSt.test) : exec (.outputPortCycle d (.link j)) s =
      .next (sendPattern (sendPattern t (4 * d.val + j.val) 0) (4 * d.val + j.val) 1) := by
  subst ht
  simp [exec, execOutputPortCycle, htest]

/-- An Active link is not in Test, so it moves flits and no patterns. -/
theorem exec_outputPortCycle_link {j : Fin 4} (ht : t = tableTaken s d)
    (hactive : linkActive t (4 * d.val + j.val) = true) :
    exec (.outputPortCycle d (.link j)) s = .next (linkCycle t d j) := by
  subst ht
  have hstate : linkState (tableTaken s d) (4 * d.val + j.val) = LinkSt.active := eq_of_beq hactive
  have hnotest : LinkSt.active ≠ LinkSt.test := by decide
  simp [exec, execOutputPortCycle, hactive, hstate, hnotest]

theorem exec_patternCheckerLock {l : LinkId} {lane : Fin 2} {bits : List Bool} {x y : LaneTest}
    (htest : linkState s l = LinkSt.test) (hchk : s.rget (Reg.PAT_CTL_CHK (l / 4) (l % 4) lane) ≠ 0)
    (hx : x = { fabricLane s l lane with
      lock := s.rbit (Reg.PAT_ERR_LOCK (l / 4) (l % 4) lane)
      errors := 0
      bits := 0 })
    (hy : y = bits.foldl (checkBit (s.rget (Reg.PAT_CTL_CHK (l / 4) (l % 4) lane))
      (s.word (Reg.PAT_USER_USER (l / 4) (l % 4) lane).off)) x)
    (ht : t = ((s.rset (Reg.PAT_ERR_LOCK (l / 4) (l % 4) lane) (boolNat y.lock)).radd
      (Reg.PAT_ERR_ERRORS (l / 4) (l % 4) lane) y.errors).radd (Reg.PAT_BITS_BITS (l / 4) (l % 4) lane) y.bits) :
    exec (.patternCheckerLock l lane bits) s = .next (setFabricLane t l lane { y with
      lock := false
      errors := 0
      bits := 0 }) := by
  subst ht hy hx
  simp [exec, execPatternCheckerLock, htest, hchk]

/-! ## Draining and completion records (R249, R258) -/

/-- Nothing under way: each condition of the drain is one that the command tests. -/
theorem exec_fabricDrained (hmode : s.rget (Reg.FAB_STATUS_MODE 0) = 1)
    (hechoes : ∀ l, l < 48 → linkActive s l = true → markBack (getLink s l) = true)
    (hrouters : ∀ d, d < 12 → routerHolds s d = false) (hxfers : ∀ x ∈ s.fab.xfers, awaits s x = false)
    (hdones : s.fab.dones = []) (hserves : s.fab.serves = []) : exec .fabricDrained s = .next (drained s) := by
  have hback : (List.range 48).all (fun l => !linkActive s l || markBack (getLink s l)) = true := by
    simpa [or_iff_not_imp_left] using hechoes
  have hempty : (List.range 12).any (routerHolds s) = false := by simpa using hrouters
  have hanswered : s.fab.xfers.any (awaits s) = false := by simpa using hxfers
  simp [exec, execFabricDrained, hmode, hback, hempty, hanswered, hdones, hserves]

theorem exec_doneRecordFlush {i : Nat} {x : DoneRec} (hrec : (s.fab.dones.filter (fun x => x.die == d.val))[i]? = some x) :
    exec (.doneRecordFlush d i) s = .next (sendDone (setDones s (s.fab.dones.erase x)) x) := by
  simp only [exec, execDoneRecordFlush, hrec]

end

/-- Settles O21: heads by TYPE and link, ports by their link's state, and the other commands past their conditions. -/
theorem routerCommandsComplete : Obligations.RouterCommandsComplete := fun _ _ =>
  ⟨fun _ _ hhead hfree hgoes =>
      ⟨fun hlo hhi => ⟨fun _ => exec_packetHeadRoute_cross hhead hfree hgoes hlo hhi,
          exec_packetHeadRoute_route hhead hfree hgoes hlo hhi⟩,
        exec_packetHeadRoute_reserved hhead hfree hgoes⟩,
    fun _ _ _ => exec_causewayThreshold, fun _ => exec_outputPortCycle_mesh,
    fun _ _ ht => ⟨exec_outputPortCycle_test ht, exec_outputPortCycle_link ht⟩,
    fun _ _ _ _ _ _ => exec_patternCheckerLock, exec_fabricDrained, fun _ _ => exec_doneRecordFlush⟩

end Sys2Proof.Machine
end

section
/-! PROOFS. Packets and the flits of trees (O22): a packet of the command's TYPE for this chip, and a flit of the command's KIND,
has its effect (R249, R250, R272, R276, R278, R280, R291, R299). -/
namespace Sys2Proof.Machine

section
variable {s : State} {d : LinkDieId} {pkt : Packet}

/-! ## Packets at their destination and source (R249, R250, R272, R291) -/

theorem exec_pktWrite (hmine : forMe s 1 pkt = true) :
    exec (.pktWrite d pkt) s = .next (writePacket (takeArrived s d pkt) d pkt) := by
  simp [exec, execPktWrite, hmine]

theorem exec_pktAccum (hmine : forMe s 2 pkt = true) : exec (.pktAccum d pkt) s = .next (accumPacket s d pkt) := by
  simp [exec, execPktAccum, hmine]

theorem exec_pktReadReq (hmine : forMe s 3 pkt = true) (ecc : CoreEcc) :
    exec (.pktReadReq d pkt ecc) s = .next (readPacket s d pkt ecc) := by
  simp [exec, execPktReadReq, hmine]

theorem exec_pktReadData (hmine : forMe s 4 pkt = true) : exec (.pktReadData d pkt) s = .next (dataPacket s d pkt) := by
  simp [exec, execPktReadData, hmine]

theorem exec_pktDone (hmine : forMe s 5 pkt = true) : exec (.pktDone d pkt) s = .next (donePacket s d pkt) := by
  simp [exec, execPktDone, hmine]

theorem exec_pktSignal (hmine : forMe s 6 pkt = true) : exec (.pktSignal d pkt) s = .next (signalArrives s d pkt) := by
  simp [exec, execPktSignal, hmine]

theorem exec_pktChunk (hmine : forMe s 7 pkt = true) :
    exec (.pktChunk d pkt) s = .next (writePacket (takeArrived s d pkt) d pkt) := by
  simp [exec, execPktChunk, hmine]

end

/-! ## Flits over tree maps (R276, R278, R280, R299) -/

section
variable {s : State} {flit : BitVec 512}

theorem exec_treeArrive (src : BitVec 14) (hkind : fget flit Tf.KIND = 1) :
    exec (.treeArrive src flit) s = .next (treeArrive s src flit) := by
  simp [exec, execTreeArrive, hkind]

theorem exec_treeRelease (hkind : fget flit Tf.KIND = 2) : exec (.treeRelease flit) s = .next (treeRelease s flit) := by
  simp [exec, execTreeRelease, hkind]

theorem exec_treeOwnerMessage (hkind : fget flit Tf.KIND = 3) :
    exec (.treeOwnerMessage flit) s = .next (treeOwner s flit) := by
  simp [exec, execTreeOwnerMessage, hkind]

theorem exec_treeAbort (hkind : fget flit Tf.KIND = 4) : exec (.treeAbort flit) s = .next (treeAbort s flit) := by
  simp [exec, execTreeAbort, hkind]

end

/-- Settles O22: each command by the TYPE or the KIND that it asks for. -/
theorem packetCommandsComplete : Obligations.PacketCommandsComplete := fun _ _ _ src _ =>
  ⟨exec_pktWrite, exec_pktAccum, exec_pktReadReq, exec_pktReadData, exec_pktDone, exec_pktSignal, exec_pktChunk,
    exec_treeArrive src, exec_treeRelease, exec_treeOwnerMessage, exec_treeAbort⟩

end Sys2Proof.Machine
end

section
/-! PROOFS. The verbs that only read (O31): each accepted verb answers at once with what it reads in the state that it was accepted
in (R268, R283, R322, R333, R350, R371, R381, R439). -/
namespace Sys2Proof.Machine

section
variable {s a : State} {rq : Req} {n : Nat} {x : Session}

/-! ## IDENT, STATUS, ATTEST (R333, R371, R381) -/

theorem exec_ident
    (h : Accepted s rq
      { code := 1, inHold := true, inMire := true, inBoot := true, inTrip := true, enrol := true, cached := true } n x a) :
    exec (.ident rq) s = .next (respond a rq 1 (.done (if hjelperUp a || a.net.cache.1.isEmpty then identPayload a
      else a.net.cache.1))) :=
  congrArg Host.Outcome.next (answerVerb_of_accepted h _)

/-- The status is made anew while Hjelper is up, or where none is cached, at the time that its payload shows. -/
theorem exec_statusVerb_fresh
    (h : Accepted s rq
      { code := 2, inHold := true, inMire := true, inBoot := true, inTrip := true, enrol := true, cached := true } n x a)
    (hfresh : hjelperUp a = true ∨ a.net.cache.2 = []) :
    exec (.statusVerb rq) s = .next (respond a.tick rq 2 (.done (statusPayload a a.hc))) := by
  have hmakes : (hjelperUp a || a.net.cache.2.isEmpty) = true := by simpa using hfresh
  simp only [exec, execStatusVerb, answerVerb_of_accepted h, hmakes, if_true]

/-- While Hjelper is down the cached status is sent. -/
theorem exec_statusVerb_cached
    (h : Accepted s rq
      { code := 2, inHold := true, inMire := true, inBoot := true, inTrip := true, enrol := true, cached := true } n x a)
    (hdown : hjelperUp a = false) (hcached : a.net.cache.2 ≠ []) :
    exec (.statusVerb rq) s = .next (respond a rq 2 (.done a.net.cache.2)) := by
  simp [exec, execStatusVerb, answerVerb_of_accepted h, hdown, hcached]

theorem exec_attest {nonce : List Byte}
    (h : Accepted s rq { code := 3, inHold := true, inMire := true, inBoot := true, inTrip := true, enrol := true } n x a)
    (hlen : nonce.length = 32) :
    exec (.attest rq nonce) s = .next (respond (makeReport a nonce).2 rq 3 (.done (makeReport a nonce).1)) := by
  simp [exec, execAttest, answerVerb_of_accepted h, hlen]

/-! ## PEEK (R439) -/

/-- A run of whole aligned words of the window is read word by word. -/
theorem exec_peek {off : BitVec 64} {len : BitVec 32}
    (h : Accepted s rq { code := 0x10, inHold := true, inMire := true, inBoot := true, inTrip := true } n x a)
    (hlo : 8 ≤ len.toNat) (hhi : len.toNat ≤ 4096) (hwhole : len.toNat % 8 = 0)
    (haligned : off.toNat % 8 = 0) (hin : inWindow off.toNat = true) (hend : off.toNat + len.toNat ≤ 2 ^ 44) :
    exec (.peek rq off len) s = .next (respond a rq 0x10 (.done
      ((List.range (len.toNat / 8)).flatMap (fun i => leBytes 8 (peekWord a (off.toNat + 8 * i)).toNat)))) := by
  have hwell : (decide (len.toNat < 8) || decide (4096 < len.toNat) || decide (len.toNat % 8 ≠ 0)
      || decide (off.toNat % 8 ≠ 0)) = false := by
    simp [Nat.not_lt.mpr hlo, Nat.not_lt.mpr hhi, hwhole, haligned]
  have hinside : (!inWindow off.toNat || decide (2 ^ 44 < off.toNat + len.toNat)) = false := by
    simpa [hin] using hend
  simp only [exec, execPeek, answerVerb_of_accepted h, hwell, hinside]
  rfl

/-! ## SYNC_DUMP, LOG_READ, PEAT_READ (R283, R322, R350) -/

/-- The dump stands between two readings of the time. -/
theorem exec_syncDump (h : Accepted s rq { code := 0x40, inHold := true } n x a) :
    exec (.syncDump rq) s = .next (respond a.tick.tick rq 0x40 (.done (syncDump a.tick a.hc a.tick.hc))) :=
  congrArg Host.Outcome.next (answerVerb_of_accepted h _)

/-- A count within the limits of its verb. -/
theorem countOutside_eq_false {count : BitVec 16} {most : Nat} (hlo : 1 ≤ count.toNat) (hhi : count.toNat ≤ most) :
    (decide (count.toNat < 1) || decide (most < count.toNat)) = false := by
  simp [Nat.one_le_iff_ne_zero.mp hlo, Nat.not_lt.mpr hhi]

theorem exec_logRead {count : BitVec 16}
    (h : Accepted s rq { code := 0x41, inHold := true, inMire := true, inBoot := true, inTrip := true } n x a)
    (hlo : 1 ≤ count.toNat) (hhi : count.toNat ≤ 63) (first : BitVec 32) :
    exec (.logRead rq first count) s = .next (respond a rq 0x41 (.done (seqRange first.toNat count.toNat (fun q =>
      (a.evlog.find? (fun e => fget e.2 (31, 0) == q)).map (fun e => leBytes 128 e.2.toNat))))) := by
  simp only [exec, execLogRead, answerVerb_of_accepted h, countOutside_eq_false hlo hhi]
  rfl

/-- Only records whose CRC is right are found. -/
theorem exec_peatRead {count : BitVec 16}
    (h : Accepted s rq { code := 0x42, inHold := true, inMire := true, inBoot := true, inTrip := true } n x a)
    (hlo : 1 ≤ count.toNat) (hhi : count.toNat ≤ 127) (first : BitVec 32) :
    exec (.peatRead rq first count) s = .next (respond a rq 0x42 (.done (seqRange first.toNat count.toNat (fun q =>
      (a.peat.find? (fun e => peatIntact e.2 && fget e.2 Peat.SEQ == q)).map (fun e => leBytes 64 e.2.toNat))))) := by
  simp only [exec, execPeatRead, answerVerb_of_accepted h, countOutside_eq_false hlo hhi]
  rfl

end

/-- Settles O31: each verb past its own conditions. -/
theorem readingVerbsComplete : Obligations.ReadingVerbsComplete := fun _ _ _ _ _ =>
  ⟨exec_ident, fun h => ⟨exec_statusVerb_fresh h, exec_statusVerb_cached h⟩, fun _ => exec_attest, fun _ _ => exec_peek,
    exec_syncDump, fun first _ hlo => ⟨fun h hhi => exec_logRead h hlo hhi first, fun h hhi => exec_peatRead h hlo hhi first⟩⟩

end Sys2Proof.Machine
end

section
/-! PROOFS. The waits of a plank core (O48): the window in which an object has reached a target, what a wait that begins writes,
and where a wait that returns leaves the core (R204, R273, R274). -/
namespace Sys2Proof.Machine

/-! ## The window (R273) -/

/-- The model's window of naturals is that of the difference modulo 2^32. -/
theorem reached_iff (v t : Nat) : reached v t = true ↔ ((v : Int) - t) % 2 ^ 32 < 2 ^ 31 := by
  rw [reached, decide_eq_true_eq]
  omega

section
variable {s : State} {o target : Nat}

theorem waitStatus_reached (huse : fget (s.obj o) Obj.STATE = 1 ∨ fget (s.obj o) Obj.STATE = 2)
    (hreached : reached (fget (s.obj o) Obj.VALUE) target = true) : waitStatus s o target = some 0 := by
  rcases huse with hlive | hsusp
  · simp [waitStatus, hlive, hreached]
  · simp [waitStatus, hsusp, hreached]

theorem waitStatus_open (huse : fget (s.obj o) Obj.STATE = 1 ∨ fget (s.obj o) Obj.STATE = 2)
    (hshort : reached (fget (s.obj o) Obj.VALUE) target = false) : waitStatus s o target = none := by
  rcases huse with hlive | hsusp
  · simp [waitStatus, hlive, hshort]
  · simp [waitStatus, hsusp, hshort]

/-- An Orphaned object releases a wait whatever its value (R274). -/
theorem waitStatus_orphaned (horphan : fget (s.obj o) Obj.STATE = 3) :
    waitStatus s o target = some (if fget (s.obj o) Obj.CAUSE = 2 then 2 else 1) := by
  simp [waitStatus, horphan]

end

/-! ## A wait that begins (R273) -/

section
variable {s : State} {p : Nat}

/-- WAIT_STATE of a core that waits on an object. -/
def waitWords (s : State) (p o target : Nat) : State :=
  (((s.setWord (Reg.WAIT_STATE_OBJ p).off 0).rset (Reg.WAIT_STATE_OBJ p) o).rset (Reg.WAIT_STATE_TARGET p) target).rset
    (Reg.WAIT_STATE_WAITING p) 1

theorem wf_waitWords (w : s.Wf) (o target : Nat) : (waitWords s p o target).Wf :=
  (keeps_rset (keeps_rset (keeps_rset (keeps_setWord (Keeps.refl s))))).wf w

/-- WAIT_STATE names the object and the target, and no other word has changed. -/
theorem rget_waitWords (w : s.Wf) (o target : Nat) : (waitWords s p o target).rget (Reg.WAIT_STATE_WAITING p) = 1 ∧
    (waitWords s p o target).rget (Reg.WAIT_STATE_OBJ p) = o % 2 ^ 15 ∧
    (waitWords s p o target).rget (Reg.WAIT_STATE_TARGET p) = target % 2 ^ 32 ∧
    ∀ f : RegF, f.off ≠ (Reg.WAIT_STATE_OBJ p).off → (waitWords s p o target).rget f = s.rget f := by
  have wclear : (s.setWord (Reg.WAIT_STATE_OBJ p).off 0).Wf := (keeps_setWord (Keeps.refl s)).wf w
  have wobj := (keeps_rset (f := Reg.WAIT_STATE_OBJ p) (v := o) (Keeps.refl _)).wf wclear
  have wtarget := (keeps_rset (f := Reg.WAIT_STATE_TARGET p) (v := target) (Keeps.refl _)).wf wobj
  refine ⟨?_, ?_, ?_, fun f hf => ?_⟩ <;> rw [waitWords]
  · exact rget_rset wtarget (by decide : 15 < 64) 1
  · rw [rget_rset_apart wtarget (by decide : 15 < 64) (.inr (.inl (by decide : 14 < 15))),
      rget_rset_apart wobj (by decide : 47 < 64) (.inr (.inl (by decide : 14 < 16))), rget_rset wclear (by decide : 14 < 64)]
    rfl
  · rw [rget_rset_apart wtarget (by decide : 15 < 64) (.inr (.inr (by decide : 15 < 16))), rget_rset wobj (by decide : 47 < 64)]
    rfl
  · rw [rget_rset_apart (f := Reg.WAIT_STATE_WAITING p) wtarget (by decide : 15 < 64) (.inl hf),
      rget_rset_apart (f := Reg.WAIT_STATE_TARGET p) wobj (by decide : 47 < 64) (.inl hf),
      rget_rset_apart wclear (by decide : 14 < 64) (.inl hf), State.rget, word_setWord w, if_neg hf, State.rget]

/-- A core that holds at an instruction is Waiting; every other word is as it was. -/
theorem coreState_coreHold (w : s.Wf) (q : Option Nat) : coreState (coreHold s p q) p = CoreSt.waiting := by
  rw [coreState, coreHold, rget_modPlank, setCore, rget_rset w (by decide : 2 < 64)]
  rfl

theorem rget_coreHold (w : s.Wf) (q : Option Nat) {f : RegF} (hf : f.off ≠ (Reg.CORE_STATUS_STATE p).off) :
    (coreHold s p q).rget f = s.rget f := by
  rw [coreHold, rget_modPlank, setCore, rget_rset_apart w (by decide : 2 < 64) (.inl hf)]

/-- The object has one more waiter. -/
def waiterCounted (s : State) (o : Nat) : State := s.setObj o (fset (s.obj o) Obj.WAITERS (fget (s.obj o) Obj.WAITERS + 1))

theorem waiters_waiterCounted (w : s.Wf) (o : Nat) :
    fget ((waiterCounted s o).obj o) Obj.WAITERS = (fget (s.obj o) Obj.WAITERS + 1) % 256 := by
  rw [waiterCounted, obj_setObj w, if_pos rfl]
  exact fget_fset _ _ _ (by decide)

/-- A core that begins to wait on an object, before it holds. -/
def waitStart (s : State) (p : Nat) (rd : XReg) (o target : Nat) : State :=
  (waitWords (waiterCounted s o) p o target).modPlank p (fun k => { k with waitRd := some rd, waited := 0 })

theorem waitBegins_eq (rd : XReg) (o target : Nat) : waitBegins s p rd o target = coreHold (waitStart s p rd o target) p (some 0) :=
  rfl

/-- The core waits at its pc, on the object and the target that WAIT_STATE names. -/
theorem waitBegins_shows (w : s.Wf) (rd : XReg) {o target : Nat} (ho : o < 2 ^ 15) (htarget : target < 2 ^ 32) {t : State}
    (ht : waitBegins s p rd o target = t) :
    fget (t.obj o) Obj.WAITERS = (fget (s.obj o) Obj.WAITERS + 1) % 256 ∧ t.rbit (Reg.WAIT_STATE_WAITING p) = true ∧
      t.rget (Reg.WAIT_STATE_OBJ p) = o ∧ t.rget (Reg.WAIT_STATE_TARGET p) = target ∧ coreState t p = CoreSt.waiting ∧
      t.pc p = s.pc p := by
  subst ht
  have wcounted : (waiterCounted s o).Wf := (keeps_setObj (Keeps.refl s)).wf w
  have wstart : (waitStart s p rd o target).Wf := (keeps_modPlank (Keeps.refl _)).wf (wf_waitWords wcounted o target)
  obtain ⟨hwaiting, hobj, htargetIs, hother⟩ := rget_waitWords (p := p) wcounted o target
  have hread {f : RegF} {i : Nat} (hf : f.off = plankBase p + i) (hi : i ≠ 0xA8) :
      (coreHold (waitStart s p rd o target) p (some 0)).rget f = (waitWords (waiterCounted s o) p o target).rget f :=
    (rget_coreHold wstart _ (off_ne_of_place_ne hf (j := 0xA8) rfl hi)).trans (rget_modPlank ..)
  rw [waitBegins_eq]
  refine ⟨waiters_waiterCounted w o, ?waiting, ?obj, ?aim, coreState_coreHold wstart _, ?pc⟩
  case waiting => rw [State.rbit, hread (i := 0x120) rfl (by decide), hwaiting]; rfl
  case obj => rw [hread (i := 0x120) rfl (by decide), hobj, Nat.mod_eq_of_lt ho]
  case aim => rw [hread (f := Reg.WAIT_STATE_TARGET p) (i := 0x120) rfl (by decide), htargetIs, Nat.mod_eq_of_lt htarget]
  case pc =>
    rw [State.pc, hread (i := 0xB0) rfl (by decide), hother _ (off_ne_of_place_ne (i := 0xB0) (j := 0x120) rfl rfl (by decide))]
    rfl

/-! ## A wait that returns (R273, R274) -/

/-- A wait on an object at its target has nothing to flag. -/
theorem waitReturns_zero (rd : Nat) : waitReturns s p rd 0 = coreNext (s.setX p rd 0) p := by
  simp [waitReturns]

/-- A step without a reduced record keeps the flag of a released wait in its job alone. -/
theorem releasedStep_of_not_reduced {id : Nat} (hred : ∀ j, findJob s id = some j → j.red = none) (f : StepFlag) :
    ∃ jobs, releasedStep s id f = { s with jobs := jobs } := by
  unfold releasedStep
  split
  · exact ⟨_, rfl⟩
  next j hj =>
    split
    · exact ⟨_, rfl⟩
    · rw [hred j hj]
      exact ⟨_, rfl⟩

/-- The job of a plank's stream is the one that its id finds. -/
theorem findJob_of_plankJob {j : Job} (hj : plankJob s p = some j) : findJob s j.id.toNat = some j := by
  unfold plankJob at hj
  split at hj
  next r _ =>
    have hid : j.id.toNat = fget r Strm.JOB := by simpa using List.find?_some hj
    rw [hid, hj]
  next => contradiction

/-- A wait returns its status in rd and the core goes on; all else that changes is the jobs. -/
theorem waitReturns_of_not_reduced (hred : ∀ j, plankJob s p = some j → j.red = none) (rd status : Nat) :
    ∃ jobs, waitReturns s p rd status = coreNext (State.setX { s with jobs := jobs } p rd (BitVec.ofNat 64 status)) p := by
  unfold waitReturns
  split
  · exact ⟨s.jobs, rfl⟩
  split
  next j hj =>
    have hjob : ∀ k, findJob s j.id.toNat = some k → k.red = none := fun k hk =>
      Option.some.inj ((findJob_of_plankJob hj).symm.trans hk) ▸ hred j hj
    obtain ⟨jobs, hreleased⟩ := releasedStep_of_not_reduced hjob (if status = 1 then .vOrphaned else .vCancelled)
    exact ⟨jobs, by rw [hreleased]⟩
  next => exact ⟨s.jobs, rfl⟩

theorem waitReturns_shows (w : s.Wf) (hred : ∀ j, plankJob s p = some j → j.red = none) (rd status : Nat) :
    (waitReturns s p rd status).pc p = (s.pc p + 4) % 2 ^ 64 ∧
      (rd ≠ 0 → (waitReturns s p rd status).xreg p rd = BitVec.ofNat 64 status) := by
  obtain ⟨jobs, hreturns⟩ := waitReturns_of_not_reduced hred rd status
  have wjobs : State.Wf { s with jobs := jobs } := (keeps_free (Keeps.refl s) ..).wf w
  have wset := (keeps_setX (p := p) (r := rd) (v := BitVec.ofNat 64 status) (Keeps.refl _)).wf wjobs
  rw [hreturns]
  refine ⟨?_, fun hrd => ?_⟩
  · rw [pc_coreNext wset, State.pc, rget_setX]
    rfl
  · rw [xreg_coreNext wset, xreg_setX wjobs hrd]

end

/-! ## The instruction (R204, R273) -/

section
variable {s : State} {p : PlankId} {rd rs1 rs2 : XReg}

/-- A wait on another chip's object, or on a Retired one, traps. -/
theorem exec_syncWait_traps (hready : coreReady s p = true) (hgoing : stopDue s p = false)
    (hobj : bit (s.xreg p rs1).toNat 15 = false)
    (hcase : bits (s.xreg p rs1).toNat 16 14 ≠ chipNo s ∨ fget (s.obj (bits (s.xreg p rs1).toNat 0 15)) Obj.STATE = 0) :
    exec (.syncWait p rd rs1 rs2) s = .next (coreTrap s p 24 0x0A (c1 1 0 rd rs1 rs2) 0) := by
  rcases hcase with hforeign | hretired
  · simp [exec, execSyncWait, hready, hgoing, hobj, hforeign]
  · exact exec_syncWait_retired hready hgoing hobj hretired

end

/-- Settles O48: the window decides a wait on an object in use; an Orphaned one releases it, and the core goes on. -/
theorem waitsFollowTheWindow : Obligations.WaitsFollowTheWindow := by
  rintro s p rd rs1 rs2 o target w hready hgoing hbit ho rfl
  have hobj : bit (s.xreg p rs1).toNat 15 = false := by rw [bit, BitVec.testBit_toNat, hbit]
  rw [ho]
  refine ⟨reached_iff .., exec_syncWait_traps hready hgoing hobj, fun hhere huse => ?inUse, fun hhere horphan => ?orphaned⟩
  case inUse =>
    have hmay : MayWait s p rs1 := ⟨hready, hgoing, hobj, hhere, by omega⟩
    refine ⟨fun hin => ?returns, fun hout => ?holds⟩
    case returns =>
      rw [exec_syncWait_returns hmay (waitStatus_reached huse ((reached_iff ..).mpr hin)), waitReturns_zero]
    case holds =>
      have hshort := Bool.eq_false_iff.mpr (mt (reached_iff ..).mp (not_lt.mpr hout))
      exact ⟨_, exec_syncWait_begins hmay (waitStatus_open huse hshort), waitBegins_shows w rd (bits_lt ..) (bits_lt ..) rfl⟩
  case orphaned =>
    have hmay : MayWait s p rs1 := ⟨hready, hgoing, hobj, hhere, by omega⟩
    have hexec := exec_syncWait_returns (rd := rd) (rs2 := rs2) hmay (waitStatus_orphaned horphan)
    refine ⟨hexec, _, hexec, fun hred => ?_⟩
    obtain ⟨hpc, hrd⟩ := waitReturns_shows w hred rd (if fget (s.obj (bits (s.xreg p rs1).toNat 0 15)) Obj.CAUSE = 2 then 2 else 1)
    refine ⟨hpc, fun hnonzero => (hrd hnonzero).trans ?_⟩
    split <;> rfl

end Sys2Proof.Machine
end

section
/-! PROOFS. The object commands claim, re-arm and retire (O49): the barriers in use, what a command leaves where no barrier has its
object as ARRIVE_OBJ, and each command within and against its condition (R269, R270, R280). -/
namespace Sys2Proof.Machine

section
variable {s : State}

/-! ## The barriers in use (R279) -/

/-- A listed entry of a canonical map is what its key reads. -/
theorem kget_of_mem {α : Type} {d : Nat → α} {m : List (Nat × α)} {lo k : Nat} {v : α} (hm : kabove lo m = true)
    (hmem : (k, v) ∈ m) : lo ≤ k ∧ kget d m k = v := by
  induction m generalizing lo with
  | nil => exact absurd hmem List.not_mem_nil
  | cons e m ih =>
    obtain ⟨j, u⟩ := e
    simp only [kabove, Bool.and_eq_true, decide_eq_true_eq] at hm
    obtain ⟨hlo, habove⟩ := hm
    rcases List.mem_cons.mp hmem with hhead | htail
    · obtain ⟨rfl, rfl⟩ := Prod.mk.inj hhead
      exact ⟨hlo, if_pos rfl⟩
    · obtain ⟨hlater, hread⟩ := ih habove htail
      exact ⟨by omega, by rw [kget, if_neg (by omega), hread]⟩

/-- A field is zero when each of its bits is clear. -/
theorem fget_eq_zero_iff {n : Nat} (x : BitVec n) (f : Fd) :
    fget x f = 0 ↔ ∀ i, f.2 ≤ i → i ≤ f.1 → x.getLsbD i = false := by
  refine ⟨fun hzero i hlo hhi => ?_, fun hall => Nat.eq_of_testBit_eq fun i => ?_⟩
  · have hbit := fld_testBit x f.1 f.2 (i - f.2)
    rw [show fld x f.1 f.2 = 0 from hzero, Nat.zero_testBit, Nat.add_sub_cancel' hlo,
      decide_eq_true (by omega : i - f.2 < f.1 + 1 - f.2), Bool.true_and] at hbit
    exact hbit.symm
  · rw [fget, fld_testBit, Nat.zero_testBit, Bool.and_eq_false_iff, decide_eq_false_iff_not, or_iff_not_imp_left, not_not]
    exact fun hi => hall _ (by omega) (by omega)

/-- A barrier in use is one of the 1,024, and its VALID is set. -/
theorem valid_of_mem_validBarriers (w : s.Wf) {b : Nat} (hmem : b ∈ validBarriers s) :
    b < 1024 ∧ s.rbit (Reg.BAR_VALID b) = true := by
  obtain ⟨⟨off, v⟩, hlisted, rfl⟩ := List.mem_map.mp hmem
  obtain ⟨hwin, hword⟩ := List.mem_filter.mp hlisted
  simp only [Bool.and_eq_true, decide_eq_true_eq, beq_iff_eq] at hword
  obtain ⟨⟨⟨hlo, hhi⟩, hwhole⟩, hvalid⟩ := hword
  obtain ⟨-, hread⟩ := kget_of_mem (d := winReset) (kwf_above w.win) hwin
  have hoff : barOff ((off - barOff 0 0) / 0x40) 0 = off := by
    unfold barOff at hlo hwhole ⊢
    omega
  refine ⟨by unfold barOff at hhi ⊢; omega, ?_⟩
  have hrecord : s.word (barOff ((off - barOff 0 0) / 0x40) 0) = v := hoff.symm ▸ hread
  rw [State.rbit, bne_iff_ne]
  intro hzero
  have hclear := (fget_eq_zero_iff (s.word (barOff ((off - barOff 0 0) / 0x40) 0)) (31, 31)).mp hzero 31 le_rfl le_rfl
  rw [hrecord, hvalid] at hclear
  exact absurd hclear (by decide)

/-! ## What a command leaves where no barrier arrives -/

/-- No valid barrier has the object as its ARRIVE_OBJ. -/
def NoArrival (s : State) (o : Nat) : Prop :=
  ∀ b : BarId, s.rbit (Reg.BAR_VALID b) = true → s.rget (Reg.BAR_ARRIVE_OBJ b) ≠ o

theorem arrivals_of_noArrival (w : s.Wf) {o : Nat} (hnone : NoArrival s o) (old : Option Nat) : arrivals s o old = (s, []) := by
  have hno : ∀ b ∈ validBarriers s, (s.rget (Reg.BAR_ARRIVE_OBJ b) == o) = false := by
    intro b hb
    obtain ⟨hlt, hvalid⟩ := valid_of_mem_validBarriers w hb
    exact beq_eq_false_iff_ne.mpr (hnone ⟨b, hlt⟩ hvalid)
  unfold arrivals
  dsimp only
  rw [List.filter_eq_nil_iff.mpr (fun b hb => by simp [hno b hb])]
  rfl

/-- Lane tests that end, directions that change hands and handovers that apply leave the objects. -/
theorem objs_freezeLane (key : Nat) : (freezeLane s key).objs = s.objs := by
  unfold freezeLane
  dsimp only
  split
  · rfl
  · split <;> rfl

theorem objs_foldl_freezeLane (keys : List Nat) : (keys.foldl freezeLane s).objs = s.objs := by
  induction keys generalizing s with
  | nil => rfl
  | cons key keys ih => exact ih.trans (objs_freezeLane key)

theorem objs_setChan (chan owner : Nat) : (setChan s chan owner).objs = s.objs := by
  have hfrozen (c : Prop) [Decidable c] (keys : List Nat) : (if c then s else keys.foldl freezeLane s).objs = s.objs := by
    split
    · rfl
    · exact objs_foldl_freezeLane keys
  unfold setChan
  dsimp only
  split
  · rfl
  · exact hfrozen ..

theorem objs_handWork (hs kept : List Handover) : (handWork hs kept s).objs = s.objs := by
  induction hs generalizing kept s with
  | nil => rfl
  | cons h hs ih =>
    unfold handWork
    split
    · exact ih _
    · exact (ih _).trans (objs_setChan ..)

/-- With no signal and no arrival to follow, only handovers follow. -/
theorem objs_syncWork_nil (hidle : s.fab.selfSig = []) : (syncWork s []).objs = s.objs := by
  unfold syncWork
  rw [hidle]
  exact objs_handWork ..

/-- An object's new record is what the command gives it, and no other object changes. -/
theorem obj_objSet (w : s.Wf) (hidle : s.fab.selfSig = []) {o : Nat} (hnone : NoArrival s o) (r : ObjRec) (old : Option Nat)
    (i : Nat) : (objSet s o r old).obj i = if i = o then r else s.obj i := by
  have wset : (s.setObj o r).Wf := (keeps_setObj (Keeps.refl s)).wf w
  have hobjs : (objSet s o r old).objs = (s.setObj o r).objs := by
    unfold objSet
    rw [arrivals_of_noArrival wset hnone]
    exact objs_syncWork_nil hidle
  rw [← obj_setObj w]
  exact congrArg (kget objReset · i) hobjs

end

/-! ## The command word (R269, R270) -/

section
variable {s : State} {w : Writer} {o : ObjId} {v : Word64}

/-- The three reserved fields of word 1 are the bits of the mask. -/
theorem and_reserved_eq_zero_iff (v : Word64) : v &&& 0xFFFF0000800000C0#64 = 0 ↔
    fget v OCmd.RES1 = 0 ∧ fget v OCmd.RES2 = 0 ∧ fget v OCmd.RES3 = 0 := by
  have hmask : ∀ i < 64, (0xFFFF0000800000C0#64).getLsbD i = decide (6 ≤ i ∧ i ≤ 7 ∨ i = 31 ∨ 48 ≤ i) := by decide
  have hbits : v &&& 0xFFFF0000800000C0#64 = 0 ↔ ∀ i < 64, (6 ≤ i ∧ i ≤ 7 ∨ i = 31 ∨ 48 ≤ i) → v.getLsbD i = false := by
    refine ⟨fun hzero i hi hres => ?_, fun hclear => BitVec.eq_of_getLsbD_eq fun i hi => ?_⟩
    · simpa [hmask i hi, hres] using congrArg (BitVec.getLsbD · i) hzero
    · rw [BitVec.getLsbD_and, hmask i hi]
      by_cases hres : 6 ≤ i ∧ i ≤ 7 ∨ i = 31 ∨ 48 ≤ i
      · simp [hclear i hi hres]
      · simp [hres]
  rw [hbits, fget_eq_zero_iff, fget_eq_zero_iff, fget_eq_zero_iff]
  refine ⟨fun hclear => ⟨fun i hlo hhi => ?_, fun i hlo hhi => ?_, fun i hlo hhi => ?_⟩, fun ⟨h1, h2, h3⟩ i hi hres => ?_⟩
  · exact hclear i (by simp only [OCmd.RES1] at hhi; omega) (.inl ⟨hlo, hhi⟩)
  · exact hclear i (by simp only [OCmd.RES2] at hhi; omega) (.inr (.inl (Nat.le_antisymm hhi hlo)))
  · exact hclear i (Nat.lt_succ_of_le hhi) (.inr (.inr hlo))
  · rcases hres with ⟨hlo, hhi⟩ | rfl | hlo
    · exact h1 i hlo hhi
    · exact h2 31 le_rfl le_rfl
    · exact h3 i hlo (Nat.le_of_lt_succ hi)

theorem objCommand_claim (hclear : v &&& 0xFFFF0000800000C0#64 = 0) (hcmd : fget v OCmd.CMD = 1) :
    objCommand s w o v = claimObj s w o v := by
  obtain ⟨h1, h2, h3⟩ := (and_reserved_eq_zero_iff v).mp hclear
  simp [objCommand, h1, h2, h3, hcmd]

theorem objCommand_rearm (hclear : v &&& 0xFFFF0000800000C0#64 = 0) (hcmd : fget v OCmd.CMD = 2) :
    objCommand s w o v = rearmObj s w o := by
  obtain ⟨h1, h2, h3⟩ := (and_reserved_eq_zero_iff v).mp hclear
  simp [objCommand, h1, h2, h3, hcmd]

theorem objCommand_retire (hclear : v &&& 0xFFFF0000800000C0#64 = 0) (hcmd : fget v OCmd.CMD = 3) :
    objCommand s w o v = retireObj s w o := by
  obtain ⟨h1, h2, h3⟩ := (and_reserved_eq_zero_iff v).mp hclear
  simp [objCommand, h1, h2, h3, hcmd]

/-- A reserved bit refuses any command. -/
theorem objCommand_reserved (hreserved : v &&& 0xFFFF0000800000C0#64 ≠ 0) : objCommand s w o v = none := by
  have hnonzero := mt (and_reserved_eq_zero_iff v).mpr hreserved
  refine if_pos ?_
  simpa [imp_iff_not_or, or_assoc] using hnonzero

/-- A command against its condition does to its writer what R270 says. -/
theorem objWrite_refused {cmd : Nat} (hblock : blockCause s (objCmdOff o 1) = 0) (hcmd : fget v OCmd.CMD = cmd)
    (hnone : objCommand s w o v = none) : objWrite s w o v cmd = objRefused s w := by
  simp [objWrite, hcmd, regCommand_of_blockCause_zero hblock, hnone]

/-! ## Claim (R270) -/

/-- A field that takes the value of a field as wide as itself reads as that field. -/
theorem fget_fset_fget {m n : Nat} (x : BitVec n) (y : BitVec m) (f g : Fd) (hn : f.1 < n) (hwidth : f.1 + 1 - f.2 = g.1 + 1 - g.2) :
    fget (fset x f (fget y g)) f = fget y g := by
  rw [fget_fset x f _ hn, hwidth]
  exact Nat.mod_eq_of_lt (fld_lt y g.1 g.2)

/-- What a claim sets from its two words. -/
theorem claimed_takes (w0 w1 : Word64) {owner : Nat} (howner : owner < 256) (old : ObjRec) {r : ObjRec}
    (hr : r = claimed w0 w1 owner old) :
    fget r Obj.VALUE = fget w0 OCmd.VALUE ∧ fget r Obj.EPOCH = fget w0 OCmd.EPOCH ∧
      fget r Obj.OWNER_STREAM = fget w0 OCmd.STREAM ∧ fget r Obj.TREE = fget w1 OCmd.TREE ∧
      fget r Obj.PARTNER_CHIP = fget w1 OCmd.PARTNER_CHIP ∧ fget r Obj.PARTNER_EN = fget w1 OCmd.PARTNER_EN ∧
      fget r Obj.PARTNER_STREAM = fget w1 OCmd.PARTNER_STREAM ∧ fget r Obj.OWNER = owner := by
  subst hr
  have hwidth : owner % 2 ^ (Obj.OWNER.1 + 1 - Obj.OWNER.2) = owner := Nat.mod_eq_of_lt howner
  simp (disch := decide) only [claimed, fget_fset_apart, fget_fset_fget, fget_fset (f := Obj.OWNER), hwidth, and_self]

/-- What a claim clears, and that the object is Live. -/
theorem claimed_clears (w0 w1 : Word64) (owner : Nat) (old : ObjRec) {r : ObjRec} (hr : r = claimed w0 w1 owner old) :
    fget r Obj.WAITERS = 0 ∧ fget r Obj.CAUSE = 0 ∧ fget r Obj.PARTNER_SUSP = 0 ∧ fget r Obj.SIGNALS = 0 ∧
      fget r Obj.LAST_SRC = 0xFF ∧ fget r Obj.LAST_CHIP = 0 ∧ fget r Obj.LAST_STEP = 0 ∧ fget r Obj.STATE = 1 := by
  subst hr
  simp (disch := decide) only [claimed, fget_fset_apart, fget_fset]
  decide

theorem claimObj_eq_some (hretired : fget (s.obj o) Obj.STATE = 0) (howner : ownerCode (claimOwner w v) = true) :
    claimObj s w o v = some (objSet s o (claimed (latchOf s w) v (claimOwner w v) (s.obj o)) none) := by
  simp [claimObj, hretired, howner]

theorem claimObj_eq_none (h : fget (s.obj o) Obj.STATE ≠ 0 ∨ ownerCode (claimOwner w v) = false) : claimObj s w o v = none := by
  refine if_pos ?_
  simpa using h

theorem ownerCode_iff (n : Nat) : ownerCode n = true ↔ n < 0xA0 ∨ n = 0xB0 ∨ n = 0xB1 := by
  simp [ownerCode, or_assoc]

/-- A plank claims for itself, a host for the owner that it names (assumption 46). -/
theorem ownerCode_claimOwner (hhost : ∀ n d, w = .host n d →
    fget v OCmd.OWNER < 0xA0 ∨ fget v OCmd.OWNER = 0xB0 ∨ fget v OCmd.OWNER = 0xB1) : ownerCode (claimOwner w v) = true := by
  rw [ownerCode_iff]
  cases w with
  | plank q => exact .inl q.isLt
  | host n d => exact hhost n d rfl

theorem ownerCode_claimOwner_eq_false (hhost : ∃ n d, w = .host n d ∧ 0xA0 ≤ fget v OCmd.OWNER ∧ fget v OCmd.OWNER ≠ 0xB0 ∧
    fget v OCmd.OWNER ≠ 0xB1) : ownerCode (claimOwner w v) = false := by
  obtain ⟨n, d, rfl, hlo, hnot0, hnot1⟩ := hhost
  rw [← Bool.not_eq_true, ownerCode_iff]
  exact not_or.mpr ⟨Nat.not_lt.mpr hlo, not_or.mpr ⟨hnot0, hnot1⟩⟩

theorem claimOwner_lt : claimOwner w v < 256 := by
  cases w with
  | plank q => exact q.isLt.trans (by decide)
  | host n d => exact fld_lt ..

/-! ## Re-arm and retire (R270) -/

theorem rearmObj_eq_some (howns : ownsObj w (s.obj o) = true) (hlive : fget (s.obj o) Obj.STATE = 1)
    (hfree : fget (s.obj o) Obj.WAITERS = 0) : rearmObj s w o = some (objSet s o
      (fset (fset (s.obj o) Obj.VALUE (fget (latchOf s w) OCmd.VALUE)) Obj.EPOCH (fget (latchOf s w) OCmd.EPOCH))
      (some (fget (s.obj o) Obj.VALUE))) := by
  simp [rearmObj, howns, hlive, hfree]

theorem rearmObj_eq_none (h : ownsObj w (s.obj o) = false ∨ fget (s.obj o) Obj.STATE ≠ 1 ∨ fget (s.obj o) Obj.WAITERS ≠ 0) :
    rearmObj s w o = none := by
  refine if_pos ?_
  simpa [or_assoc] using h

theorem retireObj_eq_some (h : fget (s.obj o) Obj.STATE = 3 ∨ ((fget (s.obj o) Obj.STATE = 1 ∨ fget (s.obj o) Obj.STATE = 2) ∧
      ownsObj w (s.obj o) = true ∧ fget (s.obj o) Obj.WAITERS = 0)) :
    retireObj s w o = some (s.setObj o (fset (fset (s.obj o) Obj.STATE 0) Obj.OWNER 0xFF)) := by
  refine if_pos ?_
  simpa [and_assoc] using h

theorem retireObj_eq_none (h : fget (s.obj o) Obj.STATE = 0 ∨
      (fget (s.obj o) Obj.STATE ≠ 3 ∧ (ownsObj w (s.obj o) = false ∨ fget (s.obj o) Obj.WAITERS ≠ 0))) :
    retireObj s w o = none := by
  refine if_neg ?_
  rcases h with hretired | ⟨hnot3, hbusy⟩
  · simp [hretired]
  · rcases hbusy with hforeign | hwaits
    · simp [hnot3, hforeign]
    · simp [hnot3, hwaits]

/-- A retired object is Retired and has no owner. -/
theorem fget_retired (r : ObjRec) : fget (fset (fset r Obj.STATE 0) Obj.OWNER 0xFF) Obj.STATE = 0 ∧
    fget (fset (fset r Obj.STATE 0) Obj.OWNER 0xFF) Obj.OWNER = 0xFF := by
  simp (disch := decide) only [fget_fset_apart, fget_fset]
  decide

/-! ## The commands -/

/-- A claim gives the object its new record, and leaves every other object. -/
theorem exec_objClaim (hs : s.Wf) (hblock : blockCause s (objCmdOff o 1) = 0) (hidle : s.fab.selfSig = [])
    (hcmd : fget v OCmd.CMD = 1) (hclear : v &&& 0xFFFF0000800000C0#64 = 0) (hretired : fget (s.obj o) Obj.STATE = 0)
    (howner : ownerCode (claimOwner w v) = true) (hnone : NoArrival s o) :
    ∃ t, exec (.objClaim w o v) s = .next t ∧ (∀ i, i ≠ o.val → t.obj i = s.obj i) ∧
      t.obj o = claimed (latchOf s w) v (claimOwner w v) (s.obj o) := by
  have hsome := (objCommand_claim (s := s) (w := w) (o := o) hclear hcmd).trans (claimObj_eq_some hretired howner)
  have hobj := obj_objSet hs hidle hnone (claimed (latchOf s w) v (claimOwner w v) (s.obj o)) none
  exact ⟨_, congrArg Host.Outcome.next (objWrite_of_objCommand hblock hsome hcmd), fun i hi => (hobj i).trans (if_neg hi),
    (hobj o).trans (if_pos rfl)⟩

/-- A re-arm sets VALUE and EPOCH from the latched word. -/
theorem exec_objRearm (hs : s.Wf) (hblock : blockCause s (objCmdOff o 1) = 0) (hidle : s.fab.selfSig = [])
    (hcmd : fget v OCmd.CMD = 2) (hclear : v &&& 0xFFFF0000800000C0#64 = 0) (howns : ownsObj w (s.obj o) = true)
    (hlive : fget (s.obj o) Obj.STATE = 1) (hfree : fget (s.obj o) Obj.WAITERS = 0) (hnone : NoArrival s o) :
    ∃ t, exec (.objRearm w o v) s = .next t ∧ (∀ i, i ≠ o.val → t.obj i = s.obj i) ∧
      t.obj o = fset (fset (s.obj o) Obj.VALUE (fget (latchOf s w) OCmd.VALUE)) Obj.EPOCH (fget (latchOf s w) OCmd.EPOCH) := by
  have hsome := (objCommand_rearm (s := s) (w := w) (o := o) hclear hcmd).trans (rearmObj_eq_some howns hlive hfree)
  have hobj := obj_objSet hs hidle hnone (fset (fset (s.obj o) Obj.VALUE (fget (latchOf s w) OCmd.VALUE)) Obj.EPOCH
    (fget (latchOf s w) OCmd.EPOCH)) (some (fget (s.obj o) Obj.VALUE))
  exact ⟨_, congrArg Host.Outcome.next (objWrite_of_objCommand hblock hsome hcmd), fun i hi => (hobj i).trans (if_neg hi),
    (hobj o).trans (if_pos rfl)⟩

theorem exec_objRetire (hs : s.Wf) (hblock : blockCause s (objCmdOff o 1) = 0) (hcmd : fget v OCmd.CMD = 3)
    (hclear : v &&& 0xFFFF0000800000C0#64 = 0)
    (h : fget (s.obj o) Obj.STATE = 3 ∨ ((fget (s.obj o) Obj.STATE = 1 ∨ fget (s.obj o) Obj.STATE = 2) ∧
      ownsObj w (s.obj o) = true ∧ fget (s.obj o) Obj.WAITERS = 0)) :
    ∃ t, exec (.objRetire w o v) s = .next t ∧ (∀ i, i ≠ o.val → t.obj i = s.obj i) ∧
      fget (t.obj o) Obj.STATE = 0 ∧ fget (t.obj o) Obj.OWNER = 0xFF := by
  have hsome := (objCommand_retire (s := s) (w := w) (o := o) hclear hcmd).trans (retireObj_eq_some h)
  refine ⟨_, congrArg Host.Outcome.next (objWrite_of_objCommand hblock hsome hcmd), fun i hi => ?_, ?_⟩
  · rw [obj_setObj hs, if_neg hi]
  · rw [obj_setObj hs, if_pos rfl]
    exact fget_retired _

end

/-- Settles O49: each command within its condition and against it; a reserved bit of word 1 refuses all three. -/
theorem objectCommandsKeepTheirConditions : Obligations.ObjectCommandsKeepTheirConditions := by
  rintro s w o v r l c hs hblock rfl rfl rfl hidle
  refine ⟨fun hcmd => ⟨fun hclear hretired hhost hnone => ?claim, fun hagainst => ?claimRefused⟩,
    fun hcmd => ⟨fun hclear howns hlive hfree hnone => ?rearm, fun hagainst => ?rearmRefused⟩,
    fun hcmd => ⟨fun hclear hmay => ?retire, fun hagainst => ?retireRefused⟩, fun _ _ => rfl, fun _ => rfl⟩
  case claim =>
    obtain ⟨t, hexec, hothers, hobj⟩ := exec_objClaim hs hblock hidle hcmd hclear hretired (ownerCode_claimOwner hhost) hnone
    obtain ⟨hvalue, hepoch, hstream, htree, hchip, hen, hpartner, howner⟩ := claimed_takes _ _ claimOwner_lt _ hobj
    refine ⟨t, hexec, hothers, hvalue, hepoch, hstream, htree, hchip, hen, hpartner, ?_, ?_, claimed_clears _ _ _ _ hobj⟩
    · rintro q rfl
      exact howner
    · rintro n d rfl
      exact howner
  case claimRefused =>
    refine congrArg Host.Outcome.next (objWrite_refused hblock hcmd ?_)
    by_cases hclear : v &&& 0xFFFF0000800000C0#64 = 0
    · exact (objCommand_claim hclear hcmd).trans (claimObj_eq_none
        ((hagainst.resolve_left (not_not.mpr hclear)).imp_right ownerCode_claimOwner_eq_false))
    · exact objCommand_reserved hclear
  case rearm => exact exec_objRearm hs hblock hidle hcmd hclear howns hlive hfree hnone
  case rearmRefused =>
    refine congrArg Host.Outcome.next (objWrite_refused hblock hcmd ?_)
    by_cases hclear : v &&& 0xFFFF0000800000C0#64 = 0
    · exact (objCommand_rearm hclear hcmd).trans (rearmObj_eq_none (hagainst.resolve_left (not_not.mpr hclear)))
    · exact objCommand_reserved hclear
  case retire => exact exec_objRetire hs hblock hcmd hclear hmay
  case retireRefused =>
    refine congrArg Host.Outcome.next (objWrite_refused hblock hcmd ?_)
    by_cases hclear : v &&& 0xFFFF0000800000C0#64 = 0
    · exact (objCommand_retire hclear hcmd).trans (retireObj_eq_none (hagainst.resolve_left (not_not.mpr hclear)))
    · exact objCommand_reserved hclear

end Sys2Proof.Machine
end

section
/-! PROOFS. What every command keeps (O40, O43) and what follows for a step, a run and reset (O37, O38, O39, O41, O42). -/
namespace Sys2Proof.Machine

/-! ## Every command answers a next state -/

/-- Every arm of the dispatch calls a meaning that answers a next state outright. -/
theorem exec_next (c : Instr) (s : State) : ∃ t, exec c s = .next t := by
  cases c <;> exact ⟨_, rfl⟩

/-- Every meaning keeps the tables canonical and the queue as it is: one law for each row of the opcode table. -/
theorem keeps_exec {c : Instr} {s t : State} (h : exec c s = .next t) : Keeps s t := by
  cases c with
  | passIssue => exact keeps_execPassIssue (Keeps.refl s) h
  | passBegin => exact keeps_execPassBegin (Keeps.refl s) h
  | passEnd => exact keeps_execPassEnd (Keeps.refl s) h
  | sedgeSegment => exact keeps_execSedgeSegment (Keeps.refl s) h
  | drainBegin => exact keeps_execDrainBegin (Keeps.refl s) h
  | drainComplete => exact keeps_execDrainComplete (Keeps.refl s) h
  | plankFault => exact keeps_execPlankFault (Keeps.refl s) h
  | plankSuspendCmd => exact keeps_execPlankSuspendCmd (Keeps.refl s) h
  | plankFaultAck => exact keeps_execPlankFaultAck (Keeps.refl s) h
  | plankDiscardSpill => exact keeps_execPlankDiscardSpill (Keeps.refl s) h
  | spillStart => exact keeps_execSpillStart (Keeps.refl s) h
  | spillComplete => exact keeps_execSpillComplete (Keeps.refl s) h
  | spillReloadComplete => exact keeps_execSpillReloadComplete (Keeps.refl s) h
  | plankMask => exact keeps_execPlankMask (Keeps.refl s) h
  | accAddout => exact keeps_execAccAddout (Keeps.refl s) h
  | addoutBegin => exact keeps_execAddoutBegin (Keeps.refl s) h
  | addoutComplete => exact keeps_execAddoutComplete (Keeps.refl s) h
  | accLoadin => exact keeps_execAccLoadin (Keeps.refl s) h
  | loadinBegin => exact keeps_execLoadinBegin (Keeps.refl s) h
  | loadinComplete => exact keeps_execLoadinComplete (Keeps.refl s) h
  | passFence => exact keeps_execPassFence (Keeps.refl s) h
  | plankSusp => exact keeps_execPlankSusp (Keeps.refl s) h
  | vecIssue => exact keeps_execVecIssue (Keeps.refl s) h
  | vecRun => exact keeps_execVecRun (Keeps.refl s) h
  | vecFence => exact keeps_execVecFence (Keeps.refl s) h
  | vecXi => exact keeps_execVecXi (Keeps.refl s) h
  | vecMvx => exact keeps_execVecMvx (Keeps.refl s) h
  | vnop => exact keeps_execVnop (Keeps.refl s) h
  | addF32 => exact keeps_execAddF32 (Keeps.refl s) h
  | subF32 => exact keeps_execSubF32 (Keeps.refl s) h
  | mulF32 => exact keeps_execMulF32 (Keeps.refl s) h
  | fmaF32 => exact keeps_execFmaF32 (Keeps.refl s) h
  | minF32 => exact keeps_execMinF32 (Keeps.refl s) h
  | maxF32 => exact keeps_execMaxF32 (Keeps.refl s) h
  | absF32 => exact keeps_execAbsF32 (Keeps.refl s) h
  | negF32 => exact keeps_execNegF32 (Keeps.refl s) h
  | divF32 => exact keeps_execDivF32 (Keeps.refl s) h
  | sqrtF32 => exact keeps_execSqrtF32 (Keeps.refl s) h
  | cmp => exact keeps_execCmp (Keeps.refl s) h
  | sel => exact keeps_execSel (Keeps.refl s) h
  | andB32 => exact keeps_execAndB32 (Keeps.refl s) h
  | orB32 => exact keeps_execOrB32 (Keeps.refl s) h
  | xorB32 => exact keeps_execXorB32 (Keeps.refl s) h
  | shlB32 => exact keeps_execShlB32 (Keeps.refl s) h
  | shrB32 => exact keeps_execShrB32 (Keeps.refl s) h
  | ldW => exact keeps_execLdW (Keeps.refl s) h
  | ldH => exact keeps_execLdH (Keeps.refl s) h
  | stW => exact keeps_execStW (Keeps.refl s) h
  | stH => exact keeps_execStH (Keeps.refl s) h
  | cvtRegister => exact keeps_execCvtRegister (Keeps.refl s) h
  | cvtStream => exact keeps_execCvtStream (Keeps.refl s) h
  | cvtRb => exact keeps_execCvtRb (Keeps.refl s) h
  | cvtM => exact keeps_execCvtM (Keeps.refl s) h
  | cvtMxExport => exact keeps_execCvtMxExport (Keeps.refl s) h
  | amaxTile => exact keeps_execAmaxTile (Keeps.refl s) h
  | statFold => exact keeps_execStatFold (Keeps.refl s) h
  | tabLd => exact keeps_execTabLd (Keeps.refl s) h
  | tabF => exact keeps_execTabF (Keeps.refl s) h
  | redAdd => exact keeps_execRedAdd (Keeps.refl s) h
  | amaxV => exact keeps_execAmaxV (Keeps.refl s) h
  | rngV => exact keeps_execRngV (Keeps.refl s) h
  | card => exact keeps_execCard (Keeps.refl s) h
  | uncard => exact keeps_execUncard (Keeps.refl s) h
  | corrSum => exact keeps_execCorrSum (Keeps.refl s) h
  | chkCmp => exact keeps_execChkCmp (Keeps.refl s) h
  | optAdamw => exact keeps_execOptAdamw (Keeps.refl s) h
  | syncAdd => exact keeps_execSyncAdd (Keeps.refl s) h
  | syncSet => exact keeps_execSyncSet (Keeps.refl s) h
  | syncWait => exact keeps_execSyncWait (Keeps.refl s) h
  | syncWaitReturn => exact keeps_execSyncWaitReturn (Keeps.refl s) h
  | fillPassIssue => exact keeps_execFillPassIssue (Keeps.refl s) h
  | fillEnq => exact keeps_execFillEnq (Keeps.refl s) h
  | fillFlush => exact keeps_execFillFlush (Keeps.refl s) h
  | ilvNext => exact keeps_execIlvNext (Keeps.refl s) h
  | strmQp => exact keeps_execStrmQp (Keeps.refl s) h
  | strmState => exact keeps_execStrmState (Keeps.refl s) h
  | strmEnd => exact keeps_execStrmEnd (Keeps.refl s) h
  | xfer => exact keeps_execXfer (Keeps.refl s) h
  | xferComplete => exact keeps_execXferComplete (Keeps.refl s) h
  | coreAutoReset => exact keeps_execCoreAutoReset (Keeps.refl s) h
  | coreQuiesce => exact keeps_execCoreQuiesce (Keeps.refl s) h
  | contextWriteComplete => exact keeps_execContextWriteComplete (Keeps.refl s) h
  | coreResume p ecc => exact keeps_execCoreResume (p := p) (ecc := ecc) (Keeps.refl s) h
  | coreStart => exact keeps_execCoreStart (Keeps.refl s) h
  | coreReset => exact keeps_execCoreReset (Keeps.refl s) h
  | coreDiscardCtx => exact keeps_execCoreDiscardCtx (Keeps.refl s) h
  | checkBegin => exact keeps_execCheckBegin (Keeps.refl s) h
  | checkReductionComplete => exact keeps_execCheckReductionComplete (Keeps.refl s) h
  | attemptBegin => exact keeps_execAttemptBegin (Keeps.refl s) h
  | suspectReplay => exact keeps_execSuspectReplay (Keeps.refl s) h
  | secondRoundReduction => exact keeps_execSecondRoundReduction (Keeps.refl s) h
  | seqLossNonfinite => exact keeps_execSeqLossNonfinite (Keeps.refl s) h
  | updateStageU1 => exact keeps_execUpdateStageU1 (Keeps.refl s) h
  | updateStageU2 => exact keeps_execUpdateStageU2 (Keeps.refl s) h
  | updateStageU3 => exact keeps_execUpdateStageU3 (Keeps.refl s) h
  | updateStageU4 => exact keeps_execUpdateStageU4 (Keeps.refl s) h
  | updateStageU5 => exact keeps_execUpdateStageU5 (Keeps.refl s) h
  | evaluationPoint => exact keeps_execEvaluationPoint (Keeps.refl s) h
  | errorFiled => exact keeps_execErrorFiled (Keeps.refl s) h
  | soundingSlice => exact keeps_execSoundingSlice (Keeps.refl s) h
  | soundingSliceEnd => exact keeps_execSoundingSliceEnd (Keeps.refl s) h
  | soundWinArm => exact keeps_execSoundWinArm (Keeps.refl s) h
  | soundOverdue => exact keeps_execSoundOverdue (Keeps.refl s) h
  | integRestore => exact keeps_execIntegRestore (Keeps.refl s) h
  | integUnmask => exact keeps_execIntegUnmask (Keeps.refl s) h
  | slotServe => exact keeps_execSlotServe (Keeps.refl s) h
  | bankRefresh => exact keeps_execBankRefresh (Keeps.refl s) h
  | calibrationSlice => exact keeps_execCalibrationSlice (Keeps.refl s) h
  | calPeriodExpiry => exact keeps_execCalPeriodExpiry (Keeps.refl s) h
  | calRetrain => exact keeps_execCalRetrain (Keeps.refl s) h
  | retrainComplete => exact keeps_execRetrainComplete (Keeps.refl s) h
  | stackTempRead => exact keeps_execStackTempRead (Keeps.refl s) h
  | pcSwitchArm => exact keeps_execPcSwitchArm (Keeps.refl s) h
  | shareSwitchApply => exact keeps_execShareSwitchApply (Keeps.refl s) h
  | bankSwitchArm => exact keeps_execBankSwitchArm (Keeps.refl s) h
  | bankSwitchApply => exact keeps_execBankSwitchApply (Keeps.refl s) h
  | psMapWrite => exact keeps_execPsMapWrite (Keeps.refl s) h
  | frameReceive => exact keeps_execFrameReceive (Keeps.refl s) h
  | linkTrainingDone => exact keeps_execLinkTrainingDone (Keeps.refl s) h
  | linkTrainingTimeout => exact keeps_execLinkTrainingTimeout (Keeps.refl s) h
  | linkIdentify => exact keeps_execLinkIdentify (Keeps.refl s) h
  | codewordLockLost => exact keeps_execCodewordLockLost (Keeps.refl s) h
  | linkLossTimeout => exact keeps_execLinkLossTimeout (Keeps.refl s) h
  | linkDisable => exact keeps_execLinkDisable (Keeps.refl s) h
  | linkRetrain => exact keeps_execLinkRetrain (Keeps.refl s) h
  | linkTest => exact keeps_execLinkTest (Keeps.refl s) h
  | packetHeadRoute => exact keeps_execPacketHeadRoute (Keeps.refl s) h
  | causewayThreshold => exact keeps_execCausewayThreshold (Keeps.refl s) h
  | pktWrite => exact keeps_execPktWrite (Keeps.refl s) h
  | pktAccum => exact keeps_execPktAccum (Keeps.refl s) h
  | pktReadReq => exact keeps_execPktReadReq (Keeps.refl s) h
  | pktReadData => exact keeps_execPktReadData (Keeps.refl s) h
  | pktDone => exact keeps_execPktDone (Keeps.refl s) h
  | pktSignal => exact keeps_execPktSignal (Keeps.refl s) h
  | pktChunk => exact keeps_execPktChunk (Keeps.refl s) h
  | doneRecordFlush => exact keeps_execDoneRecordFlush (Keeps.refl s) h
  | treeArrive => exact keeps_execTreeArrive (Keeps.refl s) h
  | treeRelease => exact keeps_execTreeRelease (Keeps.refl s) h
  | treeOwnerMessage => exact keeps_execTreeOwnerMessage (Keeps.refl s) h
  | treeAbort => exact keeps_execTreeAbort (Keeps.refl s) h
  | markerEcho => exact keeps_execMarkerEcho (Keeps.refl s) h
  | fabricDrained => exact keeps_execFabricDrained (Keeps.refl s) h
  | objCmdWord0 => exact keeps_execObjCmdWord0 (Keeps.refl s) h
  | objClaim => exact keeps_execObjClaim (Keeps.refl s) h
  | objRearm => exact keeps_execObjRearm (Keeps.refl s) h
  | objRetire => exact keeps_execObjRetire (Keeps.refl s) h
  | waitWatchdog => exact keeps_execWaitWatchdog (Keeps.refl s) h
  | barrierWatchdog => exact keeps_execBarrierWatchdog (Keeps.refl s) h
  | inputSample => exact keeps_execInputSample (Keeps.refl s) h
  | capCompare => exact keeps_execCapCompare (Keeps.refl s) h
  | capUnmet => exact keeps_execCapUnmet (Keeps.refl s) h
  | powerCapWrite => exact keeps_execPowerCapWrite (Keeps.refl s) h
  | backstopEngage => exact keeps_execBackstopEngage (Keeps.refl s) h
  | backstopRelease => exact keeps_execBackstopRelease (Keeps.refl s) h
  | clockGlideStep => exact keeps_execClockGlideStep (Keeps.refl s) h
  | energyRead => exact keeps_execEnergyRead (Keeps.refl s) h
  | tempSensorRead => exact keeps_execTempSensorRead (Keeps.refl s) h
  | thermalClockStep => exact keeps_execThermalClockStep (Keeps.refl s) h
  | railOutOfRange => exact keeps_execRailOutOfRange (Keeps.refl s) h
  | trip => exact keeps_execTrip (Keeps.refl s) h
  | thrComputeWrite => exact keeps_execThrComputeWrite (Keeps.refl s) h
  | pwrEn => exact keeps_execPwrEn (Keeps.refl s) h
  | presentN => exact keeps_execPresentN (Keeps.refl s) h
  | thermTripN => exact keeps_execThermTripN (Keeps.refl s) h
  | resetN => exact keeps_execResetN (Keeps.refl s) h
  | holdN => exact keeps_execHoldN (Keeps.refl s) h
  | chatterExit => exact keeps_execChatterExit (Keeps.refl s) h
  | powerDownComplete => exact keeps_execPowerDownComplete (Keeps.refl s) h
  | hjelperWatchdogKick => exact keeps_execHjelperWatchdogKick (Keeps.refl s) h
  | hjelperWatchdogReset => exact keeps_execHjelperWatchdogReset (Keeps.refl s) h
  | hjelperRestart => exact keeps_execHjelperRestart (Keeps.refl s) h
  | activationRevert => exact keeps_execActivationRevert (Keeps.refl s) h
  | refclkLoss => exact keeps_execRefclkLoss (Keeps.refl s) h
  | refclkReturn => exact keeps_execRefclkReturn (Keeps.refl s) h
  | slotSelect => exact keeps_execSlotSelect (Keeps.refl s) h
  | dieCalibrationComplete => exact keeps_execDieCalibrationComplete (Keeps.refl s) h
  | ethPortUp => exact keeps_execEthPortUp (Keeps.refl s) h
  | arpRequest => exact keeps_execArpRequest (Keeps.refl s) h
  | neighbourSolicitation => exact keeps_execNeighbourSolicitation (Keeps.refl s) h
  | icmpEcho => exact keeps_execIcmpEcho (Keeps.refl s) h
  | sluiceFragment => exact keeps_execSluiceFragment (Keeps.refl s) h
  | reassemblyTimeout => exact keeps_execReassemblyTimeout (Keeps.refl s) h
  | sessionIdleTimeout => exact keeps_execSessionIdleTimeout (Keeps.refl s) h
  | hello => exact keeps_execHello (Keeps.refl s) h
  | finish => exact keeps_execFinish (Keeps.refl s) h
  | ident => exact keeps_execIdent (Keeps.refl s) h
  | statusVerb => exact keeps_execStatusVerb (Keeps.refl s) h
  | attest => exact keeps_execAttest (Keeps.refl s) h
  | peek => exact keeps_execPeek (Keeps.refl s) h
  | poke => exact keeps_execPoke (Keeps.refl s) h
  | jobLoad => exact keeps_execJobLoad (Keeps.refl s) h
  | suspendStream => exact keeps_execSuspendStream (Keeps.refl s) h
  | resumeStream => exact keeps_execResumeStream (Keeps.refl s) h
  | cancelStream => exact keeps_execCancelStream (Keeps.refl s) h
  | streamQuiesced => exact keeps_execStreamQuiesced (Keeps.refl s) h
  | holdStep => exact keeps_execHoldStep (Keeps.refl s) h
  | releaseStep => exact keeps_execReleaseStep (Keeps.refl s) h
  | verdict => exact keeps_execVerdict (Keeps.refl s) h
  | checkpoint => exact keeps_execCheckpoint (Keeps.refl s) h
  | checkpointWrite => exact keeps_execCheckpointWrite (Keeps.refl s) h
  | drainFabric => exact keeps_execDrainFabric (Keeps.refl s) h
  | tableLoad => exact keeps_execTableLoad (Keeps.refl s) h
  | undrain => exact keeps_execUndrain (Keeps.refl s) h
  | syncDump => exact keeps_execSyncDump (Keeps.refl s) h
  | logRead => exact keeps_execLogRead (Keeps.refl s) h
  | peatRead => exact keeps_execPeatRead (Keeps.refl s) h
  | updateBegin => exact keeps_execUpdateBegin (Keeps.refl s) h
  | updateChunk => exact keeps_execUpdateChunk (Keeps.refl s) h
  | updateCommit => exact keeps_execUpdateCommit (Keeps.refl s) h
  | updateActivate => exact keeps_execUpdateActivate (Keeps.refl s) h
  | margin => exact keeps_execMargin (Keeps.refl s) h
  | pattern => exact keeps_execPattern (Keeps.refl s) h
  | keyDeliver => exact keeps_execKeyDeliver (Keeps.refl s) h
  | streamOpen => exact keeps_execStreamOpen (Keeps.refl s) h
  | streamClose => exact keeps_execStreamClose (Keeps.refl s) h
  | eventAck => exact keeps_execEventAck (Keeps.refl s) h
  | eventResend => exact keeps_execEventResend (Keeps.refl s) h
  | ingestRecord => exact keeps_execIngestRecord (Keeps.refl s) h
  | egressRecordWrite => exact keeps_execEgressRecordWrite (Keeps.refl s) h
  | loadRecord => exact keeps_execLoadRecord (Keeps.refl s) h
  | roceAck => exact keeps_execRoceAck (Keeps.refl s) h
  | roceAckTimeout => exact keeps_execRoceAckTimeout (Keeps.refl s) h
  | cnpReceive => exact keeps_execCnpReceive (Keeps.refl s) h
  | rateIncrease => exact keeps_execRateIncrease (Keeps.refl s) h
  | registerWrite => exact keeps_execRegisterWrite (Keeps.refl s) h
  | coreBaseInstruction => exact keeps_execCoreBaseInstruction (Keeps.refl s) h
  | outputPortCycle => exact keeps_execOutputPortCycle (Keeps.refl s) h
  | patternCheckerLock => exact keeps_execPatternCheckerLock (Keeps.refl s) h
  | inputPathChange => exact keeps_execInputPathChange (Keeps.refl s) h
  | loadReadIssue => exact keeps_execLoadReadIssue (Keeps.refl s) h
  | creditRecord => exact keeps_execCreditRecord (Keeps.refl s) h
  | jobUnload => exact keeps_execJobUnload (Keeps.refl s) h

/-- Settles O40: what a command keeps includes the queue. -/
theorem everyCommandAnswersANextState : Obligations.EveryCommandAnswersANextState := by
  intro c s
  obtain ⟨t, ht⟩ := exec_next c s
  exact ⟨t, ht, (keeps_exec ht).queue⟩

/-! ## A step and a run -/

/-- Settles O37: the front command is the head of the list on which `step` branches. -/
theorem stepRunsTheFrontCommand : Obligations.StepRunsTheFrontCommand := fun _ _ _ => rfl

/-- Settles O38: the other branch of `step`. -/
theorem emptyQueueIdles : Obligations.EmptyQueueIdles := by
  intro s hempty
  simp [step, hempty]

/-- The queue is no table: what a command finds at the front may go without harm to the invariant. -/
theorem wf_pending {s : State} (hs : s.Wf) (cs : List Instr) : State.Wf { s with pending := cs } :=
  { hs with }

/-- One step takes one command off the queue, if there is one, and keeps the tables. -/
theorem step_next (s : State) : ∃ t, step s = .next t ∧ (s.Wf → t.Wf) ∧ t.pending = s.pending.tail := by
  cases hqueue : s.pending with
  | nil => exact ⟨s, emptyQueueIdles s hqueue, id, hqueue⟩
  | cons c cs =>
    obtain ⟨t, ht⟩ := exec_next c { s with pending := cs }
    have hkeeps := keeps_exec ht
    refine ⟨t, ?_, fun hs => hkeeps.wf (wf_pending hs cs), hkeeps.queue⟩
    simpa [step, hqueue] using ht

/-- Settles O43: the command at the front keeps the tables, and taking it off the queue touches none. -/
theorem everyStepKeepsTheTables : Obligations.EveryStepKeepsTheTables := by
  intro s t hs ht
  obtain ⟨u, hu, hwf, -⟩ := step_next s
  obtain rfl := Host.Outcome.next.inj (hu.symm.trans ht)
  exact hwf hs

/-- Settles O41, by induction on the number of steps: each takes the head of what is left. -/
theorem commandsRunFirstInFirstOut : Obligations.CommandsRunFirstInFirstOut := by
  intro k
  induction k with
  | zero => exact fun s => ⟨s, rfl, rfl⟩
  | succ k ih =>
    intro s
    obtain ⟨t, ht, -, hpending⟩ := step_next s
    obtain ⟨u, hu, hdrop⟩ := ih t
    refine ⟨u, ?_, ?_⟩
    · simpa [State.run, ht] using hu
    · rw [hdrop, hpending, List.drop_tail]

/-! ## Reset and the fetched word -/

/-- Settles O42: every table of the reset state is empty, which is canonical and reads as its default throughout. -/
theorem resetMeetsTheInvariant : Obligations.ResetMeetsTheInvariant := by
  refine ⟨?_, rfl, rfl, rfl, fun _ => rfl, fun _ => rfl⟩
  exact ⟨kwf_nil _, kwf_nil _, kwf_nil _, kwf_nil _, kwf_nil _, kwf_nil _, kwf_nil _, kwf_nil _, kwf_nil _, kwf_nil _,
    canonical_reset⟩

/-- Settles O39: the table of the decoder is empty, so no command joins the queue. -/
theorem noWordSpellsACommand : Obligations.NoWordSpellsACommand := fun _ _ _ => ⟨rfl, rfl⟩

end Sys2Proof.Machine
end

section
/-! PROOFS. Integrity commands (O17): errors, sounding slices and the writes of SOUND_WIN and INTEG_CTL (R317, R319, R320, R324,
R325, R327). -/
namespace Sys2Proof.Machine

section
variable {s : State} {p : PlankId}

/-- A unit that is a plank of the module, or of another class, has its error filed. -/
theorem exec_errorFiled {cls : BitVec 8} {unit : BitVec 16} (code : BitVec 8) (hunit : cls ≠ 0 ∨ unit.toNat < 160) :
    exec (.errorFiled cls unit code) s = .next (fileError s cls.toNat unit.toNat code.toNat 0 0
      (if cls.toNat = 0 then plankStep s unit.toNat else 0)) := by
  have hfiled : ¬ (cls.toNat = 0 ∧ 160 ≤ unit.toNat) := fun ⟨hplank, hbeyond⟩ =>
    hunit.elim (fun h => h (BitVec.eq_of_toNat_eq hplank)) (fun h => absurd h (not_lt.mpr hbeyond))
  simp [exec, execErrorFiled, hfiled]

theorem exec_soundingSlice (hmay : maySound s p = true) : exec (.soundingSlice p) s = .next (sliceBegins s p) := by
  simp [exec, execSoundingSlice, hmay]

theorem exec_soundingSliceEnd (passed : Bool) (hrunning : s.rbit (Reg.SOUND_STATUS_RUNNING p) = true) :
    exec (.soundingSliceEnd p passed) s = .next (sliceEnds s p passed) := by
  simp [exec, execSoundingSliceEnd, hrunning]

theorem exec_soundOverdue (hmask : maskedPlank s p = false) : exec (.soundOverdue p) s = .next (noteOverdue s p) := by
  simp [exec, execSoundOverdue, hmask]

theorem exec_soundWinArm (w : Writer) (n : BitVec 8) (hb : blockCause s (Reg.SOUND_WIN_ARM p).off = 0) :
    exec (.soundWinArm p w n) s = .next (armSlices s p n.toNat) :=
  congrArg Host.Outcome.next (regCommand_of_blockCause_zero hb w _)

/-- RESTORE and UNMASK stand in one word, INTEG_CTL, so one block and one guard are in front of both. -/
theorem exec_integCtl (w : Writer) (hb : blockCause s (Reg.INTEG_CTL_RESTORE p).off = 0) (hidle : s.jobs = []) :
    exec (.integRestore p w) s = .next (restorePlank s p) ∧ exec (.integUnmask p w) s = .next (unmaskPlank s p) := by
  have hfree : (!s.jobs.isEmpty) = false := by simp [hidle]
  exact ⟨congrArg Host.Outcome.next (guardedCommand_of_blockCause_zero hb hfree w _),
    congrArg Host.Outcome.next (guardedCommand_of_blockCause_zero (off := (Reg.INTEG_CTL_UNMASK p).off) hb hfree w _)⟩

end

/-- Settles O17: each command past its own condition. -/
theorem integrityCommandsComplete : Obligations.IntegrityCommandsComplete := fun _ _ w =>
  ⟨fun _ _ code => exec_errorFiled code, exec_soundingSlice, fun passed => exec_soundingSliceEnd passed, exec_soundOverdue,
    exec_soundWinArm w, exec_integCtl w⟩

end Sys2Proof.Machine
end

section
/-! PROOFS. What Hjelper samples and the voltages it logs (O24, O59): the readings, an island's rail within 5 % of its target and
outside, the input path (R336, R340, R343, R344, R349, R421). -/
namespace Sys2Proof.Machine

section
variable {s : State}

theorem exec_inputSample (mv cur : BitVec 16) (hon : alwaysOn s = true) :
    exec (.inputSample mv cur) s = .next (inputSampled s mv cur) := by
  simp [exec, execInputSample, hon]

theorem exec_energyRead (nj : EnergyReading) (hruns : hjRuns s = true) : exec (.energyRead nj) s = .next (energyAdded s nj) := by
  simp [exec, execEnergyRead, hruns]

theorem exec_tempSensorRead (sensor : Fin 200) (temp : BitVec 16) (hon : alwaysOn s = true) :
    exec (.tempSensorRead sensor temp) s = .next (sensorRead s sensor temp) := by
  simp [exec, execTempSensorRead, hon]

/-! ## Rails (R344) -/

theorem exec_railOutOfRange_vin_outside (hon : alwaysOn s = true) (hout : s.rget Reg.VIN_MV < 32000 ∨ 40000 < s.rget Reg.VIN_MV) :
    exec (.railOutOfRange .vin) s = .next (fileEvent (alert s 3) 1 0x0033 8 0 0 0) := by
  have hrange : ¬ (32000 ≤ s.rget Reg.VIN_MV ∧ s.rget Reg.VIN_MV ≤ 40000) := by omega
  simp [exec, execRailOutOfRange, hon, hrange]

theorem exec_railOutOfRange_vin_inside (hon : alwaysOn s = true) (hlo : 32000 ≤ s.rget Reg.VIN_MV)
    (hhi : s.rget Reg.VIN_MV ≤ 40000) : exec (.railOutOfRange .vin) s = .next s := by
  simp [exec, execRailOutOfRange, hon, hlo, hhi]

/-- The distance that the command takes of a reading from its target, without a sign. -/
theorem railDistance_eq_natAbs (target v : Nat) :
    (if v < target then target - v else v - target) = ((target : Int) - v).natAbs := by
  split <;> omega

theorem exec_railOutOfRange_island_inside {i : Fin 192} {mv : BitVec 16} (hon : alwaysOn s = true)
    (hin : 20 * ((s.rget (Reg.VMON_TARGET i) : Int) - mv.toNat).natAbs ≤ s.rget (Reg.VMON_TARGET i)) :
    exec (.railOutOfRange (.island i mv)) s = .next (railTaken s i mv.toNat) := by
  simp [exec, execRailOutOfRange, hon, railDistance_eq_natAbs, hin]

theorem exec_railOutOfRange_island_outside {i : Fin 192} {mv : BitVec 16} {t : State} (hon : alwaysOn s = true)
    (hout : s.rget (Reg.VMON_TARGET i) < 20 * ((s.rget (Reg.VMON_TARGET i) : Int) - mv.toNat).natAbs)
    (ht : t = railTaken s i mv.toNat) :
    exec (.railOutOfRange (.island i mv)) s = .next (fileEvent { t with board := { t.board with pgOut := false } } 1 0x0034
      (sensorUnit i).1 (sensorUnit i).2 0 0) := by
  simp [exec, execRailOutOfRange, hon, railDistance_eq_natAbs, Nat.not_le.mpr hout, ht]

/-! ## The input path (R421) -/

theorem exec_inputPathChange_ok {mv : BitVec 16} (hok : 30500 ≤ mv.toNat) :
    exec (.inputPathChange mv) s = .next (tryPowerOn { s with board := { s.board with vinOk := true } }) := by
  simp [exec, execInputPathChange, hok]

theorem exec_inputPathChange_opens {mv : BitVec 16} (hlow : mv.toNat < 28000) (hclosed : s.board.inputClosed = true)
    (hon : modState s ≠ 0) :
    exec (.inputPathChange mv) s = .next (pathOpens (powerDown { s with board := { s.board with vinOk := false } })) := by
  have hbad : ¬ 30500 ≤ mv.toNat := by omega
  have hopen : (decide (mv.toNat < 28000) && s.board.inputClosed) = true := by simp [hlow, hclosed]
  exact congrArg Host.Outcome.next ((if_neg hbad).trans ((if_pos hopen).trans (congrArg pathOpens (if_neg hon))))

end

/-- Settles O24: each reading while the domain that holds it has power, and each side of each limit. -/
theorem samplesAreTaken : Obligations.SamplesAreTaken := fun _ =>
  ⟨exec_inputSample, exec_energyRead, exec_tempSensorRead, exec_railOutOfRange_vin_outside,
    fun _ _ hon => ⟨exec_railOutOfRange_island_inside hon, fun _ => exec_railOutOfRange_island_outside hon⟩,
    fun _ => exec_inputPathChange_ok, fun _ => exec_inputPathChange_opens⟩

/-- Settles O59: 5 % is one part in twenty, so the limits are those of the rules above. -/
theorem voltagesOutOfRangeAreLogged : Obligations.VoltagesOutOfRangeAreLogged := by
  intro s hon
  refine ⟨exec_railOutOfRange_vin_outside hon, exec_railOutOfRange_vin_inside hon, ?_⟩
  rintro i mv target rfl
  exact ⟨fun t hout => exec_railOutOfRange_island_outside hon (by omega), fun hin => exec_railOutOfRange_island_inside hon (by omega)⟩

end Sys2Proof.Machine
end

section
/-! PROOFS. Power commands (O25): the cap, the backstop, the thermal clock and the trip (R334, R337, R338, R339, R343, R345, R349). -/
namespace Sys2Proof.Machine

section
variable {s : State}

/-! ## The power cap (R337) -/

theorem exec_capCompare_lowers (hruns : hjRuns s = true) (hen : s.rbit Reg.POWER_CAP_EN = true)
    (hover : s.rget Reg.POWER_CAP_CAP_W * 1000 < s.rget Reg.INPUT_PWR_AVG_MW) :
    exec (.capCompare) s = .next (setCapClock s (max 1350 (s.rget Reg.POWER_STATUS_CAP_MHZ - 27))) := by
  simp [exec, execCapCompare, hruns, hen, hover]

/-- Without a cap the clock rises whatever the power is. -/
theorem exec_capCompare_raises (hruns : hjRuns s = true) (hen : s.rbit Reg.POWER_CAP_EN = false) :
    exec (.capCompare) s = .next (setCapClock s (min 2700 (s.rget Reg.POWER_STATUS_CAP_MHZ + 27))) := by
  simp [exec, execCapCompare, hruns, hen]

theorem exec_capUnmet (hruns : hjRuns s = true) (hen : s.rbit Reg.POWER_CAP_EN = true)
    (hlowest : s.rget Reg.POWER_STATUS_CAP_MHZ = 1350) (hfirst : s.rbit Reg.POWER_STATUS_UNMET = false)
    (hover : s.rget Reg.POWER_CAP_CAP_W * 1000 < s.rget Reg.INPUT_PWR_AVG_MW) :
    exec (.capUnmet) s = .next (fileEvent (alert (s.rset Reg.POWER_STATUS_UNMET 1) 4) 1 0x0022 6 0 0 0) := by
  simp [exec, execCapUnmet, hruns, hen, hlowest, hfirst, hover]

theorem exec_powerCapWrite (w : Writer) (v : Word64) (hb : blockCause s Reg.POWER_CAP_CAP_W.off = 0) :
    exec (.powerCapWrite w v) s = .next (powerCapOp s v) :=
  congrArg Host.Outcome.next (regCommand_of_blockCause_zero hb w _)

/-! ## The backstop (R338, R339) -/

theorem exec_backstopEngage (hon : alwaysOn s = true) (hoff : s.rbit Reg.POWER_STATUS_BACKSTOP = false)
    (hover : s.rget Reg.IIN_LIMIT_LIMIT < s.rget Reg.IIN_CUR) :
    exec (.backstopEngage) s = .next (markIvs (fileEvent (alert (s.rset Reg.POWER_STATUS_BACKSTOP 1) 5) 1 0x0023 6 0 0 0)
      (fun v => { v with backstop := true })) := by
  simp [exec, execBackstopEngage, hon, hoff, hover]

theorem exec_backstopRelease (hruns : hjRuns s = true) (hengaged : s.rbit Reg.POWER_STATUS_BACKSTOP = true)
    (hunder : s.rget Reg.INPUT_PWR_AVG_MW < s.rget Reg.POWER_CAP_CAP_W * 1000) :
    exec (.backstopRelease) s = .next (s.rset Reg.POWER_STATUS_BACKSTOP 0) := by
  simp [exec, execBackstopRelease, hruns, hengaged, hunder]

/-! ## Temperature and the trip (R343, R345) -/

theorem exec_thrComputeWrite (w : Writer) (v : Word64) (hb : blockCause s Reg.THR_COMPUTE_WARN.off = 0) :
    exec (.thrComputeWrite w v) s = .next (thrComputeOp s v) :=
  congrArg Host.Outcome.next (regCommand_of_blockCause_zero hb w _)

/-- One sensor of the die at the throttle limit is enough. -/
theorem exec_thermalClockStep_lowers {c : DieId} (hruns : hjRuns s = true)
    (hhot : ∃ i, i < 20 ∧ (16 * s.rget Reg.THR_COMPUTE_THROTTLE : Int) ≤ sensorTemp s (20 * c.val + i)) :
    exec (.thermalClockStep c) s = .next (markIvs (setThermal s c.val (max 1350 (thermalMhz s c.val - 27)))
      (fun v => { v with throttled := true })) := by
  have hany : (((List.range 20).map (fun i => sensorTemp s (20 * c.val + i))).any
      (fun t => decide ((16 * s.rget Reg.THR_COMPUTE_THROTTLE : Int) ≤ t))) = true := by
    simpa using hhot
  simp only [exec, execThermalClockStep, hruns, hany]
  rfl

theorem exec_trip {cause : TripCause} (hoff : modState s ≠ 0) (hreset : modState s ≠ 1) (htripped : modState s ≠ 8)
    (hcause : causeHolds s cause = true) : exec (.trip cause) s = .next (tripNow s) := by
  simp [exec, execTrip, hoff, hreset, htripped, hcause]

end

/-- Settles O25: each command when its condition holds. -/
theorem powerCommandsComplete : Obligations.PowerCommandsComplete := fun _ w v =>
  ⟨exec_capCompare_lowers, exec_capCompare_raises, exec_capUnmet, exec_powerCapWrite w v, exec_thrComputeWrite w v,
    exec_backstopEngage, exec_backstopRelease, fun _ => exec_thermalClockStep_lowers, fun _ => exec_trip⟩

end Sys2Proof.Machine
end

section
/-! PROOFS. The inputs of the module, Hjelper's management and bring-up (O27, O28): an accepted level, the end of chatter and of
power; the watchdog, the restart, the references, the boot slot and the calibration of the compute dies (R332, R333, R345 to R349,
R352, R399, R405, R409, R410, R423, R424, R431). -/
namespace Sys2Proof.Machine

section
variable {s : State}

/-! ## Pins -/

theorem exec_chatterExit {pin : Fin 5} (level : Bool) (hon : modState s ≠ 0)
    (hchatter : (kget pinReset s.board.pins pin.val).chatter = true) :
    exec (.chatterExit pin level) s = .next (chatterEnds s pin level) := by
  simp [exec, execChatterExit, hon, hchatter]

theorem exec_powerDownComplete (hoff : modState s = 0) (hclosed : s.board.inputClosed = true) :
    exec (.powerDownComplete) s = .next (tryPowerOn (pathOpens s)) := by
  simp [exec, execPowerDownComplete, hoff, hclosed]

/-! ## Hjelper's watchdog, restart and activation (R332, R352) -/

theorem exec_hjelperWatchdogKick (hruns : hjRuns s = true) :
    exec (.hjelperWatchdogKick) s = .next { s.tick with board := { s.board with wdogAt := s.hc } } := by
  simp [exec, execHjelperWatchdogKick, hruns]

theorem exec_hjelperWatchdogReset (hup : s.board.hjUp = true) : exec (.hjelperWatchdogReset) s = .next (hjelperFalls s) := by
  simp [exec, execHjelperWatchdogReset, hup]

theorem exec_hjelperRestart (read : Bool) (hmay : hjMayRun s = true) :
    exec (.hjelperRestart read) s = .next (hjelperRises s read) := by
  simp [exec, execHjelperRestart, hmay]

theorem exec_activationRevert {a : Activation} (hactive : s.board.activation = some a) (hdown : s.rget Reg.HJ_STATUS_STATE = 2) :
    exec (.activationRevert) s = .next (activationReverts s a) := by
  simp [exec, execActivationRevert, hactive, hdown]

/-! ## References, the boot slot and the compute dies (R333, R399, R409, R410) -/

theorem exec_refclkLoss {x : Fin 2} (ppm : BitVec 16) (hoff : modState s ≠ 0) (hreset : modState s ≠ 1)
    (hok : s.rbit (refOk x) = true) : exec (.refclkLoss x ppm) s = .next (refLost s x ppm) := by
  simp [exec, execRefclkLoss, hoff, hreset, hok]

theorem exec_refclkReturn {x : Fin 2} {ppm : BitVec 16} (hoff : modState s ≠ 0) (hreset : modState s ≠ 1)
    (hlost : s.rbit (refOk x) = false) (hnear : (signed ppm.toNat 16).natAbs ≤ 500) :
    exec (.refclkReturn x ppm) s = .next (refBack s x ppm) := by
  simp [exec, execRefclkReturn, hoff, hreset, hlost, Nat.not_lt.mpr hnear]

theorem exec_slotSelect (straps : BitVec 5) (hboot : modState s = 2) (hfirst : s.board.booted = false)
    (hable : s.board.recoveryFailed = false) : exec (.slotSelect straps) s = .next (slotChosen s straps) := by
  simp [exec, execSlotSelect, hboot, hfirst, hable]

theorem exec_dieCalibrationComplete {c : DieId} (ok0 ok1 : Bool) (sweeps : List SweepResult) (failed : List SoundingFail)
    (lists : JobLists) (hbooted : s.board.booted = true) (hruns : hjRuns s = true) (hnext : s.board.calNext = c.val)
    (hstate : modState s = 2 ∨ modState s = 4 ∨ modState s = 6) :
    exec (.dieCalibrationComplete c ok0 ok1 sweeps failed lists) s = .next (dieCalibrated s c ok0 ok1 sweeps failed lists) := by
  have hcalibrates : (modState s == 2 || modState s == 4 || modState s == 6) = true := by simpa [or_assoc] using hstate
  simp only [exec, execDieCalibrationComplete, hbooted, hruns, hnext, hcalibrates]
  simp

end

/-- Settles O27: the five inputs differ in their number alone. -/
theorem pinCommandsComplete : Obligations.PinCommandsComplete := fun _ level =>
  ⟨rfl, rfl, rfl, rfl, rfl, fun _ => exec_chatterExit level, exec_powerDownComplete⟩

/-- Settles O28: each command past its own condition. -/
theorem managementCommandsComplete : Obligations.ManagementCommandsComplete := fun _ =>
  ⟨exec_hjelperWatchdogKick, exec_hjelperWatchdogReset, exec_hjelperRestart, fun _ => exec_activationRevert,
    fun _ => exec_refclkLoss, fun _ _ => exec_refclkReturn, exec_slotSelect, fun _ => exec_dieCalibrationComplete⟩

end Sys2Proof.Machine
end

section
/-! PROOFS. The verbs of a firmware update (O34): each accepted verb past its own conditions; a refusal is noted before the answer
(R351, R395, R413 to R416). -/
namespace Sys2Proof.Machine

section
variable {s a : State} {rq : Req} {n : Nat} {x : Session}

/-- An accepted update verb notes a refusal in LAST_REFUSAL and answers. -/
theorem updateVerb_of_accepted {v : Verb} (h : Accepted s rq v n x a) {act : Nat → State → Answer × State} {r : Answer × State}
    (hr : act n a = r) : updateVerb s rq v act = respond (noteRefusal r.2 r.1) rq v.code r.1 := by
  subst hr
  rw [updateVerb, answerVerb_of_accepted h, h.session, Option.getD_some]

theorem exec_updateBegin {slot : BitVec 8} {len : BitVec 32} {r : Answer × State}
    (h : Accepted s rq { code := 0x50, inHold := true, inMire := true, inTrip := true, operator := true, enrol := true } n x a)
    (hslot : slot.toNat ≤ 1) (hr : r = updateBegin slot.toNat len.toNat n a) :
    exec (.updateBegin rq slot len) s = .next (respond (noteRefusal r.2 r.1) rq 0x50 r.1) :=
  congrArg Host.Outcome.next (updateVerb_of_accepted h ((if_neg (Nat.not_lt.mpr hslot)).trans hr.symm))

theorem exec_updateChunk {off : BitVec 32} {data : List Byte} {r : Answer × State}
    (h : Accepted s rq { code := 0x51, inHold := true, inMire := true, inTrip := true, operator := true, enrol := true } n x a)
    (hlen : data.length ≤ 61440) (hr : r = updateChunk off.toNat data n a) :
    exec (.updateChunk rq off data) s = .next (respond (noteRefusal r.2 r.1) rq 0x51 r.1) :=
  congrArg Host.Outcome.next (updateVerb_of_accepted h ((if_neg (Nat.not_lt.mpr hlen)).trans hr.symm))

theorem exec_updateCommit {r : Answer × State}
    (h : Accepted s rq { code := 0x52, inHold := true, inMire := true, inTrip := true, operator := true, enrol := true } n x a)
    (hr : r = updateCommit n a) : exec (.updateCommit rq) s = .next (respond (noteRefusal r.2 r.1) rq 0x52 r.1) :=
  congrArg Host.Outcome.next (updateVerb_of_accepted h hr.symm)

/-- The activation in Mire hold or in service, with a mask that names images and none under way; it answers at once, or when
Hjelper's reload is over. -/
theorem exec_updateActivate {mask : BitVec 32} {r : Option Answer × State}
    (h : Accepted s rq
      { code := 0x53, inHold := true, inMire := true, operator := true, enrol := true,
        cached := s.board.activation.isSome } n x a)
    (hmire : modState a = 3 → r = activateMire rq mask.toNat a)
    (hservice : modState a ≠ 3 → mask.toNat < 16 ∧ a.board.activation = none ∧ r = activateService rq mask.toNat a) :
    exec (.updateActivate rq mask) s = .next (r.1.elim (keep r.2 n rq.reqId none) (respond r.2 rq 0x53)) := by
  simp only [exec, execUpdateActivate, runVerb_of_accepted h]
  by_cases hstate : modState a = 3
  · simp [hstate, hmire hstate]
  · obtain ⟨hmask, hfree, rfl⟩ := hservice hstate
    simp [hstate, Nat.not_le.mpr hmask, hfree]

end

/-- Settles O34: each verb past its own conditions. -/
theorem updateVerbsComplete : Obligations.UpdateVerbsComplete := by
  intro s rq n x a
  refine ⟨fun _ _ _ => exec_updateBegin, fun _ _ _ => exec_updateChunk, fun _ => exec_updateCommit, ?_⟩
  rintro mask r v rfl h hmire hservice
  have hexec := exec_updateActivate h hmire hservice
  exact ⟨fun hwaits => by rw [hexec, hwaits, Option.elim_none], fun y hy => by rw [hexec, hy, Option.elim_some]⟩

end Sys2Proof.Machine
end

section
/-! PROOFS. Host ports and sessions (O29, O30): a port comes up and falls, answers the requests of the network, drops frames; a
fragment arrives, partial messages and sessions end, a session is set up (R356, R357, R362, R363, R365, R366, R368). -/
namespace Sys2Proof.Machine

section
variable {s t : State} {e : PortId} {x : EthIn}

/-! ## The port and the network (R356, R357) -/

theorem exec_ethPortUp_true (hserved : portServed s e = true) (htest : portInTest s e = false)
    (hclock : s.rbit Reg.REFCLK_STATUS_REF1_OK = true) :
    exec (.ethPortUp e true) s = .next (((s.rset (Reg.PORT_STATUS_UP e) 1).rset (Reg.PORT_STATUS_FEC_LOCK e) 1).rset
      (Reg.PORT_STATUS_AN_DONE e) 1) := by
  simp [exec, execEthPortUp, hserved, htest, hclock]

theorem exec_ethPortUp_false (hup : portIsUp s e = true) : exec (.ethPortUp e false) s = .next (portGoesDown s e) := by
  simp [exec, execEthPortUp, hup]

/-- A port that is up answers for its own IPv4 address. -/
theorem exec_arpRequest {tip : BitVec 32} (mac : BitVec 48) (sip : BitVec 32) (hup : portIsUp s e = true)
    (ht : t = portRx s e x 1) (htaken : frameDropped t e x = false) (hzero : tip ≠ 0#32) (hown : tip = portIp4 t e) :
    exec (.arpRequest e x mac sip tip) s =
      .next (portTx t e (.arpReply e (portVlan t e) (portMac t e) (portIp4 t e) mac sip) 1) := by
  subst ht hown
  simp [exec, execArpRequest, hup, htaken, hzero]

theorem exec_neighbourSolicitation {target : BitVec 128} (src : BitVec 128) (hup : portIsUp s e = true)
    (ht : t = portRx s e x 1) (htaken : frameDropped t e x = false) (hown : target = portIp6 t e) :
    exec (.neighbourSolicitation e x src target) s =
      .next (portTx t e (.neighbourAdvert e (portVlan t e) (portMac t e) (portIp6 t e) src) 1) := by
  subst ht hown
  simp [exec, execNeighbourSolicitation, hup, htaken]

theorem exec_icmpEcho_v6 {target : BitVec 128} (src : BitVec 128) (data : List Byte) (hup : portIsUp s e = true)
    (ht : t = portRx s e x 1) (htaken : frameDropped t e x = false) (hown : target = portIp6 t e) :
    exec (.icmpEcho e x true src target data) s =
      .next (portTx t e (.echoReply e (portVlan t e) true false target src data) 1) := by
  subst ht hown
  simp [exec, execIcmpEcho, hup, htaken]

theorem exec_icmpEcho_v4 {target : BitVec 128} (src : BitVec 128) (data : List Byte) (hup : portIsUp s e = true)
    (ht : t = portRx s e x 1) (htaken : frameDropped t e x = false) (hzero : portIp4 t e ≠ 0#32)
    (hown : target = (portIp4 t e).setWidth 128) :
    exec (.icmpEcho e x false src target data) s =
      .next (portTx t e (.echoReply e (portVlan t e) false true target src data) 1) := by
  subst ht hown
  simp [exec, execIcmpEcho, hup, htaken, hzero]

/-- A frame that the port drops is counted, whatever it asks for. -/
theorem exec_networkRequest_dropped (hup : portIsUp s e = true) (ht : t = portRx s e x 1) (hdrop : frameDropped t e x = true)
    (mac : BitVec 48) (sip tip : BitVec 32) (v6 : Bool) (src target : BitVec 128) (data : List Byte) :
    exec (.arpRequest e x mac sip tip) s = .next t ∧ exec (.neighbourSolicitation e x src target) s = .next t ∧
      exec (.icmpEcho e x v6 src target data) s = .next t := by
  subst ht
  simp [exec, execArpRequest, execNeighbourSolicitation, execIcmpEcho, hup, hdrop]

end

/-- Settles O29: each request for an address of the port's own, and the frames that it drops. -/
theorem networkCommandsComplete : Obligations.NetworkCommandsComplete := fun _ _ =>
  ⟨exec_ethPortUp_true, exec_ethPortUp_false, fun _ _ hup ht =>
    ⟨fun htaken => ⟨fun mac sip _ => exec_arpRequest mac sip hup ht htaken,
      fun src _ => exec_neighbourSolicitation src hup ht htaken, fun src _ data => exec_icmpEcho_v6 src data hup ht htaken,
      fun src _ data => exec_icmpEcho_v4 src data hup ht htaken⟩,
    exec_networkRequest_dropped hup ht⟩⟩

section
variable {s a : State} {e : PortId}

/-! ## Fragments and timeouts (R362, R363, R365) -/

/-- A fragment whose header is right joins its message, a sealed one through its session. -/
theorem exec_sluiceFragment {f : EthIn} {head : List Byte} (peer : Peer) (payload tag : List Byte) (hup : portIsUp s e = true)
    (ha : a = endSpent (portRx s e f 1)) (htaken : frameDropped a e f = false) (hhead : headOk head (parseHead head) = true)
    (hkind : kindAllowed (parseHead head) = true) :
    exec (.sluiceFragment e f peer head payload tag) s = .next (if (parseHead head).kind ≠ 1 then
      fragmentArrives a e peer (parseHead head) head payload payload
      else sealedFragment a e peer (parseHead head) head payload tag) := by
  subst ha
  simp [exec, execSluiceFragment, hup, htaken, hhead, hkind]

theorem exec_sessionIdleTimeout {n : Nat} (hsession : s.net.sessions.any (fun x => x.num == n) = true) :
    exec (.sessionIdleTimeout n) s = .next (endSession s n) :=
  congrArg Host.Outcome.next (if_pos hsession)

/-! ## Session set-up (R366, R368) -/

/-- A HELLO of the right length that is no repetition opens a session for a known host while there is room. -/
theorem exec_hello {reqId : BitVec 32} {payload : List Byte} {role : Nat} (peer : Peer) (hnet : netAnswers (endSpent s) e = true)
    (ha : a = helloTaken (endSpent s) reqId) (hlen : payload.length = 1664)
    (hnew : (liveSessions a).find? (fun x => x.helloReq == reqId && x.hello == payload) = none) (hgate : setupGate a = none)
    (hrole : roleOf a (slice payload 32 64) = some role) (hroom : (liveSessions a).length < 16) :
    exec (.hello e peer reqId payload) s = .next (sessionOpens a e peer reqId payload (slice payload 32 64) role) := by
  subst ha
  simp [exec, execHello, hnet, hlen, hnew, hgate, hrole, Nat.not_le.mpr hroom]

theorem exec_finish {n : Nat} {reqId : BitVec 32} {payload : List Byte} {x : Session} (peer : Peer)
    (hnet : netAnswers (endSpent s) e = true) (ha : a = finishTaken (endSpent s) n reqId) (hfound : findSession a n = some x)
    (hnew : keptOf x reqId 0x02 = none) (hhalf : x.opened = false) (hlen : payload.length = 7219) (hgate : setupGate a = none) :
    exec (.finish e peer n reqId payload) s = .next (sessionFinish a e peer n reqId payload x) := by
  subst ha
  simp [exec, execFinish, hnet, hfound, hnew, hhalf, hlen, hgate]

end

/-- Settles O30: each command past its own conditions. -/
theorem sessionCommandsComplete : Obligations.SessionCommandsComplete := by
  intro s e a
  refine ⟨fun f peer head payload tag hup ha htaken hhead hkind => ?_, fun _ _ => rfl, fun _ => exec_sessionIdleTimeout,
    fun peer _ _ _ => exec_hello peer, fun _ peer _ _ _ => exec_finish peer⟩
  have hexec := exec_sluiceFragment peer payload tag hup ha htaken hhead hkind
  exact ⟨fun hplain => hexec.trans (congrArg Host.Outcome.next (if_pos hplain)),
    fun hsealed => hexec.trans (congrArg Host.Outcome.next (if_neg (not_not.mpr hsealed)))⟩

end Sys2Proof.Machine
end

section
/-! PROOFS. Events and the records of streams over RoCE (O35): what is sent again, the records that arrive, are written and are
read, and what acts on a queue pair (R359, R361, R372, R375, R385 to R387). -/
namespace Sys2Proof.Machine

section
variable {s t : State} {q : QpId} {n : StreamId} {d : DataStream}

/-! ## Events (R372) -/

/-- An event that has been sent at most eight times is sent again. -/
theorem exec_eventResend {k : Nat} {reqId : BitVec 32} {x : Session} {v : EvDue}
    (hfound : findSession (endSpent s) k = some x) (hwaits : x.events.find? (fun v => v.reqId == reqId) = some v)
    (htries : v.tries ≤ 8) :
    exec (.eventResend k reqId) s = .next (sendMsg (modSession (endSpent s) k (fun x => { x with
      events := x.events.map (fun v => if v.reqId == reqId then { v with tries := v.tries + 1 } else v) }))
      x.port x.peer (eventMsg x reqId v.record)) := by
  simp [exec, execEventResend, hfound, hwaits, Nat.not_lt.mpr htries]

/-! ## Records that arrive (R385) -/

/-- A SEND that is no credit record. -/
theorem exec_ingestRecord_send {f : EthIn} {message : List Byte} (htaken : qpDropped s q f = false) (hup : qpUp s q = true)
    (hrecord : bit (parseRec message).flags 2 = false ∨ (parseRec message).len ≠ 0) :
    exec (.ingestRecord q f true message) s = .next (recordArrives (qpReceive s q f message.length) q message) := by
  have hnoCredit : (bit (parseRec message).flags 2 && (parseRec message).len == 0) = false := by
    simpa [or_iff_not_imp_left] using hrecord
  simp [exec, execIngestRecord, hup, htaken, hnoCredit]

/-- Any other opcode is answered with a NAK. -/
theorem exec_ingestRecord_other {f : EthIn} {message : List Byte} (htaken : qpDropped s q f = false) (hup : qpUp s q = true) :
    exec (.ingestRecord q f false message) s = .next (qpSend (qpReceive s q f message.length) q (.invalidNak q)) := by
  simp [exec, execIngestRecord, hup, htaken]

/-- A credit record of an egress or a checkpoint stream frees slots of the host's ring. -/
theorem exec_creditRecord {f : EthIn} {message : List Byte} (htaken : qpDropped s q f = false) (hup : qpUp s q = true)
    (hflag : bit (parseRec message).flags 2 = true) (hlen : (parseRec message).len = 0)
    (ht : t = qpAck (qpReceive s q f message.length) q message.length) (hdata : t.data (parseRec message).stream = some d)
    (hbound : boundTo d q = true)
    (hkind : streamKind t (parseRec message).stream = 4 ∨ streamKind t (parseRec message).stream = 5) :
    exec (.creditRecord q f message) s = .next (t.setData (parseRec message).stream (some { d with
      freed := max d.freed (parseRec message).rseq })) := by
  subst ht
  have hcredits : ¬ (streamKind (qpAck (qpReceive s q f message.length) q message.length) (parseRec message).stream ≠ 4 ∧
      streamKind (qpAck (qpReceive s q f message.length) q message.length) (parseRec message).stream ≠ 5) := by
    omega
  simp only [exec, execCreditRecord, hup, hflag, hlen, htaken, hdata, hbound]
  simp [hcredits]

/-! ## Records that are written and read (R386, R387) -/

/-- A record written to a queue pair that the stream has left since is sent again. -/
theorem exec_egressRecordWrite_moved (hdata : s.data n = some d) (hmoved : d.moved = true) (hlive : streamLive s n = true)
    (hkind : streamKind s n ≠ 7) (hup : qpUp s d.qp = true) :
    exec (.egressRecordWrite n) s = .next (sendRecord (s.modData n (fun d => { d with moved := false })) n) := by
  simp [exec, execEgressRecordWrite, hdata, hmoved, hlive, hkind, hup]

/-- The next record of a running stream goes out into a free slot of the host, sealed with a key that the module holds. -/
theorem exec_egressRecordWrite_next {w : HostWork} (hdata : s.data n = some d) (hmoved : d.moved = false)
    (hruns : streamState s n = St.running) (hidle : d.busy = false) (hup : qpUp s d.qp = true)
    (hslot : d.next < d.remoteSlots + d.freed) (hkey : keyHeld s n d = true) (hnext : nextRecord s n d = some w) :
    exec (.egressRecordWrite n) s = .next (sendRecord (hostQueue (s.modData n (fun d => { d with busy := true })) w []) n) := by
  simp [exec, execEgressRecordWrite, hdata, hmoved, hruns, hidle, hup, Nat.not_le.mpr hslot, hkey, hnext]

theorem exec_loadRecord {f : EthIn} {record : List Byte} (hdata : s.data n = some d) (htaken : qpDropped s d.qp f = false)
    (hkind : streamKind s n = 7) (hbusy : d.busy = true) (hup : qpUp s d.qp = true) :
    exec (.loadRecord n f record) s = .next (loadArrives (qpReceive s d.qp f record.length) n d record) := by
  simp [exec, execLoadRecord, hdata, htaken, hkind, hbusy, hup]

theorem exec_loadReadIssue (hdata : s.data n = some d) (hkind : streamKind s n = 7) (hruns : streamState s n = St.running)
    (hidle : d.busy = false) (hup : qpUp s d.qp = true) (hslot : slotFree s d d.next = true) (hallowed : loadAllowed s d = true) :
    exec (.loadReadIssue n) s = .next ((sendRead s d).modData n (fun d => { d with busy := true })) := by
  simp [exec, execLoadReadIssue, hdata, hkind, hruns, hidle, hup, hslot, hallowed]

/-! ## Queue pairs (R359, R361) -/

/-- A stream has data out when it is busy and either loads or has its record read. -/
theorem dataOut_iff (hdata : s.data n = some d) :
    dataOut s n = true ↔ d.busy = true ∧ (streamKind s n = 7 ∨ (readRecord s n).isSome = true) := by
  simp [dataOut, hdata]

theorem exec_roceAck {f : EthIn} {kind : AckKind} (htaken : qpDropped s q f = false) (hdata : s.data n = some d) (hqp : d.qp = q.val)
    (hout : dataOut s n = true) (hup : qpUp s q = true) :
    exec (.roceAck q f n kind) s = .next (ackArrives (qpReceive s q f 0) q n d kind) := by
  obtain ⟨hbusy, hread⟩ := (dataOut_iff hdata).mp hout
  have hsent : ¬ (streamKind s n ≠ 7 ∧ readRecord s n = none) := fun ⟨hkind, hnone⟩ =>
    hread.elim hkind (fun h => by simp [hnone] at h)
  simp [exec, execRoceAck, hdata, hqp, hbusy, hsent, hup, htaken]

theorem exec_roceAckTimeout (husable : qpUsable s q = true) (hout : (qpUsers s q).filter (dataOut s) ≠ []) :
    exec (.roceAckTimeout q) s = .next (qpRetry s q false ((qpUsers s q).filter (dataOut s))) := by
  have hsome : ((qpUsers s q).filter (dataOut s)).isEmpty = false := by simpa using hout
  simp only [exec, execRoceAckTimeout, husable, hsome]
  rfl

theorem exec_cnpReceive {f : EthIn} (htaken : qpDropped s q f = false) (hup : qpUp s q = true) (ht : t = qpReceive s q f 0) :
    exec (.cnpReceive q f) s = .next ((t.radd Reg.ROCE_CNP_RECEIVED 1).setQp q { t.qp q with
      rate := max 1000000 ((t.qp q).rate / 2) }) := by
  subst ht
  simp [exec, execCnpReceive, hup, htaken]

theorem exec_rateIncrease (hconnected : (s.qp q).connected = true) :
    exec (.rateIncrease q) s = .next (s.setQp q { s.qp q with rate := min 100000000 ((s.qp q).rate + 5000000) }) := by
  simp [exec, execRateIncrease, hconnected]

end

/-- Settles O35: each command past its own conditions. -/
theorem recordCommandsComplete : Obligations.RecordCommandsComplete := fun _ _ _ _ =>
  ⟨fun _ _ => rfl, fun _ _ _ _ => exec_eventResend,
    fun _ _ htaken hup => ⟨exec_ingestRecord_send htaken hup, exec_ingestRecord_other htaken hup⟩,
    exec_egressRecordWrite_moved, fun _ => exec_egressRecordWrite_next, fun _ _ => exec_loadRecord, exec_loadReadIssue,
    fun _ _ => exec_roceAck, exec_roceAckTimeout, fun _ _ => exec_cnpReceive, exec_rateIncrease, fun _ _ _ => exec_creditRecord⟩

end Sys2Proof.Machine
end

section
/-! PROOFS. The ends of streams, the checkpoint of a job and the writes of register words (O36) (R375, R377, R388, R441, R443). -/
namespace Sys2Proof.Machine

section
variable {s : State} {n : StreamId}

theorem exec_streamQuiesced_cancels (hstate : streamState s n = St.cancelling) :
    exec (.streamQuiesced n) s = .next (cancelEnds s n) :=
  congrArg Host.Outcome.next (if_pos hstate)

/-- A suspending stream with no data out and quiet planks is suspended, and runs on when nobody asks for its suspension any more. -/
theorem exec_streamQuiesced_suspends (hstate : streamState s n = St.suspending) (hidle : dataBusy s n = false)
    (hquiet : ∀ p ∈ streamPlanks s n, plankQuiet s p = true) :
    ∃ t, t = streamTo s n St.suspended ∧ exec (.streamQuiesced n) s = .next
      (if fget (t.strm n) Strm.SUSP_SRC = 0 then streamRuns t n else t) := by
  have hstays : streamState s n ≠ St.cancelling := by
    rw [hstate]
    decide
  have hends : (decide (streamState s n = St.suspending) && !dataBusy s n && (streamPlanks s n).all (plankQuiet s)) = true := by
    simp [hstate, hidle, List.all_eq_true.mpr hquiet]
  exact ⟨_, rfl, congrArg Host.Outcome.next ((if_neg hstays).trans (if_pos hends))⟩

/-- The checkpoint that a job waits for begins between two steps. -/
theorem exec_checkpointWrite {job : BitVec 16} {j : Job} {k : Nat} (hj : findJob s job.toNat = some j)
    (hwaits : j.ckpt = some (k, false)) (hbetween : j.phase = 0) :
    exec (.checkpointWrite job) s = .next (checkpointBegins s job.toNat j k) := by
  simp [exec, execCheckpointWrite, hj, hwaits, hbetween]

/-- A write that is not aligned is a bad store of its writer. -/
theorem exec_registerWrite_misaligned {off : BitVec 64} (w : Writer) (v : Word64) (hin : inWindow off.toNat = true)
    (h8 : off.toNat % 8 ≠ 0) : exec (.registerWrite w off v) s = .next (badStore s w off.toNat) := by
  simp [exec, execRegisterWrite, hin, h8]

end

/-- Settles O36: each command past its own conditions. -/
theorem streamEndsAndRegisterWritesComplete : Obligations.StreamEndsAndRegisterWritesComplete := fun _ _ w =>
  ⟨exec_streamQuiesced_cancels, exec_streamQuiesced_suspends, fun _ _ _ => exec_checkpointWrite,
    fun _ v hin => ⟨fun h8 => exec_registerWrite_aligned hin h8 w v, exec_registerWrite_misaligned w v hin⟩⟩

end Sys2Proof.Machine
end

section
/-! PROOFS. Requests that are not carried out (O57, O58): one of which the session keeps the answer is answered again, one that its
gate turns away is answered with a STATUS, and nothing else happens (R364, R367, R369, R370, R401). -/
namespace Sys2Proof.Machine

section
variable {s a : State} {c : Instr} {rq : Req} {v : Verb} {n : Nat} {x : Session}

/-! ## Every verb command is a run of its verb -/

/-- The row of Table 15-4 as the module meets it: UPDATE_ACTIVATE is answered while an activation waits for Hjelper (R352). -/
def Verb.met (v : Verb) (s : State) : Verb := { v with cached := v.cached || (v.code == 0x53 && s.board.activation.isSome) }

@[simp] theorem Verb.met_code (v : Verb) (s : State) : (v.met s).code = v.code := rfl
@[simp] theorem Verb.met_operator (v : Verb) (s : State) : (v.met s).operator = v.operator := rfl
@[simp] theorem Verb.met_enrol (v : Verb) (s : State) : (v.met s).enrol = v.enrol := rfl
@[simp] theorem Verb.met_inHold (v : Verb) (s : State) : (v.met s).inHold = v.inHold := rfl
@[simp] theorem Verb.met_inMire (v : Verb) (s : State) : (v.met s).inMire = v.inMire := rfl
@[simp] theorem Verb.met_inBoot (v : Verb) (s : State) : (v.met s).inBoot = v.inBoot := rfl
@[simp] theorem Verb.met_inTrip (v : Verb) (s : State) : (v.met s).inTrip = v.inTrip := rfl

/-- No verb but IDENT, STATUS and an UPDATE_ACTIVATE that meets an activation is answered without Hjelper. -/
theorem Verb.met_cached_eq_false (hcached : v.cached = false) (hidle : v.code = 0x53 → s.board.activation = none) :
    (v.met s).cached = false := by
  by_cases hcode : v.code = 0x53
  · simp [Verb.met, hcached, hidle hcode]
  · simp [Verb.met, hcached, hcode]

/-- A verb of a firmware update is a run of its verb as the others are. -/
theorem updateVerb_eq_runVerb (s : State) (rq : Req) (v : Verb) (act : Nat → State → Answer × State) :
    ∃ f, updateVerb s rq v act = runVerb s rq v f := by
  unfold updateVerb answerVerb
  exact ⟨_, rfl⟩

/-- What a verb does when it is carried out is its own; everything before that is `runVerb`'s. -/
theorem exec_eq_runVerb (h : requestOf c = some (rq, v)) (s : State) :
    ∃ act, exec c s = .next (runVerb s rq (v.met s) act) := by
  unfold requestOf at h
  split at h <;> cases h
  -- the three verbs that go through `updateVerb`
  case h_20 | h_21 | h_22 =>
    obtain ⟨f, hf⟩ := updateVerb_eq_runVerb s rq _ _
    exact ⟨f, congrArg Host.Outcome.next hf⟩
  all_goals exact ⟨_, rfl⟩

/-! ## A request whose answer the session keeps (R364) -/

theorem runVerb_of_kept {k : Kept} (hcode : v.code ≠ 0x40) (hsession : rq.session = some n)
    (hport : portIsUp (endSpent s) rq.port = true) (hoff : modState (endSpent s) ≠ 0) (hreset : modState (endSpent s) ≠ 1)
    (hfound : findSession (endSpent s) n = some x) (hopened : x.opened = true)
    (hkept : x.kept.find? (fun k => k.reqId == rq.reqId) = some k) (act : State → Option Answer × State) :
    runVerb s rq v act = sendKept (acceptReq (endSpent s) n rq) rq k := by
  have hkeptOf : keptOf x rq.reqId v.code = some k := by
    have hnotDump : (v.code != 0x40) = true := bne_iff_ne.mpr hcode
    simpa [keptOf, hnotDump] using hkept
  simp [runVerb, hsession, hport, hoff, hreset, hfound, hopened, hkeptOf]

/-! ## A request that its gate turns away (R367, R369) -/

theorem runVerb_of_verbGate (hsession : rq.session = some n) (hoff : modState (endSpent s) ≠ 0) (hreset : modState (endSpent s) ≠ 1)
    (hport : portIsUp (endSpent s) rq.port = true) (hfound : findSession (endSpent s) n = some x) (hopened : x.opened = true)
    (hnew : keptOf x rq.reqId v.code = none) (ha : a = acceptReq (endSpent s) n rq) (hgate : verbGate a v x.role ≠ 0)
    (act : State → Option Answer × State) : runVerb s rq v act = respond a rq v.code ⟨verbGate a v x.role, []⟩ := by
  subst ha
  simp [runVerb, hsession, hoff, hreset, hport, hfound, hopened, hnew, hgate]

/-- The role has the verb: an operator every one, an observer those that are no operator's, an enrolling host those of enrolment. -/
def roleHas (role : Nat) (v : Verb) : Prop :=
  role = 1 ∨ (role = 2 ∧ v.operator = false) ∨ (role ≠ 1 ∧ role ≠ 2 ∧ v.enrol = true)

theorem verbGate_restarting (hdown : hjelperUp a = false) (hcached : v.cached = false) (role : Nat) : verbGate a v role = 2 := by
  simp [verbGate, hdown, hcached]

theorem verbGate_role {role : Nat} (hup : hjelperUp a = true)
    (hrole : (role = 2 ∧ v.operator = true) ∨ (role ≠ 1 ∧ role ≠ 2 ∧ v.enrol = false)) : verbGate a v role = 4 := by
  rcases hrole with ⟨hobserver, hforbidden⟩ | ⟨hnotOperator, hnotObserver, henrol⟩
  · simp [verbGate, hup, hobserver, hforbidden]
  · simp [verbGate, hup, hnotOperator, hnotObserver, henrol]

/-- The columns of Table 15-4: whether the verb is carried out in a state of the module (R369). -/
def Verb.servedIn (v : Verb) (st : Nat) : Bool :=
  if st = 2 then v.inBoot else if st = 3 then v.inMire else if st = 8 then v.inTrip else if st = 6 then v.inHold
  else decide (st = 4) || decide (st = 5)

/-- Behind Hjelper and the role, what the gate says is the state's. -/
theorem verbGate_of_roleHas {role : Nat} (hup : hjelperUp a = true) (hrole : roleHas role v) :
    verbGate a v role = (if v.servedIn (modState a) then 0 else if modState a = 6 then 2 else 3) := by
  rcases hrole with hoperator | ⟨hobserver, hopen⟩ | ⟨hnotOperator, hnotObserver, henrol⟩
  · simp [verbGate, Verb.servedIn, hup, hoperator]
  · simp [verbGate, Verb.servedIn, hup, hobserver, hopen]
  · simp [verbGate, Verb.servedIn, hup, hnotOperator, hnotObserver, henrol]

end

/-- Settles O57: every verb command is a run of its verb, which sends the kept answer again, if there is one yet. -/
theorem repeatedRequestsAreOnlyAnswered : Obligations.RepeatedRequestsAreOnlyAnswered := by
  intro s c rq v n x k hc hcode hsession hport hoff hreset hfound hopened hkept
  obtain ⟨act, hexec⟩ := exec_eq_runVerb hc s
  rw [hexec, runVerb_of_kept (v := v.met s) hcode hsession hport hoff hreset hfound hopened hkept]
  exact ⟨fun m hm => by rw [sendKept, hm], fun hm => by rw [sendKept, hm]⟩

/-- Settles O58: the gate names the STATUS, and a STATUS that is not 0 is all that the request comes to. -/
theorem verbsAreTurnedAway : Obligations.VerbsAreTurnedAway := by
  rintro s a c rq v n x st hc hsession hoff hreset hport hfound hopened hnew ha rfl
  have turned : ∀ g, g ≠ 0 → verbGate a (v.met s) x.role = g → exec c s = .next (respond a rq v.code ⟨g, []⟩) := by
    rintro g hg rfl
    obtain ⟨act, hexec⟩ := exec_eq_runVerb hc s
    rw [hexec, runVerb_of_verbGate (v := v.met s) hsession hoff hreset hport hfound hopened hnew ha hg, Verb.met_code]
  refine ⟨fun hdown hcached hidle => turned 2 (by decide) (verbGate_restarting hdown (Verb.met_cached_eq_false hcached hidle) _),
    fun hup => ⟨fun hrole => turned 4 (by decide) (verbGate_role hup hrole), fun hrole => ?_⟩⟩
  have hgate := verbGate_of_roleHas (v := v.met s) hup hrole
  refine ⟨fun hst hout => turned 2 (by decide) ?_, fun hst hout => turned 3 (by decide) ?_,
    fun hst hout => turned 3 (by decide) ?_, fun hst hout => turned 3 (by decide) ?_⟩ <;> simp [hgate, Verb.servedIn, hst, hout]

end Sys2Proof.Machine
end

section
/-! PROOFS. Commands that store nothing (O55): past its conditions each of them is made of operations that leave the memory and its
poison as they are. -/
namespace Sys2Proof.Machine

/-- An outcome whose next state, if it has one, holds the memory and the poison of s. -/
def CalmNext (s : State) (o : Out) : Prop := ∀ t, o = .next t → Calm s t

theorem calmNext {s t : State} (h : Calm s t) : CalmNext s (.next t) := by
  intro u hu
  obtain rfl := Host.Outcome.next.inj hu
  exact h

theorem Calm.sameMemory {s t : State} (h : Calm s t) : SameMemory s t :=
  ⟨fun a => congrArg (kget noByte · a) h.mem, fun a => congrArg (kget noFlag · a) h.poison⟩

section
variable {s a : State} {p : PlankId} {rs1 rs2 : XReg} {ecc : CoreEcc}

/-! ## Lane instructions -/

/-- The lane instructions that work on registers alone. -/
def laneCommands (p : PlankId) (ecc : CoreEcc) : List Instr :=
  [.vnop p, .addF32 p ecc, .subF32 p ecc, .mulF32 p ecc, .fmaF32 p ecc, .minF32 p ecc, .maxF32 p ecc, .absF32 p ecc,
    .negF32 p ecc, .divF32 p ecc, .sqrtF32 p ecc, .cmp p ecc, .sel p ecc, .andB32 p ecc, .orB32 p ecc, .xorB32 p ecc,
    .shlB32 p ecc, .shrB32 p ecc, .redAdd p ecc, .amaxV p ecc, .rngV p, .cvtRegister p ecc]

theorem calmNext_lane {c : Instr} (hc : c ∈ laneCommands p ecc) : CalmNext s (exec c s) := by
  have lane {o : Nat} {e : CoreEcc} {act : State → VecSlot → State} (ho : isLoadStore o = false)
      (hact : ∀ t v, Calm s t → Calm s (act t v)) : CalmNext s (.next (onPort2 s p [o] e act)) :=
    calmNext (calm_onPort2 (fun _ hmem => List.mem_singleton.mp hmem ▸ ho) hact (Calm.refl s))
  fin_cases hc
  · exact lane rfl fun _ _ => calm_laneCycles
  · exact lane rfl fun _ _ => calm_laneOp2
  · exact lane rfl fun _ _ => calm_laneOp2
  · exact lane rfl fun _ _ => calm_laneOp2
  · exact lane rfl fun _ _ => calm_laneFma
  · exact lane rfl fun _ _ => calm_laneOp2
  · exact lane rfl fun _ _ => calm_laneOp2
  · exact lane rfl fun _ _ => calm_laneOp1
  · exact lane rfl fun _ _ => calm_laneOp1
  · exact lane rfl fun _ _ => calm_laneOp2
  · exact lane rfl fun _ _ => calm_laneOp1
  · exact lane rfl fun _ _ => calm_laneCmp
  · exact lane rfl fun _ _ => calm_laneSel
  · exact lane rfl fun _ _ => calm_laneBits
  · exact lane rfl fun _ _ => calm_laneBits
  · exact lane rfl fun _ _ => calm_laneBits
  · exact lane rfl fun _ _ => calm_laneBits
  · exact lane rfl fun _ _ => calm_laneBits
  · exact lane rfl fun _ _ => calm_laneFoldOp
  · exact lane rfl fun _ _ => calm_laneFoldOp
  · exact lane rfl fun _ _ => calm_laneRng
  · exact lane rfl fun _ _ => calm_laneCvt

/-! ## The core and its plank -/

theorem calmNext_vecFence : CalmNext s (exec (.vecFence p) s) :=
  have h := Calm.refl s
  calmNext (calm_ite h (calm_ite (calm_coreNext h) (calm_coreHold h)))

theorem calmNext_vecIssue : CalmNext s (exec (.vecIssue p rs1) s) :=
  have h := Calm.refl s
  calmNext (calm_ite h (calm_ite (calm_coreTrap h) (calm_ite (calm_coreHold h) (calm_coreNext (calm_vecEnqueue h)))))

theorem calmNext_vecRun : CalmNext s (exec (.vecRun p rs1 rs2 ecc) s) :=
  have h := Calm.refl s
  calmNext (calm_ite h (calm_ite (calm_coreTrap h) (calm_vecRunLoop h)))

theorem calmNext_vecXi : CalmNext s (exec (.vecXi p rs1) s) :=
  have h := Calm.refl s
  calmNext (calm_ite h (calm_coreNext (calm_setWord h)))

theorem calmNext_vecMvx : CalmNext s (exec (.vecMvx p rs1 rs2 ecc) s) :=
  have h := Calm.refl s
  calmNext (calm_ite h (calm_ite (calm_coreHold h) (calm_ite (calm_coreTrap h) (calm_coreNext (calm_setX h)))))

theorem calmNext_passFence : CalmNext s (exec (.passFence p rs1) s) :=
  have h := Calm.refl s
  calmNext (calm_ite h (calm_ite (calm_coreNext (calm_setX h)) (calm_coreHold h)))

theorem calmNext_syncAdd : CalmNext s (exec (.syncAdd p rs1 rs2) s) := calmNext (calm_syncSignal (Calm.refl s))

theorem calmNext_syncSet : CalmNext s (exec (.syncSet p rs1 rs2) s) := calmNext (calm_syncSignal (Calm.refl s))

theorem calmNext_drainBegin : CalmNext s (exec (.drainBegin p) s) := by
  have h := Calm.refl s
  refine calmNext (calm_ite h ?_)
  split
  · exact calm_refreshPlank (calm_setAccState h)
  · exact h

theorem calmNext_soundOverdue : CalmNext s (exec (.soundOverdue p) s) :=
  have h := Calm.refl s
  calmNext (calm_ite h (calm_noteOverdue h))

theorem calmNext_clockGlideStep : CalmNext s (exec (.clockGlideStep p) s) :=
  have h := Calm.refl s
  calmNext (calm_ite h (calm_rset (calm_rset h)))

theorem calmNext_coreAutoReset : CalmNext s (exec (.coreAutoReset p) s) :=
  have h := Calm.refl s
  calmNext (calm_ite (calm_resetCore h) h)

/-! ## Power and clocks -/

theorem calmNext_capCompare : CalmNext s (exec (.capCompare) s) :=
  have h := Calm.refl s
  calmNext (calm_ite h (calm_ite (calm_ite (calm_setCapClock h) (calm_ite (calm_setCapClock h) h)) (calm_setCapClock h)))

theorem calmNext_capUnmet : CalmNext s (exec (.capUnmet) s) :=
  have h := Calm.refl s
  calmNext (calm_ite (calm_fileEvent (calm_alert (calm_rset h))) h)

theorem calmNext_backstopEngage : CalmNext s (exec (.backstopEngage) s) :=
  have h := Calm.refl s
  calmNext (calm_ite (calm_markIvs (calm_fileEvent (calm_alert (calm_rset h)))) h)

theorem calmNext_backstopRelease : CalmNext s (exec (.backstopRelease) s) :=
  have h := Calm.refl s
  calmNext (calm_ite (calm_rset h) h)

theorem calmNext_hjelperWatchdogKick : CalmNext s (exec (.hjelperWatchdogKick) s) :=
  have h := Calm.refl s
  calmNext (calm_ite h ⟨rfl, rfl⟩)

theorem calmNext_powerCapWrite {w : Writer} {v : Word64} : CalmNext s (exec (.powerCapWrite w v) s) :=
  calmNext (calm_regCommand (fun _ => calm_powerCapOp) (Calm.refl s))

theorem calmNext_thrComputeWrite {w : Writer} {v : Word64} : CalmNext s (exec (.thrComputeWrite w v) s) :=
  calmNext (calm_regCommand (fun _ => calm_thrComputeOp) (Calm.refl s))

/-! ## Links and queue pairs -/

theorem calmNext_fabricDrained : CalmNext s (exec (.fabricDrained) s) :=
  have h := Calm.refl s
  calmNext (calm_ite h (calm_drained h))

/-- A message to the outside is no memory. -/
theorem calm_out {m : OutMsg} (h : Calm a s) : Calm a { s with out := m :: s.out } := ⟨h.mem, h.poison⟩

theorem calmNext_linkTrainingDone {l : LinkId} : CalmNext s (exec (.linkTrainingDone l) s) :=
  have h := Calm.refl s
  calmNext (calm_ite h (calm_out (calm_modLink (calm_setLinkState h))))

theorem calmNext_linkTrainingTimeout {l : LinkId} : CalmNext s (exec (.linkTrainingTimeout l) s) :=
  have h := Calm.refl s
  calmNext (calm_ite h (calm_ite (calm_fileError (calm_rsat (calm_setLinkState (calm_modLink h)))) (calm_enterDown (calm_modLink h))))

theorem calmNext_codewordLockLost {l : LinkId} : CalmNext s (exec (.codewordLockLost l) s) :=
  have h := Calm.refl s
  calmNext (calm_ite h (calm_enterTraining (calm_leaveActive h)))

theorem calmNext_markerEcho {l : LinkId} : CalmNext s (exec (.markerEcho l) s) := by
  have h := Calm.refl s
  refine calmNext ?_
  dsimp only
  split
  · exact h
  · exact calm_ite h (calm_setLink h)

theorem calm_portRx {e n : Nat} {x : EthIn} (h : Calm a s) : Calm a (portRx s e x n) :=
  have hcounted := calm_radd (calm_radd h)
  calm_ite (calm_rsat hcounted) (calm_radd hcounted)

theorem calm_qpSend {q : Nat} {m : OutMsg} (h : Calm a s) : Calm a (qpSend s q m) := calm_out (calm_radd h)

/-- A packet of a queue pair is counted, and a marked one may be answered. -/
theorem calm_qpReceive {q n : Nat} {x : EthIn} (h : Calm a s) : Calm a (qpReceive s q x n) :=
  have hcounted := calm_portRx h
  calm_ite hcounted (calm_ite (calm_tick hcounted) (calm_qpSend (calm_setQp (calm_radd (calm_tick hcounted)))))

theorem calmNext_cnpReceive {q : QpId} {f : EthIn} : CalmNext s (exec (.cnpReceive q f) s) :=
  have h := Calm.refl s
  calmNext (calm_ite h (calm_ite (calm_qpReceive h) (calm_setQp (calm_radd (calm_qpReceive h)))))

theorem calmNext_rateIncrease {q : QpId} : CalmNext s (exec (.rateIncrease q) s) :=
  have h := Calm.refl s
  calmNext (calm_ite h (calm_setQp h))

end

/-- Settles O55: the commands family by family, each by its own rule. -/
theorem commandsThatStoreNothingLeaveMemory : Obligations.CommandsThatStoreNothingLeaveMemory := by
  intro s t c ht hc
  have hcalm : CalmNext s (exec c s) := by
    rcases hc with (⟨p, ecc, hplank | ⟨rs1, rs2, hcore⟩⟩) | hpower | ⟨l, hlink⟩ | ⟨q, f, hqp⟩ | ⟨w, v, hwrite⟩
    case inl.inl =>
      have hsplit : c ∈ laneCommands p ecc ++
          [.vecFence p, .drainBegin p, .soundOverdue p, .clockGlideStep p, .coreAutoReset p] := hplank
      rcases List.mem_append.mp hsplit with hlane | hother
      · exact calmNext_lane hlane
      · fin_cases hother
        exacts [calmNext_vecFence, calmNext_drainBegin, calmNext_soundOverdue, calmNext_clockGlideStep, calmNext_coreAutoReset]
    case inl.inr =>
      fin_cases hcore
      exacts [calmNext_vecIssue, calmNext_vecRun, calmNext_vecXi, calmNext_vecMvx, calmNext_passFence, calmNext_syncAdd,
        calmNext_syncSet]
    case inr.inl =>
      fin_cases hpower
      exacts [calmNext_capCompare, calmNext_capUnmet, calmNext_backstopEngage, calmNext_backstopRelease,
        calmNext_hjelperWatchdogKick, calmNext_fabricDrained]
    case inr.inr.inl =>
      fin_cases hlink
      exacts [calmNext_linkTrainingDone, calmNext_linkTrainingTimeout, calmNext_codewordLockLost, calmNext_markerEcho]
    case inr.inr.inr.inl =>
      fin_cases hqp
      exacts [calmNext_cnpReceive, calmNext_rateIncrease]
    case inr.inr.inr.inr =>
      fin_cases hwrite
      exacts [calmNext_powerCapWrite, calmNext_thrComputeWrite]
  exact (hcalm t ht).sameMemory

end Sys2Proof.Machine
end

section
/-! PROOFS. Places of the management window (R438): an offset of a plank's, a stack's or the synchronisation block is in that block
alone, and its register word is the block's. -/
namespace Sys2Proof.Machine

section
variable {s : State} {off lo hi n i o : Nat}

/-- The test by which the model tells that an offset lies in a range. -/
theorem inRange_iff : (decide (lo ≤ off) && decide (off < hi)) = true ↔ lo ≤ off ∧ off < hi := by
  rw [Bool.and_eq_true, decide_eq_true_eq, decide_eq_true_eq]

theorem not_inRange_of_lt (h : off < lo) : ¬ (decide (lo ≤ off) && decide (off < hi)) = true :=
  fun hin => absurd (inRange_iff.mp hin).1 (Nat.not_le.mpr h)

theorem not_inRange_of_ge (h : hi ≤ off) : ¬ (decide (lo ≤ off) && decide (off < hi)) = true :=
  fun hin => absurd (inRange_iff.mp hin).2 (Nat.not_lt.mpr h)

theorem objAt_eq_none (h : off < syncBase ∨ syncBase + 0x100000 ≤ off) : objAt off = none :=
  if_neg (h.elim not_inRange_of_lt not_inRange_of_ge)

theorem objCmdAt_eq_none (h : off < syncBase + 0x100000 ∨ syncBase + 0x180000 ≤ off) : objCmdAt off = none :=
  if_neg (h.elim not_inRange_of_lt not_inRange_of_ge)

theorem streamAt_eq_none (h : off < streamBase) : streamAt off = none := if_neg (not_inRange_of_lt h)

theorem peatAt_eq_none (h : off < peatBase + 0x100000) : peatAt off = none := if_neg (not_inRange_of_lt h)

theorem blockPlank_eq_none (h : plankBase 160 ≤ off) : blockPlank off = none := if_neg (not_inRange_of_ge h)

theorem stackAt_eq_none (h : stackBase 16 ≤ off) : stackAt off = none := if_neg (not_inRange_of_ge h)

/-! ## A plank's block -/

theorem plankPlace_between (hn : n < 160) (hi : i < 0x10000) : plankBase 0 ≤ plankBase n + i ∧ plankBase n + i < plankBase 160 := by
  unfold plankBase
  omega

theorem plankPlace_split (n : Nat) (hi : i < 0x10000) :
    (plankBase n + i - plankBase 0) / 0x10000 = n ∧ (plankBase n + i - plankBase 0) % 0x10000 = i := by
  unfold plankBase
  omega

theorem blockPlank_plankPlace (hn : n < 160) (hi : i < 0x10000) : blockPlank (plankBase n + i) = some n :=
  (if_pos (inRange_iff.mpr (plankPlace_between hn hi))).trans (congrArg some (plankPlace_split n hi).1)

/-- The records and the tables of other blocks start behind the planks' blocks. -/
theorem plankPlace_lt_syncBase (hn : n < 160) (hi : i < 0x10000) : plankBase n + i < syncBase :=
  (plankPlace_between hn hi).2.trans_le (by decide)

theorem regRow_plankPlace (hn : n < 160) (hi : i < 0x10000) (h8 : i % 8 = 0) : regRow (plankBase n + i) = plankRow n i := by
  obtain ⟨hlo, hhi⟩ := plankPlace_between hn hi
  have haligned : ¬ (plankBase n + i) % 8 ≠ 0 := by
    unfold plankBase
    omega
  have above {b : Nat} (hb : b ≤ plankBase 0) : ¬ plankBase n + i < b := Nat.not_lt.mpr (hb.trans hlo)
  unfold regRow
  rw [if_neg haligned, if_neg (above (by decide)), if_neg (above (by decide)), if_neg (above (by decide)),
    if_neg (above (by decide)), if_neg (above le_rfl), if_pos hhi, (plankPlace_split n hi).1, (plankPlace_split n hi).2]

theorem guarded_plankPlace (hn : n < 160) (hi : i < 0x10000) (v : Word64) : guarded s (plankBase n + i) v = plankGuarded s n i v := by
  rw [guarded, blockPlank_plankPlace hn hi]
  exact congrArg (plankGuarded s n · v) (plankPlace_split n hi).2

/-! ## A stack's block -/

theorem stackPlace_between (hn : n < 16) (ho : o < 0x10000) : stackBase 0 ≤ stackBase n + o ∧ stackBase n + o < stackBase 16 := by
  unfold stackBase
  omega

theorem stackPlace_split (n : Nat) (ho : o < 0x10000) :
    (stackBase n + o - stackBase 0) / 0x10000 = n ∧ (stackBase n + o - stackBase 0) % 0x10000 = o := by
  unfold stackBase
  omega

theorem regRow_stackPlace (hn : n < 16) (ho : o < 0x10000) (h8 : o % 8 = 0) : regRow (stackBase n + o) = stackWord n o := by
  obtain ⟨hlo, hhi⟩ := stackPlace_between hn ho
  have haligned : ¬ (stackBase n + o) % 8 ≠ 0 := by
    unfold stackBase
    omega
  have above {b : Nat} (hb : b ≤ stackBase 0) : ¬ stackBase n + o < b := Nat.not_lt.mpr (hb.trans hlo)
  unfold regRow
  rw [if_neg haligned, if_neg (above (by decide)), if_neg (above (by decide)), if_neg (above (by decide)),
    if_neg (above (by decide)), if_neg (above (by decide)), if_neg (above (by decide)), if_neg (above le_rfl), if_pos hhi,
    (stackPlace_split n ho).1, (stackPlace_split n ho).2]

theorem guarded_stackPlace (hn : n < 16) (ho : o < 0x10000) (v : Word64) : guarded s (stackBase n + o) v = stackGuarded s n o v := by
  have hbetween := stackPlace_between hn ho
  have hplank : blockPlank (stackBase n + o) = none := blockPlank_eq_none (le_trans (by decide) hbetween.1)
  have hstack : stackAt (stackBase n + o) = some (n, o) := by
    rw [stackAt, if_pos (inRange_iff.mpr hbetween), (stackPlace_split n ho).1, (stackPlace_split n ho).2]
  rw [guarded, hplank, hstack]

/-! ## The synchronisation block -/

theorem regRow_syncPlace (ho : o < 0x400000) (h8 : o % 8 = 0) : regRow (syncBase + o) = syncWord o := by
  have hlo : syncBase ≤ syncBase + o := Nat.le_add_right ..
  have haligned : ¬ (syncBase + o) % 8 ≠ 0 := by
    unfold syncBase
    omega
  have above {b : Nat} (hb : b ≤ syncBase) : ¬ syncBase + o < b := Nat.not_lt.mpr (hb.trans hlo)
  have hhi : syncBase + o < syncBase + 0x400020 := by omega
  unfold regRow
  rw [if_neg haligned, if_neg (above (by decide)), if_neg (above (by decide)), if_neg (above (by decide)),
    if_neg (above (by decide)), if_neg (above (by decide)), if_neg (above (by decide)), if_neg (above (by decide)),
    if_neg (above (by decide)), if_neg (above (by decide)), if_neg (above (by decide)), if_neg (above le_rfl), if_pos hhi,
    Nat.add_sub_cancel_left]

theorem guarded_syncPlace (ho : o < 0x400000) (v : Word64) : guarded s (syncBase + o) v = syncGuarded s o := by
  have hlo : syncBase ≤ syncBase + o := Nat.le_add_right ..
  have hplank : blockPlank (syncBase + o) = none := blockPlank_eq_none (le_trans (by decide) hlo)
  have hstack : stackAt (syncBase + o) = none := stackAt_eq_none (le_trans (by decide) hlo)
  simp only [guarded, hplank, hstack]
  rw [if_pos (inRange_iff.mpr ⟨hlo, by omega⟩), Nat.add_sub_cancel_left]

end

end Sys2Proof.Machine
end

section
/-! PROOFS. Writes that are only counted (O44): the causes that a block has (R443), what a read then returns, and what the count
changes (R445 to R447). -/
namespace Sys2Proof.Machine

section
variable {s : State}

/-! ## A write with a cause -/

/-- A draw of a free value changes no cause. -/
theorem writeCause_drew (off : Nat) (v : Word64) : writeCause s.drew off v = writeCause s off v := rfl

theorem writeWord_of_writeCause_ne_zero {off : Nat} {v : Word64} (hoff : modState s ≠ 0) (hreset : modState s ≠ 1)
    (hc : writeCause s off v ≠ 0) (w : Writer) (insn : Nat) :
    writeWord s w off v insn = (winErr s (writeCause s off v) (writerSrc w) off, true) := by
  simp [writeWord, hoff, hreset, hc]

/-- A write that something ignores is counted with its cause. -/
theorem exec_registerWrite_ignored {off : BitVec 64} {c : Nat} (hin : inWindow off.toNat = true) (h8 : off.toNat % 8 = 0)
    (hoff : modState s ≠ 0) (hreset : modState s ≠ 1) (v : Word64) (hcause : writeCause s off.toNat v = c) (hc : c ≠ 0) (w : Writer) :
    exec (.registerWrite w off v) s = .next (winErr s.drew c (writerSrc w) off.toNat) := by
  subst hcause
  rw [exec_registerWrite_aligned hin h8, writeWord_of_writeCause_ne_zero (s := s.drew) hoff hreset hc]
  rfl

/-- A write in Off or while RESET_N is low is lost. -/
theorem exec_registerWrite_lost {off : BitVec 64} (hin : inWindow off.toNat = true) (h8 : off.toNat % 8 = 0)
    (hlost : modState s = 0 ∨ modState s = 1) (w : Writer) (v : Word64) : exec (.registerWrite w off v) s = .next s.drew := by
  have hdark : (decide (modState s = 0) || decide (modState s = 1)) = true := by simpa using hlost
  rw [exec_registerWrite_aligned hin h8]
  exact congrArg Host.Outcome.next (congrArg Prod.fst (if_pos hdark))

theorem writeCause_of_blockCause {off c : Nat} (h : blockCause s off = c) (hc : c ≠ 0) (v : Word64) : writeCause s off v = c := by
  simp [writeCause, h, hc]

theorem writeCause_of_not_wordExists {off : Nat} (h : blockCause s off = 0) (hnone : wordExists off = false) (v : Word64) :
    writeCause s off v = 1 := by
  simp [writeCause, h, hnone]

/-! ## The causes of a block (R443) -/

section
variable {off p : Nat}

theorem blockCause_unpowered (hplank : blockPlank off = some p) (hdark : powered s p = false) : blockCause s off = 2 := by
  simp [blockCause, hplank, hdark]

theorem blockCause_mire (hstate : modState s = 3) (hexcluded : mireExcluded off = true) : blockCause s off = 2 := by
  simp [blockCause, hstate, hexcluded]

/-- A plank has no power in Mire hold. -/
theorem blockCause_masked (hplank : blockPlank off = some p) (hpower : powered s p = true)
    (hmask : s.rbit (Reg.PLANK_STATUS_MASKED p) = true) (hctl : off ≠ (Reg.INTEG_CTL_RESTORE p).off) : blockCause s off = 3 := by
  have hstate : modState s ≠ 3 := by
    rintro hmire
    simp [powered, hmire] at hpower
  simp [blockCause, hstate, hplank, hpower, hmask, hctl]

/-! ## What a read returns -/

theorem readWord_hidden (h : blockCause s off = 2) : readWord s off = 0 := if_pos h

theorem readWord_of_not_wordExists (hnone : wordExists off = false) : readWord s off = 0 := by
  simp only [wordExists, Bool.or_eq_false_iff, Option.isSome_eq_false_iff, Option.isNone_iff_eq_none] at hnone
  obtain ⟨⟨⟨⟨hrow, hobj⟩, -⟩, hstream⟩, hpeat⟩ := hnone
  simp [readWord, hrow, hobj, hstream, hpeat]

/-- A word of a plank's block that is not hidden reads as it is. -/
theorem readWord_plankPlace {n i : Nat} (hn : n < 160) (hi : i < 0x10000) (hseen : blockCause s (plankBase n + i) ≠ 2)
    (hexists : wordExists (plankBase n + i) = true) : readWord s (plankBase n + i) = shownWord s (plankBase n + i) := by
  have hlt := plankPlace_lt_syncBase hn hi
  have hobj := objAt_eq_none (.inl hlt)
  have hcmd := objCmdAt_eq_none (.inl (Nat.lt_add_right _ hlt))
  have hstream := streamAt_eq_none (hlt.trans (by decide))
  have hpeat := peatAt_eq_none (hlt.trans (by decide))
  have hrow : (regRow (plankBase n + i)).isSome = true := by
    simpa [wordExists, hobj, hcmd, hstream, hpeat] using hexists
  rw [readWord, if_neg hseen, hobj, hstream, hpeat]
  exact if_pos hrow

end

/-! ## What the count changes (R446) -/

/-- A draw and the count of an access leave all but the draws, WIN_ERR and WIN_ERR_ADDR. -/
theorem winErr_frame (w : s.Wf) (c src off : Nat) :
    { winErr s c src off with win := s.win } = s ∧
      ∀ i, i ≠ Reg.WIN_ERR_COUNT.off → i ≠ Reg.WIN_ERR_ADDR_OFFSET.off → (winErr s c src off).word i = s.word i := by
  have w1 : (s.rsat Reg.WIN_ERR_COUNT 1).Wf := (keeps_rsat (Keeps.refl s)).wf w
  have w2 : ((s.rsat Reg.WIN_ERR_COUNT 1).rset Reg.WIN_ERR_CAUSE c).Wf := (keeps_rset (Keeps.refl _)).wf w1
  have w3 := (keeps_rset (f := Reg.WIN_ERR_SRC) (v := src) (Keeps.refl _)).wf w2
  refine ⟨rfl, fun i hcount haddr => ?_⟩
  rw [winErr, word_rset_apart w3 _ _ haddr, word_rset_apart w2 Reg.WIN_ERR_SRC _ hcount,
    word_rset_apart w1 Reg.WIN_ERR_CAUSE _ hcount, State.rsat, word_rset_apart w Reg.WIN_ERR_COUNT _ hcount]

end

/-- An offset within the block of one plank is a place there. -/
theorem plankPlace_of_between {off n : Nat} (hlo : plankBase n ≤ off) (hhi : off < plankBase (n + 1)) :
    ∃ i, i < 0x10000 ∧ off = plankBase n + i := by
  refine ⟨off - plankBase n, ?_, (Nat.add_sub_cancel' hlo).symm⟩
  unfold plankBase at *
  omega

/-- Settles O44: each kind of word by its cause; the count touches WIN_ERR and WIN_ERR_ADDR alone. -/
theorem ignoredWritesAreOnlyCounted : Obligations.IgnoredWritesAreOnlyCounted := by
  intro s w off v hin h8
  refine ⟨fun hlost => exec_registerWrite_lost hin h8 hlost w v, fun hoff hreset => ?_, fun c hs => ?frame⟩
  case frame =>
    have hdrew : s.drew.Wf := (keeps_drew (Keeps.refl s)).wf hs
    exact ⟨rfl, (winErr_frame hdrew c (writerSrc w) off.toNat).2⟩
  have counted {c : Nat} (hcause : writeCause s off.toNat v = c) (hc : c ≠ 0) :=
    exec_registerWrite_ignored hin h8 hoff hreset v hcause hc w
  refine ⟨fun p hlo hhi hdark => ?unpowered, fun hmire hexcluded => ?mire, fun p hlo hhi hpower hmask hctl => ?masked,
    fun hnone => ⟨readWord_of_not_wordExists hnone, fun hblock => ?reserved⟩⟩
  case unpowered =>
    obtain ⟨i, hi, hplace⟩ := plankPlace_of_between hlo hhi
    have hcause : blockCause s off.toNat = 2 := blockCause_unpowered (hplace ▸ blockPlank_plankPlace p.isLt hi) hdark
    exact ⟨readWord_hidden hcause, counted (writeCause_of_blockCause hcause (by decide) v) (by decide)⟩
  case mire =>
    have hcause : blockCause s off.toNat = 2 := blockCause_mire hmire hexcluded
    exact ⟨readWord_hidden hcause, counted (writeCause_of_blockCause hcause (by decide) v) (by decide)⟩
  case masked =>
    obtain ⟨i, hi, hplace⟩ := plankPlace_of_between hlo hhi
    have hcause : blockCause s off.toNat = 3 :=
      blockCause_masked (hplace ▸ blockPlank_plankPlace p.isLt hi) hpower hmask hctl
    refine ⟨fun hexists => ?_, counted (writeCause_of_blockCause hcause (by decide) v) (by decide)⟩
    rw [hplace] at hcause hexists ⊢
    exact readWord_plankPlace p.isLt hi (by omega) hexists
  case reserved => exact counted (writeCause_of_not_wordExists hblock hnone v) (by decide)

end Sys2Proof.Machine
end

section
/-! PROOFS. Writes that Table 18-2 guards and the order of a POKE (O45) (R229, R440, R444). -/
namespace Sys2Proof.Machine

section
variable {s : State} {off v : BitVec 64} {i o : Nat}

/-! ## A guarded write -/

theorem writeCause_of_guarded {off : Nat} {r : RegRow} (hb : blockCause s off = 0) (hrow : regRow off = some r)
    (hg : guarded s off v = true) : writeCause s off v = 3 := by
  simp [writeCause, hb, wordExists_of_regRow hrow, hg]

section
variable (hb : blockCause s off.toNat = 0) (hoff : modState s ≠ 0) (hreset : modState s ≠ 1) (w : Writer)
include hb hoff hreset

/-- A write of a register word behind a guard whose condition holds is counted with cause 3. -/
theorem exec_registerWrite_guarded {r : RegRow} (hlo : identBase ≤ off.toNat) (hhi : off.toNat < 2 ^ 44)
    (hrow : regRow off.toNat = some r) (hg : guarded s off.toNat v = true) :
    exec (.registerWrite w off v) s = .next (winErr s.drew 3 (writerSrc w) off.toNat) :=
  exec_registerWrite_ignored (inRange_iff.mpr ⟨hlo, hhi⟩) (aligned_of_regRow hrow) hoff hreset v
    (writeCause_of_guarded hb hrow hg) (by decide) w

theorem exec_registerWrite_guarded_plank {p : PlankId} {r : RegRow} (hplace : off.toNat = plankBase p + i) (hi : i < 0x10000)
    (hrow : plankRow p i = some r) (h8 : i % 8 = 0) (hg : plankGuarded s p i v = true) :
    exec (.registerWrite w off v) s = .next (winErr s.drew 3 (writerSrc w) off.toNat) := by
  obtain ⟨hlo, hhi⟩ := plankPlace_between p.isLt hi
  refine exec_registerWrite_guarded (r := r) hb hoff hreset w (hplace ▸ le_trans (by decide) hlo) (hplace ▸ hhi.trans (by decide)) ?_ ?_
  · rw [hplace, regRow_plankPlace p.isLt hi h8, hrow]
  · rw [hplace, guarded_plankPlace p.isLt hi, hg]

theorem exec_registerWrite_guarded_stack {m : StackId} {r : RegRow} (hplace : off.toNat = stackBase m + o) (ho : o < 0x10000)
    (hrow : stackWord m o = some r) (h8 : o % 8 = 0) (hg : stackGuarded s m o v = true) :
    exec (.registerWrite w off v) s = .next (winErr s.drew 3 (writerSrc w) off.toNat) := by
  obtain ⟨hlo, hhi⟩ := stackPlace_between m.isLt ho
  refine exec_registerWrite_guarded (r := r) hb hoff hreset w (hplace ▸ le_trans (by decide) hlo) (hplace ▸ hhi.trans (by decide)) ?_ ?_
  · rw [hplace, regRow_stackPlace m.isLt ho h8, hrow]
  · rw [hplace, guarded_stackPlace m.isLt ho, hg]

theorem exec_registerWrite_guarded_sync {r : RegRow} (hplace : off.toNat = syncBase + o) (ho : o < 0x400000)
    (hrow : syncWord o = some r) (h8 : o % 8 = 0) (hg : syncGuarded s o = true) :
    exec (.registerWrite w off v) s = .next (winErr s.drew 3 (writerSrc w) off.toNat) := by
  have hlo : syncBase ≤ syncBase + o := Nat.le_add_right ..
  have hhi : syncBase + o < syncBase + 0x400000 := Nat.add_lt_add_left ho _
  refine exec_registerWrite_guarded (r := r) hb hoff hreset w (hplace ▸ le_trans (by decide) hlo) (hplace ▸ hhi.trans (by decide)) ?_ ?_
  · rw [hplace, regRow_syncPlace ho h8, hrow]
  · rw [hplace, guarded_syncPlace ho, hg]

end

/-! ## The rows of Table 18-2 -/

section
variable {m : StackId} {c : PcId}

/-- An entry of a share table is guarded by a switch of the pseudo-channel, and in the table that is in use. -/
theorem sharePlace {t : Nat} (ht : t < 2) (hi : i < 25) (v : Word64) :
    ∃ o r, shareOff m c t i = stackBase m + o ∧ o < 0x10000 ∧ stackWord m o = some r ∧ o % 8 = 0 ∧
      stackGuarded s m o v = (s.rbit (Reg.PC_STATUS_ARMED m c) || s.rget (Reg.PC_STATUS_ACTIVE m c) == t) := by
  have hc := c.isLt
  obtain ⟨o, ho⟩ : ∃ o, o = 0x4000 + c.val * 0x200 + t * 0x100 + i * 8 := ⟨_, rfl⟩
  have hlow : ¬ (decide (0x1000 ≤ o) && decide (o < 0x1800)) = true := not_inRange_of_ge (by omega)
  have hshare : (decide (0x4000 ≤ o) && decide (o < 0xC000)) = true := inRange_iff.mpr (by omega)
  have hlowGate : ¬ (decide (0x1000 ≤ o) && decide (o < 0x1800) && decide (o % 0x20 = 8)) = true := fun h =>
    hlow (Bool.and_eq_true_iff.mp h).1
  refine ⟨o, .plain (2 ^ 64 - 1), ?_, by omega, ?_, by omega, ?_⟩
  · unfold shareOff
    omega
  · rw [stackWord, if_neg hlow, if_pos hshare, if_pos (by omega)]
  · have hchannel : (o - 0x4000) / 0x200 = c.val := by omega
    have htable : (o - 0x4000) / 0x100 % 2 = t := by omega
    rw [stackGuarded, if_neg hlowGate, if_pos hshare, hchannel, htable]

/-- The word that arms a switch is guarded by the switch that is armed. -/
theorem pcSwitchPlace (v : Word64) :
    ∃ o r, (Reg.PC_SWITCH_ARM m c).off = stackBase m + o ∧ o < 0x10000 ∧ stackWord m o = some r ∧ o % 8 = 0 ∧
      stackGuarded s m o v = (v.getLsbD 48 && s.rbit (Reg.PC_STATUS_ARMED m c)) := by
  have hc := c.isLt
  obtain ⟨o, ho⟩ : ∃ o, o = 0x1000 + c.val * 0x20 + 8 := ⟨_, rfl⟩
  have hlow : (decide (0x1000 ≤ o) && decide (o < 0x1800)) = true := inRange_iff.mpr (by omega)
  have hlowGate : (decide (0x1000 ≤ o) && decide (o < 0x1800) && decide (o % 0x20 = 8)) = true :=
    Bool.and_eq_true_iff.mpr ⟨hlow, decide_eq_true (by omega)⟩
  have hrow : 0x1000 + o % 0x20 = 0x1008 := by omega
  have hchannel : (o - 0x1000) / 0x20 = c.val := by omega
  refine ⟨o, _, ?_, by omega, (if_pos hlow).trans (congrArg stackPcRow hrow), by omega, ?_⟩
  · simp only [Reg.PC_SWITCH_ARM]
    omega
  · rw [stackGuarded, if_pos hlowGate, hchannel]

end

/-- A word of a barrier is guarded by its use. -/
theorem barPlace {b : BarId} (hi : i < 8) : ∃ o r, barOff b i = syncBase + o ∧ o < 0x400000 ∧ syncWord o = some r ∧ o % 8 = 0 ∧
    syncGuarded s o = s.rbit (Reg.BAR_VALID b) := by
  have hb := b.isLt
  obtain ⟨o, ho⟩ : ∃ o, o = 0x200000 + b.val * 0x40 + i * 8 := ⟨_, rfl⟩
  have hbar : (decide (0x200000 ≤ o) && decide (o < 0x210000)) = true := inRange_iff.mpr (by omega)
  have hnumber : (o - 0x200000) / 0x40 = b.val := by omega
  refine ⟨o, _, ?_, by omega, if_pos hbar, by omega, ?_⟩
  · unfold barOff
    omega
  · rw [syncGuarded, if_pos hbar, hnumber]

/-- A word of a tree map or of its member mask is guarded while something names the tree. -/
theorem treePlace {t : Nat} (ht : t < 16)
    (h : (i < 128 ∧ off.toNat = treeMapOff t 0 + 8 * i) ∨ (i < 256 ∧ off.toNat = treeMaskOff t 0 + 8 * i)) :
    ∃ o r, off.toNat = syncBase + o ∧ o < 0x400000 ∧ syncWord o = some r ∧ o % 8 = 0 ∧ syncGuarded s o = treeNamed s t := by
  rcases h with ⟨hi, hoff⟩ | ⟨hi, hoff⟩
  · obtain ⟨o, ho⟩ : ∃ o, o = 0x300000 + t * 0x400 + 8 * i := ⟨_, rfl⟩
    have hbar : ¬ (decide (0x200000 ≤ o) && decide (o < 0x210000)) = true := not_inRange_of_ge (by omega)
    have hmap : (decide (0x300000 ≤ o) && decide (o < 0x304000)) = true := inRange_iff.mpr (by omega)
    have htree : (o - 0x300000) / 0x400 = t := by omega
    refine ⟨o, _, ?_, by omega, (if_neg hbar).trans (if_pos hmap), by omega, ?_⟩
    · unfold treeMapOff at hoff
      omega
    · rw [syncGuarded, if_neg hbar, if_pos hmap, htree]
  · obtain ⟨o, ho⟩ : ∃ o, o = 0x340000 + t * 0x800 + 8 * i := ⟨_, rfl⟩
    have hbar : ¬ (decide (0x200000 ≤ o) && decide (o < 0x210000)) = true := not_inRange_of_ge (by omega)
    have hmap : ¬ (decide (0x300000 ≤ o) && decide (o < 0x304000)) = true := not_inRange_of_ge (by omega)
    have hmask : (decide (0x340000 ≤ o) && decide (o < 0x348000)) = true := inRange_iff.mpr (by omega)
    have htree : (o - 0x340000) / 0x800 = t := by omega
    refine ⟨o, _, ?_, by omega, (if_neg hbar).trans ((if_neg hmap).trans (if_pos hmask)), by omega, ?_⟩
    · unfold treeMaskOff at hoff
      omega
    · rw [syncGuarded, if_neg hbar, if_neg hmap, if_pos hmask, htree]

/-! ## PS_MAP, which Table 18-2 guards quad by quad (R229) -/

theorem writeEffect_psMap (s : State) (p : PlankId) (w : Writer) (v : Word64) (insn : Nat) :
    writeEffect s w (plankBase p + 0xE0) v insn = psMapWrite s p v insn (writerSrc w) := by
  have hi : 0xE0 < 0x10000 := by decide
  have hcmd := objCmdAt_eq_none (.inl (Nat.lt_add_right _ (plankPlace_lt_syncBase p.isLt hi)))
  unfold writeEffect
  rw [hcmd, blockPlank_plankPlace p.isLt hi]
  dsimp only
  rw [if_pos (plankPlace_split p hi).2]

/-- REGISTER_WRITE of PS_MAP is the command that writes it. -/
theorem exec_registerWrite_psMap {p : PlankId} (hb : blockCause s off.toNat = 0) (hoff : modState s ≠ 0) (hreset : modState s ≠ 1)
    (hplace : off.toNat = (Reg.PS_MAP_SPAN p).off) (w : Writer) : exec (.registerWrite w off v) s = exec (.psMapWrite p w v) s := by
  have hi : 0xE0 < 0x10000 := by decide
  obtain ⟨hlo, hhi⟩ := plankPlace_between p.isLt hi
  have hrow : regRow (plankBase p + 0xE0) = some _ := regRow_plankPlace p.isLt hi (by decide)
  have hguard : guarded s (plankBase p + 0xE0) v = false := by
    rw [guarded_plankPlace p.isLt hi]
    simp [plankGuarded]
  have hplace' : off.toNat = plankBase p + 0xE0 := hplace
  rw [exec_psMapWrite (hplace ▸ hb), exec_registerWrite_aligned (hplace' ▸ inRange_iff.mpr ⟨le_trans (by decide) hlo, hhi.trans (by decide)⟩)
    (hplace' ▸ aligned_of_regRow hrow), hplace', writeWord_of_writeCause_zero (s := s.drew) hoff hreset
    (writeCause_zero (hplace' ▸ hb) (wordExists_of_regRow hrow) hguard), writeEffect_psMap]

end

/-! ## The order of a POKE (R440) -/

section
variable {w : Writer} {insn off : Nat} {f : Nat → Word64} {xs : Nat → State}

/-- Word j of the POKE is ignored in the state that the words before it lead to. -/
def pokeIgnores (w : Writer) (insn off : Nat) (f : Nat → Word64) (xs : Nat → State) (j : Nat) : Bool :=
  (writeWord (xs j) w (off + 8 * j) (f j) insn).2

/-- The words apply in ascending order, and the first that is ignored is noted, by induction on the number of words. -/
theorem pokeWords_range' (k i : Nat) (x : State × Option Nat) (hx : xs i = x.1)
    (hstep : ∀ j, i ≤ j → j < i + k → xs (j + 1) = (writeWord (xs j) w (off + 8 * j) (f j) insn).1) :
    pokeWords w insn ((List.range' i k).map f) (off + 8 * i) i x =
      (xs (i + k), x.2.or ((List.range' i k).find? (pokeIgnores w insn off f xs))) := by
  induction k generalizing i x with
  | zero => simp [pokeWords, hx]
  | succ k ih =>
    obtain ⟨t, first⟩ := x
    have hnext : off + 8 * i + 8 = off + 8 * (i + 1) := by omega
    have hend : i + 1 + k = i + (k + 1) := by omega
    have hrest := fun y hy => ih (i + 1) y hy (fun j hlo hhi => hstep j (by omega) (by omega))
    rw [List.range'_succ, List.map_cons, pokeWords, hnext, ← hx, hrest _ (hstep i le_rfl (by omega)), hend]
    cases hignored : (writeWord (xs i) w (off + 8 * i) (f i) insn).2
    · simp [pokeIgnores, hignored]
    · cases first <;> simp [pokeIgnores, hignored]

theorem pokeWords_payloadWords {data : List Byte} {t : State} (hx : xs 0 = t)
    (hstep : ∀ j, j < data.length / 8 → xs (j + 1) =
      (writeWord (xs j) w (off + 8 * j) (BitVec.ofNat 64 (leAt data (8 * j) 8)) insn).1) :
    pokeWords w insn (payloadWords data) off 0 (t, none) = (xs (data.length / 8), (List.range (data.length / 8)).find?
      (pokeIgnores w insn off (fun j => BitVec.ofNat 64 (leAt data (8 * j) 8)) xs)) := by
  have hwords := pokeWords_range' (w := w) (insn := insn) (off := off) (xs := xs)
    (f := fun j => BitVec.ofNat 64 (leAt data (8 * j) 8)) (data.length / 8) 0 (t, none) hx (fun j _ hj => hstep j (by omega))
  simpa [payloadWords, List.range_eq_range'] using hwords

end

/-- Settles O45: each row of Table 18-2 by its place, PS_MAP by its own command, and a POKE by its words in order. -/
theorem guardedWritesAreIgnored : Obligations.GuardedWritesAreIgnored := by
  refine ⟨fun s w off v hb hoff hreset => ⟨fun p h => ?plank, fun m c h => ?stack, fun t i ht h hnamed => ?tree,
    fun b h hvalid => ?barrier, fun p q hs hplace hq hchange hother => ?psMap⟩, ?poke⟩
  case plank =>
    have row {i : Nat} {r : RegRow} := exec_registerWrite_guarded_plank (v := v) (i := i) (r := r) hb hoff hreset w (p := p)
    rcases h with ⟨h, hg⟩ | ⟨h | h, hg⟩ | ⟨h, hg⟩ | ⟨h, hg⟩ | ⟨h, hg⟩ | ⟨h, hg⟩ | ⟨h | h | ⟨h, hv⟩, hg⟩ | ⟨h, hg⟩
    · exact row h (by decide) rfl (by decide) (by simpa [plankGuarded] using hg)
    · exact row h (by decide) rfl (by decide) (by simpa [plankGuarded] using hg)
    · exact row h (by decide) rfl (by decide) (by simpa [plankGuarded] using hg)
    · exact row h (by decide) rfl (by decide) (by simpa [plankGuarded, plankState, PlankSt.running, PlankSt.suspending] using hg)
    · exact row h (by decide) rfl (by decide) (by simpa [plankGuarded] using hg)
    · exact row h (by decide) rfl (by decide) (by simpa [plankGuarded] using hg)
    · exact row h (by decide) rfl (by decide) (by simpa [plankGuarded, coreState, CoreSt.reset] using hg)
    · exact row h (by decide) rfl (by decide) (by simpa [plankGuarded] using hg)
    · exact row h (by decide) rfl (by decide) (by simpa [plankGuarded] using hg)
    · exact row h (by decide) rfl (by decide) (by simp [plankGuarded, hv, hg])
    · exact row h (by decide) rfl (by decide) (by simpa [plankGuarded] using hg)
  case stack =>
    rcases h with ⟨t, i, ht, hi, hplace, hg⟩ | ⟨hplace, hv, hg⟩
    · obtain ⟨o, r, hshare, ho, hrow, h8, hguard⟩ := sharePlace (s := s) (m := m) (c := c) ht hi v
      exact exec_registerWrite_guarded_stack hb hoff hreset w (hplace.trans hshare) ho hrow h8 (hguard.trans (by simpa using hg))
    · obtain ⟨o, r, hswitch, ho, hrow, h8, hguard⟩ := pcSwitchPlace (s := s) (m := m) (c := c) v
      exact exec_registerWrite_guarded_stack hb hoff hreset w (hplace.trans hswitch) ho hrow h8 (hguard.trans (by simp [hv, hg]))
  case tree =>
    obtain ⟨o, r, hplace, ho, hrow, h8, hguard⟩ := treePlace (s := s) ht h
    exact exec_registerWrite_guarded_sync hb hoff hreset w hplace ho hrow h8 (hguard.trans hnamed)
  case barrier =>
    obtain ⟨i, hi, hplace⟩ := h
    obtain ⟨o, r, hbar, ho, hrow, h8, hguard⟩ := barPlace (s := s) (b := b) hi
    exact exec_registerWrite_guarded_sync hb hoff hreset w (hplace.trans hbar) ho hrow h8 (hguard.trans hvalid)
  case psMap =>
    obtain ⟨t, hexec, hspans, hrefused⟩ := psMapChangesOwnedQuadsOnly s p w v hs (hplace ▸ hb)
    have hnotOwned : ¬ ∀ i, i < 4 → bankOwner s p (4 * q + i) = ownCore := fun hall =>
      hother.elim fun i ⟨hi, hne⟩ => hne (hall i hi)
    exact ⟨t, (exec_registerWrite_psMap hb hoff hreset hplace w).trans hexec, (hrefused q hq hchange hother).1,
      (hspans q hq).trans (if_neg hnotOwned)⟩
  case poke =>
    rintro s rq n x a off data xs d h hlen hwhole haligned hin hend rfl hfirst hstep
    obtain ⟨hall, hignored⟩ := exec_poke h hlen hwhole haligned hin hend (pokeWords_payloadWords hfirst hstep).symm
    refine ⟨fun hnone => hall (List.find?_eq_none.mpr fun j hj => ?_), fun k hk hbefore hat => hignored k ?_⟩
    · simpa [pokeIgnores] using hnone j (List.mem_range.mp hj)
    · exact List.find?_range_eq_some.mpr ⟨hat, List.mem_range.mpr hk, fun j hj => by simpa [pokeIgnores] using hbefore j hj⟩

end Sys2Proof.Machine
end

section
/-! PROOFS. A trip (O60, R345): the words of the module's and Hjelper's states through it, the planks that lose their power, and what
the record of the trip leaves. -/
namespace Sys2Proof.Machine

section
variable {a s : State}

/-! ## The words of the module's state and of Hjelper's -/

/-- The words that say how far the module is and whether Hjelper runs. -/
def ModuleWord (off : Nat) : Prop := off = Reg.MODULE_STATE_STATE.off ∨ off = Reg.HJ_STATUS_STATE.off

theorem ModuleWord.below_planks {off : Nat} (h : ModuleWord off) : off < plankBase 0 := by
  obtain rfl | rfl := h <;> decide

theorem ModuleWord.not_filedWord {off : Nat} (h : ModuleWord off) : ¬ FiledWord off := by
  rintro (hseq | hlost | ⟨e, he⟩ | ⟨b, w, hb⟩)
  · obtain rfl | rfl := h <;> exact absurd hseq (by decide)
  · obtain rfl | rfl := h <;> exact absurd hlost (by decide)
  · obtain rfl | rfl := h <;>
      simp only [Reg.MODULE_STATE_STATE, Reg.HJ_STATUS_STATE, Reg.PORT_TX_FRAMES, identBase, hjBase] at he <;> omega
  · have hlt := h.below_planks
    simp only [barOff, plankBase, syncBase] at hb hlt
    omega

/-- The reset of other words leaves a word as it reads. -/
theorem kget_resetWords {hit : Nat → Bool} {k : Nat} (hk : hit k = false) (m : List (Nat × Word64)) :
    kget winReset (resetWords hit m) k = kget winReset m k := by
  induction m with
  | nil => rfl
  | cons e m ih =>
    unfold resetWords at ih ⊢
    rw [List.filterMap_cons]
    by_cases he : e.1 = k
    · simp [kget, he, hk]
    · split
      next => simpa [kget, he] using ih
      next e' he' =>
        have hkey : e'.1 = e.1 := by
          dsimp only at he'
          split at he'
          · cases he'; rfl
          · split at he' <;> cases he'
            rfl
        simpa [kget, he, hkey] using ih

/-- A masked plank's state is a word of its own block. -/
theorem word_remask (w : s.Wf) {off : Nat} (hoff : off < plankBase 0) : (remask s).word off = s.word off := by
  refine (List.foldlRecOn (motive := fun u => Keeps s u ∧ u.word off = s.word off) (List.range 160) _ ⟨Keeps.refl s, rfl⟩
    fun u hu p _ => ?_).2
  obtain ⟨hkeeps, hword⟩ := hu
  split
  · refine ⟨keeps_setPlankState hkeeps, (word_rset_apart (hkeeps.wf w) _ _ ?_).trans hword⟩
    simp only [Reg.PLANK_STATUS_STATE, plankBase] at hoff ⊢
    omega
  · exact ⟨hkeeps, hword⟩

theorem Files.respond (h : Files a s) (rq : Req) (code : Nat) (x : Answer) : Files a (respond s rq code x) := by
  have kept (n : Nat) (m : Option Msg) : Files a (keep s n rq.reqId m) := h.of_eq (keeps_modSession h.toKeeps) rfl rfl
  unfold Machine.respond
  refine sendMsg ?_ ..
  split
  · exact kept ..
  · exact h

theorem Files.failMargin (h : Files a s) : Files a (failMargin s) := by
  have free (n : Net) : Files a { s with net := n } := h.of_eq (keeps_free h.toKeeps ..) rfl rfl
  unfold Machine.failMargin
  split
  · exact (free _).respond ..
  · exact h

/-! ## Planks without power -/

/-- A plank has neither a pass nor a descriptor. -/
def Idles (k : Plank) : Prop := k.run = none ∧ k.wait = none

theorem idles_darkPlanks (keep : Bool) (planks : List (Nat × Plank)) (p : Nat) :
    Idles (kget plankReset (planks.foldl (fun m e => kput plankReset m e.1 (darkPlank keep e.2)) []) p) := by
  refine (List.foldlRecOn (motive := fun m => kwf plankReset m = true ∧ Idles (kget plankReset m p)) planks _
    ⟨kwf_nil _, rfl, rfl⟩ fun m hm e _ => ?_).2
  obtain ⟨hwf, hidle⟩ := hm
  refine ⟨kwf_kput hwf _ _, ?_⟩
  rw [kget_kput (kwf_above hwf)]
  split
  · exact ⟨rfl, rfl⟩
  · exact hidle

end

/-! ## What the record of an event leaves -/

section
variable {a s : State}

/-- The memory, the planks, the controllers and the fabric of a state are those of another. -/
structure SparesUnits (a s : State) : Prop where
  mem : s.mem = a.mem
  poison : s.poison = a.poison
  planks : s.planks = a.planks
  pcs : s.pcs = a.pcs
  fab : s.fab = a.fab

namespace SparesUnits

theorem refl (a : State) : SparesUnits a a := ⟨rfl, rfl, rfl, rfl, rfl⟩

/-- Any change of the words, the log and the host's side. -/
theorem of_eq {t : State} (h : SparesUnits a s) (hmem : t.mem = s.mem) (hpoison : t.poison = s.poison)
    (hplanks : t.planks = s.planks) (hpcs : t.pcs = s.pcs) (hfab : t.fab = s.fab) : SparesUnits a t :=
  ⟨hmem.trans h.mem, hpoison.trans h.poison, hplanks.trans h.planks, hpcs.trans h.pcs, hfab.trans h.fab⟩

theorem rset (h : SparesUnits a s) (f : RegF) (v : Nat) : SparesUnits a (s.rset f v) := h.of_eq rfl rfl rfl rfl rfl

theorem modSession (h : SparesUnits a s) (n : Nat) (f : Session → Session) : SparesUnits a (modSession s n f) :=
  h.of_eq rfl rfl rfl rfl rfl

theorem ite {c : Prop} [Decidable c] {t : State} (h : SparesUnits a s) (h' : SparesUnits a t) :
    SparesUnits a (if c then s else t) := by
  split <;> assumption

theorem foldl {β : Type} {f : State → β → State} {l : List β} (hf : ∀ s b, SparesUnits a s → SparesUnits a (f s b))
    (h : SparesUnits a s) : SparesUnits a (l.foldl f s) := by
  induction l generalizing s with
  | nil => exact h
  | cons b l ih => exact ih (hf _ _ h)

theorem remask (h : SparesUnits a s) : SparesUnits a (remask s) :=
  foldl (fun _ p hs => ite (hs.rset (Reg.PLANK_STATUS_STATE p) _) hs) h

theorem sendMsg (h : SparesUnits a s) (e : Nat) (peer : Peer) (m : Msg) : SparesUnits a (sendMsg s e peer m) := by
  unfold Machine.sendMsg
  split
  · exact h
  next port _ =>
    have sent {u : State} (hu : SparesUnits a u) (n : Nat) (out : List OutMsg) :
        SparesUnits a { u.radd (Reg.PORT_TX_FRAMES port) n with out := out } := hu.of_eq rfl rfl rfl rfl rfl
    dsimp only
    split
    · split
      · exact h
      · exact ite (h.modSession ..) (sent (h.modSession ..) _ _)
    · exact sent h _ _

theorem sendEvent (h : SparesUnits a s) (er : BitVec 1024) : SparesUnits a (sendEvent s er) :=
  foldl (fun _ _ hs => (hs.modSession ..).sendMsg ..) h

theorem logEvent (h : SparesUnits a s) (e : Event) : SparesUnits a (logEvent s e) := by
  have listed (k : Nat) (x : BitVec 1024) (b : Board) (seq head oldest : Nat) :
      SparesUnits a ((({ s with evlog := kput (fun _ => 0) s.evlog k x, board := b }.rset Reg.EVLOG_STATUS_SEQ seq).rset
        Reg.EVLOG_STATUS_HEAD head).rset Reg.EVLOG_STATUS_OLDEST oldest) := h.of_eq rfl rfl rfl rfl rfl
  exact ite ((listed ..).sendEvent _) (listed ..)

theorem fileEvent (h : SparesUnits a s) (cls kind unitClass unit step : Nat) (payload : BitVec 512) :
    SparesUnits a (fileEvent s cls kind unitClass unit step payload) := by
  have htick : SparesUnits a s.tick := h.of_eq rfl rfl rfl rfl rfl
  exact ite (htick.logEvent _) (ite (htick.of_eq rfl rfl rfl rfl rfl) (htick.rset ..))

end SparesUnits
end

/-! ## The trip -/

section
variable {s : State}

/-- The state in which a trip has stopped the islands. -/
def islandsStopped (s : State) : State :=
  computeLost (failMargin ((s.streams.map (·.1)).foldl (fun s n => failStream s n 0xFF06) s)) true

/-- The same state with the words of the islands at their Reset values. -/
def islandsDark (s : State) : State :=
  (remask { islandsStopped s with win := resetWords islandWord (islandsStopped s).win }).setWord Reg.READY_DIES.off 0

/-- The module is Tripped and out of service. -/
def outOfService (s : State) : State := (setModState s 8).rset Reg.MODULE_STATE_SERVICE 0

theorem tripNow_eq (s : State) :
    tripNow s = fileEvent (alert (outOfService (islandsDark s)) 2) 3 0x0032 5 (chipNo (outOfService (islandsDark s))) 0 0 := rfl

theorem keeps_islandsStopped (s : State) : Keeps s (islandsStopped s) :=
  keeps_computeLost (keeps_failMargin (keeps_foldl (fun _ _ h => keeps_failStream h) (Keeps.refl s)))

theorem keeps_islandWords (s : State) :
    Keeps s { islandsStopped s with win := resetWords islandWord (islandsStopped s).win } :=
  keeps_win (keeps_islandsStopped s) kwf_resetWords

theorem keeps_islandsDark (s : State) : Keeps s (islandsDark s) :=
  keeps_setWord (keeps_remask (keeps_islandWords s))

theorem keeps_outOfService (s : State) : Keeps s (outOfService s) := keeps_rset (keeps_setModState (Keeps.refl s))

/-- The module's state and Hjelper's are not of the islands. -/
theorem word_islandsDark (w : s.Wf) {off : Nat} (hoff : ModuleWord off) : (islandsDark s).word off = s.word off := by
  have hready : off ≠ Reg.READY_DIES.off := by obtain rfl | rfl := hoff <;> decide
  have hisland : islandWord off = false := by simp [islandWord, hoff.below_planks]
  have hstopped : Files s (failMargin ((s.streams.map (·.1)).foldl (fun s n => failStream s n 0xFF06) s)) :=
    (Files.foldl (fun _ _ h => h.failStream ..) (Files.refl s)).failMargin
  calc (islandsDark s).word off
      = (remask { islandsStopped s with win := resetWords islandWord (islandsStopped s).win }).word off := by
        rw [islandsDark, word_setWord ((keeps_remask (keeps_islandWords s)).wf w), if_neg hready]
    _ = kget winReset (resetWords islandWord (islandsStopped s).win) off :=
        word_remask ((keeps_islandWords s).wf w) hoff.below_planks
    _ = (islandsStopped s).word off := kget_resetWords hisland _
    _ = s.word off := hstopped.words w off hoff.not_filedWord

/-- The alert and the record of the trip leave the words of the module's state and of Hjelper's. -/
theorem rget_tripNow (w : s.Wf) {f : RegF} (hf : ModuleWord f.off) : (tripNow s).rget f = (outOfService (islandsDark s)).rget f := by
  have wout := (keeps_outOfService _).wf ((keeps_islandsDark s).wf w)
  have halert : f.off ≠ Reg.ALERT_STATUS_ALERTS.off := by
    obtain h | h := hf <;> rw [h] <;> decide
  rw [tripNow_eq, ((Files.refl _).fileEvent ..).rget_eq ((keeps_alert (Keeps.refl _)).wf wout) hf.not_filedWord, alert,
    rget_rset_apart wout (by decide) (.inl halert)]

theorem modState_tripNow (w : s.Wf) : modState (tripNow s) = 8 := by
  have wdark := (keeps_islandsDark s).wf w
  rw [modState, rget_tripNow w (.inl rfl), outOfService,
    rget_rset_apart ((keeps_setModState (Keeps.refl _)).wf wdark) (by decide) (.inr (.inl (by decide))), setModState,
    rget_rset wdark (by decide)]
  rfl

theorem service_tripNow (w : s.Wf) : (tripNow s).rget Reg.MODULE_STATE_SERVICE = 0 := by
  have wdark := (keeps_islandsDark s).wf w
  rw [rget_tripNow (f := Reg.MODULE_STATE_SERVICE) w (.inl rfl), outOfService, rget_rset ((keeps_setModState (Keeps.refl _)).wf wdark) (by decide)]
  rfl

theorem hjRuns_tripNow (w : s.Wf) : hjRuns (tripNow s) = hjRuns s := by
  have wdark := (keeps_islandsDark s).wf w
  rw [hjRuns, hjRuns, rget_tripNow w (.inr rfl), outOfService,
    rget_rset_apart ((keeps_setModState (Keeps.refl _)).wf wdark) (by decide) (.inl (by decide)), setModState,
    rget_rset_apart wdark (by decide) (.inl (by decide)), State.rget, State.rget, word_islandsDark w (.inr rfl)]

/-- After the islands have stopped, a trip changes words and the event log. -/
theorem sparesUnits_tripNow (s : State) : SparesUnits (islandsStopped s) (tripNow s) := by
  have hwords : SparesUnits (islandsStopped s) { islandsStopped s with win := resetWords islandWord (islandsStopped s).win } :=
    ⟨rfl, rfl, rfl, rfl, rfl⟩
  have hmasked := hwords.remask
  have hdark : SparesUnits (islandsStopped s) (islandsDark s) :=
    ⟨hmasked.mem, hmasked.poison, hmasked.planks, hmasked.pcs, hmasked.fab⟩
  exact (((hdark.rset Reg.MODULE_STATE_STATE 8).rset Reg.MODULE_STATE_SERVICE 0).rset Reg.ALERT_STATUS_ALERTS _).fileEvent ..

end

/-- Settles O60: the islands stop with everything in them; what follows writes the module's state, the alert and the record. -/
theorem aTripLosesMemory : Obligations.ATripLosesMemory := by
  rintro s t cause w hoff hreset htripped hcause ht
  obtain rfl : tripNow s = t := Host.Outcome.next.inj ((exec_trip hoff hreset htripped hcause).symm.trans ht)
  have hunits := sparesUnits_tripNow s
  refine ⟨modState_tripNow w, service_tripNow w, fun a => ?_, hunits.poison, hunits.pcs, ?_, ?_, fun p => ?_, hjRuns_tripNow w⟩
  · rw [State.byte, hunits.mem]
    rfl
  · rw [hunits.fab]
    rfl
  · rw [hunits.fab]
    rfl
  · rw [State.plank, hunits.planks]
    exact idles_darkPlanks ..

end Sys2Proof.Machine
end
